-- ==== Sys2Proof/Word.lean ====
section
/-! DEFINITION. Word types and their plainest arithmetic. -/
namespace Sys2Proof

/-- One byte of memory (R5). -/
abbrev Byte := BitVec 8

/-- One 32-bit unit: an instruction word or a lane of a v register (R88, R155). -/
abbrev Word := BitVec 32

/-- One scalar or engine register (R159). -/
abbrev Dword := BitVec 64

end Sys2Proof
end

