-- ==== Sys2Proof/Syntax.lean ====
section
/-! DEFINITION. The instructions and events of spec/opcode_table.json: one constructor of `Instr` per row.
A row with an encoding (R155–R169) takes the NX field and the operand fields of its word; a row that is an event is a constant, and
what it acts on (the unit, the item, the value written) stands in the operands that the schedule gives the event.
The rows with a word come first, then the events, each in the table's order. -/
namespace Sys2Proof

/-- The next-address selector NX, bits [31:30] of every word (R38). -/
inductive NX where
  | seq
  | loop
  | xfer
  | fin
  deriving DecidableEq, Repr

/-- Every instruction and event of the opcode table; the mnemonic stands at the end of each line. -/
inductive Instr where
  | nop (nx : NX) -- NOP (R195)
  | xj (nx : NX) (k : BitVec 4) (o : BitVec 18) -- XJ (R192)
  | xju (nx : NX) (k : BitVec 4) (o : BitVec 18) -- XJU (R192)
  | xcall (nx : NX) (o : BitVec 18) -- XCALL (R192)
  | xret (nx : NX) -- XRET (R191)
  | xjr (nx : NX) (a : BitVec 7) -- XJR (R191)
  | xbtab (nx : NX) (a : BitVec 7) (targets : List (BitVec 32)) -- XBTAB (R193)
  | lpsImm (nx : NX) (i : BitVec 15) -- LPS_IMM (R194)
  | lpsReg (nx : NX) (a : BitVec 6) -- LPS_REG (R194)
  | rwait (nx : NX) (d : BitVec 7) (a : BitVec 7) -- RWAIT (R44)
  | setmode (nx : NX) (f : BitVec 7) (i : BitVec 15) -- SETMODE (R167)
  | setmodev (nx : NX) (a : BitVec 7) -- SETMODEV (R197)
  | getmode (nx : NX) (d : BitVec 7) -- GETMODE (R198)
  | trap (nx : NX) (c : BitVec 22) -- TRAP (R196)
  | brk (nx : NX) (c : BitVec 22) -- BRK (R196)
  | yield (nx : NX) -- YIELD (R195)
  | sadd (nx : NX) (d : BitVec 7) (a : BitVec 7) (b : BitVec 7) -- SADD (R199)
  | ssub (nx : NX) (d : BitVec 7) (a : BitVec 7) (b : BitVec 7) -- SSUB (R199)
  | smul (nx : NX) (d : BitVec 7) (a : BitVec 7) (b : BitVec 7) -- SMUL (R199)
  | smulh (nx : NX) (d : BitVec 7) (a : BitVec 7) (b : BitVec 7) (x : BitVec 1) -- SMULH (R199)
  | sdiv (nx : NX) (d : BitVec 7) (a : BitVec 7) (b : BitVec 7) (x : BitVec 1) -- SDIV (R200)
  | srem (nx : NX) (d : BitVec 7) (a : BitVec 7) (b : BitVec 7) (x : BitVec 1) -- SREM (R200)
  | sand (nx : NX) (d : BitVec 7) (a : BitVec 7) (b : BitVec 7) -- SAND (R199)
  | sor (nx : NX) (d : BitVec 7) (a : BitVec 7) (b : BitVec 7) -- SOR (R199)
  | sxor (nx : NX) (d : BitVec 7) (a : BitVec 7) (b : BitVec 7) -- SXOR (R199)
  | sshl (nx : NX) (d : BitVec 7) (a : BitVec 7) (b : BitVec 7) -- SSHL (R199)
  | sshr (nx : NX) (d : BitVec 7) (a : BitVec 7) (b : BitVec 7) -- SSHR (R199)
  | ssra (nx : NX) (d : BitVec 7) (a : BitVec 7) (b : BitVec 7) -- SSRA (R199)
  | smin (nx : NX) (d : BitVec 7) (a : BitVec 7) (b : BitVec 7) (x : BitVec 1) -- SMIN (R199)
  | smax (nx : NX) (d : BitVec 7) (a : BitVec 7) (b : BitVec 7) (x : BitVec 1) -- SMAX (R199)
  | scmp (nx : NX) (c : BitVec 3) (k : BitVec 3) (a : BitVec 7) (b : BitVec 7) (x : BitVec 1) -- SCMP (R201)
  | ssel (nx : NX) (d : BitVec 7) (a : BitVec 7) (b : BitVec 7) -- SSEL (R199)
  | saddi (nx : NX) (d : BitVec 7) (a : BitVec 7) (i : BitVec 8) -- SADDI (R202)
  | sli (nx : NX) (d : BitVec 7) (i : BitVec 15) -- SLI (R202)
  | slih (nx : NX) (d : BitVec 7) (i : BitVec 15) -- SLIH (R202)
  | smov (nx : NX) (d : BitVec 7) (a : BitVec 7) -- SMOV (R199)
  | sclz (nx : NX) (d : BitVec 7) (a : BitVec 7) -- SCLZ (R199)
  | spopc (nx : NX) (d : BitVec 7) (a : BitVec 7) -- SPOPC (R199)
  | srd (nx : NX) (d : BitVec 7) (i : BitVec 15) -- SRD (R206)
  | swr (nx : NX) (d : BitVec 7) (i : BitVec 15) -- SWR (R206)
  | sld (nx : NX) (d : BitVec 7) (a : BitVec 7) (i : BitVec 8) -- SLD (R205)
  | sst (nx : NX) (d : BitVec 7) (a : BitVec 7) (i : BitVec 8) -- SST (R205)
  | saddr (nx : NX) (d : BitVec 7) (a : BitVec 7) (b : BitVec 7) (x : BitVec 1) -- SADDR (R199)
  | ssext (nx : NX) (d : BitVec 7) (a : BitVec 7) (i : BitVec 8) -- SSEXT (R202)
  | sbfx (nx : NX) (d : BitVec 7) (a : BitVec 7) (l : BitVec 4) (w : BitVec 4) -- SBFX (R203)
  | sbfi (nx : NX) (d : BitVec 7) (a : BitVec 7) (l : BitVec 4) (w : BitVec 4) -- SBFI (R203)
  | sshli (nx : NX) (d : BitVec 7) (a : BitVec 7) (c : BitVec 6) -- SSHLI (R202)
  | sshri (nx : NX) (d : BitVec 7) (a : BitVec 7) (c : BitVec 6) -- SSHRI (R202)
  | ssrai (nx : NX) (d : BitVec 7) (a : BitVec 7) (c : BitVec 6) -- SSRAI (R202)
  | vadd (nx : NX) (d : BitVec 7) (a : BitVec 7) (b : BitVec 7) (x : BitVec 1) -- VADD (R220)
  | vsub (nx : NX) (d : BitVec 7) (a : BitVec 7) (b : BitVec 7) (x : BitVec 1) -- VSUB (R220)
  | vmul (nx : NX) (d : BitVec 7) (a : BitVec 7) (b : BitVec 7) (x : BitVec 1) -- VMUL (R220)
  | vmad (nx : NX) (d : BitVec 7) (a : BitVec 7) (b : BitVec 7) (x : BitVec 1) -- VMAD (R220)
  | vmsb (nx : NX) (d : BitVec 7) (a : BitVec 7) (b : BitVec 7) (x : BitVec 1) -- VMSB (R220)
  | vmin (nx : NX) (d : BitVec 7) (a : BitVec 7) (b : BitVec 7) (x : BitVec 1) -- VMIN (R220)
  | vmax (nx : NX) (d : BitVec 7) (a : BitVec 7) (b : BitVec 7) (x : BitVec 1) -- VMAX (R220)
  | vabs (nx : NX) (d : BitVec 7) (a : BitVec 7) -- VABS (R220)
  | vneg (nx : NX) (d : BitVec 7) (a : BitVec 7) -- VNEG (R220)
  | vand (nx : NX) (d : BitVec 7) (a : BitVec 7) (b : BitVec 7) (x : BitVec 1) -- VAND (R223)
  | vor (nx : NX) (d : BitVec 7) (a : BitVec 7) (b : BitVec 7) (x : BitVec 1) -- VOR (R223)
  | vxor (nx : NX) (d : BitVec 7) (a : BitVec 7) (b : BitVec 7) (x : BitVec 1) -- VXOR (R223)
  | vnot (nx : NX) (d : BitVec 7) (a : BitVec 7) -- VNOT (R223)
  | vshl (nx : NX) (d : BitVec 7) (a : BitVec 7) (b : BitVec 7) (x : BitVec 1) -- VSHL (R220)
  | vshr (nx : NX) (d : BitVec 7) (a : BitVec 7) (b : BitVec 7) (x : BitVec 1) -- VSHR (R220)
  | vsra (nx : NX) (d : BitVec 7) (a : BitVec 7) (b : BitVec 7) (x : BitVec 1) -- VSRA (R220)
  | vcmp (nx : NX) (c : BitVec 3) (y : BitVec 1) (k : BitVec 3) (a : BitVec 7) (b : BitVec 7) (x : BitVec 1) -- VCMP (R221)
  | vsel (nx : NX) (d : BitVec 7) (a : BitVec 7) (b : BitVec 7) (x : BitVec 1) -- VSEL (R222)
  | vmovV (nx : NX) (d : BitVec 7) (a : BitVec 7) -- VMOV_V (R223)
  | vmovS (nx : NX) (d : BitVec 7) (b : BitVec 7) -- VMOV_S (R223)
  | vli (nx : NX) (d : BitVec 7) (i : BitVec 15) -- VLI (R223)
  | vbcsImm (nx : NX) (d : BitVec 7) (a : BitVec 7) (p : BitVec 5) -- VBCS_IMM (R224)
  | vbcsReg (nx : NX) (d : BitVec 7) (a : BitVec 7) (b : BitVec 7) -- VBCS_REG (R224)
  | vdot4 (nx : NX) (d : BitVec 7) (a : BitVec 7) (b : BitVec 7) (x : BitVec 1) -- VDOT4 (R226)
  | vdot2 (nx : NX) (d : BitVec 7) (a : BitVec 7) (b : BitVec 7) (x : BitVec 1) -- VDOT2 (R226)
  | vsad (nx : NX) (d : BitVec 7) (a : BitVec 7) (b : BitVec 7) (x : BitVec 1) -- VSAD (R226)
  | vclz (nx : NX) (d : BitVec 7) (a : BitVec 7) -- VCLZ (R227)
  | vpopc (nx : NX) (d : BitVec 7) (a : BitVec 7) -- VPOPC (R227)
  | vrcp (nx : NX) (d : BitVec 7) (a : BitVec 7) -- VRCP (R228)
  | vrsq (nx : NX) (d : BitVec 7) (a : BitVec 7) -- VRSQ (R228)
  | vexp2 (nx : NX) (d : BitVec 7) (a : BitVec 7) -- VEXP2 (R228)
  | vlog2 (nx : NX) (d : BitVec 7) (a : BitVec 7) -- VLOG2 (R228)
  | vsin (nx : NX) (d : BitVec 7) (a : BitVec 7) -- VSIN (R228)
  | vcos (nx : NX) (d : BitVec 7) (a : BitVec 7) -- VCOS (R228)
  | vcvt (nx : NX) (d : BitVec 7) (a : BitVec 7) (s : BitVec 3) (t : BitVec 4) -- VCVT (R230)
  | vpack (nx : NX) (d : BitVec 7) (a : BitVec 7) (b : BitVec 7) (x : BitVec 1) -- VPACK (R231)
  | vunpk (nx : NX) (d : BitVec 7) (a : BitVec 7) -- VUNPK (R232)
  | vrq (nx : NX) (d : BitVec 7) (a : BitVec 7) (b : BitVec 7) (x : BitVec 1) -- VRQ (R233)
  | vrshr (nx : NX) (d : BitVec 7) (a : BitVec 7) (b : BitVec 7) (x : BitVec 1) -- VRSHR (R234)
  | vscl (nx : NX) (d : BitVec 7) (a : BitVec 7) (b : BitVec 7) (x : BitVec 1) -- VSCL (R235)
  | vshfl (nx : NX) (d : BitVec 7) (a : BitVec 7) (b : BitVec 7) (x : BitVec 1) -- VSHFL (R237)
  | vshfli (nx : NX) (d : BitVec 7) (a : BitVec 7) (m : BitVec 3) (c : BitVec 5) -- VSHFLI (R237)
  | vred (nx : NX) (d : BitVec 7) (a : BitVec 7) (o : BitVec 3) -- VRED (R238)
  | vscan (nx : NX) (d : BitVec 7) (a : BitVec 7) (e : BitVec 1) (o : BitVec 3) -- VSCAN (R239)
  | vprune (nx : NX) (d : BitVec 7) (a : BitVec 7) (b : BitVec 7) (x : BitVec 1) -- VPRUNE (R240)
  | vspdot (nx : NX) (d : BitVec 7) (a : BitVec 7) (b : BitVec 7) (x : BitVec 1) -- VSPDOT (R241)
  | vnzc (nx : NX) (d : BitVec 7) (a : BitVec 7) -- VNZC (R242)
  | vnzb (nx : NX) (d : BitVec 7) (a : BitVec 7) -- VNZB (R242)
  | vterm (nx : NX) (d : BitVec 7) (a : BitVec 7) -- VTERM (R242)
  | vlane (nx : NX) (d : BitVec 7) (s : BitVec 7) -- VLANE (R225)
  | kand (nx : NX) (d : BitVec 7) (a : BitVec 7) (b : BitVec 7) (x : BitVec 1) -- KAND (R243)
  | kor (nx : NX) (d : BitVec 7) (a : BitVec 7) (b : BitVec 7) (x : BitVec 1) -- KOR (R243)
  | kxor (nx : NX) (d : BitVec 7) (a : BitVec 7) (b : BitVec 7) (x : BitVec 1) -- KXOR (R243)
  | knot (nx : NX) (d : BitVec 7) (a : BitVec 7) -- KNOT (R243)
  | kmov (nx : NX) (d : BitVec 7) (a : BitVec 7) -- KMOV (R243)
  | kany (nx : NX) (d : BitVec 7) (a : BitVec 7) -- KANY (R243)
  | kall (nx : NX) (d : BitVec 7) (a : BitVec 7) -- KALL (R243)
  | kcnt (nx : NX) (d : BitVec 7) (a : BitVec 7) -- KCNT (R243)
  | kbits (nx : NX) (d : BitVec 7) (a : BitVec 7) -- KBITS (R243)
  | kfromv (nx : NX) (d : BitVec 7) (a : BitVec 7) -- KFROMV (R243)
  | ktov (nx : NX) (d : BitVec 7) (a : BitVec 7) -- KTOV (R243)
  | ld (nx : NX) (d : BitVec 7) (a : BitVec 7) (b : BitVec 7) -- LD (R249)
  | st (nx : NX) (d : BitVec 7) (a : BitVec 7) (b : BitVec 7) -- ST (R249)
  | ldi (nx : NX) (d : BitVec 7) (a : BitVec 7) (i : BitVec 8) -- LDI (R249)
  | sti (nx : NX) (d : BitVec 7) (a : BitVec 7) (i : BitVec 8) -- STI (R249)
  | ldt (nx : NX) (d : BitVec 7) (a : BitVec 7) (b : BitVec 7) -- LDT (R250)
  | stt (nx : NX) (d : BitVec 7) (a : BitVec 7) (b : BitVec 7) -- STT (R250)
  | ldb (nx : NX) (d : BitVec 7) (a : BitVec 7) (b : BitVec 7) -- LDB (R251)
  | ldw (nx : NX) (d : BitVec 7) (a : BitVec 7) (b : BitVec 7) -- LDW (R249)
  | stw (nx : NX) (d : BitVec 7) (a : BitVec 7) (b : BitVec 7) -- STW (R249)
  | aadd (nx : NX) (d : BitVec 7) (a : BitVec 7) (b : BitVec 7) -- AADD (R253)
  | amin (nx : NX) (d : BitVec 7) (a : BitVec 7) (b : BitVec 7) -- AMIN (R253)
  | amax (nx : NX) (d : BitVec 7) (a : BitVec 7) (b : BitVec 7) -- AMAX (R253)
  | aand (nx : NX) (d : BitVec 7) (a : BitVec 7) (b : BitVec 7) -- AAND (R253)
  | aor (nx : NX) (d : BitVec 7) (a : BitVec 7) (b : BitVec 7) -- AOR (R253)
  | axor (nx : NX) (d : BitVec 7) (a : BitVec 7) (b : BitVec 7) -- AXOR (R253)
  | axch (nx : NX) (d : BitVec 7) (a : BitVec 7) (b : BitVec 7) -- AXCH (R253)
  | acas (nx : NX) (d : BitVec 7) (a : BitVec 7) (b : BitVec 7) -- ACAS (R254)
  | rdadd (nx : NX) (d : BitVec 7) (a : BitVec 7) (b : BitVec 7) -- RDADD (R255)
  | rdmin (nx : NX) (d : BitVec 7) (a : BitVec 7) (b : BitVec 7) -- RDMIN (R253)
  | rdmax (nx : NX) (d : BitVec 7) (a : BitVec 7) (b : BitVec 7) -- RDMAX (R253)
  | rdand (nx : NX) (d : BitVec 7) (a : BitVec 7) (b : BitVec 7) -- RDAND (R253)
  | rdor (nx : NX) (d : BitVec 7) (a : BitVec 7) (b : BitVec 7) -- RDOR (R253)
  | rdxor (nx : NX) (d : BitVec 7) (a : BitVec 7) (b : BitVec 7) -- RDXOR (R253)
  | rdx (nx : NX) (d : BitVec 7) (a : BitVec 7) (b : BitVec 7) -- RDX (R257)
  | fnc (nx : NX) (d : BitVec 7) (i : BitVec 8) -- FNC (R258)
  | fwait (nx : NX) (a : BitVec 7) -- FWAIT (R259)
  | pref (nx : NX) (d : BitVec 7) (a : BitVec 7) (b : BitVec 7) -- PREF (R260)
  | bara (nx : NX) (a : BitVec 7) -- BARA (R262)
  | barw (nx : NX) (a : BitVec 7) -- BARW (R262)
  | baraw (nx : NX) (a : BitVec 7) -- BARAW (R262)
  | barx (nx : NX) (a : BitVec 7) (b : BitVec 7) -- BARX (R264)
  | bari (nx : NX) (a : BitVec 7) (b : BitVec 7) -- BARI (R264)
  | qpush (nx : NX) (d : BitVec 7) (a : BitVec 7) -- QPUSH (R49)
  | qpop (nx : NX) (d : BitVec 7) (a : BitVec 7) -- QPOP (R49)
  | qpeek (nx : NX) (d : BitVec 7) (a : BitVec 7) (b : BitVec 7) -- QPEEK (R265)
  | qcfg (nx : NX) (a : BitVec 7) (b : BitVec 7) -- QCFG (R267)
  | gset (nx : NX) (a : BitVec 7) -- GSET (R50)
  | gclr (nx : NX) (a : BitVec 7) -- GCLR (R50)
  | gclrUnres (nx : NX) (a : BitVec 7) -- GCLR_UNRES (R50)
  | estart (nx : NX) (a : BitVec 7) -- ESTART (R52)
  | ejoin (nx : NX) (d : BitVec 7) -- EJOIN (R53)
  | launch (nx : NX) (d : BitVec 7) (a : BitVec 7) -- LAUNCH (R269)
  | sfork (nx : NX) (a : BitVec 7) (b : BitVec 7) -- SFORK (R150)
  | sreward (nx : NX) (d : BitVec 7) (a : BitVec 7) -- SREWARD (R151)
  | sbar (nx : NX) -- SBAR (R151)
  | scancel (nx : NX) (d : BitVec 7) (a : BitVec 7) -- SCANCEL (R151)
  | sginfo (nx : NX) (d : BitVec 7) -- SGINFO (R272)
  | sgabs (nx : NX) (d : BitVec 7) -- SGABS (R272)
  | sgadv (nx : NX) (a : BitVec 7) -- SGADV (R273)
  | mxg (nx : NX) (s : BitVec 1) (d : BitVec 2) (g : BitVec 3) -- MXG (R281)
  | mx (nx : NX) (c : BitVec 2) (s : BitVec 5) (a : BitVec 4) (b : BitVec 4) (v : BitVec 5) (q : BitVec 1) (r : BitVec 1) -- MX (R282)
  | mxbound (nx : NX) (d : BitVec 7) (a : BitVec 7) -- MXBOUND (R284)
  | mxz (nx : NX) (d : BitVec 7) -- MXZ (R285)
  | acst (nx : NX) (d : BitVec 7) (a : BitVec 7) (b : BitVec 7) -- ACST (R287)
  | acld (nx : NX) (d : BitVec 7) (a : BitVec 7) (b : BitVec 7) -- ACLD (R288)
  | hclaim (nx : NX) (d : BitVec 7) (x : BitVec 1) -- HCLAIM (R289)
  | hrel (nx : NX) (a : BitVec 7) -- HREL (R290)
  | cpldSlot (nx : NX) (d : BitVec 7) (a : BitVec 7) (b : BitVec 7) -- CPLD_SLOT (R296)
  | cpldSp (nx : NX) (a : BitVec 7) (b : BitVec 7) -- CPLD_SP (R296)
  | cpst (nx : NX) (a : BitVec 7) (b : BitVec 7) -- CPST (R297)
  | cpss (nx : NX) (a : BitVec 7) (b : BitVec 7) -- CPSS (R298)
  | bseal (nx : NX) (d : BitVec 7) -- BSEAL (R278)
  | bsealStatus (nx : NX) (d : BitVec 7) (a : BitVec 7) -- BSEAL_STATUS (R278)
  | bwaitImm (nx : NX) (i : BitVec 15) -- BWAIT_IMM (R280)
  | bwaitReg (nx : NX) (a : BitVec 6) -- BWAIT_REG (R280)
  | lease (nx : NX) (d : BitVec 7) (a : BitVec 7) (b : BitVec 7) -- LEASE (R140)
  | lrel (nx : NX) (a : BitVec 7) -- LREL (R144)
  | ecmd (nx : NX) (d : BitVec 7) (a : BitVec 7) (b : BitVec 7) -- ECMD (R304)
  | swbind (nx : NX) (a : BitVec 7) (b : BitVec 7) -- SWBIND (R300)
  | swunb (nx : NX) (a : BitVec 7) -- SWUNB (R301)
  | eadd (nx : NX) (d : BitVec 7) (a : BitVec 7) (b : BitVec 7) -- EADD (R311)
  | esub (nx : NX) (d : BitVec 7) (a : BitVec 7) (b : BitVec 7) -- ESUB (R311)
  | eli (nx : NX) (d : BitVec 7) (i : BitVec 15) -- ELI (R311)
  | elih (nx : NX) (d : BitVec 7) (i : BitVec 15) -- ELIH (R311)
  | emov (nx : NX) (d : BitVec 7) (a : BitVec 7) -- EMOV (R311)
  | eshl (nx : NX) (d : BitVec 7) (a : BitVec 7) (c : BitVec 6) -- ESHL (R311)
  | eshr (nx : NX) (d : BitVec 7) (a : BitVec 7) (c : BitVec 6) -- ESHR (R311)
  | xjz (nx : NX) (d : BitVec 7) (i : BitVec 15) -- XJZ (R312)
  | xjnz (nx : NX) (d : BitVec 7) (i : BitVec 15) -- XJNZ (R312)
  | efroms (nx : NX) (d : BitVec 7) (i : BitVec 15) -- EFROMS (R313)
  | csrr (nx : NX) (d : BitVec 7) (i : BitVec 15) -- CSRR (R210)
  | csrw (nx : NX) (d : BitVec 7) (i : BitVec 15) -- CSRW (R210)
  | cntr (nx : NX) (d : BitVec 7) (i : BitVec 15) -- CNTR (R211)
  | clk (nx : NX) (d : BitVec 7) (i : BitVec 15) -- CLK (R213)
  | seed (nx : NX) (a : BitVec 7) -- SEED (R214)
  | reservedOpcode (w : BitVec 32) -- RESERVED_OPCODE (R169)
  | formerBuild -- FORMER_BUILD (R42)
  | rwaitTimeout -- RWAIT_TIMEOUT (R44)
  | guardedCommandRelease -- GUARDED_COMMAND_RELEASE (R51)
  | streamEnded -- STREAM_ENDED (R53)
  | gangEnd -- GANG_END (R54)
  | packetTake -- PACKET_TAKE (R32)
  | gangPlace -- GANG_PLACE (R34)
  | childGridStart -- CHILD_GRID_START (R57)
  | replayResend -- REPLAY_RESEND (R59)
  | sramSplitReclaim -- SRAM_SPLIT_RECLAIM (R18)
  | latchLoadComplete -- LATCH_LOAD_COMPLETE (R66)
  | mxStepStart -- MX_STEP_START (R68)
  | mxStepComplete -- MX_STEP_COMPLETE (R67)
  | cpldItemComplete -- CPLD_ITEM_COMPLETE (R296)
  | cpstItemComplete -- CPST_ITEM_COMPLETE (R297)
  | cpssItemComplete -- CPSS_ITEM_COMPLETE (R298)
  | acstItemComplete -- ACST_ITEM_COMPLETE (R287)
  | acldItemComplete -- ACLD_ITEM_COMPLETE (R288)
  | swbindItemComplete -- SWBIND_ITEM_COMPLETE (R114)
  | swunbItemComplete -- SWUNB_ITEM_COMPLETE (R301)
  | fenceComplete -- FENCE_COMPLETE (R126)
  | logicalTimeAdvance -- LOGICAL_TIME_ADVANCE (R122)
  | holderDrain -- HOLDER_DRAIN (R135)
  | pageTableWalk -- PAGE_TABLE_WALK (R350)
  | leaseGrant -- LEASE_GRANT (R141)
  | leaseHoldExpire -- LEASE_HOLD_EXPIRE (R141)
  | lrelTakeEffect -- LREL_TAKE_EFFECT (R144)
  | engineLit -- ENGINE_LIT (R138)
  | engineDimIdle -- ENGINE_DIM_IDLE (R138)
  | engineLingerExpire -- ENGINE_LINGER_EXPIRE (R138)
  | engineDarkIdle -- ENGINE_DARK_IDLE (R138)
  | xfItemComplete -- XF_ITEM_COMPLETE (R305)
  | mgItemComplete -- MG_ITEM_COMPLETE (R306)
  | dcItemComplete -- DC_ITEM_COMPLETE (R307)
  | spItemComplete -- SP_ITEM_COMPLETE (R308)
  | clItemComplete -- CL_ITEM_COMPLETE (R309)
  | ixItemComplete -- IX_ITEM_COMPLETE (R310)
  | sgDeadline -- SG_DEADLINE (R152)
  | tlbiRange -- TLBI_RANGE (R354)
  | tlbiContext -- TLBI_CONTEXT (R354)
  | tlbiAll -- TLBI_ALL (R354)
  | tlbInvalidateComplete -- TLB_INVALIDATE_COMPLETE (R354)
  | fltrespReplay -- FLTRESP_REPLAY (R359)
  | fltrespAbort -- FLTRESP_ABORT (R359)
  | faultRecordWrite -- FAULT_RECORD_WRITE (R358)
  | space1BlockWrite -- SPACE1_BLOCK_WRITE (R365)
  | cmpcfgWrite -- CMPCFG_WRITE (R363)
  | reloc -- RELOC (R367)
  | cmpcmdRead -- CMPCMD_READ (R367)
  | relocDone -- RELOC_DONE (R367)
  | decay -- DECAY (R369)
  | seedw -- SEEDW (R368)
  | heatDecayComplete -- HEAT_DECAY_COMPLETE (R369)
  | keyLoad -- KEY_LOAD (R374)
  | keyFlush -- KEY_FLUSH (R374)
  | keyClear -- KEY_CLEAR (R374)
  | keyCommandDone -- KEY_COMMAND_DONE (R374)
  | partmapWrite -- PARTMAP_WRITE (R376)
  | create -- CREATE (R379)
  | start -- START (R379)
  | save -- SAVE (R379)
  | swap -- SWAP (R379)
  | prestage -- PRESTAGE (R387)
  | abort -- ABORT (R385)
  | fltactEnd -- FLTACT_END (R384)
  | fltactResume -- FLTACT_RESUME (R384)
  | destroy -- DESTROY (R379)
  | dieoff -- DIEOFF (R380)
  | dieon -- DIEON (R380)
  | contextCommandComplete -- CONTEXT_COMMAND_COMPLETE (R378)
  | lqctlWrite -- LQCTL_WRITE (R381)
  | lqputWrite -- LQPUT_WRITE (R381)
  | completionRecordWrite -- COMPLETION_RECORD_WRITE (R383)
  | dfbbaseWrite -- DFBBASE_WRITE (R386)
  | carveWrite -- CARVE_WRITE (R387)
  | orderlyDarkTimeout -- ORDERLY_DARK_TIMEOUT (R389)
  | dieAbruptLoss -- DIE_ABRUPT_LOSS (R389)
  | rglInterval -- RGL_INTERVAL (R391)
  | clpwrWrite -- CLPWR_WRITE (R391)
  | clusterGate -- CLUSTER_GATE (R392)
  | clusterUngate -- CLUSTER_UNGATE (R392)
  | boostInterval -- BOOST_INTERVAL (R393)
  | hotSpotMigration -- HOT_SPOT_MIGRATION (R394)
  | thermalEmergency -- THERMAL_EMERGENCY (R394)
  | watchdog -- WATCHDOG (R413)
  | watchdogUncleared -- WATCHDOG_UNCLEARED (R418)
  | powerOn -- POWER_ON (R395)
  | perst -- PERST (R395)
  | bringupStageComplete -- BRINGUP_STAGE_COMPLETE (R395)
  | stageLimitExpire -- STAGE_LIMIT_EXPIRE (R395)
  | retrain -- RETRAIN (R399)
  | flitCrcReplay -- FLIT_CRC_REPLAY (R417)
  | linkRetrainComplete -- LINK_RETRAIN_COMPLETE (R417)
  | sensors -- SENSORS (R407)
  | logread -- LOGREAD (R409)
  | bootinfo -- BOOTINFO (R407)
  | updopen -- UPDOPEN (R407)
  | updwrite -- UPDWRITE (R407)
  | updclose -- UPDCLOSE (R407)
  | activate -- ACTIVATE (R403)
  | confirm -- CONFIRM (R403)
  | svncommit -- SVNCOMMIT (R405)
  | pkgreset -- PKGRESET (R395)
  | trialTimeout -- TRIAL_TIMEOUT (R403)
  | ambRestart -- AMB_RESTART (R404)
  | pldmFirmwareUpdate -- PLDM_FIRMWARE_UPDATE (R406)
  | pldmMonitoring -- PLDM_MONITORING (R406)
  | spdmMeasurements -- SPDM_MEASUREMENTS (R410)
  | spdmMldsaSignature -- SPDM_MLDSA_SIGNATURE (R410)
  | sensorSample -- SENSOR_SAMPLE (R408)
  | logCoalesceWindow -- LOG_COALESCE_WINDOW (R416)
  | patrolScrub -- PATROL_SCRUB (R413)
  | hbmPatrolScrub -- HBM_PATROL_SCRUB (R413)
  | registerWrite -- REGISTER_WRITE (R7)
  | compressRecord -- COMPRESS_RECORD (R415)
  | lqgetRead -- LQGET_READ (R383)
  | watchdogCleared -- WATCHDOG_CLEARED (R418)
  | powerLoss -- POWER_LOSS (R405)
  deriving DecidableEq, Repr

end Sys2Proof
end

