-- ==== Sys2Proof/WellFormed.lean ====
section
/-! DEFINITION. Which terms of `Instr` are well formed: an instruction that a word can encode with the forms its entry
gives it. An event is well formed as it stands: what it acts on is checked where it takes effect. -/
namespace Sys2Proof

/-- Opcode values that R169 reserves. -/
def reservedOp (op : Nat) : Bool :=
  op = 0 || (0x6A ≤ op && op ≤ 0x6F) || (0x8B ≤ op && op ≤ 0x8F) || (0x9E ≤ op && op ≤ 0x9F) ||
    (0xA6 ≤ op && op ≤ 0xAF) || (0xCB ≤ op && op ≤ 0xDF) || 0xE5 ≤ op

/-- Well-formedness of an instruction or event. -/
def wellFormed : Instr → Bool
  | .xbtab _ _ targets => 1 ≤ targets.length && targets.length ≤ 256 -- R182
  | .reservedOpcode w => reservedOp (w.toNat / 2 ^ 22 % 256) -- R169
  | .setmode _ f _ => f.toNat ≤ 8 -- R167
  | .vlane _ _ s => s.toNat ≤ 2 -- R225
  | .vcmp _ c _ _ _ _ _ => c.toNat ≤ 6 -- R221
  | .scmp _ c _ _ _ _ => c.toNat ≤ 5 -- R201
  | .vshfli _ _ _ m _ => m.toNat ≤ 4 -- R237
  | .vred _ _ _ o => o.toNat ≤ 5 -- R238
  | .vscan _ _ _ _ o => o.toNat ≤ 5 -- R239
  | .vcvt _ _ _ _ t => t.toNat ≤ 13 -- R230
  | .pref _ d _ _ => d.toNat ≤ 1 -- R260
  | .mxg _ _ _ g => g.toNat ≤ 4 -- R281
  | .ssext _ _ _ i => 1 ≤ i.toNat && i.toNat ≤ 64 -- R202
  | .sbfx _ _ _ l w => l.toNat + w.toNat < 16 -- R203
  | .sbfi _ _ _ l w => l.toNat + w.toNat < 16 -- R203
  | .fnc _ _ i => i.toNat % 8 ≤ 4 && i.toNat < 64 -- R125
  | _ => true

end Sys2Proof
end

