-- ==== Sys2Proof/Decode.lean ====
section
/-! DEFINITION. Decoding of instruction words (R155–R169) and the encoder beside it, both from the formats of R156,
the opcode map of R168 and the must-be-zero fields of R158. -/
namespace Sys2Proof

/-- Why a word is no instruction: a must-be-zero bit is set (R158), or the target words of an XBTAB are missing. -/
inductive DecodeError where
  | mustBeZero (op : Nat)
  | missingTargets
  deriving DecidableEq, Repr

/-- Bits [lo+n-1 : lo] of a word as a natural number (R5). -/
def fldN (w : Word) (lo n : Nat) : Nat := w.toNat / 2 ^ lo % 2 ^ n

/-- Bits [lo+n-1 : lo] of a word. -/
def fld (w : Word) (lo n : Nat) : BitVec n := BitVec.ofNat n (w.toNat / 2 ^ lo)

/-- OP, bits [29:22] (R155). -/
def opcodeOf (w : Word) : Nat := fldN w 22 8

/-- NX from its two bits (R38). -/
def NX.ofBits : Nat → NX
  | 0 => .seq
  | 1 => .loop
  | 2 => .xfer
  | _ => .fin

/-- The two bits of NX (R38). -/
def NX.bits : NX → Nat
  | .seq => 0
  | .loop => 1
  | .xfer => 2
  | .fin => 3

/-- NX, bits [31:30] (R155). -/
def nxOf (w : Word) : NX := NX.ofBits (fldN w 30 2)

/-- Opcodes 0x00 to 0x0F (R168). -/
def decodeRow0 (w : Word) (rest : List Word) : Except DecodeError Instr :=
  match opcodeOf w % 16 with
  | 1 =>
    if fldN w 0 22 = 0 then .ok (.nop (nxOf w))
    else .error (.mustBeZero 0x01)
  | 2 =>
    .ok (.xj (nxOf w) (fld w 18 4) (fld w 0 18))
  | 3 =>
    .ok (.xju (nxOf w) (fld w 18 4) (fld w 0 18))
  | 4 =>
    if fldN w 18 4 = 0 then .ok (.xcall (nxOf w) (fld w 0 18))
    else .error (.mustBeZero 0x04)
  | 5 =>
    if fldN w 0 22 = 0 then .ok (.xret (nxOf w))
    else .error (.mustBeZero 0x05)
  | 6 =>
    if fldN w 0 8 = 0 ∧ fldN w 15 7 = 0 then .ok (.xjr (nxOf w) (fld w 8 7))
    else .error (.mustBeZero 0x06)
  | 7 =>
    if fldN w 15 7 = 0 then
      if fldN w 0 8 + 1 ≤ rest.length then .ok (.xbtab (nxOf w) (fld w 8 7) (rest.take (fldN w 0 8 + 1)))
      else .error .missingTargets
    else .error (.mustBeZero 0x07)
  | 8 =>
    if fldN w 15 7 = 0 then .ok (.lpsImm (nxOf w) (fld w 0 15))
    else if fldN w 0 15 = 0 ∧ fldN w 21 1 = 1 then .ok (.lpsReg (nxOf w) (fld w 15 6))
    else .error (.mustBeZero 0x08)
  | 9 =>
    if fldN w 0 8 = 0 then .ok (.rwait (nxOf w) (fld w 15 7) (fld w 8 7))
    else .error (.mustBeZero 0x09)
  | 10 =>
    .ok (.setmode (nxOf w) (fld w 15 7) (fld w 0 15))
  | 11 =>
    if fldN w 0 8 = 0 ∧ fldN w 15 7 = 0 then .ok (.setmodev (nxOf w) (fld w 8 7))
    else .error (.mustBeZero 0x0B)
  | 12 =>
    if fldN w 0 15 = 0 then .ok (.getmode (nxOf w) (fld w 15 7))
    else .error (.mustBeZero 0x0C)
  | 13 =>
    .ok (.trap (nxOf w) (fld w 0 22))
  | 14 =>
    .ok (.brk (nxOf w) (fld w 0 22))
  | 15 =>
    if fldN w 0 22 = 0 then .ok (.yield (nxOf w))
    else .error (.mustBeZero 0x0F)
  | _ => .ok (.reservedOpcode w)

/-- Opcodes 0x10 to 0x1F (R168). -/
def decodeRow1 (w : Word) : Except DecodeError Instr :=
  match opcodeOf w % 16 with
  | 0 =>
    if fldN w 0 1 = 0 then .ok (.sadd (nxOf w) (fld w 15 7) (fld w 8 7) (fld w 1 7))
    else .error (.mustBeZero 0x10)
  | 1 =>
    if fldN w 0 1 = 0 then .ok (.ssub (nxOf w) (fld w 15 7) (fld w 8 7) (fld w 1 7))
    else .error (.mustBeZero 0x11)
  | 2 =>
    if fldN w 0 1 = 0 then .ok (.smul (nxOf w) (fld w 15 7) (fld w 8 7) (fld w 1 7))
    else .error (.mustBeZero 0x12)
  | 3 =>
    .ok (.smulh (nxOf w) (fld w 15 7) (fld w 8 7) (fld w 1 7) (fld w 0 1))
  | 4 =>
    .ok (.sdiv (nxOf w) (fld w 15 7) (fld w 8 7) (fld w 1 7) (fld w 0 1))
  | 5 =>
    .ok (.srem (nxOf w) (fld w 15 7) (fld w 8 7) (fld w 1 7) (fld w 0 1))
  | 6 =>
    if fldN w 0 1 = 0 then .ok (.sand (nxOf w) (fld w 15 7) (fld w 8 7) (fld w 1 7))
    else .error (.mustBeZero 0x16)
  | 7 =>
    if fldN w 0 1 = 0 then .ok (.sor (nxOf w) (fld w 15 7) (fld w 8 7) (fld w 1 7))
    else .error (.mustBeZero 0x17)
  | 8 =>
    if fldN w 0 1 = 0 then .ok (.sxor (nxOf w) (fld w 15 7) (fld w 8 7) (fld w 1 7))
    else .error (.mustBeZero 0x18)
  | 9 =>
    if fldN w 0 1 = 0 then .ok (.sshl (nxOf w) (fld w 15 7) (fld w 8 7) (fld w 1 7))
    else .error (.mustBeZero 0x19)
  | 10 =>
    if fldN w 0 1 = 0 then .ok (.sshr (nxOf w) (fld w 15 7) (fld w 8 7) (fld w 1 7))
    else .error (.mustBeZero 0x1A)
  | 11 =>
    if fldN w 0 1 = 0 then .ok (.ssra (nxOf w) (fld w 15 7) (fld w 8 7) (fld w 1 7))
    else .error (.mustBeZero 0x1B)
  | 12 =>
    .ok (.smin (nxOf w) (fld w 15 7) (fld w 8 7) (fld w 1 7) (fld w 0 1))
  | 13 =>
    .ok (.smax (nxOf w) (fld w 15 7) (fld w 8 7) (fld w 1 7) (fld w 0 1))
  | 14 =>
    if fldN w 18 1 = 0 then .ok (.scmp (nxOf w) (fld w 19 3) (fld w 15 3) (fld w 8 7) (fld w 1 7) (fld w 0 1))
    else .error (.mustBeZero 0x1E)
  | _ =>
    if fldN w 0 1 = 0 then .ok (.ssel (nxOf w) (fld w 15 7) (fld w 8 7) (fld w 1 7))
    else .error (.mustBeZero 0x1F)

/-- Opcodes 0x20 to 0x2F (R168). Bits [7:6] of SSHLI's and bit 7 of SSHRI's and SSRAI's immediate must be zero (R202) and are refused here, before
the sources are read (DESIGN CHOICE, log 90). -/
def decodeRow2 (w : Word) : Except DecodeError Instr :=
  match opcodeOf w % 16 with
  | 0 =>
    .ok (.saddi (nxOf w) (fld w 15 7) (fld w 8 7) (fld w 0 8))
  | 1 =>
    .ok (.sli (nxOf w) (fld w 15 7) (fld w 0 15))
  | 2 =>
    .ok (.slih (nxOf w) (fld w 15 7) (fld w 0 15))
  | 3 =>
    if fldN w 0 8 = 0 then .ok (.smov (nxOf w) (fld w 15 7) (fld w 8 7))
    else .error (.mustBeZero 0x23)
  | 4 =>
    if fldN w 0 8 = 0 then .ok (.sclz (nxOf w) (fld w 15 7) (fld w 8 7))
    else .error (.mustBeZero 0x24)
  | 5 =>
    if fldN w 0 8 = 0 then .ok (.spopc (nxOf w) (fld w 15 7) (fld w 8 7))
    else .error (.mustBeZero 0x25)
  | 6 =>
    .ok (.srd (nxOf w) (fld w 15 7) (fld w 0 15))
  | 7 =>
    .ok (.swr (nxOf w) (fld w 15 7) (fld w 0 15))
  | 8 =>
    .ok (.sld (nxOf w) (fld w 15 7) (fld w 8 7) (fld w 0 8))
  | 9 =>
    .ok (.sst (nxOf w) (fld w 15 7) (fld w 8 7) (fld w 0 8))
  | 10 =>
    .ok (.saddr (nxOf w) (fld w 15 7) (fld w 8 7) (fld w 1 7) (fld w 0 1))
  | 11 =>
    .ok (.ssext (nxOf w) (fld w 15 7) (fld w 8 7) (fld w 0 8))
  | 12 =>
    .ok (.sbfx (nxOf w) (fld w 15 7) (fld w 8 7) (fld w 4 4) (fld w 0 4))
  | 13 =>
    .ok (.sbfi (nxOf w) (fld w 15 7) (fld w 8 7) (fld w 4 4) (fld w 0 4))
  | 14 =>
    if fldN w 6 2 = 0 then .ok (.sshli (nxOf w) (fld w 15 7) (fld w 8 7) (fld w 0 6))
    else .error (.mustBeZero 0x2E)
  | _ =>
    if fldN w 6 2 = 0 then .ok (.sshri (nxOf w) (fld w 15 7) (fld w 8 7) (fld w 0 6))
    else if fldN w 6 2 = 1 then .ok (.ssrai (nxOf w) (fld w 15 7) (fld w 8 7) (fld w 0 6))
    else .error (.mustBeZero 0x2F)

/-- Opcodes 0x30 to 0x3F (R168). -/
def decodeRow3 (w : Word) : Except DecodeError Instr :=
  match opcodeOf w % 16 with
  | 0 =>
    .ok (.vadd (nxOf w) (fld w 15 7) (fld w 8 7) (fld w 1 7) (fld w 0 1))
  | 1 =>
    .ok (.vsub (nxOf w) (fld w 15 7) (fld w 8 7) (fld w 1 7) (fld w 0 1))
  | 2 =>
    .ok (.vmul (nxOf w) (fld w 15 7) (fld w 8 7) (fld w 1 7) (fld w 0 1))
  | 3 =>
    .ok (.vmad (nxOf w) (fld w 15 7) (fld w 8 7) (fld w 1 7) (fld w 0 1))
  | 4 =>
    .ok (.vmsb (nxOf w) (fld w 15 7) (fld w 8 7) (fld w 1 7) (fld w 0 1))
  | 5 =>
    .ok (.vmin (nxOf w) (fld w 15 7) (fld w 8 7) (fld w 1 7) (fld w 0 1))
  | 6 =>
    .ok (.vmax (nxOf w) (fld w 15 7) (fld w 8 7) (fld w 1 7) (fld w 0 1))
  | 7 =>
    if fldN w 0 8 = 0 then .ok (.vabs (nxOf w) (fld w 15 7) (fld w 8 7))
    else .error (.mustBeZero 0x37)
  | 8 =>
    if fldN w 0 8 = 0 then .ok (.vneg (nxOf w) (fld w 15 7) (fld w 8 7))
    else .error (.mustBeZero 0x38)
  | 9 =>
    .ok (.vand (nxOf w) (fld w 15 7) (fld w 8 7) (fld w 1 7) (fld w 0 1))
  | 10 =>
    .ok (.vor (nxOf w) (fld w 15 7) (fld w 8 7) (fld w 1 7) (fld w 0 1))
  | 11 =>
    .ok (.vxor (nxOf w) (fld w 15 7) (fld w 8 7) (fld w 1 7) (fld w 0 1))
  | 12 =>
    if fldN w 0 8 = 0 then .ok (.vnot (nxOf w) (fld w 15 7) (fld w 8 7))
    else .error (.mustBeZero 0x3C)
  | 13 =>
    .ok (.vshl (nxOf w) (fld w 15 7) (fld w 8 7) (fld w 1 7) (fld w 0 1))
  | 14 =>
    .ok (.vshr (nxOf w) (fld w 15 7) (fld w 8 7) (fld w 1 7) (fld w 0 1))
  | _ =>
    .ok (.vsra (nxOf w) (fld w 15 7) (fld w 8 7) (fld w 1 7) (fld w 0 1))

/-- Opcodes 0x40 to 0x4F (R168). B[6:5] of VBCS with X = 0 is read as a must-be-zero field, whose ILLEGAL_OP comes before the ECC_UNCORR of a damaged
vA; R244 lists the check among those that come after it (DESIGN CHOICE, log 90). -/
def decodeRow4 (w : Word) : Except DecodeError Instr :=
  match opcodeOf w % 16 with
  | 0 =>
    .ok (.vcmp (nxOf w) (fld w 19 3) (fld w 18 1) (fld w 15 3) (fld w 8 7) (fld w 1 7) (fld w 0 1))
  | 1 =>
    .ok (.vsel (nxOf w) (fld w 15 7) (fld w 8 7) (fld w 1 7) (fld w 0 1))
  | 2 =>
    if fldN w 0 8 = 0 then .ok (.vmovV (nxOf w) (fld w 15 7) (fld w 8 7))
    else if fldN w 0 1 = 1 ∧ fldN w 8 7 = 0 then .ok (.vmovS (nxOf w) (fld w 15 7) (fld w 1 7))
    else .error (.mustBeZero 0x42)
  | 3 =>
    .ok (.vli (nxOf w) (fld w 15 7) (fld w 0 15))
  | 4 =>
    if fldN w 0 1 = 0 ∧ fldN w 6 2 = 0 then .ok (.vbcsImm (nxOf w) (fld w 15 7) (fld w 8 7) (fld w 1 5))
    else if fldN w 0 1 = 1 then .ok (.vbcsReg (nxOf w) (fld w 15 7) (fld w 8 7) (fld w 1 7))
    else .error (.mustBeZero 0x44)
  | 5 =>
    .ok (.vdot4 (nxOf w) (fld w 15 7) (fld w 8 7) (fld w 1 7) (fld w 0 1))
  | 6 =>
    .ok (.vdot2 (nxOf w) (fld w 15 7) (fld w 8 7) (fld w 1 7) (fld w 0 1))
  | 7 =>
    .ok (.vsad (nxOf w) (fld w 15 7) (fld w 8 7) (fld w 1 7) (fld w 0 1))
  | 8 =>
    if fldN w 0 8 = 0 then .ok (.vclz (nxOf w) (fld w 15 7) (fld w 8 7))
    else .error (.mustBeZero 0x48)
  | 9 =>
    if fldN w 0 8 = 0 then .ok (.vpopc (nxOf w) (fld w 15 7) (fld w 8 7))
    else .error (.mustBeZero 0x49)
  | 10 =>
    if fldN w 0 8 = 0 then .ok (.vrcp (nxOf w) (fld w 15 7) (fld w 8 7))
    else .error (.mustBeZero 0x4A)
  | 11 =>
    if fldN w 0 8 = 0 then .ok (.vrsq (nxOf w) (fld w 15 7) (fld w 8 7))
    else .error (.mustBeZero 0x4B)
  | 12 =>
    if fldN w 0 8 = 0 then .ok (.vexp2 (nxOf w) (fld w 15 7) (fld w 8 7))
    else .error (.mustBeZero 0x4C)
  | 13 =>
    if fldN w 0 8 = 0 then .ok (.vlog2 (nxOf w) (fld w 15 7) (fld w 8 7))
    else .error (.mustBeZero 0x4D)
  | 14 =>
    if fldN w 0 8 = 0 then .ok (.vsin (nxOf w) (fld w 15 7) (fld w 8 7))
    else .error (.mustBeZero 0x4E)
  | _ =>
    if fldN w 0 8 = 0 then .ok (.vcos (nxOf w) (fld w 15 7) (fld w 8 7))
    else .error (.mustBeZero 0x4F)

/-- Opcodes 0x50 to 0x5F (R168). -/
def decodeRow5 (w : Word) : Except DecodeError Instr :=
  match opcodeOf w % 16 with
  | 0 =>
    if fldN w 0 1 = 0 then .ok (.vcvt (nxOf w) (fld w 15 7) (fld w 8 7) (fld w 5 3) (fld w 1 4))
    else .error (.mustBeZero 0x50)
  | 1 =>
    .ok (.vpack (nxOf w) (fld w 15 7) (fld w 8 7) (fld w 1 7) (fld w 0 1))
  | 2 =>
    if fldN w 0 8 = 0 then .ok (.vunpk (nxOf w) (fld w 15 7) (fld w 8 7))
    else .error (.mustBeZero 0x52)
  | 3 =>
    .ok (.vrq (nxOf w) (fld w 15 7) (fld w 8 7) (fld w 1 7) (fld w 0 1))
  | 4 =>
    .ok (.vrshr (nxOf w) (fld w 15 7) (fld w 8 7) (fld w 1 7) (fld w 0 1))
  | 5 =>
    .ok (.vshfl (nxOf w) (fld w 15 7) (fld w 8 7) (fld w 1 7) (fld w 0 1))
  | 6 =>
    .ok (.vshfli (nxOf w) (fld w 15 7) (fld w 8 7) (fld w 5 3) (fld w 0 5))
  | 7 =>
    if fldN w 0 1 = 0 ∧ fldN w 4 4 = 0 then .ok (.vred (nxOf w) (fld w 15 7) (fld w 8 7) (fld w 1 3))
    else .error (.mustBeZero 0x57)
  | 8 =>
    if fldN w 0 1 = 0 ∧ fldN w 5 3 = 0 then .ok (.vscan (nxOf w) (fld w 15 7) (fld w 8 7) (fld w 4 1) (fld w 1 3))
    else .error (.mustBeZero 0x58)
  | 9 =>
    .ok (.vprune (nxOf w) (fld w 15 7) (fld w 8 7) (fld w 1 7) (fld w 0 1))
  | 10 =>
    .ok (.vspdot (nxOf w) (fld w 15 7) (fld w 8 7) (fld w 1 7) (fld w 0 1))
  | 11 =>
    if fldN w 0 8 = 0 then .ok (.vnzc (nxOf w) (fld w 15 7) (fld w 8 7))
    else .error (.mustBeZero 0x5B)
  | 12 =>
    if fldN w 0 8 = 0 then .ok (.vnzb (nxOf w) (fld w 15 7) (fld w 8 7))
    else .error (.mustBeZero 0x5C)
  | 13 =>
    if fldN w 0 8 = 0 then .ok (.vterm (nxOf w) (fld w 15 7) (fld w 8 7))
    else .error (.mustBeZero 0x5D)
  | 14 =>
    if fldN w 0 8 = 0 then .ok (.vlane (nxOf w) (fld w 15 7) (fld w 8 7))
    else .error (.mustBeZero 0x5E)
  | _ =>
    .ok (.vscl (nxOf w) (fld w 15 7) (fld w 8 7) (fld w 1 7) (fld w 0 1))

/-- Opcodes 0x60 to 0x6F (R168). -/
def decodeRow6 (w : Word) : Except DecodeError Instr :=
  match opcodeOf w % 16 with
  | 0 =>
    .ok (.kand (nxOf w) (fld w 15 7) (fld w 8 7) (fld w 1 7) (fld w 0 1))
  | 1 =>
    .ok (.kor (nxOf w) (fld w 15 7) (fld w 8 7) (fld w 1 7) (fld w 0 1))
  | 2 =>
    .ok (.kxor (nxOf w) (fld w 15 7) (fld w 8 7) (fld w 1 7) (fld w 0 1))
  | 3 =>
    if fldN w 0 8 = 0 then .ok (.knot (nxOf w) (fld w 15 7) (fld w 8 7))
    else .error (.mustBeZero 0x63)
  | 4 =>
    if fldN w 0 8 = 0 then .ok (.kmov (nxOf w) (fld w 15 7) (fld w 8 7))
    else .error (.mustBeZero 0x64)
  | 5 =>
    if fldN w 0 8 = 0 then .ok (.kany (nxOf w) (fld w 15 7) (fld w 8 7))
    else .error (.mustBeZero 0x65)
  | 6 =>
    if fldN w 0 8 = 0 then .ok (.kall (nxOf w) (fld w 15 7) (fld w 8 7))
    else .error (.mustBeZero 0x66)
  | 7 =>
    if fldN w 0 8 = 0 then .ok (.kcnt (nxOf w) (fld w 15 7) (fld w 8 7))
    else if fldN w 0 8 = 1 then .ok (.kbits (nxOf w) (fld w 15 7) (fld w 8 7))
    else .error (.mustBeZero 0x67)
  | 8 =>
    if fldN w 0 8 = 0 then .ok (.kfromv (nxOf w) (fld w 15 7) (fld w 8 7))
    else .error (.mustBeZero 0x68)
  | 9 =>
    if fldN w 0 8 = 0 then .ok (.ktov (nxOf w) (fld w 15 7) (fld w 8 7))
    else .error (.mustBeZero 0x69)
  | _ => .ok (.reservedOpcode w)

/-- Opcodes 0x70 to 0x7F (R168). -/
def decodeRow7 (w : Word) : Except DecodeError Instr :=
  match opcodeOf w % 16 with
  | 0 =>
    if fldN w 0 1 = 0 then .ok (.ld (nxOf w) (fld w 15 7) (fld w 8 7) (fld w 1 7))
    else .error (.mustBeZero 0x70)
  | 1 =>
    if fldN w 0 1 = 0 then .ok (.st (nxOf w) (fld w 15 7) (fld w 8 7) (fld w 1 7))
    else .error (.mustBeZero 0x71)
  | 2 =>
    .ok (.ldi (nxOf w) (fld w 15 7) (fld w 8 7) (fld w 0 8))
  | 3 =>
    .ok (.sti (nxOf w) (fld w 15 7) (fld w 8 7) (fld w 0 8))
  | 4 =>
    if fldN w 0 1 = 0 then .ok (.ldt (nxOf w) (fld w 15 7) (fld w 8 7) (fld w 1 7))
    else .error (.mustBeZero 0x74)
  | 5 =>
    if fldN w 0 1 = 0 then .ok (.stt (nxOf w) (fld w 15 7) (fld w 8 7) (fld w 1 7))
    else .error (.mustBeZero 0x75)
  | 6 =>
    if fldN w 0 1 = 0 then .ok (.ldb (nxOf w) (fld w 15 7) (fld w 8 7) (fld w 1 7))
    else .error (.mustBeZero 0x76)
  | 7 =>
    if fldN w 0 1 = 0 then .ok (.ldw (nxOf w) (fld w 15 7) (fld w 8 7) (fld w 1 7))
    else .error (.mustBeZero 0x77)
  | 8 =>
    if fldN w 0 1 = 0 then .ok (.stw (nxOf w) (fld w 15 7) (fld w 8 7) (fld w 1 7))
    else .error (.mustBeZero 0x78)
  | 9 =>
    if fldN w 0 1 = 0 then .ok (.aadd (nxOf w) (fld w 15 7) (fld w 8 7) (fld w 1 7))
    else .error (.mustBeZero 0x79)
  | 10 =>
    if fldN w 0 1 = 0 then .ok (.amin (nxOf w) (fld w 15 7) (fld w 8 7) (fld w 1 7))
    else .error (.mustBeZero 0x7A)
  | 11 =>
    if fldN w 0 1 = 0 then .ok (.amax (nxOf w) (fld w 15 7) (fld w 8 7) (fld w 1 7))
    else .error (.mustBeZero 0x7B)
  | 12 =>
    if fldN w 0 1 = 0 then .ok (.aand (nxOf w) (fld w 15 7) (fld w 8 7) (fld w 1 7))
    else .error (.mustBeZero 0x7C)
  | 13 =>
    if fldN w 0 1 = 0 then .ok (.aor (nxOf w) (fld w 15 7) (fld w 8 7) (fld w 1 7))
    else .error (.mustBeZero 0x7D)
  | 14 =>
    if fldN w 0 1 = 0 then .ok (.axor (nxOf w) (fld w 15 7) (fld w 8 7) (fld w 1 7))
    else .error (.mustBeZero 0x7E)
  | _ =>
    if fldN w 0 1 = 0 then .ok (.axch (nxOf w) (fld w 15 7) (fld w 8 7) (fld w 1 7))
    else .error (.mustBeZero 0x7F)

/-- Opcodes 0x80 to 0x8F (R168). -/
def decodeRow8 (w : Word) : Except DecodeError Instr :=
  match opcodeOf w % 16 with
  | 0 =>
    if fldN w 0 1 = 0 then .ok (.acas (nxOf w) (fld w 15 7) (fld w 8 7) (fld w 1 7))
    else .error (.mustBeZero 0x80)
  | 1 =>
    if fldN w 0 1 = 0 then .ok (.rdadd (nxOf w) (fld w 15 7) (fld w 8 7) (fld w 1 7))
    else .error (.mustBeZero 0x81)
  | 2 =>
    if fldN w 0 1 = 0 then .ok (.rdmin (nxOf w) (fld w 15 7) (fld w 8 7) (fld w 1 7))
    else .error (.mustBeZero 0x82)
  | 3 =>
    if fldN w 0 1 = 0 then .ok (.rdmax (nxOf w) (fld w 15 7) (fld w 8 7) (fld w 1 7))
    else .error (.mustBeZero 0x83)
  | 4 =>
    if fldN w 0 1 = 0 then .ok (.rdand (nxOf w) (fld w 15 7) (fld w 8 7) (fld w 1 7))
    else .error (.mustBeZero 0x84)
  | 5 =>
    if fldN w 0 1 = 0 then .ok (.rdor (nxOf w) (fld w 15 7) (fld w 8 7) (fld w 1 7))
    else .error (.mustBeZero 0x85)
  | 6 =>
    if fldN w 0 1 = 0 then .ok (.rdxor (nxOf w) (fld w 15 7) (fld w 8 7) (fld w 1 7))
    else .error (.mustBeZero 0x86)
  | 7 =>
    if fldN w 0 1 = 0 then .ok (.rdx (nxOf w) (fld w 15 7) (fld w 8 7) (fld w 1 7))
    else .error (.mustBeZero 0x87)
  | 8 =>
    if fldN w 8 7 = 0 then .ok (.fnc (nxOf w) (fld w 15 7) (fld w 0 8))
    else .error (.mustBeZero 0x88)
  | 9 =>
    if fldN w 0 8 = 0 ∧ fldN w 15 7 = 0 then .ok (.fwait (nxOf w) (fld w 8 7))
    else .error (.mustBeZero 0x89)
  | 10 =>
    if fldN w 0 1 = 0 then .ok (.pref (nxOf w) (fld w 15 7) (fld w 8 7) (fld w 1 7))
    else .error (.mustBeZero 0x8A)
  | _ => .ok (.reservedOpcode w)

/-- Opcodes 0x90 to 0x9F (R168). -/
def decodeRow9 (w : Word) : Except DecodeError Instr :=
  match opcodeOf w % 16 with
  | 0 =>
    if fldN w 0 8 = 0 ∧ fldN w 15 7 = 0 then .ok (.bara (nxOf w) (fld w 8 7))
    else .error (.mustBeZero 0x90)
  | 1 =>
    if fldN w 0 8 = 0 ∧ fldN w 15 7 = 0 then .ok (.barw (nxOf w) (fld w 8 7))
    else .error (.mustBeZero 0x91)
  | 2 =>
    if fldN w 0 8 = 0 ∧ fldN w 15 7 = 0 then .ok (.baraw (nxOf w) (fld w 8 7))
    else .error (.mustBeZero 0x92)
  | 3 =>
    if fldN w 0 1 = 0 ∧ fldN w 15 7 = 0 then .ok (.barx (nxOf w) (fld w 8 7) (fld w 1 7))
    else .error (.mustBeZero 0x93)
  | 4 =>
    if fldN w 0 1 = 0 ∧ fldN w 15 7 = 0 then .ok (.bari (nxOf w) (fld w 8 7) (fld w 1 7))
    else .error (.mustBeZero 0x94)
  | 5 =>
    if fldN w 0 8 = 0 then .ok (.qpush (nxOf w) (fld w 15 7) (fld w 8 7))
    else .error (.mustBeZero 0x95)
  | 6 =>
    if fldN w 0 8 = 0 then .ok (.qpop (nxOf w) (fld w 15 7) (fld w 8 7))
    else .error (.mustBeZero 0x96)
  | 7 =>
    if fldN w 0 1 = 0 then .ok (.qpeek (nxOf w) (fld w 15 7) (fld w 8 7) (fld w 1 7))
    else .error (.mustBeZero 0x97)
  | 8 =>
    if fldN w 0 1 = 0 ∧ fldN w 15 7 = 0 then .ok (.qcfg (nxOf w) (fld w 8 7) (fld w 1 7))
    else .error (.mustBeZero 0x98)
  | 9 =>
    if fldN w 0 8 = 0 ∧ fldN w 15 7 = 0 then .ok (.gset (nxOf w) (fld w 8 7))
    else .error (.mustBeZero 0x99)
  | 10 =>
    if fldN w 0 8 = 0 ∧ fldN w 15 7 = 0 then .ok (.gclr (nxOf w) (fld w 8 7))
    else if fldN w 0 8 = 1 ∧ fldN w 15 7 = 0 then .ok (.gclrUnres (nxOf w) (fld w 8 7))
    else .error (.mustBeZero 0x9A)
  | 11 =>
    if fldN w 0 8 = 0 ∧ fldN w 15 7 = 0 then .ok (.estart (nxOf w) (fld w 8 7))
    else .error (.mustBeZero 0x9B)
  | 12 =>
    if fldN w 0 15 = 0 then .ok (.ejoin (nxOf w) (fld w 15 7))
    else .error (.mustBeZero 0x9C)
  | 13 =>
    if fldN w 0 8 = 0 then .ok (.launch (nxOf w) (fld w 15 7) (fld w 8 7))
    else .error (.mustBeZero 0x9D)
  | _ => .ok (.reservedOpcode w)

/-- Opcodes 0xA0 to 0xAF (R168). -/
def decodeRowA (w : Word) : Except DecodeError Instr :=
  match opcodeOf w % 16 with
  | 0 =>
    if fldN w 0 1 = 0 ∧ fldN w 15 7 = 0 then .ok (.sfork (nxOf w) (fld w 8 7) (fld w 1 7))
    else .error (.mustBeZero 0xA0)
  | 1 =>
    if fldN w 0 8 = 0 then .ok (.sreward (nxOf w) (fld w 15 7) (fld w 8 7))
    else .error (.mustBeZero 0xA1)
  | 2 =>
    if fldN w 0 22 = 0 then .ok (.sbar (nxOf w))
    else .error (.mustBeZero 0xA2)
  | 3 =>
    if fldN w 0 8 = 0 then .ok (.scancel (nxOf w) (fld w 15 7) (fld w 8 7))
    else .error (.mustBeZero 0xA3)
  | 4 =>
    if fldN w 0 15 = 0 then .ok (.sginfo (nxOf w) (fld w 15 7))
    else if fldN w 0 15 = 1 then .ok (.sgabs (nxOf w) (fld w 15 7))
    else .error (.mustBeZero 0xA4)
  | 5 =>
    if fldN w 0 8 = 0 ∧ fldN w 15 7 = 0 then .ok (.sgadv (nxOf w) (fld w 8 7))
    else .error (.mustBeZero 0xA5)
  | _ => .ok (.reservedOpcode w)

/-- Opcodes 0xB0 to 0xBF (R168). -/
def decodeRowB (w : Word) : Except DecodeError Instr :=
  match opcodeOf w % 16 with
  | 0 =>
    if fldN w 6 16 = 0 then .ok (.mxg (nxOf w) (fld w 5 1) (fld w 3 2) (fld w 0 3))
    else .error (.mustBeZero 0xB0)
  | 1 =>
    .ok (.mx (nxOf w) (fld w 20 2) (fld w 15 5) (fld w 11 4) (fld w 7 4) (fld w 2 5) (fld w 1 1) (fld w 0 1))
  | 2 =>
    if fldN w 0 8 = 0 then .ok (.mxbound (nxOf w) (fld w 15 7) (fld w 8 7))
    else .error (.mustBeZero 0xB2)
  | 3 =>
    if fldN w 0 15 = 0 then .ok (.mxz (nxOf w) (fld w 15 7))
    else .error (.mustBeZero 0xB3)
  | 4 =>
    if fldN w 0 1 = 0 then .ok (.acst (nxOf w) (fld w 15 7) (fld w 8 7) (fld w 1 7))
    else .error (.mustBeZero 0xB4)
  | 5 =>
    if fldN w 0 1 = 0 then .ok (.acld (nxOf w) (fld w 15 7) (fld w 8 7) (fld w 1 7))
    else .error (.mustBeZero 0xB5)
  | 6 =>
    if fldN w 1 14 = 0 then .ok (.hclaim (nxOf w) (fld w 15 7) (fld w 0 1))
    else .error (.mustBeZero 0xB6)
  | 7 =>
    if fldN w 0 8 = 0 ∧ fldN w 15 7 = 0 then .ok (.hrel (nxOf w) (fld w 8 7))
    else .error (.mustBeZero 0xB7)
  | 8 =>
    if fldN w 0 1 = 0 then .ok (.cpldSlot (nxOf w) (fld w 15 7) (fld w 8 7) (fld w 1 7))
    else if fldN w 0 1 = 1 ∧ fldN w 15 7 = 0 then .ok (.cpldSp (nxOf w) (fld w 8 7) (fld w 1 7))
    else .error (.mustBeZero 0xB8)
  | 9 =>
    if fldN w 0 1 = 0 ∧ fldN w 15 7 = 0 then .ok (.cpst (nxOf w) (fld w 8 7) (fld w 1 7))
    else .error (.mustBeZero 0xB9)
  | 10 =>
    if fldN w 0 1 = 0 ∧ fldN w 15 7 = 0 then .ok (.cpss (nxOf w) (fld w 8 7) (fld w 1 7))
    else .error (.mustBeZero 0xBA)
  | 11 =>
    if fldN w 0 15 = 0 then .ok (.bseal (nxOf w) (fld w 15 7))
    else if fldN w 0 8 = 1 then .ok (.bsealStatus (nxOf w) (fld w 15 7) (fld w 8 7))
    else .error (.mustBeZero 0xBB)
  | 12 =>
    if fldN w 15 7 = 0 then .ok (.bwaitImm (nxOf w) (fld w 0 15))
    else if fldN w 0 15 = 0 ∧ fldN w 21 1 = 1 then .ok (.bwaitReg (nxOf w) (fld w 15 6))
    else .error (.mustBeZero 0xBC)
  | 13 =>
    if fldN w 0 1 = 0 then .ok (.lease (nxOf w) (fld w 15 7) (fld w 8 7) (fld w 1 7))
    else .error (.mustBeZero 0xBD)
  | 14 =>
    if fldN w 0 8 = 0 ∧ fldN w 15 7 = 0 then .ok (.lrel (nxOf w) (fld w 8 7))
    else .error (.mustBeZero 0xBE)
  | _ =>
    if fldN w 0 1 = 0 then .ok (.ecmd (nxOf w) (fld w 15 7) (fld w 8 7) (fld w 1 7))
    else .error (.mustBeZero 0xBF)

/-- Opcodes 0xC0 to 0xCF (R168). -/
def decodeRowC (w : Word) : Except DecodeError Instr :=
  match opcodeOf w % 16 with
  | 0 =>
    if fldN w 0 1 = 0 ∧ fldN w 15 7 = 0 then .ok (.swbind (nxOf w) (fld w 8 7) (fld w 1 7))
    else .error (.mustBeZero 0xC0)
  | 1 =>
    if fldN w 0 8 = 0 ∧ fldN w 15 7 = 0 then .ok (.swunb (nxOf w) (fld w 8 7))
    else .error (.mustBeZero 0xC1)
  | 2 =>
    if fldN w 0 1 = 0 then .ok (.eadd (nxOf w) (fld w 15 7) (fld w 8 7) (fld w 1 7))
    else .error (.mustBeZero 0xC2)
  | 3 =>
    if fldN w 0 1 = 0 then .ok (.esub (nxOf w) (fld w 15 7) (fld w 8 7) (fld w 1 7))
    else .error (.mustBeZero 0xC3)
  | 4 =>
    .ok (.eli (nxOf w) (fld w 15 7) (fld w 0 15))
  | 5 =>
    .ok (.elih (nxOf w) (fld w 15 7) (fld w 0 15))
  | 6 =>
    if fldN w 0 8 = 0 then .ok (.emov (nxOf w) (fld w 15 7) (fld w 8 7))
    else .error (.mustBeZero 0xC6)
  | 7 =>
    if fldN w 6 2 = 0 then .ok (.eshl (nxOf w) (fld w 15 7) (fld w 8 7) (fld w 0 6))
    else if fldN w 6 2 = 1 then .ok (.eshr (nxOf w) (fld w 15 7) (fld w 8 7) (fld w 0 6))
    else .error (.mustBeZero 0xC7)
  | 8 =>
    .ok (.xjz (nxOf w) (fld w 15 7) (fld w 0 15))
  | 9 =>
    .ok (.xjnz (nxOf w) (fld w 15 7) (fld w 0 15))
  | 10 =>
    .ok (.efroms (nxOf w) (fld w 15 7) (fld w 0 15))
  | _ => .ok (.reservedOpcode w)

/-- Opcodes 0xE0 to 0xEF (R168). -/
def decodeRowE (w : Word) : Except DecodeError Instr :=
  match opcodeOf w % 16 with
  | 0 =>
    .ok (.csrr (nxOf w) (fld w 15 7) (fld w 0 15))
  | 1 =>
    .ok (.csrw (nxOf w) (fld w 15 7) (fld w 0 15))
  | 2 =>
    .ok (.cntr (nxOf w) (fld w 15 7) (fld w 0 15))
  | 3 =>
    .ok (.clk (nxOf w) (fld w 15 7) (fld w 0 15))
  | 4 =>
    if fldN w 0 8 = 0 ∧ fldN w 15 7 = 0 then .ok (.seed (nxOf w) (fld w 8 7))
    else .error (.mustBeZero 0xE4)
  | _ => .ok (.reservedOpcode w)

/-- The instruction of a word and the words after it; total, and a reserved opcode is the instruction of R169. -/
def decode (w : Word) (rest : List Word) : Except DecodeError Instr :=
  match opcodeOf w / 16 with
  | 0 => decodeRow0 w rest
  | 1 => decodeRow1 w
  | 2 => decodeRow2 w
  | 3 => decodeRow3 w
  | 4 => decodeRow4 w
  | 5 => decodeRow5 w
  | 6 => decodeRow6 w
  | 7 => decodeRow7 w
  | 8 => decodeRow8 w
  | 9 => decodeRow9 w
  | 10 => decodeRowA w
  | 11 => decodeRowB w
  | 12 => decodeRowC w
  | 14 => decodeRowE w
  | _ => .ok (.reservedOpcode w)

/-- The issuer classes of R168. -/
inductive IssuerClass where
  | groups
  | streams
  | both
  deriving DecidableEq, Repr

/-- The issuer class of an opcode (R168). -/
def classOf (op : Nat) : IssuerClass :=
  if op = 0x01 ∨ op = 0x08 ∨ op = 0x0A ∨ (0x0C ≤ op ∧ op ≤ 0x0E) ∨ (0x88 ≤ op ∧ op ≤ 0x89) ∨ (0x90 ≤ op ∧ op ≤ 0x98) ∨ (0xB8 ≤ op ∧ op ≤ 0xC1) then .both
  else if (0xB0 ≤ op ∧ op ≤ 0xB7) ∨ (0xC2 ≤ op ∧ op ≤ 0xCA) then .streams
  else .groups

/-- A word from NX, OP and bits [21:0] (R155). -/
def mkWord (nx : NX) (op body : Nat) : Word := BitVec.ofNat 32 (nx.bits * 2 ^ 30 + op * 2 ^ 22 + body)

/-- Format RRR (R156). -/
def wRRR (nx : NX) (op d a b x : Nat) : List Word := [mkWord nx op (d * 2 ^ 15 + a * 2 ^ 8 + b * 2 + x)]

/-- Format RRI (R156). -/
def wRRI (nx : NX) (op d a i : Nat) : List Word := [mkWord nx op (d * 2 ^ 15 + a * 2 ^ 8 + i)]

/-- Format RI (R156). -/
def wRI (nx : NX) (op d i : Nat) : List Word := [mkWord nx op (d * 2 ^ 15 + i)]

/-- Format J (R156). -/
def wJ (nx : NX) (op k off : Nat) : List Word := [mkWord nx op (k * 2 ^ 18 + off)]

/-- Format I22 (R156). -/
def wI22 (nx : NX) (op i : Nat) : List Word := [mkWord nx op i]

/-- Format M (R156). -/
def wM (nx : NX) (op acc es ha hb ev acq rel : Nat) : List Word :=
  [mkWord nx op (acc * 2 ^ 20 + es * 2 ^ 15 + ha * 2 ^ 11 + hb * 2 ^ 7 + ev * 2 ^ 2 + acq * 2 + rel)]

/-- The opcode of a constructor (R168); none for an event, which has no word. -/
def Instr.opcode : Instr → Option Nat
  | .xbtab .. => some 0x07
  | .reservedOpcode w => some (opcodeOf w)
  | .nop .. => some 0x01
  | .xj .. => some 0x02
  | .xju .. => some 0x03
  | .xcall .. => some 0x04
  | .xret .. => some 0x05
  | .xjr .. => some 0x06
  | .lpsImm .. => some 0x08
  | .lpsReg .. => some 0x08
  | .rwait .. => some 0x09
  | .setmode .. => some 0x0A
  | .setmodev .. => some 0x0B
  | .getmode .. => some 0x0C
  | .trap .. => some 0x0D
  | .brk .. => some 0x0E
  | .yield .. => some 0x0F
  | .sadd .. => some 0x10
  | .ssub .. => some 0x11
  | .smul .. => some 0x12
  | .smulh .. => some 0x13
  | .sdiv .. => some 0x14
  | .srem .. => some 0x15
  | .sand .. => some 0x16
  | .sor .. => some 0x17
  | .sxor .. => some 0x18
  | .sshl .. => some 0x19
  | .sshr .. => some 0x1A
  | .ssra .. => some 0x1B
  | .smin .. => some 0x1C
  | .smax .. => some 0x1D
  | .scmp .. => some 0x1E
  | .ssel .. => some 0x1F
  | .saddi .. => some 0x20
  | .sli .. => some 0x21
  | .slih .. => some 0x22
  | .smov .. => some 0x23
  | .sclz .. => some 0x24
  | .spopc .. => some 0x25
  | .srd .. => some 0x26
  | .swr .. => some 0x27
  | .sld .. => some 0x28
  | .sst .. => some 0x29
  | .saddr .. => some 0x2A
  | .ssext .. => some 0x2B
  | .sbfx .. => some 0x2C
  | .sbfi .. => some 0x2D
  | .sshli .. => some 0x2E
  | .sshri .. => some 0x2F
  | .ssrai .. => some 0x2F
  | .vadd .. => some 0x30
  | .vsub .. => some 0x31
  | .vmul .. => some 0x32
  | .vmad .. => some 0x33
  | .vmsb .. => some 0x34
  | .vmin .. => some 0x35
  | .vmax .. => some 0x36
  | .vabs .. => some 0x37
  | .vneg .. => some 0x38
  | .vand .. => some 0x39
  | .vor .. => some 0x3A
  | .vxor .. => some 0x3B
  | .vnot .. => some 0x3C
  | .vshl .. => some 0x3D
  | .vshr .. => some 0x3E
  | .vsra .. => some 0x3F
  | .vcmp .. => some 0x40
  | .vsel .. => some 0x41
  | .vmovV .. => some 0x42
  | .vmovS .. => some 0x42
  | .vli .. => some 0x43
  | .vbcsImm .. => some 0x44
  | .vbcsReg .. => some 0x44
  | .vdot4 .. => some 0x45
  | .vdot2 .. => some 0x46
  | .vsad .. => some 0x47
  | .vclz .. => some 0x48
  | .vpopc .. => some 0x49
  | .vrcp .. => some 0x4A
  | .vrsq .. => some 0x4B
  | .vexp2 .. => some 0x4C
  | .vlog2 .. => some 0x4D
  | .vsin .. => some 0x4E
  | .vcos .. => some 0x4F
  | .vcvt .. => some 0x50
  | .vpack .. => some 0x51
  | .vunpk .. => some 0x52
  | .vrq .. => some 0x53
  | .vrshr .. => some 0x54
  | .vscl .. => some 0x5F
  | .vshfl .. => some 0x55
  | .vshfli .. => some 0x56
  | .vred .. => some 0x57
  | .vscan .. => some 0x58
  | .vprune .. => some 0x59
  | .vspdot .. => some 0x5A
  | .vnzc .. => some 0x5B
  | .vnzb .. => some 0x5C
  | .vterm .. => some 0x5D
  | .vlane .. => some 0x5E
  | .kand .. => some 0x60
  | .kor .. => some 0x61
  | .kxor .. => some 0x62
  | .knot .. => some 0x63
  | .kmov .. => some 0x64
  | .kany .. => some 0x65
  | .kall .. => some 0x66
  | .kcnt .. => some 0x67
  | .kbits .. => some 0x67
  | .kfromv .. => some 0x68
  | .ktov .. => some 0x69
  | .ld .. => some 0x70
  | .st .. => some 0x71
  | .ldi .. => some 0x72
  | .sti .. => some 0x73
  | .ldt .. => some 0x74
  | .stt .. => some 0x75
  | .ldb .. => some 0x76
  | .ldw .. => some 0x77
  | .stw .. => some 0x78
  | .aadd .. => some 0x79
  | .amin .. => some 0x7A
  | .amax .. => some 0x7B
  | .aand .. => some 0x7C
  | .aor .. => some 0x7D
  | .axor .. => some 0x7E
  | .axch .. => some 0x7F
  | .acas .. => some 0x80
  | .rdadd .. => some 0x81
  | .rdmin .. => some 0x82
  | .rdmax .. => some 0x83
  | .rdand .. => some 0x84
  | .rdor .. => some 0x85
  | .rdxor .. => some 0x86
  | .rdx .. => some 0x87
  | .fnc .. => some 0x88
  | .fwait .. => some 0x89
  | .pref .. => some 0x8A
  | .bara .. => some 0x90
  | .barw .. => some 0x91
  | .baraw .. => some 0x92
  | .barx .. => some 0x93
  | .bari .. => some 0x94
  | .qpush .. => some 0x95
  | .qpop .. => some 0x96
  | .qpeek .. => some 0x97
  | .qcfg .. => some 0x98
  | .gset .. => some 0x99
  | .gclr .. => some 0x9A
  | .gclrUnres .. => some 0x9A
  | .estart .. => some 0x9B
  | .ejoin .. => some 0x9C
  | .launch .. => some 0x9D
  | .sfork .. => some 0xA0
  | .sreward .. => some 0xA1
  | .sbar .. => some 0xA2
  | .scancel .. => some 0xA3
  | .sginfo .. => some 0xA4
  | .sgabs .. => some 0xA4
  | .sgadv .. => some 0xA5
  | .mxg .. => some 0xB0
  | .mx .. => some 0xB1
  | .mxbound .. => some 0xB2
  | .mxz .. => some 0xB3
  | .acst .. => some 0xB4
  | .acld .. => some 0xB5
  | .hclaim .. => some 0xB6
  | .hrel .. => some 0xB7
  | .cpldSlot .. => some 0xB8
  | .cpldSp .. => some 0xB8
  | .cpst .. => some 0xB9
  | .cpss .. => some 0xBA
  | .bseal .. => some 0xBB
  | .bsealStatus .. => some 0xBB
  | .bwaitImm .. => some 0xBC
  | .bwaitReg .. => some 0xBC
  | .lease .. => some 0xBD
  | .lrel .. => some 0xBE
  | .ecmd .. => some 0xBF
  | .swbind .. => some 0xC0
  | .swunb .. => some 0xC1
  | .eadd .. => some 0xC2
  | .esub .. => some 0xC3
  | .eli .. => some 0xC4
  | .elih .. => some 0xC5
  | .emov .. => some 0xC6
  | .eshl .. => some 0xC7
  | .eshr .. => some 0xC7
  | .xjz .. => some 0xC8
  | .xjnz .. => some 0xC9
  | .efroms .. => some 0xCA
  | .csrr .. => some 0xE0
  | .csrw .. => some 0xE1
  | .cntr .. => some 0xE2
  | .clk .. => some 0xE3
  | .seed .. => some 0xE4
  | _ => none

/-- The words of an instruction, from the formats of R156; an event has none. -/
def encode : Instr → List Word
  | .xbtab nx a targets => wRRI nx 0x07 0 a.toNat (targets.length - 1) ++ targets
  | .reservedOpcode w => [w]
  | .nop nx => wI22 nx 0x01 0
  | .xj nx k o => wJ nx 0x02 k.toNat o.toNat
  | .xju nx k o => wJ nx 0x03 k.toNat o.toNat
  | .xcall nx o => wJ nx 0x04 0 o.toNat
  | .xret nx => wI22 nx 0x05 0
  | .xjr nx a => wRRR nx 0x06 0 a.toNat 0 0
  | .lpsImm nx i => wRI nx 0x08 0 i.toNat
  | .lpsReg nx a => wRI nx 0x08 (a.toNat + 64) 0
  | .rwait nx d a => wRRR nx 0x09 d.toNat a.toNat 0 0
  | .setmode nx f i => wRI nx 0x0A f.toNat i.toNat
  | .setmodev nx a => wRRR nx 0x0B 0 a.toNat 0 0
  | .getmode nx d => wRRR nx 0x0C d.toNat 0 0 0
  | .trap nx c => wI22 nx 0x0D c.toNat
  | .brk nx c => wI22 nx 0x0E c.toNat
  | .yield nx => wI22 nx 0x0F 0
  | .sadd nx d a b => wRRR nx 0x10 d.toNat a.toNat b.toNat 0
  | .ssub nx d a b => wRRR nx 0x11 d.toNat a.toNat b.toNat 0
  | .smul nx d a b => wRRR nx 0x12 d.toNat a.toNat b.toNat 0
  | .smulh nx d a b x => wRRR nx 0x13 d.toNat a.toNat b.toNat x.toNat
  | .sdiv nx d a b x => wRRR nx 0x14 d.toNat a.toNat b.toNat x.toNat
  | .srem nx d a b x => wRRR nx 0x15 d.toNat a.toNat b.toNat x.toNat
  | .sand nx d a b => wRRR nx 0x16 d.toNat a.toNat b.toNat 0
  | .sor nx d a b => wRRR nx 0x17 d.toNat a.toNat b.toNat 0
  | .sxor nx d a b => wRRR nx 0x18 d.toNat a.toNat b.toNat 0
  | .sshl nx d a b => wRRR nx 0x19 d.toNat a.toNat b.toNat 0
  | .sshr nx d a b => wRRR nx 0x1A d.toNat a.toNat b.toNat 0
  | .ssra nx d a b => wRRR nx 0x1B d.toNat a.toNat b.toNat 0
  | .smin nx d a b x => wRRR nx 0x1C d.toNat a.toNat b.toNat x.toNat
  | .smax nx d a b x => wRRR nx 0x1D d.toNat a.toNat b.toNat x.toNat
  | .scmp nx c k a b x => wRRR nx 0x1E (c.toNat * 2 ^ 4 + k.toNat) a.toNat b.toNat x.toNat
  | .ssel nx d a b => wRRR nx 0x1F d.toNat a.toNat b.toNat 0
  | .saddi nx d a i => wRRI nx 0x20 d.toNat a.toNat i.toNat
  | .sli nx d i => wRI nx 0x21 d.toNat i.toNat
  | .slih nx d i => wRI nx 0x22 d.toNat i.toNat
  | .smov nx d a => wRRR nx 0x23 d.toNat a.toNat 0 0
  | .sclz nx d a => wRRR nx 0x24 d.toNat a.toNat 0 0
  | .spopc nx d a => wRRR nx 0x25 d.toNat a.toNat 0 0
  | .srd nx d i => wRI nx 0x26 d.toNat i.toNat
  | .swr nx d i => wRI nx 0x27 d.toNat i.toNat
  | .sld nx d a i => wRRI nx 0x28 d.toNat a.toNat i.toNat
  | .sst nx d a i => wRRI nx 0x29 d.toNat a.toNat i.toNat
  | .saddr nx d a b x => wRRR nx 0x2A d.toNat a.toNat b.toNat x.toNat
  | .ssext nx d a i => wRRI nx 0x2B d.toNat a.toNat i.toNat
  | .sbfx nx d a l w => wRRI nx 0x2C d.toNat a.toNat (l.toNat * 2 ^ 4 + w.toNat)
  | .sbfi nx d a l w => wRRI nx 0x2D d.toNat a.toNat (l.toNat * 2 ^ 4 + w.toNat)
  | .sshli nx d a c => wRRI nx 0x2E d.toNat a.toNat c.toNat
  | .sshri nx d a c => wRRI nx 0x2F d.toNat a.toNat c.toNat
  | .ssrai nx d a c => wRRI nx 0x2F d.toNat a.toNat (c.toNat + 64)
  | .vadd nx d a b x => wRRR nx 0x30 d.toNat a.toNat b.toNat x.toNat
  | .vsub nx d a b x => wRRR nx 0x31 d.toNat a.toNat b.toNat x.toNat
  | .vmul nx d a b x => wRRR nx 0x32 d.toNat a.toNat b.toNat x.toNat
  | .vmad nx d a b x => wRRR nx 0x33 d.toNat a.toNat b.toNat x.toNat
  | .vmsb nx d a b x => wRRR nx 0x34 d.toNat a.toNat b.toNat x.toNat
  | .vmin nx d a b x => wRRR nx 0x35 d.toNat a.toNat b.toNat x.toNat
  | .vmax nx d a b x => wRRR nx 0x36 d.toNat a.toNat b.toNat x.toNat
  | .vabs nx d a => wRRR nx 0x37 d.toNat a.toNat 0 0
  | .vneg nx d a => wRRR nx 0x38 d.toNat a.toNat 0 0
  | .vand nx d a b x => wRRR nx 0x39 d.toNat a.toNat b.toNat x.toNat
  | .vor nx d a b x => wRRR nx 0x3A d.toNat a.toNat b.toNat x.toNat
  | .vxor nx d a b x => wRRR nx 0x3B d.toNat a.toNat b.toNat x.toNat
  | .vnot nx d a => wRRR nx 0x3C d.toNat a.toNat 0 0
  | .vshl nx d a b x => wRRR nx 0x3D d.toNat a.toNat b.toNat x.toNat
  | .vshr nx d a b x => wRRR nx 0x3E d.toNat a.toNat b.toNat x.toNat
  | .vsra nx d a b x => wRRR nx 0x3F d.toNat a.toNat b.toNat x.toNat
  | .vcmp nx c y k a b x => wRRR nx 0x40 (c.toNat * 2 ^ 4 + y.toNat * 2 ^ 3 + k.toNat) a.toNat b.toNat x.toNat
  | .vsel nx d a b x => wRRR nx 0x41 d.toNat a.toNat b.toNat x.toNat
  | .vmovV nx d a => wRRR nx 0x42 d.toNat a.toNat 0 0
  | .vmovS nx d b => wRRR nx 0x42 d.toNat 0 b.toNat 1
  | .vli nx d i => wRI nx 0x43 d.toNat i.toNat
  | .vbcsImm nx d a p => wRRR nx 0x44 d.toNat a.toNat p.toNat 0
  | .vbcsReg nx d a b => wRRR nx 0x44 d.toNat a.toNat b.toNat 1
  | .vdot4 nx d a b x => wRRR nx 0x45 d.toNat a.toNat b.toNat x.toNat
  | .vdot2 nx d a b x => wRRR nx 0x46 d.toNat a.toNat b.toNat x.toNat
  | .vsad nx d a b x => wRRR nx 0x47 d.toNat a.toNat b.toNat x.toNat
  | .vclz nx d a => wRRR nx 0x48 d.toNat a.toNat 0 0
  | .vpopc nx d a => wRRR nx 0x49 d.toNat a.toNat 0 0
  | .vrcp nx d a => wRRR nx 0x4A d.toNat a.toNat 0 0
  | .vrsq nx d a => wRRR nx 0x4B d.toNat a.toNat 0 0
  | .vexp2 nx d a => wRRR nx 0x4C d.toNat a.toNat 0 0
  | .vlog2 nx d a => wRRR nx 0x4D d.toNat a.toNat 0 0
  | .vsin nx d a => wRRR nx 0x4E d.toNat a.toNat 0 0
  | .vcos nx d a => wRRR nx 0x4F d.toNat a.toNat 0 0
  | .vcvt nx d a s t => wRRR nx 0x50 d.toNat a.toNat (s.toNat * 2 ^ 4 + t.toNat) 0
  | .vpack nx d a b x => wRRR nx 0x51 d.toNat a.toNat b.toNat x.toNat
  | .vunpk nx d a => wRRR nx 0x52 d.toNat a.toNat 0 0
  | .vrq nx d a b x => wRRR nx 0x53 d.toNat a.toNat b.toNat x.toNat
  | .vrshr nx d a b x => wRRR nx 0x54 d.toNat a.toNat b.toNat x.toNat
  | .vscl nx d a b x => wRRR nx 0x5F d.toNat a.toNat b.toNat x.toNat
  | .vshfl nx d a b x => wRRR nx 0x55 d.toNat a.toNat b.toNat x.toNat
  | .vshfli nx d a m c => wRRI nx 0x56 d.toNat a.toNat (m.toNat * 2 ^ 5 + c.toNat)
  | .vred nx d a o => wRRR nx 0x57 d.toNat a.toNat o.toNat 0
  | .vscan nx d a e o => wRRR nx 0x58 d.toNat a.toNat (e.toNat * 2 ^ 3 + o.toNat) 0
  | .vprune nx d a b x => wRRR nx 0x59 d.toNat a.toNat b.toNat x.toNat
  | .vspdot nx d a b x => wRRR nx 0x5A d.toNat a.toNat b.toNat x.toNat
  | .vnzc nx d a => wRRR nx 0x5B d.toNat a.toNat 0 0
  | .vnzb nx d a => wRRR nx 0x5C d.toNat a.toNat 0 0
  | .vterm nx d a => wRRR nx 0x5D d.toNat a.toNat 0 0
  | .vlane nx d s => wRRR nx 0x5E d.toNat s.toNat 0 0
  | .kand nx d a b x => wRRR nx 0x60 d.toNat a.toNat b.toNat x.toNat
  | .kor nx d a b x => wRRR nx 0x61 d.toNat a.toNat b.toNat x.toNat
  | .kxor nx d a b x => wRRR nx 0x62 d.toNat a.toNat b.toNat x.toNat
  | .knot nx d a => wRRR nx 0x63 d.toNat a.toNat 0 0
  | .kmov nx d a => wRRR nx 0x64 d.toNat a.toNat 0 0
  | .kany nx d a => wRRR nx 0x65 d.toNat a.toNat 0 0
  | .kall nx d a => wRRR nx 0x66 d.toNat a.toNat 0 0
  | .kcnt nx d a => wRRR nx 0x67 d.toNat a.toNat 0 0
  | .kbits nx d a => wRRR nx 0x67 d.toNat a.toNat 0 1
  | .kfromv nx d a => wRRR nx 0x68 d.toNat a.toNat 0 0
  | .ktov nx d a => wRRR nx 0x69 d.toNat a.toNat 0 0
  | .ld nx d a b => wRRR nx 0x70 d.toNat a.toNat b.toNat 0
  | .st nx d a b => wRRR nx 0x71 d.toNat a.toNat b.toNat 0
  | .ldi nx d a i => wRRI nx 0x72 d.toNat a.toNat i.toNat
  | .sti nx d a i => wRRI nx 0x73 d.toNat a.toNat i.toNat
  | .ldt nx d a b => wRRR nx 0x74 d.toNat a.toNat b.toNat 0
  | .stt nx d a b => wRRR nx 0x75 d.toNat a.toNat b.toNat 0
  | .ldb nx d a b => wRRR nx 0x76 d.toNat a.toNat b.toNat 0
  | .ldw nx d a b => wRRR nx 0x77 d.toNat a.toNat b.toNat 0
  | .stw nx d a b => wRRR nx 0x78 d.toNat a.toNat b.toNat 0
  | .aadd nx d a b => wRRR nx 0x79 d.toNat a.toNat b.toNat 0
  | .amin nx d a b => wRRR nx 0x7A d.toNat a.toNat b.toNat 0
  | .amax nx d a b => wRRR nx 0x7B d.toNat a.toNat b.toNat 0
  | .aand nx d a b => wRRR nx 0x7C d.toNat a.toNat b.toNat 0
  | .aor nx d a b => wRRR nx 0x7D d.toNat a.toNat b.toNat 0
  | .axor nx d a b => wRRR nx 0x7E d.toNat a.toNat b.toNat 0
  | .axch nx d a b => wRRR nx 0x7F d.toNat a.toNat b.toNat 0
  | .acas nx d a b => wRRR nx 0x80 d.toNat a.toNat b.toNat 0
  | .rdadd nx d a b => wRRR nx 0x81 d.toNat a.toNat b.toNat 0
  | .rdmin nx d a b => wRRR nx 0x82 d.toNat a.toNat b.toNat 0
  | .rdmax nx d a b => wRRR nx 0x83 d.toNat a.toNat b.toNat 0
  | .rdand nx d a b => wRRR nx 0x84 d.toNat a.toNat b.toNat 0
  | .rdor nx d a b => wRRR nx 0x85 d.toNat a.toNat b.toNat 0
  | .rdxor nx d a b => wRRR nx 0x86 d.toNat a.toNat b.toNat 0
  | .rdx nx d a b => wRRR nx 0x87 d.toNat a.toNat b.toNat 0
  | .fnc nx d i => wRRI nx 0x88 d.toNat 0 i.toNat
  | .fwait nx a => wRRR nx 0x89 0 a.toNat 0 0
  | .pref nx d a b => wRRR nx 0x8A d.toNat a.toNat b.toNat 0
  | .bara nx a => wRRR nx 0x90 0 a.toNat 0 0
  | .barw nx a => wRRR nx 0x91 0 a.toNat 0 0
  | .baraw nx a => wRRR nx 0x92 0 a.toNat 0 0
  | .barx nx a b => wRRR nx 0x93 0 a.toNat b.toNat 0
  | .bari nx a b => wRRR nx 0x94 0 a.toNat b.toNat 0
  | .qpush nx d a => wRRR nx 0x95 d.toNat a.toNat 0 0
  | .qpop nx d a => wRRR nx 0x96 d.toNat a.toNat 0 0
  | .qpeek nx d a b => wRRR nx 0x97 d.toNat a.toNat b.toNat 0
  | .qcfg nx a b => wRRR nx 0x98 0 a.toNat b.toNat 0
  | .gset nx a => wRRR nx 0x99 0 a.toNat 0 0
  | .gclr nx a => wRRR nx 0x9A 0 a.toNat 0 0
  | .gclrUnres nx a => wRRR nx 0x9A 0 a.toNat 0 1
  | .estart nx a => wRRR nx 0x9B 0 a.toNat 0 0
  | .ejoin nx d => wRRR nx 0x9C d.toNat 0 0 0
  | .launch nx d a => wRRR nx 0x9D d.toNat a.toNat 0 0
  | .sfork nx a b => wRRR nx 0xA0 0 a.toNat b.toNat 0
  | .sreward nx d a => wRRR nx 0xA1 d.toNat a.toNat 0 0
  | .sbar nx => wRRR nx 0xA2 0 0 0 0
  | .scancel nx d a => wRRR nx 0xA3 d.toNat a.toNat 0 0
  | .sginfo nx d => wRRR nx 0xA4 d.toNat 0 0 0
  | .sgabs nx d => wRRR nx 0xA4 d.toNat 0 0 1
  | .sgadv nx a => wRRR nx 0xA5 0 a.toNat 0 0
  | .mxg nx s d g => wRI nx 0xB0 0 (s.toNat * 2 ^ 5 + d.toNat * 2 ^ 3 + g.toNat)
  | .mx nx c s a b v q r => wM nx 0xB1 c.toNat s.toNat a.toNat b.toNat v.toNat q.toNat r.toNat
  | .mxbound nx d a => wRRR nx 0xB2 d.toNat a.toNat 0 0
  | .mxz nx d => wRRR nx 0xB3 d.toNat 0 0 0
  | .acst nx d a b => wRRR nx 0xB4 d.toNat a.toNat b.toNat 0
  | .acld nx d a b => wRRR nx 0xB5 d.toNat a.toNat b.toNat 0
  | .hclaim nx d x => wRRR nx 0xB6 d.toNat 0 0 x.toNat
  | .hrel nx a => wRRR nx 0xB7 0 a.toNat 0 0
  | .cpldSlot nx d a b => wRRR nx 0xB8 d.toNat a.toNat b.toNat 0
  | .cpldSp nx a b => wRRR nx 0xB8 0 a.toNat b.toNat 1
  | .cpst nx a b => wRRR nx 0xB9 0 a.toNat b.toNat 0
  | .cpss nx a b => wRRR nx 0xBA 0 a.toNat b.toNat 0
  | .bseal nx d => wRRR nx 0xBB d.toNat 0 0 0
  | .bsealStatus nx d a => wRRR nx 0xBB d.toNat a.toNat 0 1
  | .bwaitImm nx i => wRI nx 0xBC 0 i.toNat
  | .bwaitReg nx a => wRI nx 0xBC (a.toNat + 64) 0
  | .lease nx d a b => wRRR nx 0xBD d.toNat a.toNat b.toNat 0
  | .lrel nx a => wRRR nx 0xBE 0 a.toNat 0 0
  | .ecmd nx d a b => wRRR nx 0xBF d.toNat a.toNat b.toNat 0
  | .swbind nx a b => wRRR nx 0xC0 0 a.toNat b.toNat 0
  | .swunb nx a => wRRR nx 0xC1 0 a.toNat 0 0
  | .eadd nx d a b => wRRR nx 0xC2 d.toNat a.toNat b.toNat 0
  | .esub nx d a b => wRRR nx 0xC3 d.toNat a.toNat b.toNat 0
  | .eli nx d i => wRI nx 0xC4 d.toNat i.toNat
  | .elih nx d i => wRI nx 0xC5 d.toNat i.toNat
  | .emov nx d a => wRRR nx 0xC6 d.toNat a.toNat 0 0
  | .eshl nx d a c => wRRI nx 0xC7 d.toNat a.toNat c.toNat
  | .eshr nx d a c => wRRI nx 0xC7 d.toNat a.toNat (c.toNat + 64)
  | .xjz nx d i => wRI nx 0xC8 d.toNat i.toNat
  | .xjnz nx d i => wRI nx 0xC9 d.toNat i.toNat
  | .efroms nx d i => wRI nx 0xCA d.toNat i.toNat
  | .csrr nx d i => wRI nx 0xE0 d.toNat i.toNat
  | .csrw nx d i => wRI nx 0xE1 d.toNat i.toNat
  | .cntr nx d i => wRI nx 0xE2 d.toNat i.toNat
  | .clk nx d i => wRI nx 0xE3 d.toNat i.toNat
  | .seed nx a => wRRR nx 0xE4 0 a.toNat 0 0
  | _ => []

/-- The words that w holds, lowest 32 bits first, as many as the longest instruction has: an XBTAB word and 256 target
words (R155, R182). -/
def wordsOf : Nat → Nat → List Word
  | 0, _ => []
  | k + 1, w => BitVec.ofNat 32 w :: wordsOf k (w / 2 ^ 32)

/-- The instruction that the decoder reads from an instruction whose bits are w, every bit above nbits being 0. -/
def decodeTableWord (nbits w : Nat) : Option Instr :=
  match wordsOf 257 (w % 2 ^ nbits) with
  | [] => none
  | w0 :: rest =>
    match decode w0 rest with
    | .ok i => some i
    | .error _ => none

end Sys2Proof
end

