-- ==== Sys2Proof/Config.lean ====
section
/-! DEFINITION. What one package fixes and the manual leaves open: constants without a body, so that nothing can
evaluate them. -/
namespace Sys2Proof.Config

/-- Undefined contents: the value at key `key` of the storage whose undefined contents were numbered `tag`
(R18, R80, R85, R147, R277, R291, R298; log 3). A free value: nothing constrains it. -/
opaque freeBits (w tag key : Nat) : BitVec w

/-- The F32 results of R228 that the manual bounds and does not state: opcode, input bits, MODE (log 7). Used only
where it lies within the bound of R228. -/
opaque approxF32 (op : Nat) (a : BitVec 32) (mode : BitVec 32) : BitVec 32

/-- DEVID.LMOD and DEVID.STEP of the package (R210): fixed by the part (log 4). -/
opaque lmod : Bool
opaque step : BitVec 4

/-- The digest, signature and key-derivation functions of R400–R410, which the manual takes from other standards
(log 4): a byte string to a byte string. -/
opaque sha384 : List (BitVec 8) → List (BitVec 8)
opaque edVerify (pub msg sig : List (BitVec 8)) : Bool
opaque mlVerify (pub msg sig : List (BitVec 8)) : Bool
opaque hmacSha384 (key msg : List (BitVec 8)) : List (BitVec 8)
opaque edSign (seed msg : List (BitVec 8)) : List (BitVec 8)
opaque mlSign (seed msg : List (BitVec 8)) : List (BitVec 8)

/-- Nominal voltages of the rails in mV (R412). -/
opaque railNominal : Nat → Nat

/-- AES-256-XTS of one stored unit under the two keys of a slot, and its inverse (R373; log 8). -/
opaque xtsEnc (keys : List (BitVec 64)) (tweak : Nat) (x : BitVec 256) : BitVec 256
opaque xtsDec (keys : List (BitVec 64)) (tweak : Nat) (x : BitVec 256) : BitVec 256

end Sys2Proof.Config
end

