-- ==== Sys2Proof/Machine/Numbers.lean ====
section
/-! DEFINITION. Number formats, conversion and rounding (chapter 04 and R173–R175). An exact real is a dyadic number;
a real that is not dyadic stands for its truncation with one sticky bit far below every quantum it is rounded to. -/
namespace Sys2Proof.Machine

/-- The exact number m × 2^e. -/
structure Dy where
  m : Int
  e : Int
  deriving DecidableEq, Repr

/-- 2^n as an integer, 1 for a negative n. -/
def pow2 (n : Int) : Int := 2 ^ n.toNat

/-- The mantissa of d at the exponent e, exact when e ≤ d.e. -/
def Dy.at (d : Dy) (e : Int) : Int := d.m * pow2 (d.e - e)

def Dy.add (a b : Dy) : Dy := let e := min a.e b.e; ⟨a.at e + b.at e, e⟩
def Dy.neg (a : Dy) : Dy := ⟨-a.m, a.e⟩
def Dy.mul (a b : Dy) : Dy := ⟨a.m * b.m, a.e + b.e⟩
def Dy.abs (a : Dy) : Dy := ⟨a.m.natAbs, a.e⟩
def Dy.lt (a b : Dy) : Bool := let e := min a.e b.e; a.at e < b.at e
def Dy.le (a b : Dy) : Bool := !Dy.lt b a
def Dy.eq (a b : Dy) : Bool := let e := min a.e b.e; a.at e = b.at e
def Dy.ofInt (i : Int) : Dy := ⟨i, 0⟩

/-- floor(log2 |d|) of a nonzero d. -/
def Dy.log2 (d : Dy) : Int := (Nat.log2 d.m.natAbs : Int) + d.e

/-- floor(d / 2^k). -/
def Dy.floorAt (d : Dy) (k : Int) : Int := if k ≤ d.e then d.at k else d.m / pow2 (k - d.e)

/-- num / den to 96 or more bits, with a sticky bit when the quotient is not that short. -/
def Dy.ofRat (num : Int) (den : Nat) : Dy :=
  let k : Nat := 96 + Nat.log2 den
  let n : Int := num * ((2 ^ k : Nat) : Int)
  let q : Int := n / (den : Int)
  if n = q * (den : Int) then ⟨q, -(k : Int)⟩ else ⟨2 * q + 1, -(k : Int) - 1⟩

def Dy.div (a b : Dy) : Dy :=
  let q := Dy.ofRat (if b.m < 0 then -a.m else a.m) b.m.natAbs
  ⟨q.m, q.e + a.e - b.e⟩

/-- floor(sqrt n) for n < 4^fuel. -/
def isqrt : Nat → Nat → Nat
  | 0, _ => 0
  | f + 1, n => let r := 2 * isqrt f (n / 4); if (r + 1) * (r + 1) ≤ n then r + 1 else r

/-- The square root of a positive d to 96 or more bits, with a sticky bit. -/
def Dy.sqrt (d : Dy) : Dy :=
  let sh : Nat := 192 + (if d.e % 2 = 0 then 0 else 1)
  let n := d.m.natAbs * 2 ^ sh
  let r := isqrt (Nat.log2 n / 2 + 1) n
  let e := (d.e - (sh : Int)) / 2
  if r * r = n then ⟨r, e⟩ else ⟨2 * r + 1, e - 1⟩

/-- A floating or Q format (R92, R94): sign bit, exponent bits, mantissa bits, bias, SPEC, NEGZ, BSCL, OVSAT. -/
structure Fmt where
  sgn : Bool
  E : Nat
  M : Nat
  bias : Int
  spec : Nat
  negz : Bool
  bscl : Nat
  ovsat : Bool
  deriving DecidableEq, Repr

/-- The IEEE formats of R92. -/
def fmtF16 : Fmt := ⟨true, 5, 10, 15, 2, true, 0, false⟩
def fmtB16 : Fmt := ⟨true, 8, 7, 127, 2, true, 0, false⟩
def fmtF32 : Fmt := ⟨true, 8, 23, 127, 2, true, 0, false⟩
def fmtF64 : Fmt := ⟨true, 11, 52, 1023, 2, true, 0, false⟩

/-- An element format: S or N of w bits (R91), or a floating or Q format. -/
inductive EFmt where
  | int (signed : Bool) (w : Nat)
  | flt (f : Fmt)
  deriving DecidableEq, Repr

/-- Code width W = S + E + M (R95). -/
def Fmt.width (f : Fmt) : Nat := f.sgn.toNat + f.E + f.M

/-- The class width of R95. -/
def Fmt.classWidth (f : Fmt) : Nat := if f.width ≤ 4 then 4 else 8

/-- The fields of a format register (R94). -/
def fmtOfReg (r : BitVec 32) : Fmt :=
  let n := r.toNat
  let b : Nat := n / 2 ^ 7 % 256
  { sgn := n % 2 = 1, E := n / 2 % 8, M := n / 16 % 8, bias := if b < 128 then (b : Int) else (b : Int) - 256,
    spec := n / 2 ^ 15 % 4, negz := n / 2 ^ 17 % 2 = 1, bscl := n / 2 ^ 18 % 4, ovsat := n / 2 ^ 20 % 2 = 1 }

/-- Validity of a format register's value; the value 0 is no format (R94, R95). -/
def fmtValid (r : BitVec 32) : Bool :=
  let f := fmtOfReg r
  r ≠ 0 && f.width ≤ 8 && 1 ≤ f.E + f.M && f.spec ≠ 3 && f.bscl ≤ 1 && (!f.negz || f.sgn) &&
    (f.spec ≠ 2 || (2 ≤ f.E && 1 ≤ f.M && (!f.sgn || f.negz))) && r.toNat / 2 ^ 21 = 0

/-- SignExt and ZeroExt (R100). -/
def signExt (v n : Nat) : Int :=
  let p : Nat := 2 ^ n
  let x : Nat := v % p
  if n = 0 then 0 else if 2 * x < p then (x : Int) else (x : Int) - (p : Int)

/-- The range of an integer format (R91). -/
def intMin (signed : Bool) (w : Nat) : Int := if signed then -(2 ^ (w - 1) : Int) else 0
def intMax (signed : Bool) (w : Nat) : Int := if signed then 2 ^ (w - 1) - 1 else 2 ^ w - 1

/-- Sat (R100). -/
def satInt (signed : Bool) (w : Nat) (x : Int) : Int := max (intMin signed w) (min x (intMax signed w))

/-- x mod 2^w as a natural number. -/
def wrapNat (w : Nat) (x : Int) : Nat := (x % (2 ^ w : Int)).toNat

inductive Kind where
  | number
  | zero
  | infinity
  | nan
  deriving DecidableEq, Repr

/-- The record of Decode (R173). -/
structure Dec where
  kind : Kind
  s : Bool
  sig : Nat
  ex : Int
  deriving DecidableEq, Repr

/-- Decode of a floating or Q code (R173). -/
def decodeFlt (c : Nat) (F : Fmt) : Dec :=
  let s := F.sgn && c / 2 ^ (F.E + F.M) % 2 = 1
  let e := c / 2 ^ F.M % 2 ^ F.E
  let f := c % 2 ^ F.M
  let top := e = 2 ^ F.E - 1
  if F.spec = 1 ∧ top ∧ f = 2 ^ F.M - 1 then ⟨.nan, false, 0, 0⟩
  else if F.spec = 2 ∧ top then (if f = 0 then ⟨.infinity, s, 0, 0⟩ else ⟨.nan, false, 0, 0⟩)
  else if e = 0 ∧ f = 0 then
    if s = false ∨ F.negz then ⟨.zero, s, 0, 0⟩
    else if F.spec = 1 then ⟨.nan, false, 0, 0⟩
    else ⟨.number, true, 1, 2 ^ F.E - F.bias⟩
  else if e = 0 then ⟨.number, s, f, 1 - F.bias - F.M⟩
  else ⟨.number, s, 2 ^ F.M + f, e - F.bias - F.M⟩

/-- Decode (R173). -/
def decodeE (c : Nat) : EFmt → Dec
  | .int signed w =>
    let x : Int := if signed then signExt c w else (c % 2 ^ w : Nat)
    ⟨if x = 0 then .zero else .number, x < 0, x.natAbs, 0⟩
  | .flt F => decodeFlt c F

/-- A value: NaN, an infinity or a zero of a sign, or a nonzero number. -/
inductive Val where
  | nan
  | inf (neg : Bool)
  | zero (neg : Bool)
  | num (d : Dy)
  deriving DecidableEq, Repr

/-- The value that a Decode record means (R173). -/
def Dec.val (r : Dec) : Val :=
  match r.kind with
  | .nan => .nan
  | .infinity => .inf r.s
  | .zero => .zero r.s
  | .number => .num ⟨if r.s then -(r.sig : Int) else r.sig, r.ex⟩

/-- A number as a value; the zero takes the sign given. -/
def Val.ofDy (d : Dy) (negZero : Bool := false) : Val := if d.m = 0 then .zero negZero else .num d

def Val.neg : Val → Val
  | .nan => .nan
  | .inf s => .inf !s
  | .zero s => .zero !s
  | .num d => .num d.neg

def Val.isNeg : Val → Bool
  | .nan => false
  | .inf s => s
  | .zero s => s
  | .num d => d.m < 0

/-- The exact value of a finite value. -/
def Val.dy : Val → Dy
  | .num d => d
  | _ => ⟨0, 0⟩

/-- The extra value of R97 exists. -/
def Fmt.hasExtra (F : Fmt) : Bool := F.sgn && !F.negz && F.spec = 0

/-- maxpos (R98): the largest value of a code that is neither NaN nor infinity. -/
def Fmt.maxpos (F : Fmt) : Dy :=
  let top := 2 ^ F.E - 1
  let e := if F.spec = 2 then top - 1 else if F.spec = 1 ∧ F.M = 0 then top - 1 else top
  let f := if F.spec = 1 ∧ F.M ≠ 0 then 2 ^ F.M - 2 else 2 ^ F.M - 1
  if e = 0 then ⟨f, 1 - F.bias - F.M⟩ else ⟨2 ^ F.M + f, e - F.bias - F.M⟩

/-- maxneg (R98), as a magnitude. -/
def Fmt.maxneg (F : Fmt) : Dy :=
  if !F.sgn then ⟨0, 0⟩ else if F.hasExtra then ⟨1, 2 ^ F.E - F.bias⟩ else F.maxpos

/-- The rounding modes of R102; SR carries its bit count and its bits. -/
inductive Rnd where
  | rne
  | rtz
  | rdn
  | rup
  | sr (n r : Nat)
  deriving DecidableEq, Repr

/-- The multiple of 2^k that R102 chooses for d, in units of 2^k. -/
def roundAt (d : Dy) (k : Int) (mode : Rnd) : Int :=
  let lo := d.floorAt k
  if k ≤ d.e then lo
  else
    let den := pow2 (k - d.e)
    let rem := d.m - lo * den
    if rem = 0 then lo
    else match mode with
      | .rtz => if 0 < d.m then lo else lo + 1
      | .rdn => lo
      | .rup => lo + 1
      | .rne => if 2 * rem < den then lo else if den < 2 * rem then lo + 1 else if lo % 2 = 0 then lo else lo + 1
      | .sr n r => if rem * 2 ^ n / den + r ≥ 2 ^ n then lo + 1 else lo

/-- max of R103: maxpos, or −maxneg for a negative source. Where no code but zeros is a number, it is a zero of the
source's sign. -/
def maxVal (neg : Bool) (F : Fmt) : Val :=
  let m := if neg then F.maxneg else F.maxpos
  if m.m = 0 then .zero neg else .num (if neg then m.neg else m)

/-- Overflow (R103), with the rule for targets without a sign bit. -/
def overflowVal (neg : Bool) (F : Fmt) (mode : Rnd) : Val :=
  if neg ∧ !F.sgn then .zero false
  else
    let mx := maxVal neg F
    if F.spec = 2 ∧ !F.ovsat then
      match mode with
      | .rtz => mx
      | .rdn => if neg then .inf true else mx
      | .rup => if neg then mx else .inf false
      | _ => .inf neg
    else mx

/-- Round of a nonzero number to a floating or Q format (R102, R103). -/
def roundFlt (d : Dy) (F : Fmt) (mode : Rnd) : Val :=
  let k := max d.log2 (1 - F.bias) - F.M
  let y : Dy := ⟨roundAt d k mode, k⟩
  if y.m = 0 then .zero (decide (d.m < 0) && F.negz)
  else if Dy.lt F.maxpos y ∨ Dy.lt y F.maxneg.neg then overflowVal (d.m < 0) F mode
  else .num y

/-- Round of a number to an integer format (R102); it saturates. -/
def roundInt (d : Dy) (signed : Bool) (w : Nat) (mode : Rnd) : Int := satInt signed w (roundAt d 0 mode)

/-- The canonical NaN code of a format (R92, R97). -/
def Fmt.nanCode (F : Fmt) : Nat :=
  if F.spec = 2 then (2 ^ F.E - 1) * 2 ^ F.M + 2 ^ (F.M - 1) else 2 ^ (F.E + F.M) - 1

/-- Encode of a value that the format holds (R174). -/
def encodeFlt (v : Val) (F : Fmt) : Nat :=
  let sbit := fun (neg : Bool) => if neg && F.sgn then 2 ^ (F.E + F.M) else 0
  match v with
  | .nan => F.nanCode
  | .inf neg => sbit neg + (2 ^ F.E - 1) * 2 ^ F.M
  | .zero neg => if F.negz then sbit neg else 0
  | .num d =>
    if F.hasExtra && Dy.eq d ⟨-1, 2 ^ F.E - F.bias⟩ then 2 ^ (F.E + F.M)
    else
      let s := sbit (d.m < 0)
      let a := d.abs
      if 1 ≤ F.E ∧ 1 - F.bias ≤ a.log2 then
        let e := a.log2 + F.bias
        s + e.toNat * 2 ^ F.M + ((a.floorAt (e - F.bias - F.M)).toNat - 2 ^ F.M)
      else s + (a.floorAt (1 - F.bias - F.M)).toNat

/-- A subnormal value of a format with E ≥ 1 (R99); the extra value is none. -/
def Fmt.isSub (F : Fmt) : Val → Bool
  | .num d => 1 ≤ F.E && d.log2 < 1 - F.bias
  | _ => false

/-- The flush of R99 of an input or a result. -/
def flushVal (ftz : Bool) (F : Fmt) (v : Val) : Val :=
  if ftz && F.isSub v then .zero (v.isNeg && F.negz) else v

/-- Round with the flush of R99 of the result; a zero keeps its sign. -/
def roundVal (ftz : Bool) (v : Val) (F : Fmt) (mode : Rnd) : Val :=
  match v with
  | .num d => flushVal ftz F (roundFlt d F mode)
  | v => v

/-- Conversion of any value into a format: R104 for special sources, Round for the rest, then Encode. -/
def convert (ftz : Bool) (v : Val) (mode : Rnd) : EFmt → Nat
  | .int signed w =>
    match v with
    | .nan => 0
    | .inf neg => wrapNat w (if neg then intMin signed w else intMax signed w)
    | .zero _ => 0
    | .num d => wrapNat w (roundInt d signed w mode)
  | .flt F =>
    match v with
    | .nan => if F.spec = 0 then 0 else F.nanCode
    | .inf neg =>
      if F.spec = 2 ∧ !F.ovsat then (if neg && !F.sgn then 0 else encodeFlt (.inf neg) F)
      else if neg && !F.sgn then 0 else encodeFlt (maxVal neg F) F
    | .zero neg => encodeFlt (.zero neg) F
    | .num d => encodeFlt (roundVal ftz (.num d) F mode) F

/-- A product (R219). The sign of a zero product is the xor of its operands' signs in every rounding mode: R218's rule for zeros from mixed-sign operands
can be read to cover it (DESIGN CHOICE, log 89). -/
def Val.mul : Val → Val → Val
  | .nan, _ => .nan
  | _, .nan => .nan
  | .inf _, .zero _ => .nan
  | .zero _, .inf _ => .nan
  | .inf s, b => .inf (s != b.isNeg)
  | a, .inf s => .inf (a.isNeg != s)
  | .num a, .num b => .num (a.mul b)
  | a, b => .zero (a.isNeg != b.isNeg)

/-- The exact sum of a list of addends, with the specials of R219 and the zero rule of R218. -/
def sumVals (xs : List Val) (rdn : Bool) : Val :=
  if xs.any (· = .nan) then .nan
  else if xs.any (· = .inf true) ∧ xs.any (· = .inf false) then .nan
  else if xs.any (· = .inf true) then .inf true
  else if xs.any (· = .inf false) then .inf false
  else
    let d := xs.foldl (fun acc x => acc.add x.dy) ⟨0, 0⟩
    if d.m ≠ 0 then .num d
    else if xs.all (· = .zero true) ∧ xs ≠ [] then .zero true
    else if xs.all (· = .zero false) then .zero false
    else .zero rdn

/-- Division (R229's rows for VRCP carried over; used by R153, R305, R308). -/
def Val.div : Val → Val → Val
  | .nan, _ => .nan
  | _, .nan => .nan
  | .inf _, .inf _ => .nan
  | .zero _, .zero _ => .nan
  | .inf s, b => .inf (s != b.isNeg)
  | a, .inf s => .zero (a.isNeg != s)
  | .zero s, b => .zero (s != b.isNeg)
  | a, .zero s => .inf (a.isNeg != s)
  | .num a, .num b => .num (a.div b)

/-- Order of values, none with a NaN; −0 equals +0 (R221). -/
def Val.cmp (a b : Val) : Option Ordering :=
  match a, b with
  | .nan, _ => none
  | _, .nan => none
  | .inf s, .inf t => some (if s = t then .eq else if s then .lt else .gt)
  | .inf s, _ => some (if s then .lt else .gt)
  | _, .inf t => some (if t then .gt else .lt)
  | a, b => some (if Dy.lt a.dy b.dy then .lt else if Dy.lt b.dy a.dy then .gt else .eq)

/-- a below b in the order of VMIN and VMAX, −0 below +0 (R220); for values that are not NaN. -/
def Val.below (a b : Val) : Bool :=
  match a.cmp b with
  | some .lt => true
  | some .eq => a.isNeg && !b.isNeg
  | _ => false

/-- min and max of R220: with one NaN the other operand, with two NaN. -/
def Val.min (a b : Val) : Val := if a = .nan then b else if b = .nan then a else if b.below a then b else a
def Val.max (a b : Val) : Val := if a = .nan then b else if b = .nan then a else if a.below b then b else a

/-- The number of terms of Naf(x), x ≥ 0 (R101); the fuel is the number of bits and two more. -/
def nafTerms : Nat → Nat → List (Bool × Nat)
  | 0, _ => []
  | fuel + 1, x =>
    if x = 0 then []
    else if x % 2 = 1 then
      let neg := x % 4 = 3
      let x' := if neg then x + 1 else x - 1
      (decide neg, 0) :: (nafTerms fuel (x' / 2)).map (fun t => (t.1, t.2 + 1))
    else (nafTerms fuel (x / 2)).map (fun t => (t.1, t.2 + 1))

/-- The terms (negative, position) of a natural number below 2^64 (R101). -/
def naf (x : Nat) : List (Bool × Nat) := nafTerms 66 x

/-- Terms a lane spends on a decoded activation (R65). -/
def Dec.terms (r : Dec) : Nat :=
  match r.kind with
  | .zero => 0
  | .infinity => 1
  | .nan => 1
  | .number => (naf r.sig).length

/-- E8 scales (R108, R173): none is NaN. -/
def e8 (c : Nat) : Option Int := if c % 256 = 255 then none else some ((c % 256 : Nat) - 127)

/-! Elementary functions in fixed point with 240 fraction bits; each result is within 2^-200 of the exact one. -/

/-- 1.0 in fixed point. -/
def fxOne : Int := 2 ^ 240

def fxMul (a b : Int) : Int := a * b / fxOne

/-- Σ x^k / k! from the term t = x^n / n! on. -/
def expSeries : Nat → Int → Int → Int → Int
  | 0, _, _, acc => acc
  | f + 1, n, x, t => t + expSeries f (n + 1) x (fxMul t x / (n + 1))

/-- 2 Σ z^(2k+1) / (2k+1): ln of (1 + z) / (1 − z), with zz = z². -/
def atanhSeries : Nat → Int → Int → Int → Int
  | 0, _, _, _ => 0
  | f + 1, n, zz, p => 2 * p / n + atanhSeries f (n + 2) zz (fxMul p zz)

/-- ln 2, from (1 + 1/3) / (1 − 1/3) = 2. -/
def fxLn2 : Int := atanhSeries 80 1 (fxOne / 9) (fxOne / 3)

/-- e^x for x in [0, 1). -/
def fxExp (x : Int) : Int := expSeries 70 0 x fxOne

/-- Σ ± x^(2k+1) / (2k+1)!, the sine, from the term t of order n. -/
def sinSeries : Nat → Int → Int → Int → Int
  | 0, _, _, _ => 0
  | f + 1, n, xx, t => t + sinSeries f (n + 2) xx (-(fxMul t xx) / ((n + 1) * (n + 2)))

/-- Σ ± z^(2k+1) / (2k+1), the arc tangent. -/
def atanSeries : Nat → Int → Int → Int → Int
  | 0, _, _, _ => 0
  | f + 1, n, zz, p => p / n + atanSeries f (n + 2) zz (-(fxMul p zz))

/-- π by Machin's formula. -/
def fxPi : Int :=
  4 * (4 * atanSeries 60 1 (fxOne / 25) (fxOne / 5) - atanSeries 30 1 (fxOne / (239 * 239)) (fxOne / 239))

/-- A fixed-point result as a number whose last bit is sticky. -/
def fxDy (x : Int) : Dy := ⟨2 * (x / 2 ^ 60) + 1, -181⟩

/-- d as fixed point, truncated. -/
def Dy.fx (d : Dy) : Int := d.floorAt (-240)

/-- 2^d for |d| < 2^20. -/
def exp2Dy (d : Dy) : Dy :=
  let n := d.floorAt 0
  let f := d.fx - n * fxOne
  if f = 0 ∧ d.add (Dy.ofInt (-n)) = ⟨0, (d.add (Dy.ofInt (-n))).e⟩ then ⟨1, n⟩
  else let r := fxDy (fxExp (fxMul f fxLn2)); ⟨r.m, r.e + n⟩

/-- e^d for |d| < 2^20. -/
def expDy (d : Dy) : Dy :=
  if d.m = 0 then ⟨1, 0⟩
  else
    let n := d.fx / fxLn2
    let r := fxDy (fxExp (d.fx - n * fxLn2))
    ⟨r.m, r.e + n⟩

/-- ln of a positive d. -/
def lnFx (d : Dy) : Int :=
  let n := d.log2
  let m := Dy.fx ⟨d.m, d.e - n⟩
  let z := (m - fxOne) * fxOne / (m + fxOne)
  n * fxLn2 + atanhSeries 80 1 (fxMul z z) z

def lnDy (d : Dy) : Dy := if Dy.eq d ⟨1, 0⟩ then ⟨0, 0⟩ else fxDy (lnFx d)

/-- log2 of a positive d; exact for a power of two. -/
def log2Dy (d : Dy) : Dy :=
  if Dy.eq d ⟨1, d.log2⟩ then ⟨d.log2, 0⟩ else fxDy (lnFx d * fxOne / fxLn2)

/-- sin(π d), exact at multiples of one half. -/
def sinPiDy (d : Dy) : Dy :=
  let h := d.floorAt (-1)
  let q := h % 4
  if Dy.eq d ⟨h, -1⟩ then ⟨if q = 1 then 1 else if q = 3 then -1 else 0, 0⟩
  else
    let f := d.fx - h * (fxOne / 2)
    let g := if q = 0 ∨ q = 2 then f else fxOne / 2 - f
    let x := fxMul g fxPi
    let r := sinSeries 50 1 (fxMul x x) x
    fxDy (if q ≤ 1 then r else -r)

def cosPiDy (d : Dy) : Dy := sinPiDy (d.add ⟨1, -1⟩)

end Sys2Proof.Machine
end

