-- ==== Sys2Proof/Machine/State.lean ====
section
/-! DEFINITION. The state of one Zilmas Z7 package as plain data, and the state after reset. -/
namespace Sys2Proof.Machine

/-! ## Storage -/

/-- Storage with an address or number per cell: cells with strictly rising keys. An unlisted key reads as zero, or,
where it lies in a zone (lo, hi, t) of undefined contents numbered t, as the free value `zoneWord w t key` of the
first such zone. -/
structure Store (w : Nat) where
  cells : List (Nat × BitVec w)
  zones : List (Nat × Nat × Nat)
  deriving DecidableEq, Repr

/-- The number of the undefined contents that hold key k. -/
def zoneTag : List (Nat × Nat × Nat) → Nat → Option Nat
  | [], _ => none
  | (lo, hi, t) :: r, k => if lo ≤ k ∧ k < hi then some t else zoneTag r k

/-- What key k holds in undefined contents numbered t. The number t + 2^64 × h stands for contents that are counters of 16 bits, halved
h times since (R369). -/
def zoneWord (w t k : Nat) : BitVec w :=
  if t < 2 ^ 64 then Config.freeBits w t k
  else
    let n := (Config.freeBits 8 (t % 2 ^ 64) (k / 2 * 2)).toNat + 256 * (Config.freeBits 8 (t % 2 ^ 64) (k / 2 * 2 + 1)).toNat
    BitVec.ofNat w (n / 2 ^ (t / 2 ^ 64) / 2 ^ (8 * (k % 2)))

/-- What an unlisted key reads as. -/
def Store.dflt {w : Nat} (s : Store w) (k : Nat) : BitVec w :=
  match zoneTag s.zones k with
  | none => 0
  | some t => zoneWord w t k

def cellGet {w : Nat} : List (Nat × BitVec w) → Nat → Option (BitVec w)
  | [], _ => none
  | (k', v) :: r, k => if k = k' then some v else cellGet r k

/-- Insert, replacing; keys stay strictly rising. -/
def cellPut {w : Nat} (k : Nat) (v : BitVec w) : List (Nat × BitVec w) → List (Nat × BitVec w)
  | [] => [(k, v)]
  | (k', v') :: r => if k = k' then (k, v) :: r else if k < k' then (k, v) :: (k', v') :: r else (k', v') :: cellPut k v r

def cellDel {w : Nat} (k : Nat) : List (Nat × BitVec w) → List (Nat × BitVec w)
  | [] => []
  | (k', v') :: r => if k = k' then cellDel k r else (k', v') :: cellDel k r

def Store.get {w : Nat} (s : Store w) (k : Nat) : BitVec w := (cellGet s.cells k).getD (s.dflt k)

/-- A write; the zero is not listed where an unlisted key reads as zero. -/
def Store.put {w : Nat} (s : Store w) (k : Nat) (v : BitVec w) : Store w :=
  if v = 0 ∧ zoneTag s.zones k = none then { s with cells := cellDel k s.cells } else { s with cells := cellPut k v s.cells }

/-- Storage that reads as zero everywhere. -/
def Store.empty (w : Nat) : Store w := ⟨[], []⟩

/-- Storage of n cells whose contents are undefined and numbered t. -/
def Store.undef (w n t : Nat) : Store w := ⟨[], [(0, n, t)]⟩

/-- The contents of the keys from lo on and below hi become undefined, numbered t. -/
def Store.spoil {w : Nat} (s : Store w) (lo hi t : Nat) : Store w :=
  ⟨s.cells.filter (fun c => !(lo ≤ c.1 && c.1 < hi)), (lo, hi, t) :: s.zones.filter (fun z => !(lo ≤ z.1 && z.2.1 ≤ hi))⟩

/-- The unlisted counters of 16 bits from the key lo on and below hi, halved. -/
def Store.halve {w : Nat} (s : Store w) (lo hi : Nat) : Store w :=
  { s with zones := s.zones.flatMap (fun z =>
      if z.2.1 ≤ lo ∨ hi ≤ z.1 then [z]
      else [(z.1, max z.1 lo, z.2.2), (max z.1 lo, min z.2.1 hi, z.2.2 + 2 ^ 64), (min z.2.1 hi, z.2.1, z.2.2)]) }

/-- Keys strictly rising, all at least `lo`. -/
def cellsRise {w : Nat} : Nat → List (Nat × BitVec w) → Bool
  | _, [] => true
  | lo, (k, _) :: r => lo ≤ k && cellsRise (k + 1) r

/-- The canonical form: keys strictly rising, and no zero where an unlisted key reads as zero. -/
def Store.wf {w : Nat} (s : Store w) : Bool :=
  cellsRise 0 s.cells && s.cells.all (fun c => (zoneTag s.zones c.1).isSome || c.2 ≠ 0)

/-- Entries by number: the entry, put in order, taken out. -/
def aget {α : Type} : List (Nat × α) → Nat → Option α
  | [], _ => none
  | (k', v) :: r, k => if k = k' then some v else aget r k

def aput {α : Type} (k : Nat) (v : α) : List (Nat × α) → List (Nat × α)
  | [] => [(k, v)]
  | (k', v') :: r => if k = k' then (k, v) :: r else if k < k' then (k, v) :: (k', v') :: r else (k', v') :: aput k v r

def adel {α : Type} (k : Nat) : List (Nat × α) → List (Nat × α)
  | [] => []
  | (k', v') :: r => if k = k' then adel k r else (k', v') :: adel k r

/-! ## Names and records -/

/-- An issuer: gang by its serial, crew by %crew, group by %group, or the crew's engine stream (R12). -/
structure Who where
  gang : Nat
  crew : Nat
  grp : Nat
  stream : Bool
  deriving DecidableEq, Repr

/-- One item of an issuer's batch (R276). -/
structure ItemRef where
  who : Who
  batch : Nat
  ix : Nat
  deriving DecidableEq, Repr

/-- A thread's name: origin group, original %lane and %sib (R46). -/
structure Thread where
  origin : Nat
  lane : Nat
  sib : Option Nat
  deriving DecidableEq, Repr

/-- Fault causes with the codes of R357. -/
inductive Cause where
  | illegalOp
  | illegalContext
  | xferUnarmed
  | nonuniform
  | btabRange
  | handleStale
  | accBusy
  | slotExhausted
  | metaMalformed
  | mergeOrder
  | spawnFull
  | sgFull
  | queueCfg
  | barCfg
  | termFormat
  | page
  | prot
  | align
  | compressGrow
  | eccUncorr
  | residue
  | watchdog
  | dieLost
  | linkDown
  | trap
  | brk
  | badPacket
  | chunkCorrupt
  | badDesc
  | stale
  deriving DecidableEq, Repr

/-- Item status codes (R279). -/
inductive Status where
  | ok
  | evicted
  | stale
  | prot
  | align
  | eccUncorr
  | termFormat
  | slotExhausted
  | metaMalformed
  | mergeOrder
  | chunkCorrupt
  | linkDown
  | dieLost
  | residue
  | badDesc
  deriving DecidableEq, Repr

/-- An armed transfer (R39): a call or not, and the target of each lane that is armed as taken. -/
structure Armed where
  call : Bool
  tgts : List (Nat × BitVec 64)
  deriving DecidableEq, Repr

/-- What a failing check reports (R357): cause, SRC, lane position or 0xFF, ADDR, WRITE, DETAIL. -/
structure Fx where
  cause : Cause
  src : Nat
  lane : Nat
  addr : Nat
  write : Bool
  detail : Nat
  deriving DecidableEq, Repr

/-- What holds a split or stream in an instruction (R38): nothing, a wait of the instruction at its
pc, a barrier with the phase whose end it waits for (R262), an RWAIT with its destination, its NX and the arithmetic cycles it has left (R44),
a PAGE fault with its replay identity and what it reported, a LAUNCH whose packets are not all accepted, with the number its packets carry and
the lane positions still to submit, or a sample-group operation that its table refused, with its number (R58). -/
inductive Hold where
  | none
  | wait
  | bar (n phase : Nat)
  | rwait (d : Nat) (nx : NX) (left : Nat)
  | page (rid : Nat) (f : Fx)
  | launch (no : Nat) (left : List Nat)
  | sent (no : Nat)
  deriving DecidableEq, Repr

/-- What a pending fence covers (R125, R126): whether it drains (B), its items, by batch and index, and the accesses of its group that had issued
and not performed, by the stamps of their captures. -/
structure Fence where
  drains : Bool
  items : List (Nat × Nat)
  held : List Nat
  deriving DecidableEq, Repr

/-- A token (R279, R302): pending or complete with a value; for a lease also the request's serial, its cluster and
whether an LREL has issued on it; for a pending fence what it covers. -/
structure Tok where
  pending : Bool
  val : BitVec 64
  lease : Option (Nat × Nat)
  released : Bool
  fence : Option Fence
  deriving DecidableEq, Repr

/-- What an item does, with every operand it captured at issue (R276, R282, R287, R288, R296–R301, R304). -/
inductive ItemOp where
  | mx (acc : Nat) (desc : BitVec 64) (slotA slotB : Nat) (v : Nat) (lgG depth : Nat) (sat : Bool) (afr bfr : BitVec 32)
      (ha hb : BitVec 17)
  | acst (addr ctl : BitVec 64) (tile : Store 32) (poison bad : Bool)
  | acld (acc : Nat) (addr ctl : BitVec 64)
  | cpld (slot : Option Nat) (h : BitVec 17) (recd org ctl : BitVec 64) (f : Store 32)
  | cpst (recd org ctl : BitVec 64) (f : Store 32)
  | cpss (src dst pitch ctl : BitVec 64)
  | swbind (w z : Nat) (base ixaddr : BitVec 64) (n : Nat)
  | swunb (w : Nat)
  | ecmd (cl lease : Nat) (kind sub row : Nat) (p0 p1 p2 p3 : BitVec 64)
  deriving DecidableEq, Repr

/-- An item: its index, its place in the order of issue of all items, the address of its command, its work, its flags and scope (R127), its
status once it has ended, whether a step has begun (R68) and its reading of its A slot and of its B slot has ended (R82), a PAGE fault it waits on,
the status with which its work is done, when only its completion waits for earlier commands (R127, R283), whether it found an interlock closed and MXWAR counts
no cycle of its wait yet (R82, R87), and whether collective ingress has accepted its entry (R58). -/
structure Item where
  ix : Nat
  stamp : Nat
  pc : BitVec 64
  op : ItemOp
  acq : Bool
  rel : Bool
  scope : Nat
  status : Option Status
  started : Bool
  readA : Bool
  readB : Bool
  page : Option (Nat × Fx)
  drained : Option Status
  waited : Bool
  sent : Bool
  deriving DecidableEq, Repr

/-- A sealed batch (R278): number, items, the token it writes, the status-vector address, the address of its BSEAL, and a
PAGE fault that its status-vector stores wait on, with the record, the item whose byte it met and what it reported; `err`: the status and the
item with which they have failed, while the record of that waits for the ring of its buffer (R358). `stamp`: its place in the order of issue among
the items (R114). -/
structure Batch where
  no : Nat
  items : List Item
  tok : Option Nat
  vec : Option (BitVec 64)
  pc : BitVec 64
  page : Option (Nat × Nat × Fx)
  err : Option (Status × Nat)
  stamp : Nat
  deriving DecidableEq, Repr

/-- The batches of one issuer (R276): number of the open batch, its items, the sealed batches not yet complete, and the
next request serial's base. -/
structure Batches where
  no : Nat
  items : List Item
  sealed : List Batch
  deriving DecidableEq, Repr

/-- What an issued instruction that is still held reads: its words, and the registers, MODE and format registers as its issue found
them (R37, R164, R207, R269). `stamp`: its place in the order of issue among the items of engine commands (R114). -/
structure Capture where
  word : BitVec 32
  rest : List (BitVec 32)
  v : Store 32
  k : Store 32
  s : Store 64
  mode : BitVec 32
  f : Store 32
  stamp : Nat
  deriving DecidableEq, Repr

/-- A split of a group (R38, R40); `cap`: what the instruction that holds it read at its issue. -/
structure Split where
  mask : BitVec 32
  pc : BitVec 64
  ls : BitVec 64
  lc : BitVec 64
  lk : BitVec 64
  armed : Option Armed
  hold : Hold
  stop : Option (Nat × Cause)
  cap : Option Capture
  deriving DecidableEq, Repr

/-- A group (R12, R35); `key` names it within its crew, `no` is %group. v is keyed by 32 × register + position, k by register (one bit per
position), recPhase by barrier (R262). `lanes`: the thread at each position, one that has ended in the group included, but none that left it by exile
or by RWAIT's move (R40, R44, R150). `formed`: built by the former. `sib`: sample-group entry and %sib. -/
structure Group where
  key : Nat
  no : Nat
  slot : Nat
  formed : Bool
  sib : Option (Nat × Nat)
  lanes : List (Nat × Thread)
  v : Store 32
  k : Store 32
  s : Store 64
  t : List (Nat × Tok)
  h : Store 17
  mode : BitVec 32
  mark : BitVec 64
  recPhase : List (Nat × Nat)
  bat : Batches
  ltime : Nat
  weak : Bool
  splits : List Split
  deriving DecidableEq, Repr

/-- The states of an engine stream (R52, R53); `ending` is an END that waits for the stream's batches. -/
inductive StreamState where
  | idle
  | running
  | ending
  | ended
  deriving DecidableEq, Repr

/-- An engine stream (R52). `guard`: the decision taken for the command at its head (R51); `cap`: the words of the instruction that holds it;
`went`: it has issued since the latest cycle passed (R36). -/
structure Stream where
  st : StreamState
  num : Nat
  e : Store 64
  t : List (Nat × Tok)
  h : Store 17
  mode : BitVec 32
  pc : BitVec 64
  ls : BitVec 64
  lc : BitVec 64
  armed : Option Armed
  hold : Hold
  stop : Option (Nat × Cause)
  lgG : Nat
  depth : Nat
  sat : Bool
  recPhase : List (Nat × Nat)
  bat : Batches
  ltime : Nat
  guard : Option Bool
  cap : Option (BitVec 32 × List (BitVec 32))
  went : Bool
  deriving DecidableEq, Repr

/-- A barrier (R45). -/
structure Bar where
  e : Nat
  arrived : List Thread
  strm : Bool
  p : Int
  phase : Nat
  deriving DecidableEq, Repr

/-- A configured queue (R48, R49): ring offset, log2 of entry size and depth, allowance, head index, and the pushers of
its entries, oldest first (%group, or 64 for the stream). -/
structure Queue where
  off : Nat
  lsz : Nat
  ldep : Nat
  alw : Nat
  head : Nat
  pushers : List Nat
  deriving DecidableEq, Repr

/-- A spawn record (R41): target pc, MODE, k bits, the thread, its sample-group entry and %sib, v registers; `bad`: those of them whose words
hold an uncorrectable error (R420). -/
structure SpawnRec where
  pc : BitVec 64
  mode : BitVec 32
  k : BitVec 8
  thread : Thread
  sib : Option (Nat × Nat)
  v : List (BitVec 32)
  bad : List Nat
  deriving DecidableEq, Repr

/-- The class of a record (R42). -/
structure RecClass where
  pc : BitVec 64
  mode : BitVec 32
  sib : Option (Nat × Nat)
  deriving DecidableEq, Repr

/-- Forms of an operand slot (R291); a sparse slot records budget table, metadata array, columns and origin. -/
inductive SlotForm where
  | dense
  | tl (rows : Nat) (overrun : List Nat)
  | sparse (bud mdat : BitVec 64) (cols r0 c0 : Nat)
  deriving DecidableEq, Repr

/-- An operand slot (R80, R82, R291). `lost`: its contents went with a dark die (R83). -/
structure Slot where
  claimed : Bool
  cls : Bool
  gen : Nat
  form : SlotForm
  data : Store 8
  scales : Store 8
  lost : Bool
  deriving DecidableEq, Repr

/-- An accumulator tile (R10, R85), keyed by 256 × row + column. -/
structure Tile where
  acc : Store 32
  poison : Bool
  deriving DecidableEq, Repr

/-- A crew (R12, R35); `flush` holds the classes that a flush point has marked for building (R42, R43). While `joint` is set
the operations of one cycle go on, and the barriers they act on are collected in `touched` for the test after them (R263); what else a
cycle decides at its end waits as well: flush points (R43), sample groups (R271), the matrix engine's next step (R20). In a turn without
`joint`, `touched` holds the barriers that have completed a phase in it (R45). -/
structure Crew where
  no : Nat
  core : Nat
  f : Store 32
  bars : List (Nat × Bar)
  ended : List Thread
  queues : List (Nat × Queue)
  guards : List (Nat × Bool)
  spad : Store 8
  recs : List SpawnRec
  flush : List RecClass
  slots : List (Nat × Slot)
  tiles : List (Nat × Tile)
  strm : Stream
  groups : List (Nat × Group)
  nextGrp : Nat
  joint : Bool
  touched : List Nat
  deriving DecidableEq, Repr

/-- A launch packet (R31). -/
structure Packet where
  kaddr : BitVec 64
  param : BitVec 64
  eaddr : BitVec 64
  gx : Nat
  gy : Nat
  gz : Nat
  regs : Nat
  crew : Nat
  gang : Nat
  prio : Nat
  spad : Nat
  spawn : Nat
  slots : Nat
  accs : Nat
  ctx : Nat
  notify : Bool
  caddr : BitVec 64
  deriving DecidableEq, Repr

/-- A sample-group entry that is open or complete (R149). -/
structure SgEntry where
  g : Nat
  gang : Nat
  arrived : BitVec 64
  cancelled : BitVec 64
  rewards : Store 32
  eps : BitVec 32
  deadline : Option Nat
  adv : Store 32
  zv : Bool
  small : Bool
  absent : BitVec 64
  complete : Bool
  n : Nat
  deriving DecidableEq, Repr

/-- A resident or saved gang (R12, R33). `halt`: its issuers are stopped for a save, an abort, a move or a dark die (R60);
`sg`: the sample-group entries of a gang that is not resident (R30); `gone`: the gang has ended and given its resources back, and
only batches of its issuers are still open (R54, R162). -/
structure Gang where
  grid : Nat
  ctx : Nat
  no : BitVec 64
  pkt : Packet
  crews : List (Nat × Crew)
  halt : Bool
  sg : List (Nat × SgEntry)
  gone : Bool
  deriving DecidableEq, Repr

/-- A grid (R33, R54, R57, R383). `parent`: the grid that launched it and has not ended; `next`: gangs placed; `ended`
and `lost`: gangs that ended normally, and that an abort or a lost die ended; `page`: the PAGE
record that its completion record waits for. -/
structure Grid where
  ctx : Nat
  pkt : Packet
  dev : Bool
  q : Nat
  pos : Nat
  next : Nat
  ended : Nat
  lost : Nat
  parent : Option Nat
  status : Nat
  nrec : Nat
  fin : Bool
  page : Option Nat
  deriving DecidableEq, Repr

/-- The cycles of a step, counted from its cycle 0 (R67): `terms` and `waits` hold, of each lane and row, the cycle in which its terms and
its wait at the term barrier begin, and how many cycles they take; `width` is W, and `skip` the number of skipped rows. -/
structure StepPlan where
  terms : List (Nat × Nat)
  waits : List (Nat × Nat)
  width : Nat
  skip : Nat
  deriving DecidableEq, Repr

/-- A step that the matrix engine of a core has chosen or runs (R20, R66, R68): its item, the cycle of the core in which its latch window opened
and, once it runs, that of its cycle 0, what the weight latches took from its B slot (form, data and scales), whether a unit of it was damaged then
(R420), what the engine took from its A slot, its cycles, and how it fails: status, what is reported, an address named or not; and the budget and
bitmaps of each row of a sparse step. -/
structure Running where
  item : ItemRef
  since : Option Nat
  latch : Option (SlotForm × Store 8 × Store 8)
  badB : Bool
  slotA : Option (SlotForm × Store 8 × Store 8)
  plan : StepPlan
  fail : Option (Status × Fx × Bool)
  budgets : List (Nat × List Nat)
  deriving DecidableEq, Repr

/-- A core's own state (R13, R18, R36, R106, R211, R213). `last`: slot that last issued, per pipe; `cyc16`: sixteenths of arithmetic cycles
counted up to the slate time `cycAt`; `issued`: issues per pipe since that slate time began; `idleAt`: the cycle count up to which a crew was
resident (R18); `run`, `nxt`: the running step and the next one; `lastStream`: the stream number of the latest step to run; `tenant`: the context
that was last started on the core since its reset (R27). -/
structure Core where
  gen : List (BitVec 32)
  last : List Nat
  cnt : Store 64
  cyc16 : Nat
  cycAt : Nat
  issued : List Nat
  spadKiB : Nat
  idleAt : Nat
  run : Option Running
  nxt : Option Running
  lastStream : Nat
  tenant : Option Nat
  deriving DecidableEq, Repr

inductive Power where
  | dark
  | dim
  | lit
  deriving DecidableEq, Repr

/-- A leasable engine (R137, R138): power, the lease it holds (request, priority, grant time, owner, token), whether it is
lit yet, whether an LREL of the lease has issued, when its state or activity last changed, and the internal state: XF
slots (m, S) keyed by 2 × slot and 2 × slot + 1, SP generator. -/
structure Engine where
  power : Power
  waking : Bool
  lease : Option (Nat × Nat × Nat × Who × Nat)
  lrel : Bool
  since : Nat
  xf : Store 32
  sp : BitVec 64
  deriving DecidableEq, Repr

/-- A lease request (R140, R141): request number, kind, priority, issuer, token, and the slate cycle of its entry. -/
structure LeaseReq where
  req : Nat
  kind : Nat
  prio : Nat
  who : Who
  tok : Nat
  ent : Nat
  deriving DecidableEq, Repr

/-- A cluster's own state (R11, R137–R149, R391–R394): the slate cycle whose halter round has run, since when it is as hot as THOT, when a placement into it was
decided while it was gated, until when it was not idle, and the last power interval settled. -/
structure Cluster where
  engines : List (Nat × Engine)
  queues : List (Nat × List LeaseReq)
  serial : BitVec 32
  roundAt : Nat
  sg : List (Nat × SgEntry)
  hotSince : Option Nat
  placing : Option Nat
  busyAt : Nat
  rglAt : Nat
  deriving DecidableEq, Repr

/-- A shadow-window binding (R114, R361). -/
structure Binding where
  base : BitVec 64
  z : Nat
  run : Nat
  idx : List (BitVec 32)
  deriving DecidableEq, Repr

/-- A bound entry (R129, R360). -/
structure Bound where
  l : BitVec 32
  fp : Bool
  deriving DecidableEq, Repr

inductive CtxState where
  | idle
  | running
  | saved
  deriving DecidableEq, Repr

/-- A context that is not free (R347, R377, R379). `save` and `saveSize`: its save area (R377, R387); `closing`: a window with the issue order of
each SWBIND of it that is not complete (R300). -/
structure Ctx where
  st : CtxState
  part : Nat
  psize : Nat
  brken : Bool
  save : Nat
  saveSize : Nat
  workRec : Nat
  memRec : Nat
  dqtab : Nat
  dqcnt : Nat
  dq : List (Nat × (Nat × Nat))
  root : Nat
  rootSpace : Nat
  fbuf : Nat
  fbufSpace : Nat
  fblog : Nat
  fbvec : Nat
  put : Nat
  btab : Nat
  bounds : List (Nat × Bound)
  pool : Nat
  poolUnits : Nat
  windows : List (Nat × Binding)
  closing : List (Nat × Nat)
  ctxtime : BitVec 64
  image : List (Nat × Gang)
  prestaged : Option (Nat × Nat)
  recSeq : Nat
  signalled : Option Nat
  deriving DecidableEq, Repr

/-- A holder's share of a bounded line (R130): share and tracker as e8m8 codes, deltas by element, and when it last took a
contribution (a stamp of `State.fresh`). -/
structure Share where
  s : BitVec 16
  tau : BitVec 16
  deltas : List (Nat × BitVec 32)
  last : Nat
  deriving DecidableEq, Repr

/-- A bounded line with shares outstanding (R131): context, bound index, key slot of its page, remainder, and shares by holder. -/
structure Line where
  ctx : Nat
  bidx : Nat
  kid : Nat
  u : Dy
  shares : List (Nat × Share)
  deriving DecidableEq, Repr

/-- A table pointer in the walk cache of a die (R353): the table of a level for the addresses with a prefix. -/
structure PtrEnt where
  die : Nat
  ctx : Nat
  level : Nat
  pre : Nat
  tab : Nat
  deriving DecidableEq, Repr

/-- A translation in the TLB of a core (R10, R115, R353). -/
structure TlbEnt where
  core : Nat
  ctx : Nat
  page : Nat
  log : Nat
  pte : BitVec 64
  deriving DecidableEq, Repr

/-- A fault record (R357); `dest` is the context whose buffer takes it, or none for the device fault buffer. -/
structure FRec where
  dest : Option Nat
  cause : Cause
  src : Nat
  flags : Nat
  seq : Nat
  addr : BitVec 64
  pc : BitVec 64
  core : Nat
  group : Nat
  lane : Nat
  batch : Nat
  item : Nat
  aux : Nat
  rid : Nat
  gang : BitVec 64
  mark : BitVec 64
  detail : BitVec 64
  deriving DecidableEq, Repr

/-- Accesses suspended for a page (R359): die, context, page, replay identity. -/
structure PageWait where
  rid : Nat
  die : Nat
  ctx : Nat
  page : Nat
  deriving DecidableEq, Repr

/-- A protected unit beside those of HBM4E and the CXL devices (R420): 32 bytes of L2, 4 bytes of the L1 of a core (by the memory they hold), of
a scratchpad, of core SRAM that no crew's scratchpad takes, of a spawn record (its place, register), of a v register (register and position), of
an operand slot (4,096 of its data, then 2,048 of its scales) or of a tile (element), 8 bytes of an s or e register. Of a gang by its serial, a
crew, and a group by its key. -/
inductive Cell where
  | l2 (u : Nat)
  | l1 (core u : Nat)
  | sram (core u : Nat)
  | spawn (gang crew ix r : Nat)
  | spad (gang crew u : Nat)
  | vreg (gang crew grp ix : Nat)
  | sreg (gang crew grp r : Nat)
  | ereg (gang crew r : Nat)
  | slot (gang crew n u : Nat)
  | tile (gang crew n ix : Nat)
  deriving DecidableEq, Repr

/-- A key slot (R373): 0 disabled, 1 plaintext, 2 AES-256-XTS. -/
structure KeySlot where
  mode : Nat
  keys : List (BitVec 64)
  deriving DecidableEq, Repr

/-- A link's own state beside its LSTAT register (R399, R417): failed replays of the flit in hand, whether an automatic retrain
runs, and when automatic retrains failed; for a UALink port also the identity that UALEXP expected when its training began. -/
structure Link where
  replays : Nat
  auto : Bool
  fails : List Nat
  want : Nat
  deriving DecidableEq, Repr

/-- An event-log record (R414). -/
structure LogRec where
  seq : Nat
  clock : BitVec 64
  boot : Nat
  sev : Nat
  cls : Nat
  site : Nat
  count : Nat
  data : BitVec 64
  deriving DecidableEq, Repr

/-- The AMB and its non-volatile store (R400–R410): slots A and B, the boot record, the slot that runs (none in recovery or before boot), the
headers of the firmware sets whose management firmware and whose slate microcode and base-die firmware are in effect (R404), the device identity
of this boot (R410), whether it serves, whether a restart is to come up, the open update session (PLDM or mailbox) with its slot, when a trial
booted, the mailbox command that runs with its result (R406), the transcript of the latest signed measurements (R410), and the records that wait
for it and that were discarded (R416). -/
structure Amb where
  slotA : Store 8
  slotB : Store 8
  activeB : Bool
  pend : Bool
  tried : Bool
  booted : Option Bool
  fwNow : List (BitVec 8)
  pkgNow : List (BitVec 8)
  devId : List (BitVec 8)
  serving : Bool
  recov : Bool
  session : Option (Bool × Bool)
  trialAt : Option Nat
  mbox : Option (Nat × Nat)
  signed : List (BitVec 8)
  waiting : List LogRec
  lost : Nat
  deriving DecidableEq, Repr

/-- An entry that a receiver refused with a NAK, kept by its sender (R58): a launch packet for a device queue with the core and
issuer that sent it and the number of its LAUNCH, a lease request for a cluster's queue, a sample-group operation of a group for its cluster's
table, with its number, a block of an L2 slice for the compression overflow path, an item of
collective engine `eng` (24 times its cluster, and its number) for collective ingress. -/
inductive NakMsg where
  | packet (core : Nat) (who : Who) (ctx q no : Nat) (bytes : List (BitVec 8)) (parent cap : Nat)
  | lease (core cl : Nat) (r : LeaseReq)
  | sample (core : Nat) (who : Who) (cl no : Nat)
  | grow (slice stack blk : Nat)
  | ingress (eng : Nat) (item : ItemRef)
  deriving DecidableEq, Repr

/-- A kept entry with the number of consecutive NAKs it has had and the slate time of its resend (R59). -/
structure Nak where
  msg : NakMsg
  k : Nat
  due : Nat
  deriving DecidableEq, Repr

/-- A packet that waits in a queue, in the order in which packets became visible (R33, R382): host or device queue, its
context, queue number, index, and for a device queue the launching grid; its priority is at most `cap` (R56); `since`: when it
became visible. -/
structure PktRef where
  dev : Bool
  ctx : Nat
  q : Nat
  ix : Nat
  parent : Option Nat
  cap : Nat
  since : Nat
  deriving DecidableEq, Repr

/-- The operands of an event: what the schedule says it acts on. -/
structure Ev where
  who : Who
  item : ItemRef
  n : Nat
  m : Nat
  v : BitVec 64
  flag : Bool
  bytes : List (BitVec 8)
  deriving DecidableEq, Repr

/-- The corrections that a class and site have seen in a window (R416): their number, and of the first one the clock, the AMB's time, the boot
and DATA. -/
structure Corrected where
  n : Nat
  clock : BitVec 64
  since : Nat
  boot : Nat
  data : BitVec 64
  deriving DecidableEq, Repr

/-- Which agent moves next: a pipe of a core, the engine stream of a crew, pipes of cores and streams in one cycle (R20, R263, R271), a pipe
whose instruction a residue mismatch ends (R172), an event with its operands, the passing of slate cycles, an L2 fill of the line at a physical
key (R368), an uncorrectable error in 64 bytes of memory or in another unit (R420), a read of some bytes at an offset of the host registers
(R411), a unit's port that begins or ceases to refuse entries (R58), or the end of the mailbox command that runs (R406). -/
inductive Turn where
  | pipe (core p : Nat)
  | stream (gang crew : Nat)
  | cycle (pipes streams : List (Nat × Nat))
  | residue (core p : Nat)
  | event (i : Instr) (ev : Ev)
  | tick (n : Nat)
  | fill (key : Nat)
  | upset (u : Nat)
  | upsetCell (c : Cell)
  | hostRead (off len : Nat)
  | port (sg : Bool) (cl : Nat) (shut : Bool)
  | mailbox
  deriving DecidableEq, Repr

/-- Who issues the instruction in execution: nobody (an event), a group's split, or a stream. -/
inductive Issuer where
  | none
  | group
  | stream
  deriving DecidableEq, Repr

/-- The state. `failedCl`: collectives that a malformed or disagreeing participant has ended, by context, id and SUB, with the cores at which
they have ended (R309). `accStamp` is the issue order of the item whose accesses are performed, none for an access of an instruction. `keyRun`:
the key-slot command that runs, with the slot and the mode and keys it is to have, none for FLUSH (R374). `trip0`: a sensor of die 0 that reached
110 °C, and whether die 0 waits for die 1; `stackTj`: what the sensor of each stack reads, in 1/16 °C (R394, R408). `owed`: records of discarded lines, with
their contexts, that wait for room in the staging store (R136, R358). `stalled` says that the issuer in execution could not issue (R37) or goes
on waiting. While an instruction of a split or stream is executed, that split, its group, crew and gang stand in `split`, `grp`, `crew` and
`gang`, taken out of the lists that hold them otherwise. -/
structure State where
  clock : BitVec 64
  mem : Store 8
  dirty : List (Nat × (Nat × BitVec 8))
  bad : List Nat
  damaged : List Cell
  sealed : List (Nat × (KeySlot × Nat))
  regs : List (Nat × BitVec 64)
  ctxs : List (Nat × Ctx)
  cmd : Option (BitVec 64 × Option Nat)
  grids : List (Nat × Grid)
  nextGrid : Nat
  gangs : List (Nat × Gang)
  nextGang : Nat
  cores : List (Nat × Core)
  clusters : List (Nat × Cluster)
  lines : List (Nat × Line)
  tlb : List TlbEnt
  ptrs : List PtrEnt
  tlbi : List (BitVec 64 × BitVec 64)
  staged : List FRec
  owed : List (Nat × FRec)
  pageWaits : List PageWait
  nextRid : Nat
  devSeq : Nat
  devPut : Nat
  devSig : Option Nat
  qsig : List Nat
  msi : List Nat
  overflow : List (Nat × (Nat × Nat × List (BitVec 8)))
  forms : List (Nat × Nat)
  heat : List (Nat × (Nat × BitVec 16))
  cmpRun : List (Nat × (BitVec 64 × BitVec 64 × BitVec 64))
  fullSince : List (Nat × Nat)
  keys : List (Nat × KeySlot)
  keyRun : Option (Nat × Option KeySlot)
  dark : List Nat
  darkening : List (Nat × (Nat × Option Nat))
  trip0 : Option (Nat × Bool)
  stackTj : List Int
  boostAt : List (Nat × Nat)
  ambTime : Nat
  stage : Option (Nat × Nat)
  links : List (Nat × Link)
  amb : Amb
  log : List LogRec
  logSeq : Nat
  corrected : List (Nat × Corrected)
  bootNo : Nat
  fuseC : Nat
  revoked : List Nat
  keyDigests : List (Nat × List (BitVec 8))
  pkgId : BitVec 48
  uds : List (BitVec 8)
  sensors : List (BitVec 16)
  excur : Bool
  reply : List (BitVec 8)
  mbdata : Store 8
  naks : List Nak
  failedCl : List (Nat × Nat × Nat × List Nat)
  shutPorts : List (Bool × Nat)
  visible : List PktRef
  dogs : List (Nat × Nat)
  stalled : Bool
  halted : Bool
  nextReq : Nat
  nextItem : Nat
  accStamp : Option Nat
  fresh : Nat
  agenda : List Turn
  ev : Ev
  cur : Issuer
  gid : Nat
  gang : Gang
  crew : Crew
  grp : Group
  split : Split
  deriving DecidableEq, Repr

/-! ## Reasons to stop -/

/-- Faults that end a run of the model: there is none. The Z7's own faults are next states (a stopped split and a fault
record, R171), so nobody raises a fault. Safe. -/
inductive Fault
  deriving DecidableEq, Repr

/-- Refusals. -/
inductive Refusal where
  /-- An instruction that has no meaning yet; raised by `exec` alone. Safe. -/
  | notModelled (mnemonic : String)
  deriving DecidableEq, Repr

/-! ## Reset -/

def StepPlan.zero : StepPlan := ⟨[], [], 0, 0⟩
def Tok.zero : Tok := ⟨false, 0, none, false, none⟩
def Batches.start : Batches := ⟨1, [], []⟩
def Split.zero : Split := ⟨0, 0, 0, 0, 0, none, .none, none, none⟩
def Group.zero : Group :=
  ⟨0, 0, 0, false, none, [], .empty 32, .empty 32, .empty 64, [], .empty 17, 0, 0, [], .start, 0, false, []⟩
def Stream.zero : Stream :=
  ⟨.idle, 0, .empty 64, [], .empty 17, 0, 0, 0, 0, none, .none, none, 0, 0, false, [], .start, 0, none, none, false⟩
def Crew.zero : Crew := ⟨0, 0, .empty 32, [], [], [], [], .empty 8, [], [], [], [], .zero, [], 0, false, []⟩
def Packet.zero : Packet := ⟨0, 0, 0, 0, 0, 0, 0, 0, 0, 0, 0, 0, 0, 0, 0, false, 0⟩
def Gang.zero : Gang := ⟨0, 0, 0, .zero, [], false, [], false⟩
/-- A core after core reset: every converter holds 1 (R106), and every pipe stands as though slot 63 issued last (R36). -/
def Core.zero : Core := ⟨[1, 1, 1, 1], [63, 63, 63, 63], .empty 64, 0, 0, [0, 0, 0, 0], 0, 0, none, none, 3, none⟩
def Engine.zero : Engine := ⟨.dark, false, none, false, 0, .empty 32, 1⟩
def Cluster.zero : Cluster := ⟨[], [], 0, 0, [], none, none, 0, 0⟩
def Who.zero : Who := ⟨0, 0, 0, false⟩
def Ev.zero : Ev := ⟨.zero, ⟨.zero, 0, 0⟩, 0, 0, 0, false, []⟩
def Amb.zero : Amb := ⟨.empty 8, .empty 8, false, false, false, none, [], [], [], false, false, none, none, none, [], [], 0⟩

/-- The package right after reset: no context, no gang, key slot 0 plaintext (R373), heat generators as seeded with
0xACE1 (R368), memory with nothing listed, host registers at their reset values (`Reg.reset`). -/
def State.reset : State :=
  { clock := 0, mem := .empty 8, dirty := [], bad := [], damaged := [], sealed := [], regs := [], ctxs := [], cmd := none, grids := [], nextGrid := 0,
    gangs := [], nextGang := 0, cores := [], clusters := [], lines := [], tlb := [], ptrs := [], tlbi := [], staged := [], owed := [],
    pageWaits := [], nextRid := 0, devSeq := 0, devPut := 0, devSig := none, qsig := [], msi := [], overflow := [], forms := [],
    heat := (List.range 12).map (fun u => (u, (0, 0xACE1 ^^^ BitVec.ofNat 16 u))), cmpRun := [], fullSince := [],
    keys := [(0, ⟨1, []⟩)], keyRun := none, dark := [0, 1], darkening := [], trip0 := none, stackTj := List.replicate 8 0, boostAt := [], ambTime := 0, stage := none,
    links := [], amb := .zero, log := [], logSeq := 0, corrected := [], bootNo := 0, fuseC := 0, revoked := [],
    keyDigests := [], pkgId := 0, uds := [], sensors := List.replicate 96 0x8000, excur := false, reply := [], mbdata := .empty 8, naks := [], failedCl := [], shutPorts := [], visible := [],
    dogs := [], stalled := false, halted := false, nextReq := 0, nextItem := 0, accStamp := none, fresh := 0, agenda := [], ev := .zero, cur := .none,
    gid := 0, gang := .zero, crew := .zero, grp := .zero, split := .zero }

end Sys2Proof.Machine
end

