-- ==== Sys2Proof/Machine/Memory.lean ====
section
/-! DEFINITION. Host registers, physical spaces, page tables, windows and bounded lines (chapters 05 and 16). -/
namespace Sys2Proof.Machine

/-- Bits [lo+n-1 : lo] of a natural number. -/
def bitsOf (x lo n : Nat) : Nat := x / 2 ^ lo % 2 ^ n

/-- x with bits [lo+n-1 : lo] replaced by v. -/
def setBits (x lo n v : Nat) : Nat := x - bitsOf x lo n * 2 ^ lo + v % 2 ^ n * 2 ^ lo

/-- A list in ascending order of a key; elements of one key keep their order. -/
def insertBy {α : Type} (key : α → Nat) (x : α) : List α → List α
  | [] => [x]
  | y :: r => if key x ≤ key y then x :: y :: r else y :: insertBy key x r

def sortBy {α : Type} (key : α → Nat) (l : List α) : List α := l.foldr (insertBy key) []

/-! ## Host registers (R375, R411; offsets within BAR0) -/

def mmBase : Nat := 0x100000
def wpBase : Nat := 0x200000

/-- Reset values of the host registers that are not zero (R59, R139, R356, R381, R391, R393, R394); a vector of the MSI-X table is masked, as PCI Express
resets it (R411; PRESUMED, log 83). -/
def regReset (off : Nat) : BitVec 64 :=
  if off = mmBase + 0x20 ∨ off = mmBase + 0x28 then 0x100
  else if off = wpBase + 0x40 ∨ off = wpBase + 0x48 then 0x4040
  else if off = wpBase + 0x60 ∨ off = wpBase + 0x68 then 64
  else if off = wpBase + 0x70 ∨ off = wpBase + 0x78 then 0x69645F
  else if wpBase + 0x1000 ≤ off ∧ off < wpBase + 0x2000 ∧ off % 0x40 = 8 then 0xFFFF00000000
  else if wpBase + 0x2000 ≤ off ∧ off < wpBase + 0x2300 then
    (if off % 0x20 = 0 then 0xA05002 else if off % 0x20 = 8 then 0xC8191000200 else if off % 0x20 = 0x18 then 0x200 else 0)
  else if 0x300000 ≤ off ∧ off < 0x310000 ∧ off % 16 = 8 then 2 ^ 32
  else 0

def State.reg (s : State) (off : Nat) : Nat := ((aget s.regs off).getD (regReset off)).toNat
def State.setReg (s : State) (off v : Nat) : State := { s with regs := aput off (BitVec.ofNat 64 v) s.regs }

def regTLBIA := mmBase
def regTLBDONE := mmBase + 0x10
def regHEATCFG := mmBase + 0x40
def regHEATSTAT := mmBase + 0x50
def regHEATBASE (i : Nat) := mmBase + 0x58 + 8 * i
def regCMP (st o : Nat) := mmBase + 0x100 + 0x40 * st + o
def regWCTL (w : Nat) := mmBase + 0x400 + 0x10 * w
def regWTGT (w : Nat) := mmBase + 0x408 + 0x10 * w
def regKEYSTAT := mmBase + 0x808
def regKEYDATA (i : Nat) := mmBase + 0x810 + 8 * i
def regPARTMAP := wpBase
def regCTXARG := wpBase + 0x10
def regCTXSTAT := wpBase + 0x18
def regDFBBASE := wpBase + 0x20
def regBACKOFF (d : Nat) := wpBase + 0x40 + 8 * d
def regCARVE (d : Nat) := wpBase + 0x50 + 8 * d
def regPERMIT (d : Nat) := wpBase + 0x60 + 8 * d
def regTHERM (d : Nat) := wpBase + 0x70 + 8 * d
def regLQ (q o : Nat) := wpBase + 0x1000 + 0x40 * q + o
def regHALTCFG (c : Nat) := wpBase + 0x2000 + 0x20 * c
def regCLPWR (c : Nat) := wpBase + 0x2008 + 0x20 * c
def regBOOSTCTL (c : Nat) := wpBase + 0x2010 + 0x20 * c
def regCLSTAT (c : Nat) := wpBase + 0x2018 + 0x20 * c
/-- The copies of the window registers that translation uses: the values at the latest completed TLBIC of KIND 2 (R371). -/
def winUse : Nat := 2 ^ 32
/-- LPDDR6 channels offlined (R398): state without a register of its own. -/
def regCHANOFF : Nat := 2 ^ 33
def regBOOTSTAT : Nat := 8
def regMBSTAT : Nat := 0x1008
/-- LSTAT of a link: 0 girth bridge, 1 host link, 2–5 CXL ports, 6–21 UALink ports (R399, R411, R415). -/
def regLSTAT (k : Nat) : Nat :=
  0x10000 + (if k = 0 then 0 else if k = 1 then 0x48 else if k < 6 then 0x50 + 8 * (k - 2) else 0x80 + 0x18 * (k - 6))
def regHBMSTAT (st : Nat) := 0x10008 + 8 * st
def regUALPEER (p : Nat) := 0x10000 + 0x88 + 0x18 * p
def regUALEXP (p : Nat) := 0x10000 + 0x90 + 0x18 * p

/-! ## Physical spaces (R346, R421) -/

/-- A physical byte's key in memory: its space and address. -/
def physKey (space addr : Nat) : Nat := space * 2 ^ 52 + addr
def keySpace (key : Nat) : Nat := key / 2 ^ 52
def keyAddr (key : Nat) : Nat := key % 2 ^ 52

def gib : Nat := 2 ^ 30

/-- The lowest enabled second-tier window that holds the address, from window w on (R371). -/
def windowOf (s : State) (addr : Nat) : Nat → Nat → Option Nat
  | 0, _ => none
  | f + 1, w =>
    let c := s.reg (winUse + regWCTL w)
    let base := bitsOf c 16 13 * 2 ^ 28
    if bitsOf c 0 1 = 1 ∧ bitsOf c 1 2 ≠ 3 ∧ base ≤ addr ∧ addr < base + bitsOf c 32 14 * 2 ^ 28 then some w
    else windowOf s addr f (w + 1)

/-- The second-tier port that serves an address through its window (R371). -/
def portOf (s : State) (addr : Nat) : Nat :=
  match windowOf s addr 16 0 with
  | none => 0
  | some w =>
    let c := s.reg (winUse + regWCTL w)
    let ways := 2 ^ bitsOf c 1 2
    bitsOf (s.reg (winUse + regWTGT w)) (2 * ((addr - bitsOf c 16 13 * 2 ^ 28) / 65536 % ways)) 2

/-- The device address that the access to a SPACE 2 address through window w goes to (R371). -/
def deviceAddr (s : State) (w addr : Nat) : Nat :=
  let c := s.reg (winUse + regWCTL w)
  let k := 2 ^ bitsOf c 1 2
  let o := addr - bitsOf c 16 13 * 2 ^ 28
  2 ^ 28 * bitsOf (s.reg (winUse + regWTGT w)) 16 32 + 65536 * (o / (65536 * k)) + o % 65536

/-- The key of a byte of a CXL device, beyond every key of a space. -/
def portKey (port addr : Nat) : Nat := 2 ^ 70 * (port + 1) + addr

/-- Where the byte with a key is stored: for SPACE 2 through its window, the device's byte (R371). -/
def storeKey (s : State) (key : Nat) : Nat :=
  if keySpace key = 2 ∧ !Config.lmod then
    match windowOf s (keyAddr key) 16 0 with
    | some w => portKey (portOf s (keyAddr key)) (deviceAddr s w (keyAddr key))
    | none => key
  else key

/-- The link carries traffic (R399). -/
def linkUp (s : State) (k : Nat) : Bool := let x := bitsOf (s.reg (regLSTAT k)) 0 3; x = 2 || x = 3

def stackOff (s : State) (st : Nat) : Bool := bitsOf (s.reg regBOOTSTAT) (8 + st) 1 = 1

/-- The address is backed by its space (R346, R363, R371, R372, R398). -/
def backed (s : State) (space addr : Nat) : Bool :=
  match space with
  | 0 => addr < 512 * gib && !stackOff s (addr / (64 * gib))
  | 1 =>
    let st := addr / (256 * gib)
    let c := s.reg (regCMP st 0)
    st < 8 && bitsOf c 0 1 = 1 && addr % (256 * gib) < bitsOf c 1 9 * gib && !stackOff s st
  | 2 => if Config.lmod then addr < 2048 * gib && bitsOf (s.reg regCHANOFF) (addr / 65536 % 16) 1 = 0 else addr < 2048 * gib && (windowOf s addr 16 0).isSome
  | _ => addr < 2 ^ 52

/-- The home die of a physical byte (R421). -/
def homeDie (s : State) (key : Nat) : Nat :=
  match keySpace key with
  | 0 => if keyAddr key / (64 * gib) < 4 then 0 else 1
  | 1 => if keyAddr key / (256 * gib) < 4 then 0 else 1
  | 2 => if Config.lmod then (if keyAddr key / 65536 % 16 < 8 then 0 else 1) else if portOf s (keyAddr key) < 2 then 0 else 1
  | _ => 0

/-- The home slice of a physical byte (R421). -/
def homeSlice (s : State) (key : Nat) : Nat := 48 * homeDie s key + keyAddr key / 128 % 48

/-- n little-endian bytes of memory from a key (R5). -/
def memNat (m : Store 8) : Nat → Nat → Nat
  | 0, _ => 0
  | n + 1, k => (m.get k).toNat + 256 * memNat m n (k + 1)

def memPut (m : Store 8) : Nat → Nat → Nat → Store 8
  | 0, _, _ => m
  | n + 1, k, v => memPut (m.put k (BitVec.ofNat 8 v)) n (k + 1) (v / 256)

def bytesNat : List (BitVec 8) → Nat
  | [] => 0
  | b :: r => b.toNat + 256 * bytesNat r

def natBytes : Nat → Nat → List (BitVec 8)
  | 0, _ => []
  | n + 1, v => BitVec.ofNat 8 v :: natBytes n (v / 256)

def memBytes (m : Store 8) (n k : Nat) : List (BitVec 8) := (List.range n).map (fun i => m.get (k + i))

def memPutBytes (m : Store 8) (k : Nat) (bs : List (BitVec 8)) : Store 8 :=
  (bs.zipIdx).foldl (fun m b => m.put (k + b.2) b.1) m

/-! ## Compressed blocks (R362–R365) -/

def wordsOfBytes : Nat → List (BitVec 8) → List Nat
  | 0, _ => []
  | n + 1, bs => bytesNat (bs.take 4) :: wordsOfBytes n (bs.drop 4)

/-- Sectors a 256-byte image needs (R362). -/
def sectorsOf (img : List (BitVec 8)) : Nat :=
  let ws := wordsOfBytes 64 img
  let z := (ws.filter (· ≠ 0)).length
  if z = 0 then 0
  else if ws.all (· = ws.headD 0) then 1
  else if z ≤ 54 then (8 + 4 * z + 31) / 32
  else 8

/-- The stored bytes of an image (R362). -/
def storedForm (img : List (BitVec 8)) : List (BitVec 8) :=
  let ws := wordsOfBytes 64 img
  let n := sectorsOf img
  if n = 0 then []
  else if n = 8 then img
  else if ws.all (· = ws.headD 0) then natBytes 8 (2 ^ 64 - 1) ++ natBytes 4 (ws.headD 0)
  else
    natBytes 8 ((ws.zipIdx).foldl (fun a w => if w.1 ≠ 0 then a + 2 ^ w.2 else a) 0) ++
      (ws.filter (· ≠ 0)).flatMap (natBytes 4)

/-- Expansion of a bitmap form: words for bits i on, from the packed words. -/
def expandWords : Nat → Nat → List Nat → List Nat
  | 0, _, _ => []
  | f + 1, bm, ws => if bm % 2 = 1 then ws.headD 0 :: expandWords f (bm / 2) (ws.drop 1) else 0 :: expandWords f (bm / 2) ws

/-- The image of stored bytes that take n sectors (R362). -/
def expandForm (n : Nat) (st : List (BitVec 8)) : List (BitVec 8) :=
  if n = 0 then List.replicate 256 0
  else if n = 8 then st.take 256
  else
    let bm := bytesNat (st.take 8)
    let ws := wordsOfBytes 64 (st.drop 8)
    if n = 1 ∧ bm = 2 ^ 64 - 1 then (List.replicate 64 (natBytes 4 (ws.headD 0))).flatten
    else (expandWords 64 bm ws).flatMap (natBytes 4)

/-! ## Key slots and what a reader sees (R373, R374) -/

def keySlot (s : State) (k : Nat) : KeySlot := (aget s.keys k).getD ⟨0, []⟩
def plainSlot : KeySlot := ⟨1, []⟩

/-- The key slot and tweak under which a unit is encrypted; in plaintext no tweak counts. -/
def sealOf (k : KeySlot) (tweak : Nat) : KeySlot × Nat := if k.mode = 2 then (k, tweak) else (plainSlot, 0)

/-- The seal of a stored unit of 32 bytes. `State.mem` holds the plaintext under it. -/
def unitSeal (s : State) (u : Nat) : KeySlot × Nat := (aget s.sealed u).getD (plainSlot, 0)

/-- The bytes of a stored unit as a reader under another seal decrypts them. -/
def resealed (s : State) (u : Nat) (cur : KeySlot × Nat) : List (BitVec 8) :=
  let old := unitSeal s u
  let x := BitVec.ofNat 256 (bytesNat (memBytes s.mem 32 (32 * u)))
  let c := if old.1.mode = 2 then Config.xtsEnc old.1.keys old.2 x else x
  natBytes 32 (if cur.1.mode = 2 then Config.xtsDec cur.1.keys cur.2 c else c).toNat

/-- The byte stored at a key, read under a seal. -/
def sealedByte (s : State) (k : Nat) (cur : KeySlot × Nat) : BitVec 8 :=
  if cur = unitSeal s (k / 32) then s.mem.get k else (resealed s (k / 32) cur).getD (k % 32) 0

/-- The unit of a stored byte put under a seal. -/
def reseal (s : State) (k : Nat) (cur : KeySlot × Nat) : State :=
  if cur = unitSeal s (k / 32) then s
  else
    { s with mem := memPutBytes s.mem (k / 32 * 32) (resealed s (k / 32) cur),
             sealed := if cur = (plainSlot, 0) then adel (k / 32) s.sealed else aput (k / 32) cur s.sealed }

/-- A stored byte written under a seal. -/
def sealedPut (s : State) (k : Nat) (b : BitVec 8) (cur : KeySlot × Nat) : State :=
  let s1 := reseal s k cur
  { s1 with mem := s1.mem.put k b }

/-- Bytes that a unit of the package reads or writes itself (a table, a record, a ring): as stored, in plaintext (log 8). -/
def devByte (s : State) (key : Nat) : BitVec 8 := sealedByte s key (plainSlot, 0)

def devNat (s : State) : Nat → Nat → Nat
  | 0, _ => 0
  | n + 1, k => (devByte s k).toNat + 256 * devNat s n (k + 1)

def devBytes (s : State) (n k : Nat) : List (BitVec 8) := (List.range n).map (fun i => devByte s (k + i))

def sealedPutBytes (s : State) (k : Nat) (bs : List (BitVec 8)) (cur : KeySlot × Nat) : State :=
  bs.zipIdx.foldl (fun s b => sealedPut s (k + b.2) b.1 cur) s

/-- The damaged units that n bytes from a key cover whole are whole again (R420). -/
def mendCovered (s : State) (k n : Nat) : State :=
  if s.bad = [] ∧ s.damaged = [] then s
  else
    let inside := fun (w u : Nat) => decide (k ≤ w * u) && decide (w * u + w ≤ k + n)
    { s with bad := s.bad.filter (fun u => !inside 64 u),
             damaged := s.damaged.filter (fun c => match c with
               | .l2 u => !inside 32 u
               | .l1 _ u => !inside 4 u
               | _ => true) }

def devPutBytes (s : State) (k : Nat) (bs : List (BitVec 8)) : State := sealedPutBytes (mendCovered s k bs.length) k bs (plainSlot, 0)

def devPut (s : State) (n k v : Nat) : State := devPutBytes s k (natBytes n v)

/-! ## Blocks of SPACE 1 (R364, R365) -/

/-- The key of the descriptor of page pg of a stack's aperture. -/
def descrKey (s : State) (st pg : Nat) : Nat := physKey 0 (bitsOf (s.reg (regCMP st 8)) 16 36 * 65536 + 16 * pg)

/-- The descriptor of an aperture page (R364): SBASE and the 16 allotments. -/
def descrOf (s : State) (st pg : Nat) : Nat × List Nat :=
  let a := descrKey s st pg
  (devNat s 4 a, (List.range 16).map (fun b => bitsOf (devNat s 8 (a + 4)) (4 * b) 4))

/-- The SPACE 0 key of block b's first sector (R364). -/
def blockKey (s : State) (st blk : Nat) : Nat :=
  let d := descrOf s st (blk / 16)
  physKey 0 (st * (64 * gib) + 32 * (d.1 + ((d.2.take (blk % 16)).foldl (· + ·) 0)))

/-- The tweak of sector i of a block (R373): the number of the block among those of SPACE 1 is taken for its block address (DESIGN CHOICE, log 106). -/
def sectorTweak (st blk i : Nat) : Nat := (st * 2 ^ 30 + blk) * 8 + i

/-- The stored sectors of a block, read under a key slot (R373). -/
def sectorBytes (s : State) (st blk n : Nat) (k : KeySlot) : List (BitVec 8) :=
  (List.range n).flatMap (fun i => (List.range 32).map (fun j =>
    sealedByte s (blockKey s st blk + 32 * i + j) (sealOf k (sectorTweak st blk i))))

/-- The stored image of block blk of stack st under a key slot: from the overflow buffer, where it is held in plaintext, or expanded (R365, R366).
`forms` holds the number of sectors that the base die stored: by it the base die knows the block's form, whatever the sectors or the bitmap hold since
(DESIGN CHOICE, log 106). -/
def blockImage (s : State) (st blk : Nat) (k : KeySlot) : List (BitVec 8) :=
  match aget s.overflow (st * 2 ^ 40 + blk) with
  | some x => x.2.2
  | none =>
    let n := (aget s.forms (st * 2 ^ 40 + blk)).getD 0
    expandForm n (sectorBytes s st blk n k)

/-- The stack and block of a SPACE 1 key. -/
def blockOf (key : Nat) : Nat × Nat := (keyAddr key / (256 * gib), keyAddr key % (256 * gib) / 256)

/-- A byte as an access with a key slot reads it (R373, R374): SPACE 1 from the dirty line in L2 that carries the slot, else from
its block. -/
def unitByte (s : State) (key kid : Nat) : BitVec 8 :=
  if keySpace key = 1 then
    match aget s.dirty key with
    | some (k, b) => if k = kid then b else (blockImage s (blockOf key).1 (blockOf key).2 (keySlot s kid)).getD (keyAddr key % 256) 0
    | none => (blockImage s (blockOf key).1 (blockOf key).2 (keySlot s kid)).getD (keyAddr key % 256) 0
  else sealedByte s (storeKey s key) (sealOf (keySlot s kid) (keyAddr key / 32))

/-- A byte written by an access with a key slot. -/
def unitPut (s : State) (key kid : Nat) (b : BitVec 8) : State :=
  if keySpace key = 1 then { s with dirty := aput key (kid, b) s.dirty }
  else sealedPut s (storeKey s key) b (sealOf (keySlot s kid) (keyAddr key / 32))

/-! ## Damaged units (R420) -/

/-- The stored sectors of a block that takes n that a read of byte o of its image expands (R362, R365): the byte's own of a raw block; the first,
which holds the bitmap, and that of its word, where the word is not zero. The bitmap is taken as it was stored. -/
def byteSectors (s : State) (st blk n o : Nat) : List Nat :=
  if n = 0 then []
  else if n = 8 then [o / 32]
  else
    let bm := memNat s.mem 8 (blockKey s st blk)
    if n = 1 ∨ bitsOf bm (o / 4) 1 = 0 then [0]
    else [0, (8 + 4 * ((List.range (o / 4)).filter (fun i => bitsOf bm i 1 = 1)).length) / 32]

/-- The keys of the sectors that a read of the byte at a key of SPACE 1 takes from HBM4E: none of a byte that L2 or the overflow buffer holds. -/
def sectorKeys (s : State) (key : Nat) : List Nat :=
  let b := blockOf key
  if (aget s.dirty key).isSome ∨ (aget s.overflow (b.1 * 2 ^ 40 + b.2)).isSome then []
  else
    (byteSectors s b.1 b.2 ((aget s.forms (b.1 * 2 ^ 40 + b.2)).getD 0) (keyAddr key % 256)).map (fun i => blockKey s b.1 b.2 + 32 * i)

/-- The descriptor by which the base die finds the block of a byte of SPACE 1 that L2 does not hold lies in a damaged unit (R364, R420; log 101). -/
def badDescr (s : State) (key : Nat) : Bool :=
  s.bad ≠ [] && keySpace key = 1 && (aget s.dirty key).isNone && s.bad.contains (descrKey s (blockOf key).1 ((blockOf key).2 / 16) / 64)

/-- The byte at a key lies in a damaged unit of memory: 64 bytes of HBM4E, or of a device; a byte of SPACE 1 whose descriptor is in one, in a damaged
sector that its read expands, or in 64 bytes of an image that the overflow buffer took from one. -/
def badMem (s : State) (key : Nat) : Bool :=
  if s.bad = [] then false
  else if keySpace key = 1 then
    badDescr s key || (sectorKeys s key).any (fun k => s.bad.contains (k / 64)) || ((aget s.dirty key).isNone && s.bad.contains (key / 64))
  else s.bad.contains (storeKey s key / 64)

/-- The byte at a key lies in a damaged unit of memory or of L2. -/
def badUnit (s : State) (key : Nat) : Bool := badMem s key || s.damaged.contains (.l2 (key / 32))

/-- One of n bytes from a key does. -/
def badSpan (s : State) (k n : Nat) : Bool :=
  if s.bad = [] ∧ s.damaged = [] then false else (List.range n).any (fun i => badUnit s (k + i))

/-- A record ring of 2^lg slots with its header at a key has room for record i (R358). A header in a damaged unit tells no GET: no record is written until
the driver has written the header anew (DESIGN CHOICE, log 101). -/
def ringHas (s : State) (base lg i : Nat) : Bool := i < devNat s 8 (base + 8) + (2 ^ lg - 1) && !badSpan s base 16

/-- A store of n bytes from a key covers a damaged unit only in part (R420). -/
def badPart (s : State) (k n : Nat) : Bool :=
  let inside := fun (w b : Nat) => decide (k ≤ b / w * w) && decide (b / w * w + w ≤ k + n)
  if s.bad = [] ∧ s.damaged = [] then false
  else (List.range n).any (fun i => (badMem s (k + i) && !inside 64 (k + i)) || (s.damaged.contains (.l2 ((k + i) / 32)) && !inside 32 (k + i)))

/-! ## Page tables (R347–R353) -/

inductive AccKind where
  | read
  | write
  | fetch
  deriving DecidableEq, Repr

/-- Where a byte lies: scratchpad of a crew of the gang, or memory with its key slot and bound index. The key names the byte by its
physical address; `storeKey` says where it is stored. -/
inductive Loc where
  | spad (crew off : Nat)
  | phys (key kid : Nat) (bnd : Option Nat)
  deriving DecidableEq, Repr

/-- Why an access does not perform: PROT (with the malformed-entry bit), PAGE, a key-slot command that runs for its slot (R374), ECC_UNCORR,
LINK_DOWN, ALIGN. -/
inductive AccErr where
  | prot (malformed : Bool)
  | page
  | busy
  | ecc
  | link
  | align
  deriving DecidableEq, Repr

/-- How a walk ends (R350); a PROT says whether an entry is malformed, a leaf where its entry stands, unless the TLB held it. -/
inductive WalkRes where
  | page
  | prot (malformed : Bool)
  | ecc
  | leaf (pte : Nat) (log : Nat) (at_ : Option Nat)
  deriving DecidableEq, Repr

/-- log2 of the page size of a leaf (R348). -/
def leafLog (level : Nat) (leaf : Bool) : Nat :=
  match level with
  | 3 => 39
  | 2 => 30
  | 1 => 21
  | _ => if leaf then 16 else 12

/-- The key of the entry for an address in the table at `tab` of level f. -/
def entryKey (va f tab : Nat) : Nat := tab + 8 * (if f = 4 then va / 2 ^ 48 % 4096 else va / 2 ^ (12 + 9 * f) % 512)

/-- The walk from the table at `tab` of level `f - 1` (R348–R350); an entry at an address that its space does not back raises PROT (R346). -/
def walk (s : State) (va : Nat) : Nat → Nat → WalkRes
  | 0, _ => .prot true
  | f + 1, tab =>
    let a := entryKey va f tab
    if !backed s (keySpace a) (keyAddr a) then .prot false
    else if badUnit s a then .ecc
    else
      let e := devNat s 8 a
      let leafBit := bitsOf e 1 1 = 1
      if e % 2 = 0 then .page
      else if bitsOf e 9 3 ≠ 0 then .prot true
      else if f = 0 ∨ (leafBit ∧ f ≠ 4) then
        let lg := leafLog f leafBit
        let fr := bitsOf e 12 40
        if lg ≠ 16 ∧ fr % 2 ^ (lg - 12) ≠ 0 then .prot true else .leaf e lg (some a)
      else if leafBit then .prot true
      else if bitsOf e 2 7 ≠ 0 ∨ bitsOf e 52 7 ≠ 0 ∨ bitsOf e 61 3 ≠ 0 ∨ bitsOf e 59 2 = 1 ∨ bitsOf e 59 2 = 2 then .prot true
      else walk s va f (physKey (bitsOf e 59 2) (bitsOf e 12 40 * 4096))

/-- The table pointers that a walk from the table at `tab` of level `f - 1` follows: the level of each table reached, and the table. -/
def walkPtrs (s : State) (va : Nat) : Nat → Nat → List (Nat × Nat)
  | 0, _ => []
  | f + 1, tab =>
    let e := devNat s 8 (entryKey va f tab)
    if f = 0 ∨ bitsOf e 1 1 = 1 then []
    else
      let t := physKey (bitsOf e 59 2) (bitsOf e 12 40 * 4096)
      (f - 1, t) :: walkPtrs s va f t

/-! ## Walk caches and TLBs (R10, R353) -/

def dieOfCore (c : Nat) : Nat := if c < 192 then c / 96 else 0

/-- The core whose TLB an access uses: that of the crew at work, none for a unit that no crew works for. -/
def tlbCore (s : State) : Option Nat := if s.gang.pkt.crew = 0 then none else some s.crew.core

def tlbFind (tlb : List TlbEnt) (core ctx va : Nat) : Option TlbEnt :=
  tlb.find? (fun t => t.core = core && t.ctx = ctx && t.page = va / 2 ^ t.log)

/-- The prefix of an address that selects a table of a level. -/
def ptrPrefix (va level : Nat) : Nat := va / 2 ^ (12 + 9 * (level + 1))

/-- The cached pointer nearest the leaf for an address. -/
def ptrFind (l : List PtrEnt) (die ctx va : Nat) : Option PtrEnt :=
  (List.range 4).findSome? (fun lv => l.find? (fun p => p.die = die && p.ctx = ctx && p.level = lv && p.pre = ptrPrefix va lv))

/-- A walk for an access of a core: from the nearest table that its die's walk cache names, else from the root. -/
def walkNow (s : State) (core : Option Nat) (ctx : Nat) (c : Ctx) (va : Nat) : WalkRes :=
  match core.bind (fun x => ptrFind s.ptrs (dieOfCore x) ctx va) with
  | some p => walk s va (p.level + 1) p.tab
  | none => walk s va 5 (physKey c.rootSpace c.root)

/-- The leaf for an address: a translation in the core's TLB, unless the access is a write through one with D clear, or a walk
(R352, R353). -/
def leafFor (s : State) (ctx : Nat) (c : Ctx) (va : Nat) (k : AccKind) : WalkRes :=
  match (tlbCore s).bind (fun x => tlbFind s.tlb x ctx va) with
  | some t =>
    if k = .write ∧ bitsOf t.pte.toNat 61 1 = 0 then walkNow s (tlbCore s) ctx c va
    else .leaf t.pte.toNat t.log none
  | none => walkNow s (tlbCore s) ctx c va

/-- The physical key of an address under a leaf (R350, R351). -/
def leafKey (pte lg va : Nat) : Nat :=
  physKey (bitsOf pte 59 2) (bitsOf pte 12 40 * 4096 / 2 ^ lg * 2 ^ lg + va % 2 ^ lg)

/-- The location of a byte under a leaf, for an access of a kind (R350, R370). An access with the slot of a key-slot command waits while it
runs, and then meets the new mode (R374). -/
def leafLoc (s : State) (c : Ctx) (va : Nat) (k : AccKind) (e lg : Nat) : Except AccErr Loc :=
  let key := leafKey e lg va
  let slot := keySlot s (bitsOf e 52 7)
  if (k = .write ∧ bitsOf e 62 1 = 0) ∨ (k = .fetch ∧ bitsOf e 63 1 = 0) ∨ !backed s (keySpace key) (keyAddr key) then .error (.prot false)
  else if s.keyRun.any (fun x => x.1 = bitsOf e 52 7) then .error .busy
  else if slot.mode = 0 ∨ (keySpace key = 3 ∧ slot.mode ≠ 1) then .error (.prot false)
  else if keySpace key = 2 ∧ !Config.lmod ∧ !linkUp s (2 + portOf s (keyAddr key)) then
    .error .link
  else
    let bnd := if bitsOf e 2 1 = 1 then
        (if (aget c.bounds (bitsOf e 3 6)).isSome then some (bitsOf e 3 6) else none) else none
    .ok (.phys key (bitsOf e 52 7) bnd)

/-- One byte of global memory (R350). -/
def translate (s : State) (ctx va : Nat) (k : AccKind) : Except AccErr Loc :=
  match aget s.ctxs ctx with
  | none => .error (.prot false)
  | some c =>
    match leafFor s ctx c va k with
    | .page => .error .page
    | .prot m => .error (.prot m)
    | .ecc => .error .ecc
    | .leaf e lg _ => leafLoc s c va k e lg

/-- D set in memory by a write that walked (R352). -/
def setDirty (s : State) (ctx va : Nat) : State :=
  match aget s.ctxs ctx with
  | none => s
  | some c =>
    match leafFor s ctx c va .write with
    | .leaf e _ (some a) => if bitsOf e 61 1 = 0 then devPut s 8 a (e + 2 ^ 61) else s
    | _ => s

/-! ## The address space of a context (R112–R114) -/

def globalTop : Nat := 0x0FFFF00000000000
def shadowTop : Nat := 0x0FFFF40000000000
def gangBase : Nat := 0x0FFFFFFE00000000
def spadBase : Nat := 0x0FFFFFFF00000000

/-- The range an address lies in (R112), each shadow window and gang-window section a range of its own. -/
inductive Region where
  | global
  | shadow (w : Nat)
  | gang (c : Nat)
  | spad
  | reserved
  deriving DecidableEq, Repr

def regionOf (va : Nat) : Region :=
  if va < globalTop then .global
  else if va < shadowTop then .shadow ((va - globalTop) / 2 ^ 36)
  else if gangBase ≤ va ∧ va < gangBase + 0x400000 then .gang ((va - gangBase) / 0x80000)
  else if spadBase ≤ va ∧ va < spadBase + 0x70000 then .spad
  else .reserved

/-- Accesses through the window raise PROT: a SWBIND of it that issued before the access is not complete (R300). -/
def winClosed (s : State) (cx : Ctx) (w : Nat) : Bool :=
  cx.closing.any (fun x => x.1 = w && (match s.accStamp with
    | none => true
    | some t => decide (x.2 < t)))

/-- The key, in the context's pool, of the index that a bound offset of a shadow window takes (R361). -/
def indexKey (s : State) (ctx va : Nat) : Option Nat :=
  match regionOf va with
  | .shadow w => (aget s.ctxs ctx).bind (fun cx => (aget cx.windows w).bind (fun b =>
      let i := (va - globalTop) % 2 ^ 36 / b.z
      if i < b.idx.length then some (physKey 0 (cx.pool + 4096 * b.run + 4 * i)) else none))
  | _ => none

/-- That index lies in a damaged unit (R420). -/
def indexBad (s : State) (ctx va : Nat) : Bool :=
  if s.bad = [] ∧ s.damaged = [] then false else (indexKey s ctx va).any (fun k => badUnit s k)

/-- One byte of the address space of gang g's context, as crew c of the gang sees it (R112–R114). A bound offset whose computed address
lies outside the global range raises PROT: the manual states no outcome (DESIGN CHOICE, log 11). -/
def locate (s : State) (g : Gang) (c : Nat) (va : Nat) (k : AccKind) : Except AccErr Loc :=
  match regionOf va with
  | .global => translate s g.ctx va k
  | .shadow w =>
    match (aget s.ctxs g.ctx).bind (fun cx => if winClosed s cx w then none else aget cx.windows w) with
    | none => .error (.prot false)
    | some b =>
      let o := (va - globalTop) % 2 ^ 36
      match b.idx[o / b.z]? with
      | none => .error (.prot false)
      | some ix =>
        if indexBad s g.ctx va then .error .ecc else
        let ga := (b.base.toNat + ix.toNat * b.z + o % b.z) % 2 ^ 64
        if regionOf ga = .global then translate s g.ctx ga k else .error (.prot false)
  | .gang c' =>
    let o := (va - gangBase) % 0x80000
    if c' < g.pkt.gang ∧ o < g.pkt.spad * 1024 then .ok (.spad c' o) else .error (.prot false)
  | .spad => if va - spadBase < g.pkt.spad * 1024 then .ok (.spad c (va - spadBase)) else .error (.prot false)
  | .reserved => .error (.prot false)

/-- The order in which the failures of the bytes of one access are judged (R171): PROT, PAGE, a wait for a key slot, ECC_UNCORR, a link that is
down. -/
def AccErr.rank : AccErr → Nat
  | .align => 0
  | .prot _ => 1
  | .page => 2
  | .busy => 3
  | .ecc => 4
  | .link => 5

def joinLoc (x : Except AccErr Loc) (l : Except AccErr (List Loc)) : Except AccErr (List Loc) :=
  match x, l with
  | .ok a, .ok r => .ok (a :: r)
  | .ok _, .error e => .error e
  | .error e, .ok _ => .error e
  | .error e, .error f => .error (if f.rank < e.rank then f else e)

/-- The locations of the w bytes at va: within one range (R112); of the bytes that fail, the failure judged first. -/
def locateAll (s : State) (g : Gang) (c : Nat) (va w : Nat) (k : AccKind) : Except AccErr (List Loc) :=
  if regionOf va ≠ regionOf (va + w - 1) then .error (.prot false)
  else ((List.range w).map (fun i => locate s g c (va + i) k)).foldr joinLoc (.ok [])

/-- The unit of n bytes that holds the byte at a key is covered whole by the locations. -/
def covers (locs : List Loc) (key n : Nat) : Bool :=
  (List.range n).all (fun i => locs.any (fun l => match l with
    | .phys k _ _ => k = key / n * n + i
    | .spad _ _ => false))

/-- The unit of 4 bytes of a scratchpad is covered whole. -/
def coversSpad (locs : List Loc) (c o : Nat) : Bool :=
  (List.range 4).all (fun i => locs.any (fun l => match l with
    | .spad c' o' => c' = c && o' = o / 4 * 4 + i
    | .phys _ _ _ => false))

/-- The byte at a key lies in a damaged unit of the L1 of the core at work, which serves the accesses of its crews (R10, R420; log 82). -/
def l1Bad (s : State) (key : Nat) : Bool := s.gang.pkt.crew ≠ 0 && s.damaged.contains (.l1 s.crew.core (key / 4))

/-- A location in a damaged unit that the access reads (R420): any unit of a load, a unit that a store covers only in part, the descriptor of its
block. -/
def readsLoc (s : State) (locs : List Loc) (k : AccKind) (l : Loc) : Bool :=
  match l with
  | .phys key _ _ =>
    badDescr s key || (badMem s key && (k ≠ .write || !covers locs key 64)) || (s.damaged.contains (.l2 (key / 32)) && (k ≠ .write || !covers locs key 32)) ||
      (l1Bad s key && (k ≠ .write || !covers locs key 4))
  | .spad c o => s.damaged.contains (.spad s.gid c (o / 4)) && (k ≠ .write || !coversSpad locs c o)

def readsBad (s : State) (locs : List Loc) (k : AccKind) : Bool := locs.any (readsLoc s locs k)

/-! ## Scratchpads of the loaded gang -/

def crewOf (s : State) (c : Nat) : Option Crew := if c = s.crew.no then some s.crew else aget s.gang.crews c

def setCrew (s : State) (c : Nat) (f : Crew → Crew) : State :=
  if c = s.crew.no then { s with crew := f s.crew }
  else match aget s.gang.crews c with
    | none => s
    | some cr => { s with gang := { s.gang with crews := aput c (f cr) s.gang.crews } }

/-- One byte at a location. -/
def locGet (s : State) : Loc → BitVec 8
  | .spad c o => ((crewOf s c).map (fun cr => cr.spad.get o)).getD 0
  | .phys key kid _ => unitByte s key kid

/-- A unit of L2 or of an L1 that holds the byte at a key. -/
def Cell.copies (key : Nat) : Cell → Bool
  | .l2 u => u = key / 32
  | .l1 _ u => u = key / 4
  | _ => false

/-- A damaged unit that is written is whole again: a store that covers it in part has failed before (R420). The copies that the L1 of other cores
hold of it are no longer read (R121; log 82). -/
def mend (s : State) (l : Loc) : State :=
  match l with
  | .spad c o => if s.damaged = [] then s else { s with damaged := s.damaged.filter (· ≠ .spad s.gid c (o / 4)) }
  | .phys key _ _ =>
    if s.bad = [] ∧ s.damaged = [] then s
    else { s with bad := s.bad.filter (· ≠ storeKey s key / 64), damaged := s.damaged.filter (fun c => !c.copies key) }

def locPut (s : State) (l : Loc) (b : BitVec 8) : State :=
  match l with
  | .spad c o => mend (setCrew s c (fun cr => { cr with spad := cr.spad.put o b })) l
  | .phys key kid _ => mend (unitPut s key kid b) l

/-! ## Bounded lines (R129–R135) -/

/-- The value of an e8m8 code (R130). -/
def e8m8 (c : BitVec 16) : Dy :=
  let e := c.toNat / 256
  if e = 0 then ⟨0, 0⟩ else ⟨256 + (c.toNat % 256 : Nat), (e : Int) - 127 - 8⟩

/-- RoundUp8 (R130); none above the largest code. -/
def roundUp8 (d : Dy) : Option (BitVec 16) :=
  if d.m ≤ 0 then some 0
  else if d.log2 < -126 then some 0x0100
  else
    let k := d.log2 - 8
    let lo := d.floorAt k
    let n := if Dy.eq d ⟨lo, k⟩ then lo else lo + 1
    let e := d.log2 + 127
    let code := e * 256 + (n - 256)
    if code ≤ 0xFFFF then some (BitVec.ofInt 16 code) else none

/-- RoundDown8 (R130). -/
def roundDown8 (d : Dy) : BitVec 16 :=
  if d.m ≤ 0 ∨ d.log2 < -126 then 0
  else
    let e := d.log2 + 127
    if 255 < e then 0xFFFF else BitVec.ofInt 16 (e * 256 + (d.floorAt (d.log2 - 8) - 256))

/-- An element of the region's type as a value; its limit. -/
def boundVal (fp : Bool) (x : BitVec 32) : Val :=
  if fp then (decodeFlt x.toNat fmtF32).val else Val.ofDy (Dy.ofInt x.toInt)
def Bound.limit (b : Bound) : Dy := (boundVal b.fp b.l).dy

/-- The sum of two elements: FP32 with RNE and no flush, or INT32 modulo 2^32 (R130, R253). -/
def boundAdd (fp : Bool) (a b : BitVec 32) : BitVec 32 :=
  if fp then BitVec.ofNat 32 (convert false (sumVals [boundVal true a, boundVal true b] false) .rne (.flt fmtF32)) else a + b

def lineKey (key : Nat) : Nat := key / 128

/-- Element e of a line, at its home, as an access with a key slot reads and writes it (R131, R373). -/
def lineWord (s : State) (kid ln e : Nat) : BitVec 32 :=
  BitVec.ofNat 32 (bytesNat ((List.range 4).map (fun i => unitByte s (ln * 128 + 4 * e + i) kid)))
def setLineWord (s : State) (kid ln e : Nat) (v : BitVec 32) : State :=
  ((natBytes 4 v.toNat).zipIdx).foldl (fun s b => unitPut s (ln * 128 + 4 * e + b.2) kid b.1) s

/-- Contributions added to elements of a line at its home. -/
def addHome (fp : Bool) (kid ln : Nat) (els : List (Nat × BitVec 32)) (s : State) : State :=
  els.foldl (fun s e => setLineWord s kid ln e.1 (boundAdd fp (lineWord s kid ln e.1) e.2)) s

/-- A share taken back: what is left of the line's bookkeeping. -/
def dropShare (s : State) (ln h : Nat) (x : Line) (sh : Share) : State :=
  let x' := { x with u := x.u.add (e8m8 sh.s), shares := adel h x.shares }
  { s with lines := if x'.shares = [] then adel ln s.lines else aput ln x' s.lines }

/-- drain(H, x) of R131. -/
def drainHolder (s : State) (ln h : Nat) : State :=
  match aget s.lines ln with
  | none => s
  | some x =>
    match aget x.shares h with
    | none => s
    | some sh =>
      let fp := ((aget s.ctxs x.ctx).bind (fun c => aget c.bounds x.bidx)).any (fun b => b.fp)
      dropShare (addHome fp x.kid ln sh.deltas s) ln h x sh

/-- Every holder of a line drained. -/
def drainLine (s : State) (ln : Nat) : State :=
  match aget s.lines ln with
  | none => s
  | some x => x.shares.foldl (fun s h => drainHolder s ln h.1) s

/-- The holder with the largest share, the lower number on ties (R132). -/
def largestHolder (x : Line) : Option Nat :=
  x.shares.foldl (fun best h => match best with
    | none => some h.1
    | some b =>
      match aget x.shares b with
      | some sb => if sb.s.toNat < h.2.s.toNat then some h.1 else some b
      | none => some h.1) none

/-- Forced drains until the allocated total is within the tolerance (R132). -/
def drainTo (ln : Nat) (limit t : Dy) : Nat → State → State
  | 0, s => s
  | f + 1, s =>
    match aget s.lines ln with
    | none => s
    | some x =>
      if Dy.lt t (limit.add x.u.neg) then
        match largestHolder x with
        | none => s
        | some h => drainTo ln limit t f (drainHolder s ln h)
      else s

def linesOf (s : State) (h : Nat) : Nat := (s.lines.filter (fun l => (aget l.2.shares h).isSome)).length

/-- The line that holder h contributed to least recently. -/
def oldestLine (s : State) (h : Nat) : Option Nat :=
  (s.lines.foldl (fun (best : Option (Nat × Nat)) l => match aget l.2.shares h, best with
    | none, b => b
    | some sh, none => some (l.1, sh.last)
    | some sh, some b => if sh.last < b.2 then some (l.1, sh.last) else some b) none).map (·.1)

/-- A line evicted from a full withhold buffer, least recently contributed first (R130, R135). -/
def makeRoom (s : State) (h : Nat) : State :=
  if linesOf s h < (if h < 192 then 64 else 256) then s
  else match oldestLine s h with
    | none => s
    | some l => drainHolder s l h

/-- A contribution of one or more elements to a bounded line at holder h, in a page with a key slot (R131); under a limit of 0 it applies at
home (R360). -/
def contribute (s : State) (ctx bidx : Nat) (b : Bound) (kid ln h : Nat) (els : List (Nat × BitVec 32)) : State :=
  let atHome := addHome b.fp kid ln els
  let addTo := fun (ds : List (Nat × BitVec 32)) => els.foldl (fun ds e => match aget ds e.1 with
    | none => aput e.1 e.2 ds
    | some d => aput e.1 (boundAdd b.fp d e.2) ds) ds
  let vals := els.map (fun e => boundVal b.fp e.2)
  if b.limit.m = 0 ∨ vals.any (fun v => v = .nan || v = .inf true || v = .inf false) then atHome (drainHolder s ln h)
  else
    let m := vals.foldl (fun a v => if Dy.lt a v.dy.abs then v.dy.abs else a) ⟨0, 0⟩
    let x := (aget s.lines ln).getD ⟨ctx, bidx, kid, b.limit, []⟩
    let grant := fun (s : State) =>
      let s := makeRoom s h
      let x := (aget s.lines ln).getD ⟨ctx, bidx, kid, b.limit, []⟩
      let g := roundDown8 ⟨x.u.m, x.u.e - 1⟩
      match roundUp8 m with
      | some r =>
        if r.toNat ≤ g.toNat then
          { s with lines := aput ln { x with u := x.u.add (e8m8 g).neg, shares := aput h ⟨g, r, addTo [], s.fresh⟩ x.shares } s.lines,
                   fresh := s.fresh + 1 }
        else atHome s
      | none => atHome s
    match aget x.shares h with
    | some sh =>
      match roundUp8 ((e8m8 sh.tau).add m) with
      | some t =>
        if t.toNat ≤ sh.s.toNat then
          { s with lines := aput ln { x with shares := aput h ⟨sh.s, t, addTo sh.deltas, s.fresh⟩ x.shares } s.lines,
                   fresh := s.fresh + 1 }
        else grant (drainHolder s ln h)
      | none => grant (drainHolder s ln h)
    | none => grant s

/-- A line of an ordinary access is drained first (R131, R132). -/
def drainFor (s : State) (locs : List Loc) : State :=
  if s.lines = [] then s
  else locs.foldl (fun s l => match l with
    | .phys key _ (some _) => drainLine s (lineKey key)
    | _ => s) s

/-- The little-endian value at locations, and a store of one (R5). -/
def locsNat (s : State) (locs : List Loc) : Nat := bytesNat (locs.map (locGet s))
def locsPut (s : State) (locs : List Loc) (v : Nat) : State :=
  ((natBytes locs.length v).zip locs).foldl (fun s b => locPut s b.2 b.1) s

end Sys2Proof.Machine
end

