-- ==== Sys2Proof/Machine/SgTable.lean ====
section
/-! DEFINITION. The sample-group table (R149–R153): completion, advantages, and what the end of a sibling does. -/
namespace Sys2Proof.Machine

def clusterOf (s : State) (c : Nat) : Cluster := (aget s.clusters c).getD .zero
def setCluster (s : State) (c : Nat) (x : Cluster) : State := { s with clusters := aput c x s.clusters }

def f32NaN : BitVec 32 := 0x7FC00000

/-- A bitmap with bit i set or cleared. -/
def setBit64 (x : BitVec 64) (i : Nat) (b : Bool) : BitVec 64 :=
  if b then x ||| BitVec.ofNat 64 (2 ^ i) else x &&& ~~~(BitVec.ofNat 64 (2 ^ i))

/-- An FP64 operation's result rounded RNE (R153). -/
def rne64 (v : Val) : Val := roundVal false v fmtF64 .rne

def sqrt64 (v : Val) : Val :=
  match v with
  | .num d => if d.m < 0 then .nan else rne64 (.num d.sqrt)
  | .inf true => .nan
  | v => v

/-- The siblings of an entry that arrived, ascending (R153). -/
def SgEntry.present (e : SgEntry) : List Nat := (List.range e.g).filter (fun i => e.arrived.getLsbD i)

/-- Completion of an entry (R152, R153). Each sum starts from +0, which the manual does not say: it gives the sign of a zero sum of rewards that
are all −0 (DESIGN CHOICE, log 76). -/
def SgEntry.complete' (e : SgEntry) : SgEntry :=
  let pr := e.present
  let n := pr.length
  let r := fun (i : Nat) => (decodeFlt (e.rewards.get i).toNat fmtF32).val
  let bad := pr.any (fun i => r i = .nan || r i = .inf true || r i = .inf false)
  let nv := Val.ofDy (Dy.ofInt n)
  let add := fun (a b : Val) => rne64 (sumVals [a, b] false)
  let mu := rne64 ((pr.foldl (fun a i => add a (r i)) (.zero false)).div nv)
  let dev := fun (i : Nat) => add (r i) mu.neg
  let v := rne64 ((pr.foldl (fun a i => add a (rne64 ((dev i).mul (dev i)))) (.zero false)).div nv)
  let ve := add v (decodeFlt e.eps.toNat fmtF32).val
  let zv := !bad && 2 ≤ n && ve.cmp (.zero false) = some .eq
  let advOf := fun (i : Nat) =>
    if bad then f32NaN
    else if n < 2 ∨ zv then 0
    else BitVec.ofNat 32 (convert false (rne64 ((dev i).div (sqrt64 ve))) .rne (.flt fmtF32))
  let adv := (List.range e.g).foldl (fun (st : Store 32) i =>
    st.put i (if e.arrived.getLsbD i then advOf i else f32NaN)) (.empty 32)
  let absent := (List.range e.g).foldl (fun x i => setBit64 x i (!e.arrived.getLsbD i)) 0
  { e with complete := true, adv := adv, absent := absent, zv := zv, small := decide (n < 2), n := n }

/-- The test of R152 that all siblings are arrived or cancelled. -/
def SgEntry.settle (e : SgEntry) : SgEntry :=
  if !e.complete && (List.range e.g).all (fun i => e.arrived.getLsbD i || e.cancelled.getLsbD i) then e.complete' else e

/-- The context of a resident gang, the loaded one included. -/
def gangCtx (s : State) (gid : Nat) : Option Nat :=
  if s.gang.pkt.crew ≠ 0 ∧ s.gid = gid then some s.gang.ctx else (aget s.gangs gid).map (fun g => g.ctx)

/-- A save area is written: the manual gives no layout of it, and its bytes become undefined (R149, R387; log 41). -/
def spoilSave (s : State) (c : Ctx) : State :=
  if c.saveSize = 0 then s
  else { s with mem := s.mem.spoil (physKey 0 c.save) (physKey 0 c.save + 1024 * c.saveSize) s.fresh, fresh := s.fresh + 1 }

/-- An update to the sample-group entries of a gang is written through to its context's save area before it takes effect (R149). -/
def saveThrough (s : State) (gid : Nat) : State :=
  match (gangCtx s gid).bind (aget s.ctxs) with
  | none => s
  | some c => spoilSave s c

def setSg (s0 : State) (cl ix : Nat) (e : SgEntry) : State :=
  let s := saveThrough s0 e.gang
  let c := clusterOf s cl
  setCluster s cl { c with sg := aput ix e c.sg }

def sgOf (s : State) (cl ix : Nat) : Option SgEntry := aget (clusterOf s cl).sg ix

/-- A sibling of an entry has a live lane in a group of the gang, or a record. -/
def sibLive (g : Gang) (sib : Nat × Nat) : Bool :=
  g.crews.any (fun c => c.2.recs.any (fun r => r.sib = some sib) ||
    c.2.groups.any (fun x => x.2.sib = some sib && x.2.splits ≠ []))

/-- Siblings that ended before they arrived count as cancelled, and an entry whose siblings have all ended is free
(R151–R153); in a cycle of several operations that is seen after the last of them (R271). -/
def sgSweep (s : State) (gid : Nat) : State :=
  match aget s.gangs gid with
  | none => s
  | some g =>
    if g.crews.any (fun c => c.2.joint) then s
    else match g.crews with
    | [] => s
    | (_, c0) :: _ =>
      let cl := c0.core / 8
      let x := clusterOf s cl
      let sg := x.sg.filterMap (fun e =>
        if e.2.gang ≠ gid then some e
        else
          let dead := (List.range e.2.g).filter (fun i => !sibLive g (e.1, i))
          if dead.length = e.2.g then none
          else
            let can := dead.foldl (fun b i => if e.2.arrived.getLsbD i then b else setBit64 b i true) e.2.cancelled
            some (e.1, if e.2.complete then e.2 else { e.2 with cancelled := can }.settle))
      if sg = x.sg then s else setCluster (saveThrough s gid) cl { x with sg := sg }

end Sys2Proof.Machine
end

