-- ==== Sys2Proof/Machine/Ops.lean ====
section
/-! DEFINITION. The named operations over registers, barriers, batches, splits and records: taking a fault (`raise`)
and a PAGE (`suspend`), the next-address selector, and `retire`, the order of checks of R171. -/
namespace Sys2Proof.Machine

/-- What an instruction's meaning answers. -/
abbrev Out := Host.Outcome State Fault Refusal

/-! ## Cores and counters (R211) -/

def coreOf (s : State) (c : Nat) : Core := (aget s.cores c).getD .zero
def setCore (s : State) (c : Nat) (x : Core) : State := { s with cores := aput c x s.cores }
def bump (s : State) (c ix n : Nat) : State :=
  let x := coreOf s c
  setCore s c { x with cnt := x.cnt.put ix (x.cnt.get ix + BitVec.ofNat 64 n) }

/-- T: the waits and terms, a cycle for each skipped row, and the 6 cycles of the drain (R67). -/
def StepPlan.cycles (p : StepPlan) : Nat := p.width + p.skip + 6

/-- Of runs of cycles, each with its first and its length, how many have passed in the first n cycles. -/
def ranBy (l : List (Nat × Nat)) (n : Nat) : Nat := (l.map (fun x => min x.2 (n - x.1))).foldl (· + ·) 0

/-- A fresh number for undefined contents (log 3, 5). -/
def State.freshen (s : State) : State := { s with fresh := s.fresh + 1 }

/-- A counter of which the manual states only what it counts grows by at least n (R87, R211; log 15): n and a free value more. -/
def bumpSome (s : State) (c ix n : Nat) : State := (bump s c ix (n + (Config.freeBits 32 s.fresh ix).toNat)).freshen

/-- TLBMISS and L1MISS of a core after accesses of its: how many of them miss depends on caches that the manual does not give (R10, R211; log 15). -/
def countMisses (s : State) (core : Nat) : State := bumpSome (bumpSome s core 0x20 0) core 0x21 0

/-- Arithmetic-clock rate of a cluster in sixteenths of a slate cycle (R2): 0 while its die is dark or it is gated (R389, R392). -/
def clockRate (s : State) (cl : Nat) : Nat :=
  if s.dark.contains (cl / 12) ∨ bitsOf (s.reg (regCLSTAT cl)) 12 1 = 1 then 0
  else match bitsOf (s.reg (regCLSTAT cl)) 10 2 with
    | 0 => 25
    | 1 => 27
    | _ => 29

/-- Sixteenths of arithmetic cycles of a core up to n slate cycles from now. -/
def coreSixteenths (s : State) (c n : Nat) : Nat :=
  let x := coreOf s c
  x.cyc16 + clockRate s (c / 8) * (s.clock.toNat + n - x.cycAt)

/-- Arithmetic cycles of a core since its reset (R213). -/
def coreCycles (s : State) (c : Nat) : Nat := coreSixteenths s c 0 / 16

/-- Arithmetic cycles of a core in the next n slate cycles. -/
def cyclesIn (s : State) (c n : Nat) : Nat := coreSixteenths s c n / 16 - coreSixteenths s c 0 / 16

/-- The count of every core of a cluster taken up to now, before its rate changes. -/
def settleClock (s : State) (cl : Nat) : State :=
  (List.range 8).foldl (fun s i =>
    setCore s (8 * cl + i) { coreOf s (8 * cl + i) with cyc16 := coreSixteenths s (8 * cl + i) 0, cycAt := s.clock.toNat }) s

/-! ## Entries that a receiver refused (R58, R59) -/

/-- Two entries have the same sender and receiver. -/
def NakMsg.sameFlow : NakMsg → NakMsg → Bool
  | .packet _ w c q _ _ _ _, .packet _ w' c' q' _ _ _ _ => w = w' && c = c' && q = q'
  | .lease _ c r, .lease _ c' r' => r.who = r'.who && c = c'
  | .sample _ w c _, .sample _ w' c' _ => w = w' && c = c'
  | .grow a _ _, .grow b _ _ => a = b
  | .ingress a _, .ingress b _ => a = b
  | _, _ => false

/-- The core whose sender sent the entry (R211), and the sender's die (R59). -/
def NakMsg.core : NakMsg → Option Nat
  | .packet c _ _ _ _ _ _ _ => some c
  | .lease c _ _ => some c
  | .sample c _ _ _ => some c
  | .grow _ _ _ => none
  | .ingress _ _ => none

def NakMsg.die : NakMsg → Nat
  | .grow sl _ _ => sl / 48
  | .ingress e _ => e / 288
  | m => dieOfCore (m.core.getD 0)

/-- The sender has an entry to resend to the receiver; its window of 8 is full. -/
def flowBusy (s : State) (m : NakMsg) : Bool := s.naks.any (fun n => n.msg.sameFlow m)
def flowFull (s : State) (m : NakMsg) : Bool := 8 ≤ (s.naks.filter (fun n => n.msg.sameFlow m)).length
def keptMsg (s : State) (m : NakMsg) : Bool := s.naks.any (fun n => n.msg = m)

/-- The back-off after the k-th consecutive NAK of an entry of a die's sender (R59). -/
def backoff (s : State) (die k : Nat) : Nat :=
  let x := s.reg (regBACKOFF die)
  max 1 (bitsOf x 0 12) * 2 ^ min (k - 1) (bitsOf x 12 4)

/-- An entry kept by its sender: NAKed, or dropped because it follows a NAKed one. -/
def refuse (s : State) (m : NakMsg) : State :=
  { s with naks := s.naks ++ [if flowBusy s m then ⟨m, 0, 0⟩ else ⟨m, 1, s.clock.toNat + backoff s m.die 1⟩] }

/-! ## The issuer in execution -/

def curWho (s : State) : Who :=
  match s.cur with
  | .stream => ⟨s.gid, s.crew.no, 0, true⟩
  | _ => ⟨s.gid, s.crew.no, s.grp.key, false⟩

def isStream (s : State) : Bool := s.cur = .stream
def modeOf (s : State) : BitVec 32 := if isStream s then s.crew.strm.mode else s.grp.mode
def pcOf (s : State) : BitVec 64 := if isStream s then s.crew.strm.pc else s.split.pc
def holdOf (s : State) : Hold := if isStream s then s.crew.strm.hold else s.split.hold
def armedOf (s : State) : Option Armed := if isStream s then s.crew.strm.armed else s.split.armed

def setStrm (s : State) (f : Stream → Stream) : State := { s with crew := { s.crew with strm := f s.crew.strm } }
def setGrp (s : State) (f : Group → Group) : State := { s with grp := f s.grp }
def setSplit (s : State) (f : Split → Split) : State := { s with split := f s.split }
def setOwn (s : State) (f : Crew → Crew) : State := { s with crew := f s.crew }

def setMode (s : State) (m : BitVec 32) : State :=
  if isStream s then setStrm s (fun x => { x with mode := m }) else setGrp s (fun g => { g with mode := m })

def setHold (s : State) (h : Hold) : State :=
  if isStream s then setStrm s (fun x => { x with hold := h }) else setSplit s (fun x => { x with hold := h })

def setArmed (s : State) (a : Option Armed) : State :=
  if isStream s then setStrm s (fun x => { x with armed := a }) else setSplit s (fun x => { x with armed := a })

def setPc (s : State) (pc : BitVec 64) : State :=
  if isStream s then setStrm s (fun x => { x with pc := pc }) else setSplit s (fun x => { x with pc := pc })

/-- Loop start and count of the split or stream. -/
def lsOf (s : State) : BitVec 64 := if isStream s then s.crew.strm.ls else s.split.ls
def lcOf (s : State) : BitVec 64 := if isStream s then s.crew.strm.lc else s.split.lc
def setLs (s : State) (v : BitVec 64) : State :=
  if isStream s then setStrm s (fun x => { x with ls := v }) else setSplit s (fun x => { x with ls := v })
def setLc (s : State) (v : BitVec 64) : State :=
  if isStream s then setStrm s (fun x => { x with lc := v }) else setSplit s (fun x => { x with lc := v })

/-- The issuer waits: it is held in its instruction (R38). A wait that goes on changes nothing. -/
def waitAs (s : State) (h : Hold) : State := if holdOf s = h then { s with stalled := true } else setHold s h

/-! ## Registers (R159) -/

def vget (s : State) (r p : Nat) : BitVec 32 := s.grp.v.get (32 * r + p)
def vput (s : State) (r p : Nat) (v : BitVec 32) : State := setGrp s (fun g => { g with v := g.v.put (32 * r + p) v })
def sget (s : State) (r : Nat) : BitVec 64 := s.grp.s.get r
def sput (s : State) (r : Nat) (v : BitVec 64) : State := setGrp s (fun g => { g with s := g.s.put r v })
def eget (s : State) (r : Nat) : BitVec 64 := s.crew.strm.e.get r
def eput (s : State) (r : Nat) (v : BitVec 64) : State := setStrm s (fun x => { x with e := x.e.put r v })

/-- The issuer-scalar class of R159: s in a group, e in a stream. -/
def iget (s : State) (r : Nat) : BitVec 64 := if isStream s then eget s r else sget s r
def iput (s : State) (r : Nat) (v : BitVec 64) : State := if isStream s then eput s r v else sput s r v
def iLimit (s : State) : Nat := if isStream s then 32 else 64

def kget (s : State) (k p : Nat) : Bool := (s.grp.k.get k).getLsbD p
def kput (s : State) (k p : Nat) (b : Bool) : State :=
  let m := BitVec.ofNat 32 (2 ^ p)
  let x := s.grp.k.get k
  setGrp s (fun g => { g with k := g.k.put k (if b then x ||| m else x &&& ~~~m) })

/-- Declared v registers of the gang (R31). -/
def regsOf (s : State) : Nat := 16 * s.gang.pkt.regs

def tget (s : State) (n : Nat) : Tok := (aget (if isStream s then s.crew.strm.t else s.grp.t) n).getD .zero
def tput (s : State) (n : Nat) (t : Tok) : State :=
  if isStream s then setStrm s (fun x => { x with t := aput n t x.t }) else setGrp s (fun g => { g with t := aput n t g.t })

def hget (s : State) (n : Nat) : BitVec 17 := if isStream s then s.crew.strm.h.get n else s.grp.h.get n
def hput (s : State) (n : Nat) (h : BitVec 17) : State :=
  if isStream s then setStrm s (fun x => { x with h := x.h.put n h }) else setGrp s (fun g => { g with h := g.h.put n h })

/-! ## Active lanes (R165) -/

/-- Lane positions of a mask, ascending. -/
def lanesOf (m : BitVec 32) : List Nat := (List.range 32).filter (fun p => m.getLsbD p)

/-- The guard field and the inversion of MODE. -/
def guardOf (m : BitVec 32) : Nat := bitsOf m.toNat 13 4
def ginvOf (m : BitVec 32) : Bool := m.getLsbD 17

/-- The guard lets position p act. -/
def guardOk (s : State) (p : Nat) : Bool :=
  let n := guardOf s.grp.mode
  n = 0 || (kget s (n - 1) p != ginvOf s.grp.mode)

/-- L: the active lanes of the issuing split, ascending. -/
def active (s : State) : List Nat := (lanesOf s.split.mask).filter (guardOk s)

/-- An effect for each lane of L. -/
def forLanes (s : State) (ls : List Nat) (f : Nat → State → State) : State := ls.foldl (fun s p => f p s) s

/-! ## The event log (R409, R414–R416) -/

/-- The newest 8,192 records. -/
def logKeep (l : List LogRec) : List LogRec := l.drop (l.length - 8192)

/-- A record enters the log under the next sequence number. -/
def logPut (s : State) (r : LogRec) : State :=
  { s with log := logKeep (s.log ++ [{ r with seq := s.logSeq }]), logSeq := s.logSeq + 1 }

/-- An event that the AMB learns of: while it does not serve, the record waits, or is counted as discarded (R416). -/
def addLog (s : State) (sev cls site count : Nat) (data : Nat) : State :=
  let r : LogRec := ⟨0, s.clock, s.bootNo % 2 ^ 16, sev, cls, site, min count 0xFFFF, BitVec.ofNat 64 data⟩
  if s.amb.serving then logPut s r
  else if s.amb.waiting.length < 256 then { s with amb := { s.amb with waiting := s.amb.waiting ++ [r] } }
  else { s with amb := { s.amb with lost := s.amb.lost + 1 } }

/-- A number of w bits that tells a word within a storage; the manual does not give the numbering, and it is a free value (log 60). -/
def wordNo (s : State) (w : Nat) : Nat := (Config.freeBits w s.fresh 1).toNat

/-- Class, site and DATA of the event-log record for the damaged unit of memory or of L2 that holds the byte at a key (R415); units of a
device have none. -/
def keySite (s : State) (key : Nat) : Option (Nat × Nat × Nat) :=
  if s.damaged.contains (.l2 (key / 32)) then some (2, homeSlice s key, wordNo s 32)
  else if l1Bad s key then some (1, s.crew.core, 1 + 2 ^ 8 * wordNo s 24)
  else
    let unit := fun (a : Nat) => (3, keyAddr a / (64 * gib), keyAddr a / 64 * 64)
    match keySpace key with
    | 0 => if s.bad.contains (key / 64) then some (unit key) else none
    | 1 => (if badDescr s key then some (descrKey s (blockOf key).1 ((blockOf key).2 / 16)) else (sectorKeys s key).find? (fun k => s.bad.contains (k / 64))).map unit
    | _ => none

/-- The damaged entry that a walk from the table at `tab` of level `f - 1` meets. -/
def badEntry (s : State) (va : Nat) : Nat → Nat → Option Nat
  | 0, _ => none
  | f + 1, tab =>
    let a := entryKey va f tab
    if badUnit s a then some a
    else
      let e := devNat s 8 a
      badEntry s va f (physKey (bitsOf e 59 2) (bitsOf e 12 40 * 4096))

/-- The record for the damaged entry that a walk for an address of a context meets. -/
def walkSite (s : State) (ctx va : Nat) : Option (Nat × Nat × Nat) :=
  (aget s.ctxs ctx).bind (fun c =>
    let at_ := match (tlbCore s).bind (fun x => ptrFind s.ptrs (dieOfCore x) ctx va) with
      | some p => badEntry s va (p.level + 1) p.tab
      | none => badEntry s va 5 (physKey c.rootSpace c.root)
    at_.bind (keySite s))

/-- The AMB records the first damaged unit among n bytes from a key. -/
def noteSpan (s : State) (k n : Nat) : State :=
  match (List.range n).findSome? (fun i => keySite s (k + i)) with
  | none => s
  | some (c, site, d) => addLog s 3 c site 1 d

/-- The same for the byte at an address of the loaded gang: a scratchpad, memory, the index of a shadow window, or an entry of the page table. -/
def byteSite (s : State) (va : Nat) : Option (Nat × Nat × Nat) :=
  match locate s s.gang s.crew.no va .read with
  | .ok (.spad c o) =>
    if s.damaged.contains (.spad s.gid c (o / 4)) then
      some (1, ((crewOf s c).map (fun x => x.core)).getD s.crew.core, 1 + 2 ^ 8 * wordNo s 24) else none
  | .ok (.phys key _ _) => keySite s key
  | .error .ecc =>
    if indexBad s s.gang.ctx va then (indexKey s s.gang.ctx va).bind (keySite s)
    else walkSite s s.gang.ctx va
  | .error _ => none

/-- An uncorrectable error that a fault reports is recorded by the AMB (R413, R415, R416; log 60). A fault that names no address holds in the place of
one the storage of the core whose unit is damaged: 0 register file, 1 SRAM, 2 operand memory, 3 accumulators; or 4 more than the key of damaged memory. -/
def noteEcc (s : State) (f : Fx) (named : Bool) : State :=
  if f.cause = .eccUncorr then
    match if named then (List.range 8).findSome? (fun i => byteSite s (f.addr + i))
          else if 4 ≤ f.addr then keySite s (f.addr - 4)
          else some (1, s.crew.core, f.addr + 2 ^ 8 * wordNo s 24) with
    | none => s
    | some (c, site, d) => addLog s 3 c site 1 d
  else s

/-! ## Fault records (R357, R358) -/

/-- The die whose staging store holds a record: that of its core, or of the stack whose block grew (R358, R366). -/
def FRec.die (r : FRec) : Nat := if r.cause = .compressGrow then r.addr.toNat / (1024 * gib) else dieOfCore r.core

/-- The 512-record staging store of a die is full (R358). -/
def stagedFull (s : State) (die : Nat) : Bool := 512 ≤ (s.staged.filter (fun r => r.die = die)).length

/-- Records of a source (SRC) wait in the staging store because the device fault buffer is not enabled or its ring is full: the source stalls
(R358, R386). -/
def devWaits (s : State) (src : FRec → Bool) : Bool :=
  let l := s.staged.filter (fun r => r.dest = none)
  let d := s.reg regDFBBASE
  l.any src && (bitsOf d 54 1 = 0 || !ringHas s (physKey 0 (bitsOf d 12 40 * 4096)) (min (bitsOf d 0 4) 10 + 6) (s.devPut + l.length - 1))

/-- The dispatcher, whose records have SRC 9, stalls. -/
def dispStalls (s : State) : Bool := stagedFull s 0 || devWaits s (fun r => r.src = 9)

/-- A record staged for the context's fault buffer, or for the device fault buffer when there is no such context
(R119, R386); it counts for its grid (R383). -/
def pushRec (s : State) (grid : Option Nat) (ctx : Option Nat) (r : FRec) : State :=
  let s1 := match grid.bind (aget s.grids) with
    | none => s
    | some g => { s with grids := aput (grid.getD 0) { g with nrec := min (g.nrec + 1) (2 ^ 32 - 1) } s.grids }
  match ctx.bind (aget s.ctxs) with
  | some c =>
    { s1 with ctxs := aput (ctx.getD 0) { c with recSeq := c.recSeq + 1 } s1.ctxs,
              staged := s1.staged ++ [{ r with dest := ctx, seq := c.recSeq }] }
  | none => { s1 with devSeq := s1.devSeq + 1, staged := s1.staged ++ [{ r with dest := none, seq := s1.devSeq }] }

/-- The SEQ that the context's next record takes. -/
def nextSeq (s : State) (ctx : Nat) : Nat :=
  match aget s.ctxs ctx with
  | some c => c.recSeq
  | none => s.devSeq

/-- ADDR of a record: where the check names no address the manual states no value, and ADDR is a free value (log 5). -/
def recAddr (s : State) (f : Fx) : BitVec 64 :=
  if f.src = 10 ∧ f.addr = 0 then Config.freeBits 64 s.fresh 0 else BitVec.ofNat 64 f.addr

/-- The record of a fault of the issuer in execution. -/
def issuerRec (s : State) (f : Fx) (rid : Option Nat) : FRec :=
  { dest := none, cause := f.cause, src := f.src,
    flags := (if rid.isSome then 1 else 0) + (if f.write then 2 else 0) + (if isStream s then 32 else 0),
    seq := 0, addr := recAddr s f, pc := pcOf s, core := s.crew.core,
    group := if isStream s then 0xFF else s.grp.no, lane := f.lane, batch := 0, item := 0, aux := 0, rid := rid.getD 0,
    gang := s.gang.no, mark := if isStream s then 0 else s.grp.mark, detail := BitVec.ofNat 64 f.detail }

/-- The split or stream stops with a record. -/
def raiseNow (s : State) (f : Fx) : State :=
  let stop := some (nextSeq s s.gang.ctx, f.cause)
  let s1 := (pushRec (noteEcc s f (f.src ≠ 10)) (some s.gang.grid) (some s.gang.ctx) (issuerRec s f none)).freshen
  if isStream s then setStrm s1 (fun x => { x with stop := stop, hold := .none, guard := none })
  else setSplit s1 (fun x => { x with stop := stop, hold := .none })

/-- A precise fault (R171): no effect, the split or stream issues nothing more, and a record goes to the context's fault
buffer. With the staging store full the source stalls (R358). -/
def raise (s : State) (f : Fx) : State :=
  if stagedFull s (dieOfCore s.crew.core) then { s with stalled := true } else raiseNow s f

/-- The replay identity that accesses to a page join, or a new one with its record (R359). -/
def joinPage (s : State) (die ctx va : Nat) (record : Nat → State → State) : Nat × State :=
  match s.pageWaits.find? (fun w => w.die = die && w.ctx = ctx && w.page = va / 4096) with
  | some w => (w.rid, s)
  | none =>
    let rid := die * 2 ^ 31 + s.nextRid % 2 ^ 31
    (rid, record rid { s with nextRid := s.nextRid + 1, pageWaits := s.pageWaits ++ [⟨rid, die, ctx, va / 4096⟩] })

/-- The access waits for a key-slot command and is tried again (R374): a PAGE with SRC 15, which no record has. -/
def Fx.busy (f : Fx) : Bool := f.cause = .page && f.src = 15

/-- PAGE (R117, R359): the instruction stays at the head of its split or stream until the driver answers. -/
def suspend (s : State) (f : Fx) : State :=
  let die := dieOfCore s.crew.core
  if stagedFull s die ∨ f.busy then { s with stalled := true }
  else
    let r := joinPage s die s.gang.ctx f.addr (fun rid s =>
      pushRec s (some s.gang.grid) (some s.gang.ctx) (issuerRec s f (some rid)))
    setHold (bump r.2 s.crew.core 0x22 1) (.page r.1 f)

/-- A fault of any check: PAGE suspends, every other is precise. -/
def takeFault (s : State) (f : Fx) : State := if f.cause = .page then suspend s f else raise s f

/-- A fault of an instruction check (SRC 10). -/
def fx (c : Cause) : Fx := ⟨c, 10, 0xFF, 0, false, 0⟩

/-- What a failing access reports (R357); LINK_DOWN and ECC_UNCORR as their causes. An access that waits for a key slot reports nothing: it bears
the mark of `Fx.busy`. -/
def accFx (e : AccErr) (src lane va : Nat) (wr : Bool) : Fx :=
  match e with
  | .prot m => ⟨.prot, src, lane, va, wr, if m then 1 else 0⟩
  | .page => ⟨.page, src, lane, va, wr, 0⟩
  | .busy => ⟨.page, 15, lane, va, wr, 0⟩
  | .ecc => ⟨.eccUncorr, src, lane, va, wr, 0⟩
  | .link => ⟨.linkDown, src, lane, va, wr, 0⟩
  | .align => ⟨.align, src, lane, va, wr, 0⟩

/-! ## Barriers (R45–R47) -/

def barOf (c : Crew) (n : Nat) : Bar := (aget c.bars n).getD ⟨0, [], false, 0, 0⟩

/-- The threads that count as arrived (R45): arrived or ended, each once. -/
def arrivedCount (c : Crew) (b : Bar) : Nat :=
  (b.arrived.filter (fun t => !c.ended.contains t)).length + c.ended.length + (if b.strm then 1 else 0)

/-- The completion test of a barrier (R45). -/
def barComplete (c : Crew) (n : Nat) : Crew :=
  let b := barOf c n
  if b.e ≤ arrivedCount c b ∧ b.p = 0 then
    { c with bars := aput n { b with arrived := [], strm := false, phase := b.phase + 1 } c.bars }
  else c

/-- The completion test after an event on the barrier; among the operations of one cycle it waits for the last of them (R263). A barrier that
has completed a phase in this turn completes no further one in it (R45). -/
def barTest (c : Crew) (n : Nat) : Crew :=
  if c.touched.contains n then c
  else if c.joint ∨ (barOf (barComplete c n) n).phase ≠ (barOf c n).phase then
    { if c.joint then c else barComplete c n with touched := c.touched ++ [n] }
  else c

/-- An event on a barrier, then its test. -/
def barEvent (c : Crew) (n : Nat) (f : Bar → Bar) : Crew := barTest { c with bars := aput n (f (barOf c n)) c.bars } n

/-- Threads end (R46): every barrier of the crew is tested. -/
def endThreads (c : Crew) (ts : List Thread) : Crew :=
  if ts = [] then c else
  let c1 := { c with ended := c.ended ++ ts.filter (fun t => !c.ended.contains t) }
  c.bars.foldl (fun c b => barTest c b.1) c1

/-- The threads at the positions of a mask. -/
def threadsOf (g : Group) (m : BitVec 32) : List Thread := (lanesOf m).filterMap (aget g.lanes)

/-! ## Spawn records and the former (R40–R43) -/

/-- The v register units of position p of a group of crew c, for the declared registers. -/
def laneCells (s : State) (c key p : Nat) : List Cell := (List.range (regsOf s)).map (fun r => .vreg s.gid c key (32 * r + p))

/-- Words copied from units to units: an uncorrectable error goes with its word, and a sound word makes the unit it fills sound (R420; log 82). -/
def carryBad (s : State) (l : List (Cell × Cell)) : State :=
  if s.damaged = [] then s
  else { s with damaged := s.damaged.filter (fun c => !(l.map (·.2)).contains c) ++ (l.filter (fun x => s.damaged.contains x.1)).map (·.2) }

/-- Bytes of spawn memory that one record takes (R41). -/
def recBytes (s : State) : Nat := 32 + 4 * regsOf s

def spawnFits (s : State) (c : Crew) (n : Nat) : Bool := (c.recs.length + n) * recBytes s ≤ s.gang.pkt.spawn * 1024

def SpawnRec.cls (r : SpawnRec) : RecClass := ⟨r.pc, r.mode, r.sib⟩

/-- The record of a lane that leaves its group for a target (R41). -/
def recOf (s : State) (p : Nat) (pc : BitVec 64) : SpawnRec :=
  { pc := pc, mode := s.grp.mode,
    k := (List.range 8).foldl (fun b n => if kget s n p then b ||| BitVec.ofNat 8 (2 ^ n) else b) 0,
    thread := (aget s.grp.lanes p).getD ⟨s.grp.no, p, none⟩, sib := s.grp.sib,
    v := (List.range (regsOf s)).map (fun r => vget s r p),
    bad := (List.range (regsOf s)).filter (fun r => s.damaged.contains (.vreg s.gid s.crew.no s.grp.key (32 * r + p))) }

/-- A split waits in BARW or BARAW: it is held there, and the phase it waits for is not over (R43, R45). -/
def Split.waitsBar (c : Crew) (x : Split) : Bool :=
  match x.hold with
  | .bar n p => (barOf c n).phase = p
  | _ => false

/-- A group waits in BARW or BARAW: each of its splits does, or is stopped by a fault (R43). -/
def Group.inBarrier (c : Crew) (g : Group) : Bool := g.splits.all (fun x => x.stop ≠ none || x.waitsBar c)

/-- Groups of a crew with a lane that has not ended. -/
def liveGroups (c : Crew) : List Group := (c.groups.map (·.2)).filter (fun g => g.splits ≠ [])

/-- The crew is at a flush point of its own accord (R43): records exist, and every live group waits in a barrier, or there is none. -/
def autoFlush (c : Crew) : Bool := c.recs ≠ [] && (liveGroups c).all (Group.inBarrier c)

/-- A flush point (R43): every class that has records is to be built. -/
def flushPoint (c : Crew) : Crew :=
  { c with flush := c.recs.foldl (fun l r => if l.contains r.cls then l else l ++ [r.cls]) c.flush }

/-! ## Transfers at XFER (R39, R40) -/

/-- A path of a transfer: address, lk, mask. -/
structure Path where
  pc : BitVec 64
  lk : BitVec 64
  mask : BitVec 32
  deriving DecidableEq, Repr

/-- Lane p takes the path of its address and lk. Where an XCALL's target is the address after its XFER, taken and other lanes have one address and
different lk, and make two paths (DESIGN CHOICE, log 92). -/
def addPath (ps : List Path) (pc lk : BitVec 64) (p : Nat) : List Path :=
  match ps with
  | [] => [⟨pc, lk, BitVec.ofNat 32 (2 ^ p)⟩]
  | q :: r => if q.pc = pc ∧ q.lk = lk then { q with mask := q.mask ||| BitVec.ofNat 32 (2 ^ p) } :: r else q :: addPath r pc lk p

/-- The paths of the armed transfer of the split; `nxt` is the address after the word. -/
def pathsOf (sp : Split) (a : Armed) (nxt : BitVec 64) : List Path :=
  (lanesOf sp.mask).foldl (fun ps p => match aget a.tgts p with
    | some t => addPath ps t (if a.call then nxt else sp.lk) p
    | none => addPath ps nxt sp.lk p) []

/-- A split that is not held in an instruction, with nothing armed and not stopped (R38, R40; log 10). -/
def Split.free (x : Split) : Bool := x.hold = .none && x.stop = none && x.armed = none

/-- The path merges into this split (R40). -/
def mergesInto (sp : Split) (q : Path) (x : Split) : Bool :=
  x.free && x.pc = q.pc && x.ls = sp.ls && x.lc = sp.lc && x.lk = q.lk

def laneCount (m : BitVec 32) : Nat := (lanesOf m).length

/-- q is exiled before r: fewer lanes, then the higher target (R40). -/
def exiledBefore (q r : Path) : Bool :=
  laneCount q.mask < laneCount r.mask || (laneCount q.mask = laneCount r.mask && r.pc.toNat < q.pc.toNat)

def insertPath (q : Path) : List Path → List Path
  | [] => [q]
  | r :: rs => if exiledBefore q r then q :: r :: rs else r :: insertPath q rs

/-- The transfer sorted out: paths that merge, paths exiled, paths that become splits, the last in their lane order. -/
def xferPlan (s : State) (a : Armed) (nxt : BitVec 64) : List Path × List Path × List Path :=
  let ps := pathsOf s.split a nxt
  let merging := ps.filter (fun q => s.grp.splits.any (mergesInto s.split q))
  let rest := ps.filter (fun q => !s.grp.splits.any (mergesInto s.split q))
  let ex := ((rest.foldr insertPath []).take (s.grp.splits.length + rest.length - 4))
  (merging, ex, rest.filter (fun q => !ex.contains q))

/-- A record put in its place among those of one transfer (R42). Of records with equal original %lane, which only a former-built group of several
origins has, the manual states no order: the one inserted later stands first (DESIGN CHOICE, log 74). -/
def insertRec (r : SpawnRec) : List SpawnRec → List SpawnRec
  | [] => [r]
  | x :: xs => if r.thread.lane < x.thread.lane then r :: x :: xs else x :: insertRec r xs

/-- XFER's records do not fit (R41). -/
def xferFull (s : State) (len : Nat) : Bool :=
  match s.split.armed with
  | none => false
  | some a =>
    let ex := (xferPlan s a (s.split.pc + BitVec.ofNat 64 len)).2.1
    !spawnFits s s.crew ((ex.map (fun q => laneCount q.mask)).foldl (· + ·) 0)

/-- The group without the lanes that leave it at the positions of a mask: by exile (R40), or by RWAIT's move (R44). -/
def Group.without (g : Group) (m : BitVec 32) : Group := if m = 0 then g else { g with lanes := g.lanes.filter (fun l => !m.getLsbD l.1) }

/-- XFER of a group's split (R39, R40). -/
def xferGroup (s : State) (a : Armed) (len : Nat) : State :=
  let nxt := s.split.pc + BitVec.ofNat 64 len
  let (merging, ex, keep) := xferPlan s a nxt
  let splits := s.grp.splits.map (fun x => match merging.find? (fun q => mergesInto s.split q x) with
    | some q => if (s.grp.splits.find? (mergesInto s.split q)) = some x then { x with mask := x.mask ||| q.mask } else x
    | none => x)
  let recs := (ex.flatMap (fun q => (lanesOf q.mask).map (fun p => recOf s p q.pc))).foldr insertRec []
  let mk := fun (q : Path) => { s.split with mask := q.mask, pc := q.pc, lk := q.lk, armed := none, hold := .none, cap := none }
  let s1 := { s with crew := { s.crew with recs := s.crew.recs ++ recs }, grp := s.grp.without (ex.foldl (fun m (q : Path) => m ||| q.mask) 0) }
  let s2 := match keep with
    | [] => { s1 with split := { s1.split with mask := 0, armed := none, hold := .none }, grp := { s1.grp with splits := splits } }
    | q :: qs => { s1 with split := mk q, grp := { s1.grp with splits := splits ++ qs.map mk } }
  let s3 := if 2 ≤ keep.length then bump s2 s.crew.core 0x12 1 else s2
  if recs = [] then s3 else bump s3 s.crew.core 0x13 recs.length

/-! ## Batches (R276–R279) -/

/-- The group of a crew by its key, the loaded group included. -/
def groupOf (s : State) (k : Nat) : Option Group :=
  if s.cur = .group ∧ s.grp.key = k then some s.grp else aget s.crew.groups k

def updGroup (s : State) (k : Nat) (f : Group → Group) : State :=
  if s.cur = .group ∧ s.grp.key = k then { s with grp := f s.grp }
  else match aget s.crew.groups k with
    | none => s
    | some g => { s with crew := { s.crew with groups := aput k (f g) s.crew.groups } }

def batOf (s : State) (w : Who) : Batches :=
  if w.stream then s.crew.strm.bat else ((groupOf s w.grp).map (fun g => g.bat)).getD .start
def updBat (s : State) (w : Who) (f : Batches → Batches) : State :=
  if w.stream then setStrm s (fun x => { x with bat := f x.bat }) else updGroup s w.grp (fun g => { g with bat := f g.bat })
def updTok (s : State) (w : Who) (n : Nat) (f : Tok → Tok) : State :=
  let g := fun (ts : List (Nat × Tok)) => aput n (f ((aget ts n).getD .zero)) ts
  if w.stream then setStrm s (fun x => { x with t := g x.t }) else updGroup s w.grp (fun x => { x with t := g x.t })

/-- Status codes (R279). -/
def Status.code : Status → Nat
  | .ok => 0
  | .evicted => 1
  | .stale => 2
  | .prot => 3
  | .align => 4
  | .eccUncorr => 5
  | .termFormat => 6
  | .slotExhausted => 7
  | .metaMalformed => 8
  | .mergeOrder => 9
  | .chunkCorrupt => 10
  | .linkDown => 11
  | .dieLost => 12
  | .residue => 13
  | .badDesc => 14

/-- The token of a completed batch (R279); `err` replaces CAUSE (R278). -/
def Batch.token (b : Batch) (err : Option Status) : BitVec 64 :=
  let st := b.items.map (fun i => (i.status.getD .ok).code)
  let bad := (b.items.filter (fun i => i.status.getD .ok ≠ .ok))
  let first := (bad.head?.map (fun i => i.ix)).getD 0
  let cause := match err with
    | some e => e.code
    | none => st.getD first 0
  BitVec.ofNat 64 (b.no % 2 ^ 24 + b.items.length * 2 ^ 24 + bad.length * 2 ^ 35 + first * 2 ^ 46 + cause * 2 ^ 56)

/-- The status-vector stores and the token of completed batches, oldest first (R128, R278). `store` is the vector's store:
a status when it fails, none and the state when it waits for a page. -/
def sealBatch (s : State) (w : Who) (tok : Option Nat) (vec : Option (BitVec 64)) : State :=
  updBat s w (fun b => { no := (b.no + 1) % 2 ^ 24, items := [], sealed := b.sealed ++ [⟨b.no, b.items, tok, vec, pcOf s, none, none, s.nextItem⟩] })

/-- Items of an issuer that have not ended. -/
def Batches.open_ (b : Batches) : List Item :=
  ((b.sealed.flatMap (fun x => x.items)) ++ b.items).filter (fun i => i.status = none)

/-- A new item in the open batch; `st` is the status of an item that ends at once. -/
def pushItem (s : State) (w : Who) (op : ItemOp) (acq rel : Bool) (scope : Nat) (st : Option Status) : State :=
  updBat { s with nextItem := s.nextItem + 1 } w (fun b =>
    { b with items := b.items ++ [⟨b.items.length, s.nextItem, pcOf s, op, acq, rel, scope, st, false, false, false, none, none, false, false⟩] })

/-! ## The next-address selector (R38, R161) -/

/-- The faults of NX = XFER, judged on the state as the word's instruction leaves it (R171). -/
def nxFault (nx : NX) (len : Nat) (s : State) : Option Fx :=
  match nx with
  | .xfer =>
    if armedOf s = none then some (fx .xferUnarmed)
    else if !isStream s && xferFull s len then some (fx .spawnFull)
    else none
  | _ => none

/-- END in a stream, first step (R53). -/
def streamEnd (s : State) : State :=
  let s1 := if s.crew.strm.bat.items = [] then s else sealBatch s (curWho s) none none
  setStrm s1 (fun x => { x with st := .ending, armed := none })

/-- The lanes of the split end (R38, R46). -/
def endSplit (s : State) : State :=
  let ts := threadsOf s.grp s.split.mask
  { s with split := { s.split with mask := 0, armed := none }, crew := endThreads s.crew ts }

def nxApply (nx : NX) (len : Nat) (s0 : State) : State :=
  let s := setHold s0 .none
  let nxt := pcOf s + BitVec.ofNat 64 len
  match nx with
  | .seq => setPc s nxt
  | .loop => if lcOf s = 0 then setPc s nxt else setPc (setLc s (lcOf s - 1)) (lsOf s)
  | .xfer =>
    match armedOf s with
    | none => s
    | some a =>
      if isStream s then setArmed (setPc s ((aget a.tgts 0).getD nxt)) none else xferGroup s a len
  | .fin => if isStream s then streamEnd s else endSplit s

/-! ## The order of checks (R171) -/

/-- An instruction's meaning as the checks of R171 see it: must-be-zero, range and type; a guarded stream command (R166);
a scoreboard stall (R37); TERM_FORMAT and the instruction-specific checks; the access checks; a wait, as the state it
leaves; the state in which the instruction has taken effect, before NX; and what follows NX. -/
structure Plan where
  len : Nat := 4
  early : Option Fx := none
  guarded : Bool := false
  stall : Bool := false
  fault : Option Fx := none
  access : Option Fx := none
  wait : Option State := none
  done : State
  post : State → State := id

/-- The first failure of a list of checks. -/
def firstFx : List (Option Fx) → Option Fx
  | [] => none
  | some f :: _ => some f
  | none :: r => firstFx r

def check (ok : Bool) (c : Cause) : Option Fx := if ok then none else some (fx c)

/-- The class of the opcode admits the issuer (R168). -/
def classOk (op : Nat) (s : State) : Bool :=
  match classOf op with
  | .groups => !isStream s
  | .streams => isStream s
  | .both => true

/-- What the guard does to a guarded command at the head of a stream (R51): execute, discard, or wait. A command that was found to execute and then
stalls or waits reads its slot again at its next attempt (DESIGN CHOICE, log 93). -/
def guardState (s : State) : Option Bool :=
  let m := s.crew.strm.mode
  let n := guardOf m
  if n = 0 then some true
  else match s.crew.strm.guard with
    | some b => some b
    | none => (aget s.crew.guards (n - 1)).map (fun v => v != ginvOf m)

def clearGuard (s : State) : State := if isStream s then setStrm s (fun x => { x with guard := none }) else s

/-- The part of the checks that follows the guard. -/
def retireRest (nx : NX) (p : Plan) (s : State) : State :=
  if p.stall then { s with stalled := true }
  else match p.fault with
  | some f => takeFault s f
  | none =>
    match nxFault nx p.len p.done with
    | some f => takeFault s f
    | none =>
      match p.access with
      | some f => takeFault s f
      | none =>
        match p.wait with
        | some w => w
        | none => p.post (clearGuard (nxApply nx p.len p.done))

/-- An instruction of class `op` with selector `nx` and plan `p` issues at state `s`. -/
def retire (op : Nat) (nx : NX) (p : Plan) (s : State) : Host.Outcome State Fault Refusal :=
  .next (
    if !classOk op s then raise s (fx .illegalContext)
    else match p.early with
    | some f => takeFault s f
    | none =>
      if p.guarded && isStream s then
        match guardState s with
        | none => waitAs s .wait
        | some false =>
          match nxFault nx p.len s with
          | some f => takeFault s f
          | none => clearGuard (nxApply nx p.len s)
        | some true => retireRest nx p s
      else retireRest nx p s)

/-! ## Focus: taking an issuer out of the state and putting it back -/

/-- Held by a PAGE fault that awaits the driver; one the driver has aborted raises PROT at the split's next turn (R359). -/
def Hold.isPage : Hold → Bool
  | .page _ f => f.cause = .page
  | _ => false

/-- The opcodes whose issues are accesses to memory (R211). -/
def memOpcode (op : Nat) : Bool := (0x70 ≤ op && op ≤ 0x87) || op = 0x28 || op = 0x29 || op = 0xA5

/-- The crew of a gang loaded. -/
def focusCrew (s : State) (gid crew : Nat) : Option State :=
  match aget s.gangs gid with
  | none => none
  | some g =>
    match aget g.crews crew with
    | none => none
    | some c => some { s with gid := gid, gang := { g with crews := adel crew g.crews }, crew := c, gangs := adel gid s.gangs }

/-- A split of a group of the loaded crew loaded. -/
def focusSplit (s : State) (key ix : Nat) : Option State :=
  match aget s.crew.groups key with
  | none => none
  | some g =>
    match g.splits[ix]? with
    | none => none
    | some x => some { s with cur := .group, grp := { g with splits := g.splits.eraseIdx ix }, split := x,
                              crew := { s.crew with groups := adel key s.crew.groups } }

/-- A split joins the splits with which it merges (R38). The armed state holds a target for each lane, and the lanes of two splits differ: armed
states are equal when the lists of lanes with their targets are, so that splits of which any lane is armed never merge (DESIGN CHOICE, log 92). -/
def mergeSplit (x : Split) : List Split → List Split
  | [] => [x]
  | y :: r =>
    if x.hold = .none ∧ y.hold = .none ∧ x.stop = none ∧ y.stop = none ∧ x.pc = y.pc ∧ x.ls = y.ls ∧ x.lc = y.lc ∧
        x.lk = y.lk ∧ x.armed = y.armed then { y with mask := y.mask ||| x.mask } :: r
    else y :: mergeSplit x r

/-- The splits of a group with those that merge merged, and no empty one. -/
def mergeSplits (l : List Split) : List Split := (l.filter (fun x => x.mask ≠ 0)).foldl (fun acc x => mergeSplit x acc) []

/-- The group is put back; one that has no lane left and no batch to report is gone (R162). -/
def unfocusSplit (s : State) : State :=
  if s.cur = .group then
    let g := { s.grp with splits := mergeSplits (s.split :: s.grp.splits) }
    { s with cur := .none, split := .zero, grp := .zero,
             crew := if g.splits = [] ∧ g.bat.items = [] ∧ g.bat.sealed = [] then s.crew
                     else { s.crew with groups := aput g.key g s.crew.groups } }
  else { s with cur := .none }

/-- A group without a lane and without an item to report is gone (R162). -/
def dropEmpty (c : Crew) : Crew :=
  { c with groups := c.groups.filter (fun g => g.2.splits ≠ [] || g.2.bat.items ≠ [] || g.2.bat.sealed ≠ []) }

/-- A turn that is a cycle of its own ends: each barrier may complete a phase again (R45). -/
def Crew.endTurn (c : Crew) : Crew := if c.joint then c else { c with touched := [] }

/-- The crew after an operation: no empty group, and, at the end of its cycle, a flush point that all its groups' waits make (R43). -/
def settleCrew (c : Crew) : Crew :=
  let c1 := (dropEmpty c).endTurn
  if !c1.joint && autoFlush c1 then flushPoint c1 else c1

def unfocusCrew (s : State) : State :=
  let s0 := unfocusSplit s
  let s1 := { s0 with crew := settleCrew s0.crew }
  let others := s1.gang.crews.map (fun c => (c.1, c.2.endTurn))
  sgSweep { s1 with gangs := aput s1.gid { s1.gang with crews := aput s1.crew.no s1.crew others } s1.gangs,
                    gang := .zero, crew := .zero, gid := 0 } s1.gid

/-- An operation on a crew; nothing when there is no such crew. -/
def onCrew (s : State) (gid crew : Nat) (f : State → State) : State :=
  match focusCrew s gid crew with
  | none => s
  | some s1 => unfocusCrew (f s1)

/-! ## Resources of a core (R15, R17) -/

/-- The crews of a core, with those of gangs that have ended while items of theirs are open. -/
def crewsOf (s : State) (core : Nat) : List (Gang × Crew) :=
  let all := s.gangs.flatMap (fun g => g.2.crews.map (fun c => (g.2, c.2)))
  let here := if s.gang.pkt.crew = 0 then [] else (s.gang, s.crew) :: s.gang.crews.map (fun c => (s.gang, c.2))
  (all ++ here).filter (fun x => x.2.core = core)

/-- Crews resident on a core; a gang that has ended holds no place there (log 37). -/
def crewsOn (s : State) (core : Nat) : List (Gang × Crew) := (crewsOf s core).filter (fun x => !x.1.gone)

/-- Live groups of the loaded crew, the loaded one included. -/
def ownGroups (s : State) : List Group := if s.cur = .group then s.grp :: liveGroups s.crew else liveGroups s.crew

/-- Slots in use on a core, with the slots of the loaded group. -/
def slotsUsed (s : State) (core : Nat) : List Nat :=
  let l := (crewsOn s core).flatMap (fun x => (liveGroups x.2).map (fun g => g.slot))
  if s.cur = .group ∧ s.crew.core = core then s.grp.slot :: l else l

def lowestFree (used : List Nat) (lo n : Nat) : Option Nat := ((List.range n).map (· + lo)).find? (fun x => !used.contains x)

/-- Register-file bytes in use on a core (R17). -/
def regBytes (s : State) (core : Nat) : Nat :=
  let l := (crewsOn s core).map (fun x => (liveGroups x.2).length * 16 * x.1.pkt.regs * 128)
  l.foldl (· + ·) (if s.cur = .group ∧ s.crew.core = core then 16 * s.gang.pkt.regs * 128 else 0)

/-- The %group numbers in use in the loaded crew. -/
def groupNos (s : State) : List Nat := (ownGroups s).map (fun g => g.no)

end Sys2Proof.Machine
end

