-- ==== Sys2Proof/Machine/Record.lean ====
section
/-! DEFINITION. Host registers by fields, fault records as bytes (R357), records of units that no core names, and the AMB's
event log (R409, R414–R416). -/
namespace Sys2Proof.Machine

/-! ## Registers -/

/-- A register's field replaced by hardware. -/
def State.setField (s : State) (off lo n v : Nat) : State := s.setReg off (setBits (s.reg off) lo n v)
def State.field (s : State) (off lo n : Nat) : Nat := bitsOf (s.reg off) lo n

/-- A register access reaches the package only while its host link is up (R395, R411). -/
def onHost (s : State) (f : State → State) : State := if linkUp s 1 then f s else s

/-! ## Fault records (R357) -/

/-- Codes of the causes. -/
def Cause.code : Cause → Nat
  | .illegalOp => 1
  | .illegalContext => 2
  | .xferUnarmed => 3
  | .nonuniform => 4
  | .btabRange => 5
  | .handleStale => 6
  | .accBusy => 7
  | .slotExhausted => 8
  | .metaMalformed => 9
  | .mergeOrder => 10
  | .spawnFull => 11
  | .sgFull => 12
  | .queueCfg => 13
  | .barCfg => 14
  | .termFormat => 15
  | .page => 16
  | .prot => 17
  | .align => 18
  | .compressGrow => 19
  | .eccUncorr => 20
  | .residue => 21
  | .watchdog => 22
  | .dieLost => 23
  | .linkDown => 24
  | .trap => 25
  | .brk => 26
  | .badPacket => 27
  | .chunkCorrupt => 28
  | .badDesc => 29
  | .stale => 30

/-- The 64 bytes of a record. -/
def FRec.bytes (r : FRec) : List (BitVec 8) :=
  natBytes 1 r.cause.code ++ natBytes 1 r.src ++ natBytes 2 r.flags ++ natBytes 4 r.seq ++ natBytes 8 r.addr.toNat ++
    natBytes 8 r.pc.toNat ++ natBytes 2 r.core ++ natBytes 1 r.group ++ natBytes 1 r.lane ++ natBytes 4 (r.batch % 2 ^ 24) ++
    natBytes 2 r.item ++ natBytes 2 r.aux ++ natBytes 4 r.rid ++ natBytes 8 r.gang.toNat ++ natBytes 8 r.mark.toNat ++
    natBytes 8 r.detail.toNat

/-- A record of the dispatcher or of a unit that no core names. -/
def unitRec (c : Cause) (src : Nat) (addr aux detail : Nat) : FRec :=
  { dest := none, cause := c, src := src, flags := 0, seq := 0, addr := BitVec.ofNat 64 addr, pc := 0, core := 0xFFFF, group := 0xFF,
    lane := 0xFF, batch := 0, item := 0, aux := aux, rid := 0, gang := 0, mark := 0, detail := BitVec.ofNat 64 detail }

/-! ## The event log (R409, R414–R416) -/

/-- The 32 bytes of a record. -/
def LogRec.bytes (r : LogRec) : List (BitVec 8) :=
  natBytes 8 r.seq ++ natBytes 8 r.clock.toNat ++ natBytes 2 r.boot ++ natBytes 1 r.sev ++ natBytes 1 r.cls ++ natBytes 2 r.site ++
    natBytes 2 r.count ++ natBytes 8 r.data.toNat

/-- A window of AMB time in slate cycles: 1 s. -/
def logWindow : Nat := 1600000000

/-- The window in which the first event of a count of corrections fell has ended (R416). -/
def windowEnded (s : State) (x : Nat × Corrected) : Bool := x.2.since / logWindow < s.ambTime / logWindow

/-- The CORRECTED record of a class and site, as of its first event; DATA of LINKCRC counts its flits (R414, R415). -/
def putCorrected (s : State) (x : Nat × Corrected) : State :=
  let d := if x.1 / 65536 = 5 then x.2.n else x.2.data.toNat
  { addLog { s with clock := x.2.clock, bootNo := x.2.boot } 1 (x.1 / 65536) (x.1 % 65536) x.2.n d with clock := s.clock, bootNo := s.bootNo }

/-- The counts that p selects become records. -/
def coalesce (s : State) (p : Nat × Corrected → Bool) : State :=
  (s.corrected.filter p).foldl putCorrected { s with corrected := s.corrected.filter (fun x => !p x) }

/-- The counts of windows that have ended become records. -/
def closeWindow (s : State) : State := coalesce s (windowEnded s)

/-- A correction counted for its class and site in the present window (R416). -/
def addCorrected (s0 : State) (cls site n data : Nat) : State :=
  let s := closeWindow s0
  let k := cls * 65536 + site
  let x := (aget s.corrected k).getD ⟨0, s.clock, s.ambTime, s.bootNo, BitVec.ofNat 64 data⟩
  { s with corrected := aput k { x with n := x.n + n } s.corrected }

end Sys2Proof.Machine
end

