-- ==== Sys2Proof/Machine/Compress.lean ====
section
/-! DEFINITION. The base dies: compressed blocks, grows and the compression commands (R362–R367, R415). -/
namespace Sys2Proof.Machine

/-- The key of a block in the tables of the base dies. -/
def blkId (st blk : Nat) : Nat := st * 2 ^ 40 + blk

/-- SPACE 1 key of byte i of a block. -/
def blkByte (st blk i : Nat) : Nat := physKey 1 (st * (256 * gib) + 256 * blk + i)

def stackOf (id : Nat) : Nat := id / 2 ^ 40

/-- Overflow entries of a stack in use. -/
def ovflOf (s : State) (st : Nat) : List (Nat × (Nat × Nat × List (BitVec 8))) := s.overflow.filter (fun x => stackOf x.1 = st)

/-- CMPSTAT.OVFL follows the buffer; the time since which it is full (R367, R415). -/
def countOvfl (s : State) (st : Nat) : State :=
  let n := (ovflOf s st).length
  let s1 := s.setField (regCMP st 0x28) 4 7 n
  { s1 with fullSince := if n < 64 then adel st s1.fullSince
                         else if (aget s1.fullSince st).isSome then s1.fullSince else aput st s.clock.toNat s1.fullSince }

/-- The block has dirty bytes in L2. -/
def dirtyOf (s : State) (st blk : Nat) : List (Nat × (Nat × BitVec 8)) :=
  s.dirty.filter (fun d => blkByte st blk 0 ≤ d.1 && d.1 < blkByte st blk 256)

/-- The key slot under which a block is written back: the one that the lowest of its dirty bytes carries (log 8). -/
def blockKid (s : State) (st blk : Nat) : Nat := ((dirtyOf s st blk).head?.map (fun d => d.2.1)).getD 0

/-- The image of the block as L2 holds it: its dirty bytes, over the block as stored. -/
def newImage (s : State) (st blk : Nat) : List (BitVec 8) :=
  let old := blockImage s st blk (keySlot s (blockKid s st blk))
  (List.range 256).map (fun i => ((aget s.dirty (blkByte st blk i)).map (·.2)).getD (old.getD i 0))

/-- The block's dirty bytes leave L2; what is damaged of the image that the overflow buffer held is counted anew. -/
def cleanBlock (s : State) (st blk : Nat) : State :=
  { s with dirty := s.dirty.filter (fun d => !(blkByte st blk 0 ≤ d.1 && d.1 < blkByte st blk 256)),
           bad := s.bad.filter (fun u => !(blkByte st blk 0 ≤ 64 * u && 64 * u < blkByte st blk 256)) }

/-- The bytes of a block that its new image takes from damaged units: they stay damaged wherever the image goes (R420). -/
def damagedBytes (s : State) (st blk : Nat) : List Nat :=
  if s.bad = [] then [] else (List.range 256).filter (fun i => badMem s (blkByte st blk i))

/-- The sectors that an image of the block takes (R362); one with a damaged byte takes one at least. -/
def needSectors (s : State) (st blk : Nat) (img : List (BitVec 8)) : Nat :=
  if damagedBytes s st blk = [] then sectorsOf img else max 1 (sectorsOf img)

/-- Units of memory damaged. -/
def markUnits (s : State) (us : List Nat) : State := if us = [] then s else { s with bad := (us ++ s.bad).eraseDups }

/-- Bytes of a block that has been stored in n sectors are damaged. -/
def markBytes (s : State) (st blk n : Nat) (ds : List Nat) : State :=
  markUnits s (ds.filterMap (fun i => (byteSectors s st blk n i).getLast?.map (fun k => (blockKey s st blk + 32 * k) / 64)))

/-- Bytes of a block in the overflow buffer are damaged. -/
def markImage (s : State) (st blk : Nat) (ds : List Nat) : State := markUnits s (ds.map (fun i => blkByte st blk i / 64))

def allotOf (s : State) (st blk : Nat) : Nat := (descrOf s st (blk / 16)).2.getD (blk % 16) 0

/-- A sector of 32 bytes stored under a seal; a unit of 64 bytes both of whose sectors are stored whole is mended (R420). -/
def putSector (s : State) (key : Nat) (x : (KeySlot × Nat) × List (BitVec 8)) : State := sealedPutBytes s key x.2 x.1

/-- Sectors stored from a key on. -/
def putSectors (s : State) (key : Nat) (l : List ((KeySlot × Nat) × List (BitVec 8))) : State :=
  let s1 := l.zipIdx.foldl (fun s x => putSector s (key + 32 * x.2) x.1) s
  if s1.bad = [] then s1
  else { s1 with bad := s1.bad.filter (fun u => !(key ≤ 64 * u && 64 * u + 64 ≤ key + 32 * l.length)) }

/-- The n sectors of an image, each encrypted under a key slot (R373). -/
def sectorsFor (s : State) (st blk kid n : Nat) (img : List (BitVec 8)) : List ((KeySlot × Nat) × List (BitVec 8)) :=
  let st' := storedForm img
  (List.range n).map (fun i =>
    (sealOf (keySlot s kid) (sectorTweak st blk i), (List.range 32).map (fun j => st'.getD (32 * i + j) 0)))

/-- An image stored at a key in n sectors, under a key slot. -/
def putImage (s : State) (st blk key kid n : Nat) (img : List (BitVec 8)) : State :=
  { putSectors s key (sectorsFor s st blk kid n img) with forms := aput (blkId st blk) n s.forms }

def growRec (s : State) (st blk n ix : Nat) : FRec :=
  { unitRec .compressGrow 8 (keyAddr (blkByte st blk 0)) 0 (n + allotOf s st blk * 16 + ix * 256) with flags := 12 }

/-- The base die stores a block: in its allotment, into its overflow entry, or as a grow (R365, R366); none when the buffer
is full. -/
def storeBlock (s : State) (st blk : Nat) : Option State :=
  let img := newImage s st blk
  let kid := blockKid s st blk
  let n := needSectors s st blk img
  let ds := damagedBytes s st blk
  let s1 := cleanBlock s st blk
  if n ≤ allotOf s st blk then
    some (countOvfl (markBytes (putImage { s1 with overflow := adel (blkId st blk) s1.overflow } st blk (blockKey s st blk) kid n img) st blk n ds) st)
  else match aget s.overflow (blkId st blk) with
    | some x => some (markImage { s1 with overflow := aput (blkId st blk) (x.1, kid, img) s1.overflow } st blk ds)
    | none =>
      match lowestFree ((ovflOf s st).map (fun x => x.2.1)) 0 64 with
      | none => none
      | some ix =>
        let s2 := pushRec (markImage { s1 with overflow := aput (blkId st blk) (ix, kid, img) s1.overflow } st blk ds) none none (growRec s st blk n ix)
        let s3 := countOvfl s2 st
        some (s3.setField (regCMP st 0x28) 32 32 (s3.field (regCMP st 0x28) 32 32 + 1))

def hasDirty (s : State) (st blk : Nat) : Bool := dirtyOf s st blk ≠ []

/-- The L2 slice that writes a block back: the home of its first line (R421). -/
def blockSlice (s : State) (st blk : Nat) : Nat := homeSlice s (blkByte st blk 0)

/-- The store of a block is to be a grow that takes an overflow entry. -/
def growsNow (s : State) (st blk : Nat) : Bool :=
  allotOf s st blk < needSectors s st blk (newImage s st blk) && (aget s.overflow (blkId st blk)).isNone

/-- A grow record of the stack waits for the device fault buffer (R386). -/
def growStalls (s : State) (st : Nat) : Bool := devWaits s (fun r => r.cause = .compressGrow && r.addr.toNat / (256 * gib) = st)

/-- A dirty block of stack st written back. A grow waits while the record it makes has no room; one that the buffer refuses, or that
follows one its slice is to resend, is kept for the resend, and with its window full the slice holds its line (R58, R366). -/
def writeBlock (s : State) (st blk : Nat) : State :=
  let m : NakMsg := .grow (blockSlice s st blk) st blk
  if !hasDirty s st blk ∨ keptMsg s m then s
  else if growsNow s st blk ∧ (stagedFull s (st / 4) ∨ growStalls s st) then s
  else if growsNow s st blk ∧ flowBusy s m then (if flowFull s m then s else refuse s m)
  else match storeBlock s st blk with
    | some s1 => s1
    | none => refuse s m

/-- Every dirty block whose bytes carry a key slot, or lie in stack st's aperture, written back. -/
def writeBack (s : State) (sel : Nat → Nat → Bool) : State :=
  ((s.dirty.filter (fun d => sel d.1 d.2.1)).map (fun d => blockOf d.1)).eraseDups.foldl (fun s b => writeBlock s b.1 b.2) s

/-- SPACE1_BLOCK_WRITE of block `ev.m` of stack `ev.n`. -/
def execSpace1BlockWrite (s : State) : Out := .next (if s.ev.n < 8 ∧ backed s 1 (keyAddr (blkByte s.ev.n s.ev.m 0)) then writeBlock s s.ev.n s.ev.m else s)

/-! ## CMPCFG (R363, R398) -/

/-- The table of APER GiB lies wholly within stack st. -/
def tableFits (s : State) (st aper : Nat) : Bool :=
  let b := s.field (regCMP st 8) 16 36 * 65536
  st * (64 * gib) ≤ b && b + aper * (4 * 2 ^ 20) ≤ (st + 1) * (64 * gib)

/-- A write of CMPCFG. Enabling starts from a table of zeros: no block holds sectors. -/
def writeCmpcfg (s : State) (st v : Nat) : State :=
  let on := s.field (regCMP st 0) 0 1 = 1
  let aper := if on then s.field (regCMP st 0) 1 9 else bitsOf v 1 9
  let en := bitsOf v 0 1 = 1 && (on || (1 ≤ aper && aper ≤ 256 && tableFits s st aper && !stackOff s st))
  let s1 := s.setReg (regCMP st 0) ((if en then 1 else 0) + 2 * aper)
  if en && !on then
    countOvfl { s1 with forms := s1.forms.filter (fun x => stackOf x.1 ≠ st), overflow := s1.overflow.filter (fun x => stackOf x.1 ≠ st) } st
  else s1

/-- CMPCFG_WRITE of stack `ev.n` with the value `ev.v`. -/
def execCmpcfgWrite (s : State) : Out := .next (onHost s (fun s => if s.ev.n < 8 then writeCmpcfg s s.ev.n s.ev.v.toNat else s))

/-! ## Commands (R367) -/

/-- A write of CMPCMD: the command starts with its arguments, or is lost while one runs. -/
def startCmp (s : State) (st : Nat) (v : BitVec 64) : State :=
  if s.field (regCMP st 0x28) 0 1 = 1 then s.setField (regCMP st 0x28) 3 1 1
  else
    let s1 := s.setField (regCMP st 0x28) 0 1 1
    { s1 with cmpRun := aput st (v, BitVec.ofNat 64 (s.reg (regCMP st 0x18)), BitVec.ofNat 64 (s.reg (regCMP st 0x20))) s1.cmpRun }

/-- RELOC on stack `ev.n`: the value `ev.v` written to CMPCMD has OP 1. -/
def execReloc (s : State) : Out :=
  .next (onHost s (fun s => if s.ev.n < 8 ∧ bitsOf s.ev.v.toNat 0 2 = 1 then startCmp s s.ev.n s.ev.v else s))

/-- READ on stack `ev.n`: the value has OP 2. -/
def execCmpcmdRead (s : State) : Out :=
  .next (onHost s (fun s => if s.ev.n < 8 ∧ bitsOf s.ev.v.toNat 0 2 = 2 then startCmp s s.ev.n s.ev.v else s))

/-- The sectors that a block needs, as stored, or as the overflow buffer's image gives them. -/
def heldSectors (s : State) (st blk : Nat) : List ((KeySlot × Nat) × List (BitVec 8)) :=
  match aget s.overflow (blkId st blk) with
  | some x => sectorsFor s st blk x.2.1 (needSectors s st blk x.2.2) x.2.2
  | none =>
    (List.range ((aget s.forms (blkId st blk)).getD 0)).map (fun i =>
      let k := blockKey s st blk + 32 * i
      (unitSeal s (k / 32), memBytes s.mem 32 k))

/-- Of the sectors of a block as they are stored, those in damaged units. -/
def hurtSectors (s : State) (st blk : Nat) : List Nat :=
  if s.bad = [] ∨ (aget s.overflow (blkId st blk)).isSome then []
  else (List.range ((aget s.forms (blkId st blk)).getD 0)).filter (fun i => s.bad.contains ((blockKey s st blk + 32 * i) / 64))

/-- After the page's blocks of `old` have moved: what was damaged of them is damaged where it stands now (R420). -/
def markMoved (old s : State) (st pg : Nat) : State :=
  if old.bad = [] then s
  else (List.range 16).foldl (fun s b =>
    let blk := 16 * pg + b
    let s1 := markUnits s ((hurtSectors old st blk).map (fun i => (blockKey s st blk + 32 * i) / 64))
    if (aget old.overflow (blkId st blk)).isNone then s1
    else markBytes { s1 with bad := s1.bad.filter (fun u => !(blkByte st blk 0 ≤ 64 * u && 64 * u < blkByte st blk 256)) } st blk
      ((aget s.forms (blkId st blk)).getD 0) (damagedBytes old st blk)) s

/-- RELOC of page pg to sector base with allotments: the state and the result. An old descriptor in a damaged unit does not say where the sectors
stand: BADARG, and the AMB has its record (log 101). -/
def relocate (s : State) (st pg base : Nat) (allot : Nat) : State × Nat :=
  -- the sectors move as they are stored; a block in the overflow buffer is stored from there
  let al := (List.range 16).map (fun b => bitsOf allot (4 * b) 4)
  let total := al.foldl (· + ·) 0
  if s.field (regCMP st 0) 1 9 * 262144 ≤ pg ∨ al.any (8 < ·) ∨ 2 ^ 31 < base + total then (s, 2)
  else if badSpan s (descrKey s st pg) 16 then (noteSpan s (descrKey s st pg) 16, 2)
  else
    let secs := (List.range 16).map (fun b => heldSectors s st (16 * pg + b))
    if (secs.zip al).any (fun x => x.2 < x.1.length) then (s, 1)
    else
      let s1 := secs.zipIdx.foldl (fun s x => putSectors s
        (physKey 0 (st * (64 * gib) + 32 * (base + (al.take x.2).foldl (· + ·) 0))) x.1) s
      let s2 := secs.zipIdx.foldl (fun (s : State) x => { s with forms := aput (blkId st (16 * pg + x.2)) x.1.length s.forms }) s1
      let d := descrKey s st pg
      let s3 := devPut (devPut (devPut s2 4 d base) 8 (d + 4) allot) 4 (d + 12) 0
      let s4 := { s3 with overflow := s3.overflow.filter (fun x => !(blkId st (16 * pg) ≤ x.1 && x.1 < blkId st (16 * pg + 16))) }
      (countOvfl (markMoved s s4 st pg) st, 0)

/-- READ of page pg's descriptor into CMPARG0 and CMPARG1. One in a damaged unit is not read: BADARG, and the AMB has its record (log 101). -/
def readDescr (s : State) (st pg : Nat) : State × Nat :=
  if s.field (regCMP st 0) 1 9 * 262144 ≤ pg then (s, 2)
  else if badSpan s (descrKey s st pg) 16 then (noteSpan s (descrKey s st pg) 16, 2)
  else
    let d := descrKey s st pg
    ((s.setReg (regCMP st 0x18) (devNat s 8 d)).setReg (regCMP st 0x20) (devNat s 8 (d + 8)), 0)

/-- The running command of stack st finishes. Bits [63:32] of CMPARG0 have no meaning to a RELOC (DESIGN CHOICE, log 106). -/
def finishCmp (s : State) (st : Nat) : State :=
  match aget s.cmpRun st with
  | none => s
  | some (v, a0, a1) =>
    let pg := bitsOf v.toNat 32 32
    let r := if bitsOf v.toNat 0 2 = 1 then relocate s st pg (a0.toNat % 2 ^ 32) a1.toNat else readDescr s st pg
    let s1 := { r.1 with cmpRun := adel st r.1.cmpRun }
    (s1.setField (regCMP st 0x28) 0 1 0).setField (regCMP st 0x28) 1 2 r.2

/-- RELOC_DONE on stack `ev.n`. -/
def execRelocDone (s : State) : Out := .next (finishCmp s s.ev.n)

/-- COMPRESS_RECORD of stack `ev.n`: its buffer has been full for 1 ms. -/
def execCompressRecord (s : State) : Out :=
  .next (match aget s.fullSince s.ev.n with
    | none => s
    | some t =>
      if t + 1600000 ≤ s.clock.toNat then
        addLog { s with fullSince := aput s.ev.n s.clock.toNat s.fullSince } 2 10 s.ev.n 1
          (64 + s.field (regCMP s.ev.n 0x28) 32 32 * 2 ^ 32)
      else s)

end Sys2Proof.Machine
end

