-- ==== Sys2Proof/Machine/Operands.lean ====
section
/-! DEFINITION. Operand forms: the fields of MODE (R163), packed elements (R88, R89), the B operand (R158), range checks
(R159, R160), formats (R94, R95) and the rounding mode of each lane (R105–R107). -/
namespace Sys2Proof.Machine

/-! ## MODE (R163) -/

def tyOf (m : BitVec 32) : Nat := bitsOf m.toNat 0 4
def fmtNoOf (m : BitVec 32) : Nat := bitsOf m.toNat 4 4
def srOf (m : BitVec 32) : Bool := m.getLsbD 10
def satOf (m : BitVec 32) : Bool := m.getLsbD 11
def ftzOf (m : BitVec 32) : Bool := m.getLsbD 12
def scopeOf (m : BitVec 32) : Nat := bitsOf m.toNat 18 3

/-- MODE.rnd (R105). -/
def rndOf (m : BitVec 32) : Rnd :=
  match bitsOf m.toNat 8 2 with
  | 0 => .rne
  | 1 => .rtz
  | 2 => .rdn
  | _ => .rup

/-- A value that MODE may hold (R163, R167): no reserved bit, guard at most 8. -/
def modeLegal (m : BitVec 32) : Bool := m.toNat < 2 ^ 21 && guardOf m ≤ 8

/-- The element type in force. -/
def ty (s : State) : Nat := tyOf s.grp.mode

/-! ## Types (R88, R217) -/

/-- k: elements of a register under a type. -/
def tyCount (t : Nat) : Nat :=
  if t ≤ 1 ∨ t = 6 ∨ t = 11 then 1 else if t ≤ 3 ∨ t = 7 ∨ t = 8 then 2 else if t ≤ 5 ∨ t = 9 then 4 else 8

/-- w: bits of an element under a type. -/
def tyWidth (t : Nat) : Nat := if t = 11 then 64 else 32 / tyCount t

/-- Registers an operand of the type takes: two under F64 (R89). -/
def tyRegs (t : Nat) : Nat := if t = 11 then 2 else 1

def isI (t : Nat) : Bool := t ≤ 5 || t = 12 || t = 13
def isF (t : Nat) : Bool := t = 6 || t = 7 || t = 8 || t = 11
def isQ (t : Nat) : Bool := t = 9 || t = 10
def tySigned (t : Nat) : Bool := t = 0 || t = 2 || t = 4 || t = 12

/-- A format register of the crew (R94). -/
def fmtReg (s : State) (n : Nat) : BitVec 32 := s.crew.f.get n

/-- The element format of a type; a Q type takes f[MODE.fmt] (R88). -/
def tyFmt (s : State) (t : Nat) : EFmt :=
  if t = 6 then .flt fmtF32
  else if t = 7 then .flt fmtF16
  else if t = 8 then .flt fmtB16
  else if t = 11 then .flt fmtF64
  else if isQ t then .flt (fmtOfReg (fmtReg s (fmtNoOf s.grp.mode)))
  else .int (tySigned t) (tyWidth t)

/-- An element as a container of its type takes it: under a Q type the bits above the code's width are written as zero (R95). -/
def clean (s : State) (t c : Nat) : Nat := if isQ t then c % 2 ^ (fmtOfReg (fmtReg s (fmtNoOf s.grp.mode))).width else c

/-- The format register value suits a Q type (R95). -/
def qFits (t : Nat) (r : BitVec 32) : Bool := fmtValid r && (t ≠ 10 || (fmtOfReg r).classWidth = 4)

/-- TERM_FORMAT of an instruction that accepts Q types (R217). -/
def qCheck (s : State) (t : Nat) : Option Fx :=
  if isQ t then check (qFits t (fmtReg s (fmtNoOf s.grp.mode))) .termFormat else none

/-- ILLEGAL_OP for types 14 and 15 (R90). -/
def tyCheck (s : State) : Option Fx := check (ty s < 14) .illegalOp

/-! ## Elements -/

/-- The elements of a value of a type. -/
def elems (t x : Nat) : List Nat := (List.range (tyCount t)).map (fun i => x / 2 ^ (tyWidth t * i) % 2 ^ tyWidth t)

/-- Elements of w bits packed, the first lowest. -/
def packN (w : Nat) : List Nat → Nat
  | [] => 0
  | e :: r => e % 2 ^ w + 2 ^ w * packN w r

def pack (t : Nat) (l : List Nat) : Nat := packN (tyWidth t) l

/-- The operand in a v register, or in the pair under F64. -/
def vop (s : State) (t r p : Nat) : Nat :=
  if t = 11 then (vget s r p).toNat + 2 ^ 32 * (vget s (r + 1) p).toNat else (vget s r p).toNat

def vopPut (t r p x : Nat) (s : State) : State :=
  if t = 11 then vput (vput s r p (BitVec.ofNat 32 x)) (r + 1) p (BitVec.ofNat 32 (x / 2 ^ 32)) else vput s r p (BitVec.ofNat 32 x)

/-- The B operand (R158): a v register, or an s register that every lane reads. -/
def bop (s : State) (t : Nat) (x : BitVec 1) (b p : Nat) : Nat :=
  if x = 0 then vop s t b p else if t = 11 then (sget s b).toNat else (sget s b).toNat % 2 ^ 32

/-- Decode of an element under MODE.ftz (R99, R173). -/
def valOf (ftz : Bool) (f : EFmt) (c : Nat) : Val :=
  match f with
  | .int _ _ => (decodeE c f).val
  | .flt F => flushVal ftz F (decodeFlt c F).val

/-- The integer value of an element of an integer format. -/
def intOf (f : EFmt) (c : Nat) : Int :=
  match f with
  | .int true w => signExt c w
  | .int false w => (c % 2 ^ w : Nat)
  | .flt _ => 0

/-! ## Range checks (R159, R160) -/

/-- A run of n v registers from r lies within the declared ones. -/
def vRun (s : State) (r n : Nat) : Bool := r + n ≤ regsOf s

/-- A v operand of the type: in range, and even under F64. -/
def vOk (s : State) (t r : Nat) : Bool := vRun s r (tyRegs t) && (t ≠ 11 || r % 2 = 0)

def sOk (r : Nat) : Bool := r < 64
def kOk (r : Nat) : Bool := r < 8
def c16Ok (r : Nat) : Bool := r < 16

/-- The B operand in range. -/
def bOk (s : State) (t : Nat) (x : BitVec 1) (b : Nat) : Bool := if x = 0 then vOk s t b else sOk b

/-- The issuer-scalar class in range. -/
def iOk (s : State) (r : Nat) : Bool := r < iLimit s

/-- ILLEGAL_OP unless the registers are in range. -/
def range (ok : Bool) : Option Fx := check ok .illegalOp

/-! ## Stochastic rounding (R105–R107) -/

/-- One advance of a generator. -/
def advGen (x : BitVec 32) : BitVec 32 :=
  let x := x ^^^ (x <<< 13)
  let x := x ^^^ (x >>> 17)
  x ^^^ (x <<< 5)

def genOf (s : State) : BitVec 32 := (coreOf s s.crew.core).gen.getD (s.grp.slot % 4) 1

def setGen (s : State) (x : BitVec 32) : State :=
  let c := coreOf s s.crew.core
  setCore s s.crew.core { c with gen := c.gen.set (s.grp.slot % 4) x }

/-- The rounding of result e of k in the lane at position p of a converting instruction that starts in s. -/
def convRnd (s : State) (k p e : Nat) : Rnd :=
  if srOf s.grp.mode then
    let y := (advGen (genOf s)).rotateLeft (5 * p % 32)
    let n := min 16 (32 / k)
    .sr n (y.toNat / 2 ^ (n * e) % 2 ^ n)
  else rndOf s.grp.mode

/-- The generator advanced by a converting instruction (R106). -/
def advance (s : State) : State := if srOf s.grp.mode then setGen s (advGen (genOf s)) else s

/-- A value converted into a format under MODE.ftz (R99, R104). -/
def convTo (s : State) (v : Val) (r : Rnd) (f : EFmt) : Nat := convert (ftzOf s.grp.mode) v r f

end Sys2Proof.Machine
end

