-- ==== Sys2Proof/Machine/Flags.lean ====
section
/-! DEFINITION. Compare outcomes and predicate writes (R201, R221, R243). The Z7 keeps no arithmetic flags (R93):
its predicates are the k registers. -/
namespace Sys2Proof.Machine

/-- A condition code judged on an ordering; none is unordered (R201, R221): eq, ne, lt, le, gt, ge, un. -/
def holds (cc : Nat) (o : Option Ordering) : Bool :=
  match cc, o with
  | 0, some .eq => true
  | 1, some .eq => false
  | 1, _ => true
  | 2, some .lt => true
  | 3, some .lt => true
  | 3, some .eq => true
  | 4, some .gt => true
  | 5, some .gt => true
  | 5, some .eq => true
  | 6, none => true
  | _, _ => false

/-- The ordering of two integers. -/
def ordInt (a b : Int) : Option Ordering := some (if a < b then .lt else if a = b then .eq else .gt)

/-- The ordering of two elements of a format under MODE.ftz (R221). -/
def ordElem (ftz : Bool) (f : EFmt) (a b : Nat) : Option Ordering :=
  match f with
  | .int _ _ => ordInt (intOf f a) (intOf f b)
  | .flt _ => (valOf ftz f a).cmp (valOf ftz f b)

/-- One bit of a predicate for each lane of L (R165). -/
def setPred (s : State) (k : Nat) (f : Nat → Bool) : State := forLanes s (active s) (fun p s => kput s k p (f p))

end Sys2Proof.Machine
end

