-- ==== Sys2Proof/Machine/Access.lean ====
section
/-! DEFINITION. Memory accesses of SIMT instructions: the access checks of R171 and R172 over all lanes, and loads and
stores of lanes (R116, R131). -/
namespace Sys2Proof.Machine

/-- One access of a lane: position (0xFF for a uniform access), address, width in bytes. -/
structure LaneAcc where
  lane : Nat
  va : Nat
  w : Nat
  deriving DecidableEq, Repr

/-- The locations of an access by the crew in execution. -/
def locOf (s : State) (a : LaneAcc) (k : AccKind) : Except AccErr (List Loc) := locateAll s s.gang s.crew.no a.va a.w k

/-- The window of an access that goes through one. -/
def LaneAcc.window (a : LaneAcc) : Option Nat :=
  match regionOf a.va with
  | .shadow w => some w
  | _ => none

/-- The binding of a window of the context, while accesses go through it (R114, R300). -/
def bindingOf (s : State) (w : Nat) : Option Binding :=
  (aget s.ctxs s.gang.ctx).bind (fun cx => if winClosed s cx w then none else aget cx.windows w)

/-- The global address that a bound offset of a shadow window names (R114); none where its index cannot be read. -/
def shadowTarget (s : State) (va : Nat) : Option Nat :=
  match regionOf va with
  | .shadow w =>
    (bindingOf s w).bind (fun b =>
      let o := (va - globalTop) % 2 ^ 36
      if indexBad s s.gang.ctx va then none else (b.idx[o / b.z]?).map (fun ix => (b.base.toNat + ix.toNat * b.z + o % b.z) % 2 ^ 64))
  | _ => none

/-- The global accesses that result from an access through a shadow window, by address and width: its own bytes where one element of the window holds
them, and one access for each element otherwise (R114; log 11). -/
def globalParts (s : State) (a : LaneAcc) : List (Nat × Nat) :=
  match a.window.bind (bindingOf s) with
  | none => []
  | some b =>
    let n := min a.w b.z
    (List.range (a.w / n)).filterMap (fun i => (shadowTarget s (a.va + n * i)).map (fun g => (g, n)))

/-- An access that is not naturally aligned, or results in a global access that is not (R114, R115): ADDR and SRC of its ALIGN. -/
def misaligned (s : State) (a : LaneAcc) : Option (Nat × Nat) :=
  if a.va % a.w ≠ 0 then some (a.va, 0)
  else ((globalParts s a).find? (fun p => p.1 % p.2 ≠ 0)).map (fun p => (p.1, 6))

/-- ALIGN of the first access that is not aligned. -/
def alignErr (s : State) (as : List LaneAcc) (wr : Bool) : Option Fx :=
  as.findSome? (fun a => (misaligned s a).map (fun x => accFx .align x.2 a.lane x.1 wr))

/-- ADDR and SRC of a failing access: through a shadow window, the first global byte that fails as the access does, SRC 6 (R114, R357; log 11). -/
def faultAt (s : State) (a : LaneAcc) (k : AccKind) (e : AccErr) : Nat × Nat :=
  match (List.range a.w).find? (fun i => match locate s s.gang s.crew.no (a.va + i) k with
      | .ok _ => false
      | .error f => f.rank = e.rank) with
  | none => (a.va, 0)
  | some i =>
    match shadowTarget s (a.va + i) with
    | some g => (g, 6)
    | none => (a.va, 0)

/-- ADDR and SRC of an access that reads a damaged unit: through a shadow window, the first global byte in it, SRC 6, or the address in the window
where its index is damaged (R114, R357; log 11). -/
def damageAt (s : State) (all : List Loc) (a : LaneAcc) (tk k : AccKind) : Nat × Nat :=
  match (List.range a.w).find? (fun i => match locate s s.gang s.crew.no (a.va + i) tk with
      | .ok l => readsLoc s all k l
      | .error f => f = .ecc) with
  | none => (a.va, 0)
  | some i =>
    match shadowTarget s (a.va + i) with
    | some g => (g, 6)
    | none => (a.va, if a.window.isSome then 6 else 0)

/-- The first access whose locations fail with an error of a kind. -/
def firstErr (s : State) (k : AccKind) (sel : AccErr → Bool) : List LaneAcc → Option Fx
  | [] => none
  | a :: r =>
    match locOf s a k with
    | .error e => if sel e then some (accFx e (faultAt s a k e).2 a.lane (faultAt s a k e).1 (k = .write)) else firstErr s k sel r
    | .ok _ => firstErr s k sel r

def AccErr.isProt : AccErr → Bool
  | .prot _ => true
  | _ => false

/-- The locations of every access of a list that has them. -/
def allLocs (s : State) (as : List LaneAcc) (k : AccKind) : List Loc :=
  as.flatMap (fun a => match locOf s a k with
    | .ok l => l
    | .error _ => [])

/-- ECC_UNCORR of the first access that meets a damaged entry in its walk or reads a damaged unit; a store of the instruction that covers the unit
whole reads nothing (R420). `tk` is the kind with which the addresses are translated, `k` that with which the bytes are read. -/
def eccErr (s : State) (as : List LaneAcc) (tk k : AccKind) : Option Fx :=
  if s.bad = [] ∧ s.damaged = [] then none
  else
    let all := allLocs s as tk
    (as.find? (fun a => match locOf s a tk with
      | .ok l => l.any (readsLoc s all k)
      | .error e => e = .ecc)).map (fun a =>
        accFx .ecc (damageAt s all a tk k).2 a.lane (damageAt s all a tk k).1 (tk = .write))

/-- The access checks (R171, R172): ALIGN, PROT, PAGE, ECC_UNCORR, each over every lane before the next, the first lane that fails one named; a wait
for a key slot stands after PAGE (R374), and a link that is down after ECC_UNCORR (R417). -/
def accessChecks (s : State) (as : List LaneAcc) (tk k : AccKind) : Option Fx :=
  firstFx [alignErr s as (tk = .write), firstErr s tk AccErr.isProt as, firstErr s tk (· = .page) as, firstErr s tk (· = .busy) as, eccErr s as tk k, firstErr s tk (· = .link) as]

/-- The checks of loads or of stores. -/
def accessFx (s : State) (as : List LaneAcc) (k : AccKind) : Option Fx := accessChecks s as k k

/-- Checks of parts that are naturally aligned each: as `accessFx`. -/
def locsOr (s : State) (a : LaneAcc) (k : AccKind) : List Loc :=
  match locOf s a k with
  | .ok l => l
  | .error _ => []

/-- Bounded lines of the accesses drained (R131, R132). -/
def drainAcc (s : State) (as : List LaneAcc) (k : AccKind) : State := if s.lines = [] then s else drainFor s (allLocs s as k)

/-! ## Bank conflicts (R326) -/

/-- Cycles in which the scratchpad of crew c serves the locations of one instruction: the most distinct words of one of its 32 banks. -/
def bankCycles (locs : List Loc) (c : Nat) : Nat :=
  let ws := (locs.filterMap (fun l => match l with
    | .spad c' o => if c' = c then some (o / 4) else none
    | .phys _ _ _ => none)).eraseDups
  (List.range 32).foldl (fun m b => max m (ws.filter (fun w => w % 32 = b)).length) 0

/-- SPCONF of each core whose scratchpad the lanes of an instruction access grows by the extra cycles it serves them in. -/
def countBanks (locs : List Loc) (s : State) : State :=
  let cs := (locs.filterMap (fun l => match l with
    | .spad c _ => some c
    | .phys _ _ _ => none)).eraseDups
  cs.foldl (fun s c => match crewOf s c with
    | none => s
    | some cr => if bankCycles locs c ≤ 1 then s else bump s cr.core 0x15 (bankCycles locs c - 1)) s

/-- The value at an access. -/
def loadAcc (s : State) (a : LaneAcc) : Nat := locsNat s (locsOr s a .read)

/-- D set in the leaf of the page written (R352). -/
def dirtyAcc (s : State) (a : LaneAcc) : State :=
  match regionOf a.va with
  | .global => setDirty s s.gang.ctx a.va
  | .shadow _ =>
    (List.range a.w).foldl (fun s i => match shadowTarget s (a.va + i) with
      | none => s
      | some g => setDirty s s.gang.ctx g) s
  | _ => s

/-- A store at an access. -/
def storeAcc (s : State) (a : LaneAcc) (v : Nat) : State := locsPut (dirtyAcc s a) (locsOr s a .write) v

/-- The stores of a window w put in ascending window offset, each in a place that one of them had (R114). -/
def sortWindow {α : Type} (w : Nat) (l : List (LaneAcc × α)) : List (LaneAcc × α) :=
  let mine := l.filter (fun x => x.1.window = some w)
  let put := fun (acc : List (LaneAcc × α) × List (LaneAcc × α)) (x : LaneAcc × α) =>
    if x.1.window = some w then
      match acc.2 with
      | y :: r => (acc.1 ++ [y], r)
      | [] => (acc.1 ++ [x], [])
    else (acc.1 ++ [x], acc.2)
  (l.foldl put ([], sortBy (fun (x : LaneAcc × α) => x.1.va) mine)).1

/-- The order in which the stores of one instruction act: in ascending lane position (R116), those through one window in ascending
offset (R114). -/
def storeOrder {α : Type} (l : List (LaneAcc × α)) : List (LaneAcc × α) :=
  if l.all (fun x => x.1.window = none) then l
  else ((l.filterMap (fun x => x.1.window)).eraseDups).foldl (fun l w => sortWindow w l) l

/-- Stores of one instruction: every address is translated once, before any of them acts (R115), D is set in the leaves written
(R352), and the last write of a byte stands (R114, R116). -/
def storeAll (s : State) (l : List (LaneAcc × Nat)) : State :=
  let l' := (storeOrder l).map (fun x => (locsOr s x.1 .write, x.2))
  l'.foldl (fun s x => locsPut s x.1 x.2) (l.foldl (fun s x => dirtyAcc s x.1) s)

/-- Contents left undefined in `t`, with the damaged units of `s`: what makes them undefined mends none (R420). -/
def keepBad (s t : State) : State := { t with bad := s.bad, damaged := s.damaged }

/-- Memory left undefined at accesses: the destination of a failed item (R277), or of an instruction that ends with RESIDUE (R172). -/
def spoilMem (s : State) (ws : List LaneAcc) : State :=
  keepBad s (storeAll (drainAcc s ws .write).freshen (ws.zipIdx.map (fun x => (x.1, (Config.freeBits 64 s.fresh x.2).toNat))))

end Sys2Proof.Machine
end

