-- ==== Sys2Proof/Machine/Control.lean ====
section
/-! DEFINITION. Control and mode instructions (R190–R198, R167) and reserved opcodes (R169). -/
namespace Sys2Proof.Machine

/-- An instruction without a fault or effect of its own. -/
def execNop (nx : NX) (s : State) : Out := retire 0x01 nx { done := s } s

/-- A word with a reserved opcode raises ILLEGAL_OP whatever else it holds (R169). -/
def execReservedOpcode (_w : BitVec 32) (s : State) : Out := .next (raise s (fx .illegalOp))

/-! ## Arming (R191–R193) -/

/-- The target of a J-format word (R157). -/
def jTarget (s : State) (o : BitVec 18) : BitVec 64 := pcOf s + BitVec.ofInt 64 (4 * signExt o.toNat 18)

/-- A transfer armed for the lanes of a list, the other lanes as not taken (R39). -/
def arm (s : State) (call : Bool) (tgts : List (Nat × BitVec 64)) : State := setArmed s (some ⟨call, tgts⟩)

/-- The condition of a J-format word in a lane: kc xor inv (R156). -/
def jCond (s : State) (k : BitVec 4) (p : Nat) : Bool := kget s (k.toNat % 8) p != k.getLsbD 3

/-- Lanes of L that an XJ arms as taken. -/
def jTaken (s : State) (k : BitVec 4) (t : BitVec 64) : List (Nat × BitVec 64) :=
  ((active s).filter (jCond s k)).map (fun p => (p, t))

def execXj (nx : NX) (k : BitVec 4) (o : BitVec 18) (s : State) : Out :=
  retire 0x02 nx { done := arm s false (jTaken s k (jTarget s o)) } s

/-- The condition is the same in all lanes of L. -/
def uniformCond (s : State) (k : BitVec 4) : Bool := (active s).all (jCond s k) || (active s).all (fun p => !jCond s k p)

/-- XJU. Where the lanes do not agree, no one lane fails, and the record's LANE is 0xFF (R172; DESIGN CHOICE, log 103). -/
def execXju (nx : NX) (k : BitVec 4) (o : BitVec 18) (s : State) : Out :=
  retire 0x03 nx { fault := check (uniformCond s k) .nonuniform, done := arm s false (jTaken s k (jTarget s o)) } s

def execXcall (nx : NX) (o : BitVec 18) (s : State) : Out :=
  retire 0x04 nx { done := arm s true ((active s).map (fun p => (p, jTarget s o))) } s

/-- ALIGN of an XRET or XJR target (R192). -/
def targetFx (t : BitVec 64) : Option Fx := if t.toNat % 4 = 0 then none else some ⟨.align, 10, 0xFF, t.toNat, false, 0⟩

def execXret (nx : NX) (s : State) : Out :=
  retire 0x05 nx { fault := targetFx s.split.lk, done := arm s false ((active s).map (fun p => (p, s.split.lk))) } s

def execXjr (nx : NX) (a : BitVec 7) (s : State) : Out :=
  let t := sget s a.toNat
  retire 0x06 nx { early := range (sOk a.toNat), fault := targetFx t, done := arm s false ((active s).map (fun p => (p, t))) } s

/-- The target of a lane of XBTAB (R183). -/
def btabTarget (s : State) (targets : List (BitVec 32)) (ix : Nat) : BitVec 64 :=
  pcOf s + BitVec.ofInt 64 (4 * signExt (targets.getD ix 0).toNat 32)

def execXbtab (nx : NX) (a : BitVec 7) (targets : List (BitVec 32)) (s : State) : Out :=
  let ix := fun (p : Nat) => (vget s a.toNat p).toNat
  let bad := (active s).find? (fun p => targets.length ≤ ix p)
  retire 0x07 nx
    { len := 4 * (targets.length + 1), early := range (vRun s a.toNat 1),
      fault := bad.map (fun p => { fx .btabRange with lane := p }),
      done := arm s false ((active s).map (fun p => (p, btabTarget s targets (ix p)))) } s

/-! ## Loops (R194) -/

/-- LPS with a count. -/
def loopSet (s : State) (n : BitVec 64) : State := setLc (setLs s (pcOf s + 4)) n

def execLpsImm (nx : NX) (i : BitVec 15) (s : State) : Out := retire 0x08 nx { done := loopSet s (i.setWidth 64) } s

def execLpsReg (nx : NX) (a : BitVec 6) (s : State) : Out :=
  retire 0x08 nx { fault := range (iOk s a.toNat), done := loopSet s (iget s a.toNat) } s

/-! ## RWAIT and YIELD (R44, R195) -/

/-- The split waits in an RWAIT at p. -/
def Split.inRwait (x : Split) (p : BitVec 64) : Bool :=
  x.pc = p && match x.hold with
    | .rwait _ _ _ => true
    | _ => false

/-- The launched group of the crew in which a thread that is no later sibling's began, when it waits in RWAIT at p. A lane of a later sibling has the
%lane of a launched thread in its record but is another thread: it does not move to the launched group (DESIGN CHOICE, log 14). -/
def homeOf (s : State) (t : Thread) (p : BitVec 64) : Option Group :=
  if t.sib ≠ none then none
  else (s.crew.groups.map (·.2)).find? (fun g => !g.formed && g.no = t.origin && g.splits.any (fun x => x.inRwait p))

/-- Lane at position l of the group in execution moves to its original position in the group of key `key` (R44). -/
def moveHome (s : State) (l : Nat) (t : Thread) (key : Nat) (p : BitVec 64) : State :=
  let bit := BitVec.ofNat 32 (2 ^ l)
  let home := BitVec.ofNat 32 (2 ^ t.lane)
  let vs := (List.range (regsOf s)).map (fun r => (r, vget s r l))
  let ks := (List.range 8).map (fun k => (k, kget s k l))
  let s1 := updGroup s key (fun g =>
    { g with
      lanes := aput t.lane t g.lanes,
      v := vs.foldl (fun st x => st.put (32 * x.1 + t.lane) x.2) g.v,
      k := ks.foldl (fun st x => st.put x.1 (if x.2 then st.get x.1 ||| home else st.get x.1 &&& ~~~home)) g.k,
      splits := (g.splits.foldl (fun (acc : Bool × List Split) x =>
        if !acc.1 && x.inRwait p then (true, acc.2 ++ [{ x with mask := x.mask ||| home }]) else (acc.1, acc.2 ++ [x]))
        (false, [])).2 })
  let s2 := carryBad s1 ((laneCells s s.crew.no s.grp.key l).zip (laneCells s s.crew.no key t.lane))
  { s2 with split := { s2.split with mask := s2.split.mask &&& ~~~bit },
            grp := { s2.grp.without bit with splits := s2.grp.splits.map (fun x => { x with mask := x.mask &&& ~~~bit }) } }

/-- The lanes of the group, whichever split holds them. -/
def groupMask (s : State) : BitVec 32 := s.grp.splits.foldl (fun m x => m ||| x.mask) s.split.mask

/-- The moves of an RWAIT of a group that was not launched. -/
def moveLanes (s : State) : State :=
  if !s.grp.formed then s
  else (lanesOf (groupMask s)).foldl (fun s l => match aget s.grp.lanes l with
    | none => s
    | some t => match homeOf s t s.split.pc with
      | none => s
      | some o => moveHome s l t o.key s.split.pc) s

/-- The lanes of the group that are at the RWAIT: those of this split and of the splits that wait there. -/
def hereMask (s : State) : BitVec 32 :=
  s.grp.splits.foldl (fun m x => if x.inRwait s.split.pc then m ||| x.mask else m) s.split.mask

/-- The number of the wait set's members that have not arrived (R44). The set of a launched group is of the threads of the launch, and no lane of a later
sibling counts in it (DESIGN CHOICE, log 14). -/
def rwaitMissing (s : State) : Nat :=
  if s.grp.formed then laneCount (groupMask s &&& ~~~hereMask s)
  else
    let here := threadsOf s.grp (hereMask s)
    let all := (List.range 32).map (fun l => (⟨s.grp.no, l, none⟩ : Thread))
    (all.filter (fun t => !s.crew.ended.contains t && !here.contains t)).length

/-- The wait ends: arrived splits merge, sD takes the number missing, and a shortfall is a flush point. Where the splits that arrived differ in
ls, lc, lk or armed transfer, the manual does not say which the merged split keeps: it keeps those of the split in execution, whose turn or
count ends the wait (DESIGN CHOICE, log 14). -/
def rwaitDone (s : State) (d : Nat) : State :=
  let n := rwaitMissing s
  let s1 := { s with split := { s.split with mask := hereMask s },
                     grp := { s.grp with splits := s.grp.splits.filter (fun x => !x.inRwait s.split.pc) } }
  let s2 := sput s1 d (BitVec.ofNat 64 n)
  if n = 0 then s2 else setOwn s2 flushPoint

def execRwait (nx : NX) (d a : BitVec 7) (s : State) : Out :=
  let held := s.split.inRwait s.split.pc
  let s1 := if held then s else moveLanes s
  let gone := s1.split.mask = 0
  let now := gone || rwaitMissing s1 = 0 || (sget s a.toNat = 0 && !held)
  let left := match s.split.hold with
    | .rwait _ _ n => n
    | _ => (sget s a.toNat).toNat
  retire 0x09 nx
    { early := range (sOk d.toNat && sOk a.toNat),
      wait := if now then none else some (waitAs s1 (.rwait d.toNat nx left)),
      done := if gone then s1 else rwaitDone s1 d.toNat } s

/-- The instruction that held the split is done, and its words are no longer needed. -/
def endHold (s : State) : State := if s.split.hold = .none then setSplit s (fun x => { x with cap := none }) else s

/-- The count of the split in execution has elapsed: its wait ends (R44). -/
def rwaitExpire (s : State) : State :=
  match s.split.hold with
  | .rwait d nx 0 => endHold (retireRest nx { done := rwaitDone s d } s)
  | _ => s

/-- The wait of a split of the loaded crew ends, when its count has elapsed. -/
def expireSplit (s : State) (key ix : Nat) : State :=
  match focusSplit s key ix with
  | none => s
  | some s2 => unfocusSplit { rwaitExpire s2 with stalled := false }

/-- RWAIT_TIMEOUT: the wait of split number `ev.n` of the group `ev.who` ends once its count has elapsed. A lane that arrives in the cycle in
which it elapses has its turn before (R44; log 14). -/
def execRwaitTimeout (s : State) : Out :=
  .next (onCrew s s.ev.who.gang s.ev.who.crew (fun s1 => expireSplit s1 s1.ev.who.grp s1.ev.n))

def execYield (nx : NX) (s : State) : Out := retire 0x0F nx { done := setOwn s flushPoint } s

/-! ## TRAP and BRK (R196) -/

def execTrap (nx : NX) (c : BitVec 22) (s : State) : Out :=
  retire 0x0D nx { fault := some { fx .trap with detail := c.toNat }, done := s } s

/-- The context's break enable (R377). -/
def breakOn (s : State) : Bool := (aget s.ctxs s.gang.ctx).any (fun c => c.brken)

def execBrk (nx : NX) (c : BitVec 22) (s : State) : Out :=
  retire 0x0E nx { fault := if breakOn s then some { fx .brk with detail := c.toNat } else none, done := s } s

/-! ## MODE (R167, R197, R198) -/

/-- Low bit and width of the field of MODE that SETMODE names (R167). -/
def modeField : Nat → Nat × Nat
  | 0 => (0, 4)
  | 1 => (4, 4)
  | 2 => (8, 2)
  | 3 => (10, 1)
  | 4 => (11, 1)
  | 5 => (12, 1)
  | 6 => (13, 5)
  | _ => (18, 3)

/-- The value SETMODE writes, or none where the form is illegal (R167). -/
def setmodeValue (s : State) (f : BitVec 7) (i : BitVec 15) : Option (BitVec 32) :=
  if 8 < f.toNat then none
  else
    let m :=
      if f.toNat = 8 then
        if i.toNat < 128 ∧ iOk s i.toNat then some ((iget s i.toNat).setWidth 32) else none
      else
        let (lo, w) := modeField f.toNat
        if i.toNat < 2 ^ w then some (BitVec.ofNat 32 (setBits (modeOf s).toNat lo w i.toNat)) else none
    m.bind (fun v => if modeLegal v then some v else none)

def execSetmode (nx : NX) (f : BitVec 7) (i : BitVec 15) (s : State) : Out :=
  retire 0x0A nx
    { early := range (setmodeValue s f i).isSome, done := setMode s ((setmodeValue s f i).getD (modeOf s)) } s

def execSetmodev (nx : NX) (a : BitVec 7) (s : State) : Out :=
  match active s with
  | [] => retire 0x0B nx { early := range (vRun s a.toNat 1), done := s } s
  | p :: ps =>
    let m := vget s a.toNat p
    retire 0x0B nx
      { early := range (vRun s a.toNat 1),
        fault := firstFx [check (ps.all (fun q => vget s a.toNat q = m)) .nonuniform, check (modeLegal m) .illegalOp],
        done := setMode s m } s

def execGetmode (nx : NX) (d : BitVec 7) (s : State) : Out :=
  retire 0x0C nx { early := range (iOk s d.toNat), done := iput s d.toNat ((modeOf s).setWidth 64) } s

end Sys2Proof.Machine
end

