-- ==== Sys2Proof/Machine/Scalar.lean ====
section
/-! DEFINITION. Scalar arithmetic, scalar memory access, special registers, CSRs, counters and clocks (R199–R214). -/
namespace Sys2Proof.Machine

/-! ## Operands -/

/-- xa and xb of R199: SignExt when X = 0, ZeroExt when X = 1. -/
def xval (x : BitVec 1) (v : BitVec 64) : Int := if x = 0 then v.toInt else v.toNat

/-- sD := f sA sB. -/
def scalar2 (op : Nat) (nx : NX) (d a b : BitVec 7) (f : BitVec 64 → BitVec 64 → BitVec 64) (s : State) : Out :=
  retire op nx
    { early := range (sOk d.toNat && sOk a.toNat && sOk b.toNat),
      done := sput s d.toNat (f (sget s a.toNat) (sget s b.toNat)) } s

/-- sD := f sA. -/
def scalar1 (op : Nat) (nx : NX) (d a : BitVec 7) (f : BitVec 64 → BitVec 64) (s : State) : Out :=
  retire op nx { early := range (sOk d.toNat && sOk a.toNat), done := sput s d.toNat (f (sget s a.toNat)) } s

/-- sD := f of the old sD. -/
def scalar0 (op : Nat) (nx : NX) (d : BitVec 7) (f : BitVec 64 → BitVec 64) (s : State) : Out :=
  retire op nx { early := range (sOk d.toNat), done := sput s d.toNat (f (sget s d.toNat)) } s

/-! ## Results (R199, R200) -/

/-- The pattern of an integer modulo 2^64. -/
def w64 (x : Int) : BitVec 64 := BitVec.ofInt 64 x

def mulHigh (x : BitVec 1) (a b : BitVec 64) : BitVec 64 := w64 (xval x a * xval x b / 2 ^ 64)

def quoS (x : BitVec 1) (p q : BitVec 64) : BitVec 64 := if q = 0 then BitVec.allOnes 64 else w64 ((xval x p).tdiv (xval x q))

def remS (x : BitVec 1) (p q : BitVec 64) : BitVec 64 :=
  if q = 0 then p else w64 (xval x p - xval x q * (xval x p).tdiv (xval x q))

def shlS (a c : BitVec 64) : BitVec 64 := if c.toNat < 64 then a <<< c.toNat else 0
def shrS (a c : BitVec 64) : BitVec 64 := if c.toNat < 64 then a >>> c.toNat else 0
def sraS (a c : BitVec 64) : BitVec 64 := if c.toNat < 64 then a.sshiftRight c.toNat else if a.msb then BitVec.allOnes 64 else 0

def minS (x : BitVec 1) (a b : BitVec 64) : BitVec 64 := if xval x b < xval x a then b else a
def maxS (x : BitVec 1) (a b : BitVec 64) : BitVec 64 := if xval x a < xval x b then b else a

/-- Leading zero bits of a w-bit value. -/
def clzN (w v : Nat) : Nat := if v = 0 then w else w - 1 - Nat.log2 v

/-- One bits among the lowest n of a value. -/
def popN : Nat → Nat → Nat
  | 0, _ => 0
  | n + 1, v => v % 2 + popN n (v / 2)

/-- SADDR: the 60-bit address sum (R199). -/
def addrS (x : BitVec 1) (a b : BitVec 64) : BitVec 64 :=
  let xb : Int := if x = 0 then signExt b.toNat 32 else ((b.toNat % 2 ^ 32 : Nat) : Int)
  BitVec.ofNat 64 (((a.toNat : Int) + xb) % 2 ^ 60).toNat

def execSadd (nx : NX) (d a b : BitVec 7) (s : State) : Out := scalar2 0x10 nx d a b (· + ·) s
def execSsub (nx : NX) (d a b : BitVec 7) (s : State) : Out := scalar2 0x11 nx d a b (· - ·) s
def execSmul (nx : NX) (d a b : BitVec 7) (s : State) : Out := scalar2 0x12 nx d a b (· * ·) s
def execSmulh (nx : NX) (d a b : BitVec 7) (x : BitVec 1) (s : State) : Out := scalar2 0x13 nx d a b (mulHigh x) s
def execSdiv (nx : NX) (d a b : BitVec 7) (x : BitVec 1) (s : State) : Out := scalar2 0x14 nx d a b (quoS x) s
def execSrem (nx : NX) (d a b : BitVec 7) (x : BitVec 1) (s : State) : Out := scalar2 0x15 nx d a b (remS x) s
def execSand (nx : NX) (d a b : BitVec 7) (s : State) : Out := scalar2 0x16 nx d a b (· &&& ·) s
def execSor (nx : NX) (d a b : BitVec 7) (s : State) : Out := scalar2 0x17 nx d a b (· ||| ·) s
def execSxor (nx : NX) (d a b : BitVec 7) (s : State) : Out := scalar2 0x18 nx d a b (· ^^^ ·) s
def execSshl (nx : NX) (d a b : BitVec 7) (s : State) : Out := scalar2 0x19 nx d a b shlS s
def execSshr (nx : NX) (d a b : BitVec 7) (s : State) : Out := scalar2 0x1A nx d a b shrS s
def execSsra (nx : NX) (d a b : BitVec 7) (s : State) : Out := scalar2 0x1B nx d a b sraS s
def execSmin (nx : NX) (d a b : BitVec 7) (x : BitVec 1) (s : State) : Out := scalar2 0x1C nx d a b (minS x) s
def execSmax (nx : NX) (d a b : BitVec 7) (x : BitVec 1) (s : State) : Out := scalar2 0x1D nx d a b (maxS x) s
def execSaddr (nx : NX) (d a b : BitVec 7) (x : BitVec 1) (s : State) : Out := scalar2 0x2A nx d a b (addrS x) s

/-- SCMP writes a predicate in the lanes of L (R201). -/
def execScmp (nx : NX) (c k : BitVec 3) (a b : BitVec 7) (x : BitVec 1) (s : State) : Out :=
  retire 0x1E nx
    { early := range (sOk a.toNat && sOk b.toNat), fault := check (c.toNat ≤ 5) .illegalOp,
      done := setPred s k.toNat (fun _ => holds c.toNat (ordInt (xval x (sget s a.toNat)) (xval x (sget s b.toNat)))) } s

def execSsel (nx : NX) (d a b : BitVec 7) (s : State) : Out :=
  retire 0x1F nx
    { early := range (sOk d.toNat && sOk a.toNat && sOk b.toNat),
      done := sput s d.toNat (if sget s d.toNat ≠ 0 then sget s a.toNat else sget s b.toNat) } s

def execSmov (nx : NX) (d a : BitVec 7) (s : State) : Out := scalar1 0x23 nx d a id s
def execSclz (nx : NX) (d a : BitVec 7) (s : State) : Out := scalar1 0x24 nx d a (fun v => BitVec.ofNat 64 (clzN 64 v.toNat)) s
def execSpopc (nx : NX) (d a : BitVec 7) (s : State) : Out := scalar1 0x25 nx d a (fun v => BitVec.ofNat 64 (popN 64 v.toNat)) s

/-! ## Immediate forms (R202–R204) -/

def execSaddi (nx : NX) (d a : BitVec 7) (i : BitVec 8) (s : State) : Out :=
  scalar1 0x20 nx d a (fun v => v + w64 (signExt i.toNat 8)) s

def execSli (nx : NX) (d : BitVec 7) (i : BitVec 15) (s : State) : Out := scalar0 0x21 nx d (fun _ => w64 (signExt i.toNat 15)) s

def execSlih (nx : NX) (d : BitVec 7) (i : BitVec 15) (s : State) : Out :=
  scalar0 0x22 nx d (fun v => BitVec.ofNat 64 (v.toNat * 2 ^ 15 + i.toNat)) s

def execSsext (nx : NX) (d a : BitVec 7) (i : BitVec 8) (s : State) : Out :=
  retire 0x2B nx
    { early := range (sOk d.toNat && sOk a.toNat), fault := check (1 ≤ i.toNat && i.toNat ≤ 64) .illegalOp,
      done := sput s d.toNat (w64 (signExt (sget s a.toNat).toNat i.toNat)) } s

/-- The field of SBFX and SBFI: low bit and width (R203). -/
def bfLo (l : BitVec 4) : Nat := 4 * l.toNat
def bfWidth (w : BitVec 4) : Nat := 4 * (w.toNat + 1)

def execSbfx (nx : NX) (d a : BitVec 7) (l w : BitVec 4) (s : State) : Out :=
  retire 0x2C nx
    { early := range (sOk d.toNat && sOk a.toNat), fault := check (bfLo l + bfWidth w ≤ 64) .illegalOp,
      done := sput s d.toNat (BitVec.ofNat 64 (bitsOf (sget s a.toNat).toNat (bfLo l) (bfWidth w))) } s

def execSbfi (nx : NX) (d a : BitVec 7) (l w : BitVec 4) (s : State) : Out :=
  retire 0x2D nx
    { early := range (sOk d.toNat && sOk a.toNat), fault := check (bfLo l + bfWidth w ≤ 64) .illegalOp,
      done := sput s d.toNat (BitVec.ofNat 64 (setBits (sget s d.toNat).toNat (bfLo l) (bfWidth w) (sget s a.toNat).toNat)) } s

def execSshli (nx : NX) (d a : BitVec 7) (c : BitVec 6) (s : State) : Out := scalar1 0x2E nx d a (fun v => v <<< c.toNat) s
def execSshri (nx : NX) (d a : BitVec 7) (c : BitVec 6) (s : State) : Out := scalar1 0x2F nx d a (fun v => v >>> c.toNat) s
def execSsrai (nx : NX) (d a : BitVec 7) (c : BitVec 6) (s : State) : Out := scalar1 0x2F nx d a (fun v => v.sshiftRight c.toNat) s

/-! ## Scalar memory access (R205) -/

/-- The register a data selector of SLD and SST names (R205). -/
def selGet (s : State) (d : Nat) : BitVec 64 :=
  if d < 64 then sget s d else if d = 64 then s.split.lk else if d = 65 then s.split.ls else s.split.lc

def selPut (s : State) (d : Nat) (v : BitVec 64) : State :=
  if d < 64 then sput s d v
  else if d = 64 then setSplit s (fun x => { x with lk := v })
  else if d = 65 then setLs s v
  else setLc s v

/-- The address of SLD and SST (R205). -/
def scalarAddr (s : State) (a : BitVec 7) (i : BitVec 8) : Nat := (sget s a.toNat + w64 (8 * signExt i.toNat 8)).toNat

/-- SLD. The record of a loaded value that lk or ls cannot hold names the accessed address with SRC 0, as that of a misaligned access would: the manual
does not say which address it names (DESIGN CHOICE, log 68). -/
def execSld (nx : NX) (d a : BitVec 7) (i : BitVec 8) (s : State) : Out :=
  let acc : LaneAcc := ⟨0xFF, scalarAddr s a i, 8⟩
  let s1 := drainAcc s [acc] .read
  let v := BitVec.ofNat 64 (loadAcc s1 acc)
  retire 0x28 nx
    { early := range (sOk a.toNat), fault := range (d.toNat ≤ 66),
      access := firstFx [accessFx s [acc] .read,
        if (d.toNat = 64 ∨ d.toNat = 65) ∧ v.toNat % 4 ≠ 0 then some (accFx .align 0 0xFF acc.va false) else none],
      done := selPut s1 d.toNat v } s

def execSst (nx : NX) (d a : BitVec 7) (i : BitVec 8) (s : State) : Out :=
  let acc : LaneAcc := ⟨0xFF, scalarAddr s a i, 8⟩
  retire 0x29 nx
    { early := range (sOk a.toNat), fault := range (d.toNat ≤ 66), access := accessFx s [acc] .write,
      done := storeAcc (drainAcc s [acc] .write) acc (selGet s d.toNat).toNat } s

/-! ## Special registers (R206–R208) -/

/-- %sadv: the sibling's advantage after completion, else the canonical NaN (R152, R206). -/
def sadvOf (s : State) : BitVec 32 :=
  match s.grp.sib with
  | none => f32NaN
  | some (e, i) =>
    match sgOf s (s.crew.core / 8) e with
    | some x => if x.complete then x.adv.get i else f32NaN
    | none => f32NaN

def ctxTime (s : State) : BitVec 64 := ((aget s.ctxs s.gang.ctx).map (fun c => c.ctxtime)).getD 0

/-- The value of an SRD selector, or none where it names nothing an s register can read (R206). -/
def srdValue (s : State) (sel : Nat) : Option (BitVec 64) :=
  match sel with
  | 0x001 => some (BitVec.ofNat 64 s.grp.no)
  | 0x002 => some (BitVec.ofNat 64 s.crew.no)
  | 0x003 => some s.gang.no
  | 0x004 => some (BitVec.ofNat 64 s.crew.core)
  | 0x005 => some (BitVec.ofNat 64 (s.crew.core / 8))
  | 0x006 => some (BitVec.ofNat 64 (s.crew.core / 96))
  | 0x007 => some (BitVec.ofNat 64 ((s.grp.sib.map (·.2)).getD 0))
  | 0x008 => some ((sadvOf s).setWidth 64)
  | 0x009 => some s.clock
  | 0x00A => some (ctxTime s)
  | 0x020 => some s.split.ls
  | 0x021 => some s.split.lc
  | 0x022 => some s.split.lk
  | _ => if 0x010 ≤ sel ∧ sel ≤ 0x01F then some ((fmtReg s (sel - 0x010)).setWidth 64) else none

def execSrd (nx : NX) (d : BitVec 7) (i : BitVec 15) (s : State) : Out :=
  retire 0x26 nx
    { early := range (sOk d.toNat), fault := range (srdValue s i.toNat).isSome,
      done := sput s d.toNat ((srdValue s i.toNat).getD 0) } s

/-- A selector that SWR may write (R206). -/
def swrSel (sel : Nat) : Bool := (0x010 ≤ sel && sel ≤ 0x01F) || sel = 0x020 || sel = 0x021 || sel = 0x022

def swrPut (s : State) (sel : Nat) (v : BitVec 64) : State :=
  if sel = 0x020 then setLs s v
  else if sel = 0x021 then setLc s v
  else if sel = 0x022 then setSplit s (fun x => { x with lk := v })
  else setOwn s (fun c => { c with f := c.f.put (sel - 0x010) (v.setWidth 32) })

def execSwr (nx : NX) (d : BitVec 7) (i : BitVec 15) (s : State) : Out :=
  let v := sget s d.toNat
  retire 0x27 nx
    { early := range (sOk d.toNat),
      fault := firstFx [range (swrSel i.toNat), if i.toNat = 0x020 ∨ i.toNat = 0x022 then targetFx v else none],
      done := swrPut s i.toNat v } s

/-! ## Control and status registers, counters and clocks (R210–R214) -/

/-- DEVID (R210). -/
def devid : BitVec 64 := BitVec.ofNat 64 (0x07 + (if Config.lmod then 2 ^ 8 else 0) + Config.step.toNat * 2 ^ 12)

/-- SHAPE of the issuing group's grid (R210). -/
def shapeOf (p : Packet) : BitVec 64 :=
  BitVec.ofNat 64 (16 * p.regs + p.crew * 2 ^ 8 + p.gang * 2 ^ 13 + p.prio * 2 ^ 17 + p.accs * 2 ^ 20 + p.slots * 2 ^ 23 +
    p.spad * 2 ^ 28 + p.spawn * 2 ^ 37)

/-- Clusters of a partition of a size code (R26, R377). -/
def partClusters (psize : Nat) : Nat := if psize = 0 then 3 else if psize = 1 then 6 else if psize = 2 then 12 else 24

/-- PARTN: lowest cluster and cluster count of the context's partition (R210). -/
def partn (s : State) : BitVec 64 :=
  match aget s.ctxs s.gang.ctx with
  | none => 0
  | some c => BitVec.ofNat 64 (3 * c.part + partClusters c.psize * 2 ^ 8)

def csrValue (s : State) (n : Nat) : Option (BitVec 64) :=
  let cl := s.crew.core / 8
  match n with
  | 0x000 => some devid
  | 0x001 => some (BitVec.ofNat 64 s.gang.pkt.gx)
  | 0x002 => some (BitVec.ofNat 64 s.gang.pkt.gy)
  | 0x003 => some (BitVec.ofNat 64 s.gang.pkt.gz)
  | 0x004 => some (shapeOf s.gang.pkt)
  | 0x005 => some (BitVec.ofNat 64 s.gang.ctx)
  | 0x006 => some (partn s)
  | 0x007 => some (BitVec.ofNat 64 (bitsOf (s.reg (regCLSTAT cl)) 10 2))
  | 0x008 => some (BitVec.ofNat 64 (bitsOf (s.reg (regCLSTAT cl)) 0 10))
  | 0x010 => some s.grp.mark
  | _ => none

def execCsrr (nx : NX) (d : BitVec 7) (i : BitVec 15) (s : State) : Out :=
  retire 0xE0 nx
    { early := range (sOk d.toNat), fault := range (csrValue s i.toNat).isSome,
      done := sput s d.toNat ((csrValue s i.toNat).getD 0) } s

def execCsrw (nx : NX) (d : BitVec 7) (i : BitVec 15) (s : State) : Out :=
  retire 0xE1 nx
    { early := range (sOk d.toNat), fault := range (i.toNat = 0x010),
      done := setGrp s (fun g => { g with mark := sget s d.toNat }) } s

def cntOk (n : Nat) : Bool := n ≤ 0x005 || (0x010 ≤ n && n ≤ 0x017) || (0x020 ≤ n && n ≤ 0x023)

def execCntr (nx : NX) (d : BitVec 7) (i : BitVec 15) (s : State) : Out :=
  retire 0xE2 nx
    { early := range (sOk d.toNat), fault := range (cntOk i.toNat),
      done := sput s d.toNat ((coreOf s s.crew.core).cnt.get i.toNat) } s

def execClk (nx : NX) (d : BitVec 7) (i : BitVec 15) (s : State) : Out :=
  let v := if i.toNat = 0 then BitVec.ofNat 64 (coreCycles s s.crew.core) else if i.toNat = 1 then s.clock else ctxTime s
  retire 0xE3 nx { early := range (sOk d.toNat), fault := range (i.toNat ≤ 2), done := sput s d.toNat v } s

def execSeed (nx : NX) (a : BitVec 7) (s : State) : Out :=
  let v := (sget s a.toNat).setWidth 32
  retire 0xE4 nx { early := range (sOk a.toNat), done := setGen s (if v = 0 then 1 else v) } s

end Sys2Proof.Machine
end

