-- ==== Sys2Proof/Machine/Vector.lean ====
section
/-! DEFINITION. Vector arithmetic, shifts, compares, moves, dot products, counts and transcendental functions
(R216–R229, R242). -/
namespace Sys2Proof.Machine

/-! ## The element loop (R216) -/

/-- The checks of a typed vector instruction: type 14–15 and ranges; TERM_FORMAT; the accepted types; its own (R217). -/
def vecPlan (s : State) (accept : Nat → Bool) (regsOk : Bool) (extra : Option Fx) (done : State) : Plan :=
  let t := ty s
  { early := firstFx [tyCheck s, range regsOk],
    fault := firstFx [if accept t then qCheck s t else none, check (accept t) .illegalOp, extra], done := done }

def accIF (t : Nat) : Bool := isI t || isF t
def accA (t : Nat) : Bool := t ≤ 13

def map2 (f : Nat → Nat → Nat) : List Nat → List Nat → List Nat
  | a :: as, b :: bs => f a b :: map2 f as bs
  | _, _ => []

def map3 (f : Nat → Nat → Nat → Nat) : List Nat → List Nat → List Nat → List Nat
  | a :: as, b :: bs, c :: cs => f a b c :: map3 f as bs cs
  | _, _, _ => []

/-- vD := op of vA, the B operand and the old vD, element by element in each lane of L. -/
def elementwise (s : State) (d a b : Nat) (x : BitVec 1) (f : Nat → Nat → Nat → Nat) : State :=
  let t := ty s
  forLanes s (active s) (fun p =>
    vopPut t d p (pack t (map3 f (elems t (vop s t a p)) (elems t (bop s t x b p)) (elems t (vop s t d p)))))

/-- vD := op of vA, element by element. -/
def elementwise1 (s : State) (d a : Nat) (f : Nat → Nat) : State :=
  let t := ty s
  forLanes s (active s) (fun p => vopPut t d p (pack t ((elems t (vop s t a p)).map f)))

/-- A vector instruction with a B operand (R158, R220). -/
def vec2 (op : Nat) (nx : NX) (d a b : BitVec 7) (x : BitVec 1) (accept : Nat → Bool) (f : State → Nat → Nat → Nat → Nat)
    (s : State) : Out :=
  let t := ty s
  retire op nx (vecPlan s accept (vOk s t d.toNat && vOk s t a.toNat && bOk s t x b.toNat) none
    (elementwise s d.toNat a.toNat b.toNat x (f s))) s

/-- A vector instruction of one operand. -/
def vec1 (op : Nat) (nx : NX) (d a : BitVec 7) (accept : Nat → Bool) (f : State → Nat → Nat) (s : State) : Out :=
  let t := ty s
  retire op nx (vecPlan s accept (vOk s t d.toNat && vOk s t a.toNat) none (elementwise1 s d.toNat a.toNat (f s))) s

/-! ## Element results (R218, R219) -/

/-- An integer result wrapped, or saturated under MODE.sat. -/
def intRes (s : State) (f : EFmt) (r : Int) : Nat :=
  match f with
  | .int sg w => wrapNat w (if satOf s.grp.mode then satInt sg w r else r)
  | .flt _ => 0

/-- A float result rounded by MODE.rnd with the flush of R99. -/
def fltRes (s : State) (f : EFmt) (v : Val) : Nat := convTo s v (rndOf s.grp.mode) f

def inVal (s : State) (f : EFmt) (c : Nat) : Val := valOf (ftzOf s.grp.mode) f c

/-- A zero sum takes − under RDN (R218). -/
def rdnOf (s : State) : Bool := rndOf s.grp.mode = .rdn

/-- An operation on elements: on integers, and on values. -/
def arith (s : State) (fi : Int → Int → Int → Int) (fv : Val → Val → Val → Val) (a b d : Nat) : Nat :=
  let f := tyFmt s (ty s)
  match f with
  | .int _ _ => intRes s f (fi (intOf f a) (intOf f b) (intOf f d))
  | .flt _ => fltRes s f (fv (inVal s f a) (inVal s f b) (inVal s f d))

def opAdd (s : State) : Nat → Nat → Nat → Nat := arith s (fun a b _ => a + b) (fun a b _ => sumVals [a, b] (rdnOf s))
def opSub (s : State) : Nat → Nat → Nat → Nat := arith s (fun a b _ => a - b) (fun a b _ => sumVals [a, b.neg] (rdnOf s))
def opMul (s : State) : Nat → Nat → Nat → Nat := arith s (fun a b _ => a * b) (fun a b _ => a.mul b)
def opMad (s : State) : Nat → Nat → Nat → Nat :=
  arith s (fun a b d => a * b + d) (fun a b d => sumVals [a.mul b, d] (rdnOf s))
def opMsb (s : State) : Nat → Nat → Nat → Nat :=
  arith s (fun a b d => d - a * b) (fun a b d => sumVals [d, (a.mul b).neg] (rdnOf s))
def opMin (s : State) : Nat → Nat → Nat → Nat := arith s (fun a b _ => min a b) (fun a b _ => a.min b)
def opMax (s : State) : Nat → Nat → Nat → Nat := arith s (fun a b _ => max a b) (fun a b _ => a.max b)

/-- The absolute value of a value (R220). -/
def Val.abs (v : Val) : Val := if v.isNeg then v.neg else v

def opAbs (s : State) (a : Nat) : Nat := arith s (fun a _ _ => a.natAbs) (fun a _ _ => a.abs) a 0 0
def opNeg (s : State) (a : Nat) : Nat := arith s (fun a _ _ => -a) (fun a _ _ => a.neg) a 0 0

/-- Shifts of R220; w is the element width. -/
def opShl (s : State) (a b _d : Nat) : Nat :=
  let f := tyFmt s (ty s)
  intRes s f (intOf f a * 2 ^ min b (tyWidth (ty s) + 1))
def opShr (s : State) (a b _d : Nat) : Nat := a / 2 ^ min b (tyWidth (ty s))
def opSra (s : State) (a b _d : Nat) : Nat := let w := tyWidth (ty s); wrapNat w (signExt a w / 2 ^ min b w)

def execVadd (nx : NX) (d a b : BitVec 7) (x : BitVec 1) (s : State) : Out := vec2 0x30 nx d a b x accIF opAdd s
def execVsub (nx : NX) (d a b : BitVec 7) (x : BitVec 1) (s : State) : Out := vec2 0x31 nx d a b x accIF opSub s
def execVmul (nx : NX) (d a b : BitVec 7) (x : BitVec 1) (s : State) : Out := vec2 0x32 nx d a b x accIF opMul s
def execVmad (nx : NX) (d a b : BitVec 7) (x : BitVec 1) (s : State) : Out := vec2 0x33 nx d a b x accIF opMad s
def execVmsb (nx : NX) (d a b : BitVec 7) (x : BitVec 1) (s : State) : Out := vec2 0x34 nx d a b x accIF opMsb s
def execVmin (nx : NX) (d a b : BitVec 7) (x : BitVec 1) (s : State) : Out := vec2 0x35 nx d a b x accIF opMin s
def execVmax (nx : NX) (d a b : BitVec 7) (x : BitVec 1) (s : State) : Out := vec2 0x36 nx d a b x accIF opMax s
def execVabs (nx : NX) (d a : BitVec 7) (s : State) : Out := vec1 0x37 nx d a accIF opAbs s
def execVneg (nx : NX) (d a : BitVec 7) (s : State) : Out := vec1 0x38 nx d a accIF opNeg s
def execVshl (nx : NX) (d a b : BitVec 7) (x : BitVec 1) (s : State) : Out := vec2 0x3D nx d a b x isI opShl s
def execVshr (nx : NX) (d a b : BitVec 7) (x : BitVec 1) (s : State) : Out := vec2 0x3E nx d a b x isI opShr s
def execVsra (nx : NX) (d a b : BitVec 7) (x : BitVec 1) (s : State) : Out := vec2 0x3F nx d a b x isI opSra s

/-! ## Compare and select (R221, R222) -/

/-- The outcome of VCMP in a lane. -/
def vcmpLane (s : State) (c : Nat) (any : Bool) (a b : Nat) (x : BitVec 1) (p : Nat) : Bool :=
  let t := ty s
  let f := tyFmt s t
  let o := ((elems t (vop s t a p)).zip (elems t (bop s t x b p))).map (fun e => holds c (ordElem (ftzOf s.grp.mode) f e.1 e.2))
  if any then o.any id else o.all id

def execVcmp (nx : NX) (c : BitVec 3) (y : BitVec 1) (k : BitVec 3) (a b : BitVec 7) (x : BitVec 1) (s : State) : Out :=
  let t := ty s
  retire 0x40 nx (vecPlan s accIF (vOk s t a.toNat && bOk s t x b.toNat)
    (check (c.toNat ≠ 7 && (c.toNat ≠ 6 || isF t)) .illegalOp)
    (setPred s k.toNat (vcmpLane s c.toNat (y = 1) a.toNat b.toNat x))) s

def execVsel (nx : NX) (d a b : BitVec 7) (x : BitVec 1) (s : State) : Out :=
  vec2 0x41 nx d a b x accA (fun s a b d => clean s (ty s) (if clean s (ty s) d ≠ 0 then a else b)) s

/-! ## Moves, logic, constants, lane identity (R223–R225) -/

/-- vD := 32 bits for each lane of L, whatever MODE.ty holds (R223). -/
def rawLanes (s : State) (d : Nat) (f : Nat → BitVec 32) : State := forLanes s (active s) (fun p s' => vput s' d p (f p))

/-- A B operand of 32 bits (R223). -/
def bRaw (s : State) (x : BitVec 1) (b p : Nat) : BitVec 32 := if x = 0 then vget s b p else (sget s b).setWidth 32

def rawOk (s : State) (x : BitVec 1) (b : Nat) : Bool := if x = 0 then vRun s b 1 else sOk b

def logic (op : Nat) (nx : NX) (d a b : BitVec 7) (x : BitVec 1) (f : BitVec 32 → BitVec 32 → BitVec 32) (s : State) : Out :=
  retire op nx
    { early := range (vRun s d.toNat 1 && vRun s a.toNat 1 && rawOk s x b.toNat),
      done := rawLanes s d.toNat (fun p => f (vget s a.toNat p) (bRaw s x b.toNat p)) } s

def execVand (nx : NX) (d a b : BitVec 7) (x : BitVec 1) (s : State) : Out := logic 0x39 nx d a b x (· &&& ·) s
def execVor (nx : NX) (d a b : BitVec 7) (x : BitVec 1) (s : State) : Out := logic 0x3A nx d a b x (· ||| ·) s
def execVxor (nx : NX) (d a b : BitVec 7) (x : BitVec 1) (s : State) : Out := logic 0x3B nx d a b x (· ^^^ ·) s

def execVnot (nx : NX) (d a : BitVec 7) (s : State) : Out :=
  retire 0x3C nx
    { early := range (vRun s d.toNat 1 && vRun s a.toNat 1), done := rawLanes s d.toNat (fun p => ~~~(vget s a.toNat p)) } s

def execVmovV (nx : NX) (d a : BitVec 7) (s : State) : Out :=
  retire 0x42 nx { early := range (vRun s d.toNat 1 && vRun s a.toNat 1), done := rawLanes s d.toNat (vget s a.toNat) } s

def execVmovS (nx : NX) (d b : BitVec 7) (s : State) : Out :=
  retire 0x42 nx
    { early := range (vRun s d.toNat 1 && sOk b.toNat), done := rawLanes s d.toNat (fun _ => (sget s b.toNat).setWidth 32) } s

def execVli (nx : NX) (d : BitVec 7) (i : BitVec 15) (s : State) : Out :=
  retire 0x43 nx
    { early := range (vRun s d.toNat 1), done := rawLanes s d.toNat (fun _ => BitVec.ofInt 32 (signExt i.toNat 15)) } s

/-- A cross-lane read: the register of the position, 0 at a position never filled (R236). The position of a lane that was exiled or moved home by
RWAIT gives the word that the lane left (DESIGN CHOICE, log 95). -/
def xlane (s : State) (r p : Nat) : BitVec 32 := vget s r p

def execVbcsImm (nx : NX) (d a : BitVec 7) (p : BitVec 5) (s : State) : Out :=
  retire 0x44 nx
    { early := range (sOk d.toNat && vRun s a.toNat 1), done := sput s d.toNat ((xlane s a.toNat p.toNat).setWidth 64) } s

def execVbcsReg (nx : NX) (d a b : BitVec 7) (s : State) : Out :=
  retire 0x44 nx
    { early := range (sOk d.toNat && vRun s a.toNat 1 && sOk b.toNat),
      done := sput s d.toNat ((xlane s a.toNat ((sget s b.toNat).toNat % 32)).setWidth 64) } s

/-- What VLANE writes: %lane, the position, or 4 × position (R225). -/
def laneValue (s : State) (sel p : Nat) : BitVec 32 :=
  if sel = 0 then BitVec.ofNat 32 (((aget s.grp.lanes p).map (fun t => t.lane)).getD p)
  else if sel = 1 then BitVec.ofNat 32 p
  else BitVec.ofNat 32 (4 * p)

def execVlane (nx : NX) (d s' : BitVec 7) (s : State) : Out :=
  retire 0x5E nx
    { early := range (vRun s d.toNat 1), fault := check (s'.toNat ≤ 2) .illegalOp,
      done := rawLanes s d.toNat (laneValue s s'.toNat) } s

/-! ## Dot products (R226) -/

def sumInts (l : List Int) : Int := l.foldl (· + ·) 0

/-- A 32-bit accumulator result: S32 or N32, wrapped or saturated (R226). -/
def accRes (s : State) (sg : Bool) (r : Int) : Nat := intRes s (.int sg 32) r

/-- An accumulating instruction: one 32-bit result in each lane from the elements of vA and the B operand. -/
def dotLanes (s : State) (d a b : Nat) (x : BitVec 1) (sgn : Bool) (f : Int → Int → Int) : State :=
  let t := ty s
  let e := tyFmt s t
  rawLanes s d (fun p =>
    let acc := intOf (.int sgn 32) (vget s d p).toNat
    let terms := ((elems t (vop s t a p)).zip (elems t (bop s t x b p))).map (fun c => f (intOf e c.1) (intOf e c.2))
    BitVec.ofNat 32 (accRes s sgn (acc + sumInts terms)))

def dotOk (s : State) (d a b : BitVec 7) (x : BitVec 1) : Bool := vRun s d.toNat 1 && vRun s a.toNat 1 && rawOk s x b.toNat

def acc8 (t : Nat) : Bool := t = 4 || t = 5 || t = 12 || t = 13

def execVdot4 (nx : NX) (d a b : BitVec 7) (x : BitVec 1) (s : State) : Out :=
  retire 0x45 nx (vecPlan s acc8 (dotOk s d a b x) none
    (dotLanes s d.toNat a.toNat b.toNat x (tySigned (ty s)) (· * ·))) s

/-- The fused F32 sum of VDOT2 under F16x2 and B16x2. -/
def dot2Flt (s : State) (d a b : Nat) (x : BitVec 1) : State :=
  let t := ty s
  let e := tyFmt s t
  rawLanes s d (fun p =>
    let acc := inVal s (.flt fmtF32) (vget s d p).toNat
    let terms := ((elems t (vop s t a p)).zip (elems t (bop s t x b p))).map (fun c => (inVal s e c.1).mul (inVal s e c.2))
    BitVec.ofNat 32 (fltRes s (.flt fmtF32) (sumVals (acc :: terms) (rdnOf s))))

def execVdot2 (nx : NX) (d a b : BitVec 7) (x : BitVec 1) (s : State) : Out :=
  let t := ty s
  retire 0x46 nx (vecPlan s (fun t => t = 2 || t = 3 || t = 7 || t = 8) (dotOk s d a b x) none
    (if isF t then dot2Flt s d.toNat a.toNat b.toNat x else dotLanes s d.toNat a.toNat b.toNat x (tySigned t) (· * ·))) s

def execVsad (nx : NX) (d a b : BitVec 7) (x : BitVec 1) (s : State) : Out :=
  retire 0x47 nx (vecPlan s acc8 (dotOk s d a b x) none
    (dotLanes s d.toNat a.toNat b.toNat x false (fun u v => (u - v).natAbs))) s

/-! ## Counts (R227, R242, R111) -/

def execVclz (nx : NX) (d a : BitVec 7) (s : State) : Out := vec1 0x48 nx d a isI (fun s e => clzN (tyWidth (ty s)) e) s
def execVpopc (nx : NX) (d a : BitVec 7) (s : State) : Out := vec1 0x49 nx d a isI (fun s e => popN (tyWidth (ty s)) e) s

/-- A code that is not a zero code of its format (R111). -/
def nonzeroCode (f : EFmt) (c : Nat) : Bool := (decodeE c f).kind ≠ .zero

/-- One N32 value per lane from the elements of vA. Under F64 an odd vD is accepted, since it is one N32 register and no pair: R89 can be read to forbid
it (DESIGN CHOICE, log 90). -/
def countLanes (op : Nat) (nx : NX) (d a : BitVec 7) (accept : Nat → Bool) (f : State → EFmt → List Nat → Nat) (s : State) : Out :=
  let t := ty s
  retire op nx (vecPlan s accept (vRun s d.toNat 1 && vOk s t a.toNat) none
    (rawLanes s d.toNat (fun p => BitVec.ofNat 32 (f s (tyFmt s t) (elems t (vop s t a.toNat p)))))) s

def execVnzc (nx : NX) (d a : BitVec 7) (s : State) : Out :=
  countLanes 0x5B nx d a accA (fun _ f l => (l.filter (nonzeroCode f)).length) s

def execVnzb (nx : NX) (d a : BitVec 7) (s : State) : Out :=
  countLanes 0x5C nx d a accA (fun _ f l => packN 1 (l.map (fun c => if nonzeroCode f c then 1 else 0))) s

/-- Terms of an element under MODE.ftz (R65, R242). -/
def termsOf (s : State) (f : EFmt) (c : Nat) : Nat :=
  match f with
  | .int _ _ => (decodeE c f).terms
  | .flt F => if ftzOf s.grp.mode && F.isSub (decodeFlt c F).val then 0 else (decodeFlt c F).terms

def execVterm (nx : NX) (d a : BitVec 7) (s : State) : Out :=
  countLanes 0x5D nx d a (fun t => t ≤ 13 && t ≠ 11) (fun s f l => (l.map (termsOf s f)).foldl (· + ·) 0) s

/-! ## Transcendental functions (R228, R229) -/

/-- An exact real result: special, or a number standing for a real by truncation with a sticky bit. -/
def trans (op : Nat) (v : Val) : Val :=
  match op with
  | 0x4A => (Val.num ⟨1, 0⟩).div v
  | 0x4B =>
    match v with
    | .nan => .nan
    | .zero s => .inf s
    | .inf false => .zero false
    | .inf true => .nan
    | .num d => if d.m < 0 then .nan else .num (Dy.div ⟨1, 0⟩ d).sqrt
  | 0x4C =>
    match v with
    | .nan => .nan
    | .zero _ => .num ⟨1, 0⟩
    | .inf false => .inf false
    | .inf true => .zero false
    | .num d => .num (if Dy.lt ⟨2000, 0⟩ d then ⟨1, 2000⟩ else if Dy.lt d ⟨-2000, 0⟩ then ⟨1, -2000⟩ else exp2Dy d)
  | 0x4D =>
    match v with
    | .nan => .nan
    | .zero _ => .inf true
    | .inf false => .inf false
    | .inf true => .nan
    | .num d => if d.m < 0 then .nan else Val.ofDy (log2Dy d)
  | 0x4E =>
    match v with
    | .num d => Val.ofDy (sinPiDy d) (d.m < 0)
    | .zero s => .zero s
    | _ => .nan
  | _ =>
    match v with
    | .num d => Val.ofDy (cosPiDy d)
    | .zero _ => .num ⟨1, 0⟩
    | _ => .nan

/-- 2^n as a number. -/
def Dy.isPow2 (d : Dy) : Bool := Dy.eq d.abs ⟨1, d.log2⟩

/-- The F32 results that R228 or R229 states exactly; R229 gives VEXP2 of an integer n as 2^n where that is subnormal too. -/
def transExact (op : Nat) (d r : Dy) : Bool :=
  let normal := -126 ≤ r.log2 && r.log2 ≤ 127
  match op with
  | 0x4A => d.isPow2 && normal
  | 0x4B => d.isPow2 && d.log2 % 2 = 0 && normal
  | 0x4C => Dy.eq d ⟨d.floorAt 0, 0⟩ && -149 ≤ r.log2 && r.log2 ≤ 127
  | 0x4D => d.isPow2
  | _ => Dy.eq d ⟨d.floorAt (-1), -1⟩

/-- The bound of R228 on |result − exact|. -/
def transBound (op : Nat) (d r : Dy) : Dy :=
  let q := max r.log2 (-126) - 23
  match op with
  | 0x4A => ⟨1, q⟩
  | 0x4B => ⟨1, q⟩
  | 0x4C => ⟨2, q⟩
  | 0x4D => if Dy.le ⟨1, -1⟩ d && Dy.le d ⟨2, 0⟩ then ⟨1, -22⟩ else ⟨2, q⟩
  | _ => ⟨1, -22⟩

/-- An F32 result: exact where R228 or R229 says so, infinite on overflow, and otherwise the package's own value within
the bound (log 7). -/
def transF32 (mode : BitVec 32) (op c : Nat) (v : Val) : Val :=
  match v, trans op v with
  | .num d, .num r =>
    let exact := roundFlt r fmtF32 .rne
    if transExact op d r then exact
    else if Dy.lt fmtF32.maxpos r.abs then .inf (r.m < 0)
    else
      let own := (decodeFlt (Config.approxF32 op (BitVec.ofNat 32 c) mode).toNat fmtF32).val
      let err := (own.dy.add r.neg).abs
      if own ≠ .nan ∧ own ≠ .inf true ∧ own ≠ .inf false ∧ Dy.le err (transBound op d r) then own else exact
  | _, r => r

/-- A result of an element. The zero of VCOS is +0 and that of VSIN has a's sign whatever MODE.rnd holds (R229); an exact zero of VLOG2 follows R218. -/
def transElem (op : Nat) (s : State) (c : Nat) : Nat :=
  let f := tyFmt s (ty s)
  let v := inVal s f c
  if ty s = 6 then encodeFlt (flushVal (ftzOf s.grp.mode) fmtF32 (transF32 s.grp.mode op c v)) fmtF32
  else fltRes s f (match v, trans op v with
    | .num _, .zero z => .zero (if op = 0x4E then z else op ≠ 0x4F && rdnOf s)
    | _, r => r)

def accT (t : Nat) : Bool := t = 6 || t = 7 || t = 8

def execVrcp (nx : NX) (d a : BitVec 7) (s : State) : Out := vec1 0x4A nx d a accT (transElem 0x4A) s
def execVrsq (nx : NX) (d a : BitVec 7) (s : State) : Out := vec1 0x4B nx d a accT (transElem 0x4B) s
def execVexp2 (nx : NX) (d a : BitVec 7) (s : State) : Out := vec1 0x4C nx d a accT (transElem 0x4C) s
def execVlog2 (nx : NX) (d a : BitVec 7) (s : State) : Out := vec1 0x4D nx d a accT (transElem 0x4D) s
def execVsin (nx : NX) (d a : BitVec 7) (s : State) : Out := vec1 0x4E nx d a accT (transElem 0x4E) s
def execVcos (nx : NX) (d a : BitVec 7) (s : State) : Out := vec1 0x4F nx d a accT (transElem 0x4F) s

end Sys2Proof.Machine
end

