-- ==== Sys2Proof/Machine/VectorConv.lean ====
section
/-! DEFINITION. Conversion, packing, requantisation, rounding shifts and block scales (R230–R235). -/
namespace Sys2Proof.Machine

/-- A code of one format converted into another with the flush of R99 at both ends (R104, R230). -/
def cvt (s : State) (src dst : EFmt) (r : Rnd) (c : Nat) : Nat := convTo s (inVal s src c) r dst

/-- Element i of a list replaced. -/
def setElem (l : List Nat) (i v : Nat) : List Nat := l.set i v

/-- VCVT's result in a lane (R230). -/
def vcvtLane (s : State) (ts sel d a p : Nat) : Nat :=
  let td := ty s
  let ks := tyCount ts
  let kd := tyCount td
  let n := min ks kd
  let src := elems ts (vop s ts a p)
  let old := elems td (vop s td d p)
  pack td ((List.range n).foldl (fun l j =>
    let c := src.getD (if kd < ks then j + sel * n else j) 0
    setElem l (if ks < kd then j + sel * n else j) (cvt s (tyFmt s ts) (tyFmt s td) (convRnd s n p j) c)) old)

def execVcvt (nx : NX) (d a : BitVec 7) (sel : BitVec 3) (t : BitVec 4) (s : State) : Out :=
  let ts := t.toNat
  let td := ty s
  let n := min (tyCount ts) (tyCount td)
  let bad := 14 ≤ ts || (isQ ts && isQ td)
  retire 0x50 nx
    { early := firstFx [tyCheck s, range (vOk s td d.toNat && vOk s ts a.toNat)],
      fault := firstFx [if isQ ts then qCheck s ts else none, if isQ td then qCheck s td else none, check (!bad) .illegalOp,
        check (sel.toNat * n < max (tyCount ts) (tyCount td)) .illegalOp],
      done := advance (forLanes s (active s) (fun p => vopPut td d.toNat p (vcvtLane s ts sel.toNat d.toNat a.toNat p))) } s

/-- The source type of VPACK for a destination type (R231). -/
def packSrc (t : Nat) : Option Nat :=
  match t with
  | 2 => some 0
  | 3 => some 1
  | 4 => some 2
  | 5 => some 3
  | 12 => some 4
  | 13 => some 5
  | 7 => some 6
  | 8 => some 6
  | 9 => some 7
  | _ => none

def packOk (t : Nat) : Bool := (packSrc t).isSome

/-- Codes converted one by one, result e with its own rounding bits. -/
def cvtList (s : State) (src dst : EFmt) (k p : Nat) : Nat → List Nat → List Nat
  | _, [] => []
  | e, c :: r => cvt s src dst (convRnd s k p e) c :: cvtList s src dst k p (e + 1) r

def execVpack (nx : NX) (d a b : BitVec 7) (x : BitVec 1) (s : State) : Out :=
  let t := ty s
  let ts := (packSrc t).getD 0
  retire 0x51 nx (vecPlan s packOk (vRun s d.toNat 1 && vRun s a.toNat 1 && rawOk s x b.toNat) none
    (advance (forLanes s (active s) (fun p => vopPut t d.toNat p (pack t
      (cvtList s (tyFmt s ts) (tyFmt s t) (tyCount t) p 0 (elems ts (vop s ts a.toNat p) ++ elems ts (bop s ts x b.toNat p)))))))) s

def execVunpk (nx : NX) (d a : BitVec 7) (s : State) : Out :=
  let t := ty s
  let ts := (packSrc t).getD 0
  let wide := fun (p : Nat) => (elems t (vop s t a.toNat p)).map (cvt s (tyFmt s t) (tyFmt s ts) (rndOf s.grp.mode))
  let h := tyCount t / 2
  retire 0x52 nx (vecPlan s packOk (vRun s d.toNat 2 && vRun s a.toNat 1) none
    (forLanes s (active s) (fun p s' =>
      vput (vput s' d.toNat p (BitVec.ofNat 32 (pack ts ((wide p).take h)))) (d.toNat + 1) p
        (BitVec.ofNat 32 (pack ts ((wide p).drop h)))))) s

/-- VRQ's result in a lane (R233). The integer 0 counts as +0: with a negative multiplier or −0 its product is −0, whose sign the manual does not give
(DESIGN CHOICE, log 89). -/
def vrqLane (s : State) (a b : Nat) (x : BitVec 1) (p : Nat) : Nat :=
  let t := ty s
  let k := tyCount t
  let m := inVal s (.flt fmtF32) (bRaw s x b p).toNat
  pack t ((List.range k).map (fun i =>
    convTo s ((Val.ofDy (Dy.ofInt (vget s (a + i) p).toInt)).mul m) (convRnd s k p i) (tyFmt s t)))

def accRq (t : Nat) : Bool := (2 ≤ t && t ≤ 5) || t = 9 || t = 10 || t = 12 || t = 13

def execVrq (nx : NX) (d a b : BitVec 7) (x : BitVec 1) (s : State) : Out :=
  let t := ty s
  retire 0x53 nx (vecPlan s accRq (vRun s d.toNat 1 && vRun s a.toNat (if accRq t then tyCount t else 1) && rawOk s x b.toNat) none
    (advance (forLanes s (active s) (fun p => vopPut t d.toNat p (vrqLane s a.toNat b.toNat x p))))) s

/-- Round(x / 2^c, Fe, MODE.rnd) (R234); a count above 64 gives what 64 gives. -/
def opRshr (s : State) (a b _d : Nat) : Nat :=
  match tyFmt s (ty s) with
  | .int sg w =>
    let v := Dy.mk (intOf (.int sg w) a) (-(min b 64 : Nat))
    if v.m = 0 then 0 else wrapNat w (roundInt v sg w (rndOf s.grp.mode))
  | .flt _ => 0

def execVrshr (nx : NX) (d a b : BitVec 7) (x : BitVec 1) (s : State) : Out := vec2 0x54 nx d a b x isI opRshr s

/-- A value times an E8 scale (R235). -/
def sclElem (s : State) (f : EFmt) (c sc : Nat) : Nat :=
  match e8 sc with
  | none => fltRes s f .nan
  | some e => match inVal s f c, f with
    | .inf _, .flt F => if F.spec = 2 then clean s (ty s) c else fltRes s f (inVal s f c)
    | v, _ => fltRes s f (v.mul (.num ⟨1, e⟩))

/-- One scale byte for each four elements. -/
def sclList (s : State) (f : EFmt) (scales : Nat) : Nat → List Nat → List Nat
  | _, [] => []
  | i, c :: r => sclElem s f c (scales / 2 ^ (8 * (i / 4)) % 256) :: sclList s f scales (i + 1) r

def execVscl (nx : NX) (d a b : BitVec 7) (x : BitVec 1) (s : State) : Out :=
  let t := ty s
  retire 0x5F nx (vecPlan s (fun t => 6 ≤ t && t ≤ 10) (vRun s d.toNat 1 && vRun s a.toNat 1 && rawOk s x b.toNat) none
    (forLanes s (active s) (fun p => vopPut t d.toNat p
      (pack t (sclList s (tyFmt s t) (bRaw s x b.toNat p).toNat 0 (elems t (vop s t a.toNat p))))))) s

end Sys2Proof.Machine
end

