-- ==== Sys2Proof/Machine/VectorLane.lean ====
section
/-! DEFINITION. Instructions whose lanes read other lanes, pruning, the sparse dot product, and predicates
(R236–R243). -/
namespace Sys2Proof.Machine

/-! ## Shuffles (R237) -/

def execVshfl (nx : NX) (d a b : BitVec 7) (x : BitVec 1) (s : State) : Out :=
  retire 0x55 nx
    { early := range (vRun s d.toNat 1 && vRun s a.toNat 1 && rawOk s x b.toNat),
      done := rawLanes s d.toNat (fun p => xlane s a.toNat ((bRaw s x b.toNat p).toNat % 32)) } s

/-- The source position of VSHFLI (R237). -/
def shflSrc (m c l : Nat) : Nat :=
  match m with
  | 0 => l ^^^ c
  | 1 => if l < c then l else l - c
  | 2 => if 31 < l + c then l else l + c
  | 3 => (l + c) % 32
  | _ => c

def execVshfli (nx : NX) (d a : BitVec 7) (m : BitVec 3) (c : BitVec 5) (s : State) : Out :=
  retire 0x56 nx
    { early := range (vRun s d.toNat 1 && vRun s a.toNat 1), fault := check (m.toNat ≤ 4) .illegalOp,
      done := rawLanes s d.toNat (fun p => xlane s a.toNat (shflSrc m.toNat c.toNat p)) } s

/-! ## Reductions and scans (R238, R239) -/

/-- Types a reduction operation accepts. -/
def redAcc (o t : Nat) : Bool := if o ≤ 2 then accIF t else accA t

/-- The combination of elements by an operation; none of an empty list of min or max. -/
def combine (s : State) (o : Nat) (f : EFmt) (l : List Nat) : Nat :=
  let w := tyWidth (ty s)
  match o with
  | 0 =>
    match f with
    | .int _ _ => intRes s f (sumInts (l.map (intOf f)))
    | .flt _ => fltRes s f (if l = [] then .zero false else sumVals (l.map (inVal s f)) (rdnOf s))
  | 1 =>
    match f with
    | .int sg w => (match l with
      | [] => wrapNat w (intMax sg w)
      | c :: r => wrapNat w (r.foldl (fun m e => min m (intOf f e)) (intOf f c)))
    | .flt _ => (match l with
      | [] => fltRes s f (.inf false)
      | c :: r => fltRes s f (r.foldl (fun m e => m.min (inVal s f e)) (inVal s f c)))
  | 2 =>
    match f with
    | .int sg w => (match l with
      | [] => wrapNat w (intMin sg w)
      | c :: r => wrapNat w (r.foldl (fun m e => max m (intOf f e)) (intOf f c)))
    | .flt _ => (match l with
      | [] => fltRes s f (.inf true)
      | c :: r => fltRes s f (r.foldl (fun m e => m.max (inVal s f e)) (inVal s f c)))
  | 3 => l.foldl (· &&& ·) (2 ^ w - 1)
  | 4 => l.foldl (· ||| ·) 0
  | _ => l.foldl (· ^^^ ·) 0

/-- The combination over the lanes of a list, each element index on its own. Under the Q types, for which R239 gives no identity of and, or and xor,
an empty list gives the I types' (DESIGN CHOICE, log 95). -/
def combineLanes (s : State) (o a : Nat) (ls : List Nat) : Nat :=
  let t := ty s
  pack t ((List.range (tyCount t)).map (fun i =>
    clean s t (combine s o (tyFmt s t) (ls.map (fun p => (elems t (vop s t a p)).getD i 0)))))

/-- A reduction's checks: types, then op 6–7, or add, min or max under a Q type (R244). Under a Q type an op of 6–7 is taken to need the format that and,
or and xor need, whose TERM_FORMAT comes before its ILLEGAL_OP: the manual does not say whether it does (DESIGN CHOICE, log 90). -/
def redPlan (s : State) (d a o : Nat) (done : State) : Plan :=
  let t := ty s
  { early := firstFx [tyCheck s, range (vOk s t d && vOk s t a)],
    fault := firstFx [if 3 ≤ o then qCheck s t else none, check (o ≤ 5) .illegalOp, check (redAcc o t) .illegalOp], done := done }

def execVred (nx : NX) (d a : BitVec 7) (o : BitVec 3) (s : State) : Out :=
  let r := combineLanes s o.toNat a.toNat (active s)
  retire 0x57 nx (redPlan s d.toNat a.toNat o.toNat (forLanes s (active s) (fun p => vopPut (ty s) d.toNat p r))) s

def execVscan (nx : NX) (d a : BitVec 7) (e : BitVec 1) (o : BitVec 3) (s : State) : Out :=
  retire 0x58 nx (redPlan s d.toNat a.toNat o.toNat (forLanes s (active s) (fun p => vopPut (ty s) d.toNat p
    (combineLanes s o.toNat a.toNat ((active s).filter (fun q => if e = 1 then q < p else q ≤ p)))))) s

/-! ## Pruning (R240) -/

/-- u ranks above v: NaN above infinity above the larger magnitude (R240). -/
def ranksAbove (u v : Val) : Bool :=
  match u, v with
  | .nan, .nan => false
  | .nan, _ => true
  | _, .nan => false
  | .inf _, .inf _ => false
  | .inf _, _ => true
  | _, .inf _ => false
  | u, v => Dy.lt v.dy.abs u.dy.abs

/-- The keep-bitmap of 8 values under a budget: bit t when fewer than b values rank above value t, equal ranks by
lower position. -/
def keepMap (vs : List Val) (b : Nat) : Nat :=
  packN 1 ((vs.zipIdx).map (fun x =>
    if ((vs.zipIdx).filter (fun y => ranksAbove y.1 x.1 || (!ranksAbove x.1 y.1 && y.2 < x.2))).length < b then 1 else 0))

/-- Groups of 8 positions whose lanes are all in L. -/
def fullGroups (s : State) : List Nat :=
  let l := active s
  (List.range 4).filter (fun j => (List.range 8).all (fun i => l.contains (8 * j + i)))

/-- The budget word of a group. -/
def budgetOf (s : State) (x : BitVec 1) (b j : Nat) : Nat := (bRaw s x b (8 * j)).toNat
def budByte (w i : Nat) : Nat := w / 2 ^ (8 * i) % 256

/-- The keep-bitmap of element i in group j. -/
def pruneMap (s : State) (a b : Nat) (x : BitVec 1) (j i : Nat) : Nat :=
  let t := ty s
  let f := tyFmt s t
  keepMap ((List.range 8).map (fun q => (decodeE ((elems t (vop s t a (8 * j + q))).getD i 0) f).val))
    (budByte (budgetOf s x b j) i)

def execVprune (nx : NX) (d a b : BitVec 7) (x : BitVec 1) (s : State) : Out :=
  let t := ty s
  let k := tyCount t
  let bad := (fullGroups s).find? (fun j => (List.range k).any (fun i => 8 < budByte (budgetOf s x b.toNat j) i))
  let put := fun (j : Nat) (s' : State) =>
    let maps := (List.range k).map (pruneMap s a.toNat b.toNat x j)
    (List.range 8).foldl (fun s'' q =>
      let kept := ((elems t (vop s t a.toNat (8 * j + q))).zip maps).map (fun e => if e.2 / 2 ^ q % 2 = 1 then clean s t e.1 else 0)
      vput (vput s'' d.toNat (8 * j + q) (BitVec.ofNat 32 (pack t kept))) (d.toNat + 1) (8 * j + q)
        (BitVec.ofNat 32 (packN 8 maps))) s'
  retire 0x59 nx (vecPlan s (fun t => t ≤ 9) (vRun s d.toNat 2 && vRun s a.toNat 1 && rawOk s x b.toNat)
    (bad.map (fun j => { fx .metaMalformed with lane := 8 * j }))
    ((fullGroups s).foldl (fun s' j => put j s') s)) s

/-! ## The sparse dot product (R241) -/

/-- The positions of the set bits of an 8-bit map, ascending. -/
def bitPositions (m : Nat) : List Nat := (List.range 8).filter (fun i => m / 2 ^ i % 2 = 1)

def spdotLane (s : State) (d a b : Nat) (x : BitVec 1) (p : Nat) : BitVec 32 :=
  let t := ty s
  let f := tyFmt s t
  let m := (vget s (a + 1) p).toNat % 256
  let av := elems t (vget s a p).toNat
  let dense := elems t (bRaw s x b p).toNat ++ elems t (bRaw s x (b + 1) p).toNat
  let terms := (av.zip (bitPositions m)).map (fun e => intOf f e.1 * intOf f (dense.getD e.2 0))
  BitVec.ofNat 32 (accRes s (tySigned t) (intOf (.int (tySigned t) 32) (vget s d p).toNat + sumInts terms))

def execVspdot (nx : NX) (d a b : BitVec 7) (x : BitVec 1) (s : State) : Out :=
  let bad := (active s).find? (fun p => 4 < popN 8 (vget s (a.toNat + 1) p).toNat)
  retire 0x5A nx (vecPlan s (fun t => t = 4 || t = 5)
    (vRun s d.toNat 1 && vRun s a.toNat 2 && (if x = 0 then vRun s b.toNat 2 else sOk (b.toNat + 1)))
    (bad.map (fun p => { fx .metaMalformed with lane := p }))
    (rawLanes s d.toNat (spdotLane s d.toNat a.toNat b.toNat x))) s

/-! ## Predicates (R243) -/

def pred2 (op : Nat) (nx : NX) (d a b : BitVec 7) (x : BitVec 1) (f : Bool → Bool → Bool) (s : State) : Out :=
  retire op nx
    { early := range (kOk d.toNat && kOk a.toNat && kOk b.toNat),
      done := setPred s d.toNat (fun p => f (kget s a.toNat p) (kget s b.toNat p != (x = 1 : Bool))) } s

def execKand (nx : NX) (d a b : BitVec 7) (x : BitVec 1) (s : State) : Out := pred2 0x60 nx d a b x (· && ·) s
def execKor (nx : NX) (d a b : BitVec 7) (x : BitVec 1) (s : State) : Out := pred2 0x61 nx d a b x (· || ·) s
def execKxor (nx : NX) (d a b : BitVec 7) (x : BitVec 1) (s : State) : Out := pred2 0x62 nx d a b x (· != ·) s

def execKnot (nx : NX) (d a : BitVec 7) (s : State) : Out :=
  retire 0x63 nx
    { early := range (kOk d.toNat && kOk a.toNat), done := setPred s d.toNat (fun p => !kget s a.toNat p) } s

def execKmov (nx : NX) (d a : BitVec 7) (s : State) : Out :=
  retire 0x64 nx { early := range (kOk d.toNat && kOk a.toNat), done := setPred s d.toNat (kget s a.toNat) } s

/-- sD := a count or word over the lanes of L. -/
def predScalar (op : Nat) (nx : NX) (d a : BitVec 7) (f : List Nat → Nat) (s : State) : Out :=
  retire op nx
    { early := range (sOk d.toNat && kOk a.toNat),
      done := sput s d.toNat (BitVec.ofNat 64 (f ((active s).filter (kget s a.toNat)))) } s

def execKany (nx : NX) (d a : BitVec 7) (s : State) : Out := predScalar 0x65 nx d a (fun l => if l = [] then 0 else 1) s
def execKall (nx : NX) (d a : BitVec 7) (s : State) : Out :=
  predScalar 0x66 nx d a (fun l => if l.length = (active s).length then 1 else 0) s
def execKcnt (nx : NX) (d a : BitVec 7) (s : State) : Out := predScalar 0x67 nx d a (fun l => l.length) s
def execKbits (nx : NX) (d a : BitVec 7) (s : State) : Out :=
  predScalar 0x67 nx d a (fun l => l.foldl (fun m p => m + 2 ^ p) 0) s

def execKfromv (nx : NX) (d a : BitVec 7) (s : State) : Out :=
  retire 0x68 nx
    { early := range (kOk d.toNat && vRun s a.toNat 1), done := setPred s d.toNat (fun p => vget s a.toNat p ≠ 0) } s

def execKtov (nx : NX) (d a : BitVec 7) (s : State) : Out :=
  retire 0x69 nx
    { early := range (vRun s d.toNat 1 && kOk a.toNat),
      done := rawLanes s d.toNat (fun p => if kget s a.toNat p then BitVec.allOnes 32 else 0) } s

end Sys2Proof.Machine
end

