-- ==== Sys2Proof/Machine/MemInsn.lean ====
section
/-! DEFINITION. Vector loads, stores, atomics, reductions, RDX, fences and prefetch (R245–R260, R109, R110). -/
namespace Sys2Proof.Machine

/-! ## Widths, conversion and addresses (R109, R110, R246, R247) -/

def memFmt (s : State) : BitVec 32 := fmtReg s (fmtNoOf s.grp.mode)

/-- The access converts (R109). -/
def converting (s : State) : Bool := memFmt s ≠ 0 && !isQ (ty s)

/-- w of a load or store (R247). -/
def memWidth (s : State) : Nat :=
  if converting s then tyCount (ty s) * (fmtOfReg (memFmt s)).classWidth / 8 else if ty s = 11 then 8 else 4

/-- TERM_FORMAT of typed loads and stores (R109, R110). -/
def memFmtCheck (s : State) : Option Fx :=
  if isQ (ty s) then qCheck s (ty s)
  else if memFmt s = 0 then none
  else check (fmtValid (memFmt s) && 8 ≤ tyCount (ty s) * (fmtOfReg (memFmt s)).classWidth) .termFormat

/-- What memory's bytes put into a register (R110). -/
def loadValue (s : State) (x : Nat) : Nat :=
  if converting s then
    let f := fmtOfReg (memFmt s)
    let cw := f.classWidth
    pack (ty s) ((List.range (tyCount (ty s))).map (fun i =>
      cvt s (.flt f) (tyFmt s (ty s)) (rndOf s.grp.mode) (x / 2 ^ (cw * i) % 2 ^ cw)))
  else x

/-- The bytes a register's value gives memory (R110). Under SR the parts of a tile draw the bits of the part 0: R107 gives a lane the bits of k
results and no rule those of further parts (DESIGN CHOICE, log 75). -/
def storeValue (s : State) (p x : Nat) : Nat :=
  if converting s then
    let f := fmtOfReg (memFmt s)
    packN f.classWidth (cvtList s (tyFmt s (ty s)) (.flt f) (tyCount (ty s)) p 0 (elems (ty s) x))
  else x

/-- A converting store advances the generator (R106, R249). -/
def storeAdvance (before s : State) : State := if converting before then advance s else s

/-- sA + SignExt(vB[l], 32) (R246). -/
def gatherAddr (s : State) (a b p : Nat) : Nat :=
  (sget s a + BitVec.ofInt 64 (vget s b p).toInt).toNat

/-- sA + w × (32 × SignExt(I8, 8) + p) (R246). -/
def linearAddr (s : State) (a : Nat) (i : BitVec 8) (w p : Nat) : Nat :=
  (sget s a + BitVec.ofInt 64 ((w : Int) * (32 * signExt i.toNat 8 + (p : Int)))).toNat

/-- The accesses of the lanes of L. -/
def laneAccs (s : State) (w : Nat) (addr : Nat → Nat) : List LaneAcc := (active s).map (fun p => ⟨p, addr p, w⟩)

/-! ## Loads and stores (R249) -/

/-- A load of one access per lane. -/
def loadPlan (s : State) (regsOk : Bool) (d : Nat) (addr : Nat → Nat) : Plan :=
  let as := laneAccs s (memWidth s) addr
  let s1 := drainAcc s as .read
  { early := firstFx [tyCheck s, range (regsOk && vOk s (ty s) d)], fault := memFmtCheck s, access := accessFx s as .read,
    done := countBanks (allLocs s as .read) (as.foldl (fun s' a => vopPut (ty s) d a.lane (loadValue s (loadAcc s1 a)) s') s1) }

/-- A store of one access per lane. -/
def storePlan (s : State) (regsOk : Bool) (d : Nat) (addr : Nat → Nat) : Plan :=
  let as := laneAccs s (memWidth s) addr
  { early := firstFx [tyCheck s, range (regsOk && vOk s (ty s) d)], fault := memFmtCheck s, access := accessFx s as .write,
    done := countBanks (allLocs s as .write) (storeAdvance s
      (storeAll (drainAcc s as .write) (as.map (fun a => (a, storeValue s a.lane (vop s (ty s) d a.lane)))))) }

def execLd (nx : NX) (d a b : BitVec 7) (s : State) : Out :=
  retire 0x70 nx (loadPlan s (sOk a.toNat && vRun s b.toNat 1) d.toNat (gatherAddr s a.toNat b.toNat)) s
def execSt (nx : NX) (d a b : BitVec 7) (s : State) : Out :=
  retire 0x71 nx (storePlan s (sOk a.toNat && vRun s b.toNat 1) d.toNat (gatherAddr s a.toNat b.toNat)) s
def execLdi (nx : NX) (d a : BitVec 7) (i : BitVec 8) (s : State) : Out :=
  retire 0x72 nx (loadPlan s (sOk a.toNat) d.toNat (linearAddr s a.toNat i (memWidth s))) s
def execSti (nx : NX) (d a : BitVec 7) (i : BitVec 8) (s : State) : Out :=
  retire 0x73 nx (storePlan s (sOk a.toNat) d.toNat (linearAddr s a.toNat i (memWidth s))) s
/-- A weak load; it performs at once, which R124 allows (log 6). -/
def execLdw (nx : NX) (d a b : BitVec 7) (s : State) : Out :=
  retire 0x77 nx (loadPlan s (sOk a.toNat && vRun s b.toNat 1) d.toNat (gatherAddr s a.toNat b.toNat)) s
/-- A weak store; it performs at once, which R123 allows (log 6). -/
def execStw (nx : NX) (d a b : BitVec 7) (s : State) : Out :=
  retire 0x78 nx (storePlan s (sOk a.toNat && vRun s b.toNat 1) d.toNat (gatherAddr s a.toNat b.toNat)) s

/-! ## Tiles (R250) -/

/-- N and PITCH of a tile descriptor. -/
def tileN (x : BitVec 64) : Nat := bitsOf x.toNat 32 4 + 1
def tilePitch (x : BitVec 64) : Int := signExt x.toNat 32

/-- ILLEGAL_OP for the descriptor or its register run. -/
def tileCheck (s : State) (d : Nat) (x : BitVec 64) : Option Fx :=
  check (x.toNat < 2 ^ 36 && vRun s d (tileN x * tyRegs (ty s))) .illegalOp

/-- The accesses of a tile in ascending (position, part), with the part. -/
def tileAccs (s : State) (a : Nat) (x : BitVec 64) : List (LaneAcc × Nat) :=
  let w := memWidth s
  (active s).flatMap (fun p => (List.range (tileN x)).map (fun j =>
    (⟨p, (sget s a + BitVec.ofInt 64 ((p : Int) * tilePitch x + (j * w : Nat))).toNat, w⟩, j)))

def execLdt (nx : NX) (d a b : BitVec 7) (s : State) : Out :=
  let x := sget s b.toNat
  let as := tileAccs s a.toNat x
  let s1 := drainAcc s (as.map (·.1)) .read
  retire 0x74 nx
    { early := firstFx [tyCheck s, range (sOk a.toNat && sOk b.toNat && vOk s (ty s) d.toNat)],
      fault := firstFx [memFmtCheck s, tileCheck s d.toNat x], access := accessFx s (as.map (·.1)) .read,
      done := countBanks (allLocs s (as.map (·.1)) .read)
        (as.foldl (fun s' e => vopPut (ty s) (d.toNat + e.2 * tyRegs (ty s)) e.1.lane (loadValue s (loadAcc s1 e.1)) s') s1) } s

/-- A converting store of several parts under SR: every part draws the bits of part 0 (DESIGN CHOICE, log 75; `storeValue`). -/
def execStt (nx : NX) (d a b : BitVec 7) (s : State) : Out :=
  let x := sget s b.toNat
  let as := tileAccs s a.toNat x
  retire 0x75 nx
    { early := firstFx [tyCheck s, range (sOk a.toNat && sOk b.toNat && vOk s (ty s) d.toNat)],
      fault := firstFx [memFmtCheck s, tileCheck s d.toNat x], access := accessFx s (as.map (·.1)) .write,
      done := countBanks (allLocs s (as.map (·.1)) .write)
        (storeAdvance s (storeAll (drainAcc s (as.map (·.1)) .write) (as.map (fun e =>
          (e.1, storeValue s e.1.lane (vop s (ty s) (d.toNat + e.2 * tyRegs (ty s)) e.1.lane)))))) } s

/-! ## Bounded loads (R132, R251) -/

/-- The bound entry of a location's context. -/
def boundOf (s : State) (i : Nat) : Option Bound := (aget s.ctxs s.gang.ctx).bind (fun c => aget c.bounds i)

/-- Forced drains of a line until its allocated total is within a tolerance. -/
def drainWithin (s : State) (b : Bound) (ln : Nat) (t : BitVec 32) : State :=
  let fuel := ((aget s.lines ln).map (fun x => x.shares.length)).getD 0
  match boundVal b.fp t with
  | .inf false => s
  | v => drainTo ln b.limit (if v = .nan ∨ v.isNeg then ⟨0, 0⟩ else v.dy) fuel s

def execLdb (nx : NX) (d a b : BitVec 7) (s : State) : Out :=
  let as := laneAccs s 4 (gatherAddr s a.toNat b.toNat)
  let t := (sget s (a.toNat + 1)).setWidth 32
  let s1 := (allLocs s as .read).foldl (fun s l => match l with
    | .phys key _ (some i) => (match boundOf s i with
      | some bd => drainWithin s bd (lineKey key) t
      | none => s)
    | _ => s) s
  retire 0x76 nx
    { early := firstFx [tyCheck s, range (sOk a.toNat && vRun s b.toNat 1 && vRun s d.toNat 1)], fault := range (a.toNat < 63),
      access := accessFx s as .read,
      done := countBanks (allLocs s as .read) (as.foldl (fun s' x => vput s' d.toNat x.lane (BitVec.ofNat 32 (loadAcc s1 x))) s1) } s

/-! ## Atomics and reductions (R252–R255) -/

inductive AtomOp where
  | add
  | min
  | max
  | and
  | or
  | xor
  | xch
  deriving DecidableEq, Repr

/-- Types an operation accepts (R252). -/
def AtomOp.accept (o : AtomOp) (t : Nat) : Bool :=
  match o with
  | .add => t = 0 || t = 1 || t = 6 || t = 11
  | .min => t = 0 || t = 1 || t = 6
  | .max => t = 0 || t = 1 || t = 6
  | _ => t ≤ 13

/-- The format in which an atomic adds and compares. -/
def atomFmt (t : Nat) : EFmt := if t = 6 then .flt fmtF32 else if t = 11 then .flt fmtF64 else .int (t = 0) 32

/-- The new value from the old value and the operand (R252, R253). -/
def AtomOp.apply (o : AtomOp) (t old v : Nat) : Nat :=
  let f := atomFmt t
  let val := fun (c : Nat) => (decodeE c f).val
  match o with
  | .add =>
    match f with
    | .int _ w => (old + v) % 2 ^ w
    | .flt _ => convert false (sumVals [val old, val v] false) .rne f
  | .min =>
    match f with
    | .int _ w => wrapNat w (Min.min (intOf f old) (intOf f v))
    | .flt _ => convert false ((val old).min (val v)) .rne f
  | .max =>
    match f with
    | .int _ w => wrapNat w (Max.max (intOf f old) (intOf f v))
    | .flt _ => convert false ((val old).max (val v)) .rne f
  | .and => old &&& v
  | .or => old ||| v
  | .xor => old ^^^ v
  | .xch => v

def atomWidth (s : State) : Nat := if ty s = 11 then 8 else 4

/-- The access checks of an access that reads and writes (R420). -/
def accessRW (s : State) (as : List LaneAcc) : Option Fx := accessChecks s as .write .read

/-- The bound entry of the line that locations lie in: its index, the entry, and the key and key slot of the first byte. -/
def locsBound (s : State) (ls : List Loc) : Option (Nat × Bound × Nat × Nat) :=
  match ls with
  | .phys key kid (some i) :: _ => (boundOf s i).map (fun b => (i, b, key, kid))
  | _ => none

/-- An addition of the region's type (R255). -/
def boundMatches (o : AtomOp) (t : Nat) (b : Bound) : Bool := o = .add && ((t = 6 && b.fp) || ((t = 0 || t = 1) && !b.fp))

/-- The accesses of an instruction with their locations: each is translated once, before any of them performs (R115). -/
def located (s : State) (as : List LaneAcc) : List (LaneAcc × List Loc) := as.map (fun a => (a, locsOr s a .write))

/-- An ordinary update of an access: the line drained, then read and written (R131). -/
def updateAcc (s : State) (o : AtomOp) (x : LaneAcc × List Loc) (v : Nat) : State × Nat :=
  let s1 := drainFor s x.2
  let old := locsNat s1 x.2
  (locsPut (dirtyAcc s1 x.1) x.2 (o.apply (ty s) old v), old)

/-- A reduction of one lane: withheld on a bounded line where it matches, else an ordinary update. The value found is
that of R253, or of R133. -/
def reduceAcc (s : State) (o : AtomOp) (x : LaneAcc × List Loc) (v : Nat) : State × Nat :=
  match locsBound s x.2 with
  | some (i, b, key, kid) =>
    if boundMatches o (ty s) b then
      let ln := lineKey key
      let e := key % 128 / 4
      let home := lineWord s kid ln e
      let own := ((aget s.lines ln).bind (fun x => aget x.shares s.crew.core)).bind (fun sh => aget sh.deltas e)
      let old := match own with
        | none => home
        | some dl => boundAdd b.fp home dl
      (contribute (dirtyAcc s x.1) s.gang.ctx i b kid ln s.crew.core [(e, BitVec.ofNat 32 v)], old.toNat)
    else updateAcc s o x v
  | none => updateAcc s o x v

/-- A returning atomic (R252, R253). -/
def atomic (op : Nat) (nx : NX) (o : AtomOp) (d a b : BitVec 7) (s : State) : Out :=
  let t := ty s
  let as := laneAccs s (atomWidth s) (gatherAddr s a.toNat b.toNat)
  retire op nx
    { early := firstFx [tyCheck s, range (sOk a.toNat && vRun s b.toNat 1 && vOk s t d.toNat)],
      fault := check (o.accept t) .illegalOp, access := accessRW s as,
      done := countBanks (allLocs s as .write) ((located s as).foldl (fun s' x =>
        let r := updateAcc s' o x (vop s t d.toNat x.1.lane)
        vopPut t d.toNat x.1.lane r.2 r.1) s) } s

/-- A reduction (R252, R253, R255). -/
def reduction (op : Nat) (nx : NX) (o : AtomOp) (d a b : BitVec 7) (s : State) : Out :=
  let t := ty s
  let as := laneAccs s (atomWidth s) (gatherAddr s a.toNat b.toNat)
  retire op nx
    { early := firstFx [tyCheck s, range (sOk a.toNat && vRun s b.toNat 1 && vOk s t d.toNat)],
      fault := check (o.accept t) .illegalOp, access := accessRW s as,
      done := countBanks (allLocs s as .write)
        ((located s as).foldl (fun s' x => (reduceAcc s' o x (vop s t d.toNat x.1.lane)).1) s) } s

def execAadd (nx : NX) (d a b : BitVec 7) (s : State) : Out := atomic 0x79 nx .add d a b s
def execAmin (nx : NX) (d a b : BitVec 7) (s : State) : Out := atomic 0x7A nx .min d a b s
def execAmax (nx : NX) (d a b : BitVec 7) (s : State) : Out := atomic 0x7B nx .max d a b s
def execAand (nx : NX) (d a b : BitVec 7) (s : State) : Out := atomic 0x7C nx .and d a b s
def execAor (nx : NX) (d a b : BitVec 7) (s : State) : Out := atomic 0x7D nx .or d a b s
def execAxor (nx : NX) (d a b : BitVec 7) (s : State) : Out := atomic 0x7E nx .xor d a b s
def execAxch (nx : NX) (d a b : BitVec 7) (s : State) : Out := atomic 0x7F nx .xch d a b s
def execRdadd (nx : NX) (d a b : BitVec 7) (s : State) : Out := reduction 0x81 nx .add d a b s
def execRdmin (nx : NX) (d a b : BitVec 7) (s : State) : Out := reduction 0x82 nx .min d a b s
def execRdmax (nx : NX) (d a b : BitVec 7) (s : State) : Out := reduction 0x83 nx .max d a b s
def execRdand (nx : NX) (d a b : BitVec 7) (s : State) : Out := reduction 0x84 nx .and d a b s
def execRdor (nx : NX) (d a b : BitVec 7) (s : State) : Out := reduction 0x85 nx .or d a b s
def execRdxor (nx : NX) (d a b : BitVec 7) (s : State) : Out := reduction 0x86 nx .xor d a b s

/-- ACAS of one lane (R254): the line is drained whether or not the compare succeeds. -/
def casAcc (s : State) (x : LaneAcc × List Loc) (c v : Nat) : State × Nat :=
  let s1 := drainFor s x.2
  let old := locsNat s1 x.2
  (if old = c then locsPut (dirtyAcc s1 x.1) x.2 v else s1, old)

def execAcas (nx : NX) (d a b : BitVec 7) (s : State) : Out :=
  let t := ty s
  let as := laneAccs s (atomWidth s) (gatherAddr s a.toNat b.toNat)
  retire 0x80 nx
    { early := firstFx [tyCheck s, range (sOk a.toNat && vRun s b.toNat 1 && vOk s t d.toNat && vRun s d.toNat (2 * tyRegs t))],
      access := accessRW s as,
      done := countBanks (allLocs s as .write) ((located s as).foldl (fun s' x =>
        let r := casAcc s' x (vop s t d.toNat x.1.lane) (vop s t (d.toNat + tyRegs t) x.1.lane)
        vopPut t d.toNat x.1.lane r.2 r.1) s) } s

/-! ## RDX (R256, R257) -/

def rdxOp (x : BitVec 64) : Option AtomOp :=
  match bitsOf x.toNat 0 3 with
  | 0 => some .add
  | 1 => some .min
  | 2 => some .max
  | 3 => some .and
  | 4 => some .or
  | 5 => some .xor
  | _ => none

/-- P of a barrier of a crew of the gang less n bytes (R47). -/
def subtractP (s : State) (c n : Nat) (bn : Nat) : State :=
  setCrew s c (fun cr => barEvent cr bn (fun b => { b with p := b.p - n }))

/-- The bytes of an RDX come off the barrier bn of each crew they went to: w for each of its lanes, all in one cycle (R45, R47, R256). -/
def subtractAll (s : State) (bn w : Nat) (crews : List Nat) : State :=
  crews.eraseDups.foldl (fun s c => subtractP s c (w * crews.count c) bn) s

def execRdx (nx : NX) (d a b : BitVec 7) (s : State) : Out :=
  let t := ty s
  let w := atomWidth s
  let cw := sget s (a.toNat + 1)
  let o := rdxOp cw
  let as := laneAccs s w (gatherAddr s a.toNat b.toNat)
  let off := fun (p : Nat) => (vget s (d.toNat + tyRegs t) p).toNat
  let del := fun (p : Nat) => (⟨p, gangBase + off p, w⟩ : LaneAcc)
  let one := fun (s' : State) (x : LaneAcc × List Loc) =>
    let r := reduceAcc s' (o.getD .add) x (vop s t d.toNat x.1.lane)
    locsPut r.1 (locsOr s (del x.1.lane) .write) r.2
  retire 0x87 nx
    { early := firstFx [tyCheck s,
        range (a.toNat < 63 && vRun s b.toNat 1 && vOk s t d.toNat && vRun s d.toNat (tyRegs t + 1))],
      fault := firstFx [check (o.isSome && cw.toNat < 256) .illegalOp, check ((o.getD .add).accept t) .illegalOp],
      access := firstFx [accessRW s as, accessFx s ((active s).map del) .write],
      done :=
        let s1 := countBanks (allLocs s (as ++ (active s).map del) .write) ((located s as).foldl one s)
        if cw.getLsbD 3 then subtractAll s1 (bitsOf cw.toNat 4 4) w ((active s).map (fun p => off p / 0x80000)) else s1 } s

/-! ## Fences and prefetch (R125, R126, R258–R260) -/

/-- The number of the issue of the instruction in execution, beside those of the items and of the held instructions of its issuer. -/
def issueStamp (s : State) : Nat := s.accStamp.getD s.nextItem

/-- The items of the issuer that satisfy a condition and have not ended, by batch and index. -/
def openItemsIf (p : ItemOp → Bool) (b : Batches) : List (Nat × Nat) :=
  (b.sealed.flatMap (fun x => (x.items.filter (fun i => i.status = none && p i.op)).map (fun i => (x.no, i.ix)))) ++
    (b.items.filter (fun i => i.status = none && p i.op)).map (fun i => (b.no, i.ix))

def openItems (b : Batches) : List (Nat × Nat) := openItemsIf (fun _ => true) b

/-- An add-on-store of a tile (R287), whose transfer word sets AOS. Which of its lines are bounded shows as it stores. -/
def ItemOp.addsOn : ItemOp → Bool
  | .acst _ w _ _ _ => w.getLsbD 14
  | _ => false

def fncOk (i : BitVec 8) : Bool := i.toNat < 64 && i.toNat % 8 ≤ 4

/-- The items that a fence covers: with E every one of the issuer's that is open, with B its add-on-stores (R125). -/
def fenceItems (i : BitVec 8) (b : Batches) : List (Nat × Nat) := openItemsIf (fun op => i.getLsbD 5 || (i.getLsbD 4 && op.addsOn)) b

/-- The accesses of the kinds that a fence covers: weak ones, bounded accumulations (R125). -/
def fenceKind (i : BitVec 8) (op : Nat) : Bool := (i.getLsbD 3 && (op = 0x77 || op = 0x78)) || (i.getLsbD 4 && (op = 0x81 || op = 0x87))

/-- The stamps of the instructions that the splits of a group hold, of those whose captures satisfy a condition. -/
def heldStamps (g : Group) (p : Capture → Bool) : List Nat :=
  g.splits.filterMap (fun x => if x.stop = none then (x.cap.filter p).map (fun c => c.stamp) else none)

/-- The accesses of other splits that a group's fence covers and that have not performed (R126, R258). -/
def fenceHeld (s : State) (i : BitVec 8) : List Nat :=
  if isStream s then [] else heldStamps s.grp (fun c => fenceKind i (opcodeOf c.word) && decide (c.stamp < issueStamp s))

/-- The token FNC writes: complete at once with no kind bit set, else pending with what it covers (R125, R126). -/
def fenceTok (s : State) (i : BitVec 8) : Tok :=
  if bitsOf i.toNat 3 3 = 0 then .zero
  else ⟨true, 0, none, false, some ⟨i.getLsbD 4, fenceItems i (batOf s (curWho s)), fenceHeld s i⟩⟩

def execFnc (nx : NX) (d : BitVec 7) (i : BitVec 8) (s : State) : Out :=
  retire 0x88 nx
    { early := range (c16Ok d.toNat && fncOk i), stall := (tget s d.toNat).pending, done := tput s d.toNat (fenceTok s i) } s

def execFwait (nx : NX) (a : BitVec 7) (s : State) : Out :=
  retire 0x89 nx
    { early := range (c16Ok a.toNat), wait := if (tget s a.toNat).pending then some (waitAs s .wait) else none, done := s } s

def execPref (nx : NX) (d a b : BitVec 7) (s : State) : Out :=
  retire 0x8A nx { early := range (sOk a.toNat && vRun s b.toNat 1), fault := check (d.toNat ≤ 1) .illegalOp, done := s } s

/-- The lines that a fence with B drains (R135): of the core's L1 holder for a group, of the L2 holders of the core's die
for a stream, those of the context. What a gang contributed before it moved was drained when it moved. -/
def fenceDrain (s : State) (w : Who) : State :=
  let mine := fun (h : Nat) =>
    if w.stream then 192 ≤ h && (h - 192) / 48 = s.crew.core / 96 else h = s.crew.core
  s.lines.foldl (fun s l => if l.2.ctx = s.gang.ctx then
      (l.2.shares.filter (fun h => mine h.1)).foldl (fun s h => drainHolder s l.1 h.1) s else s) s

/-- FENCE_COMPLETE: the fence token `ev.n` of the issuer `ev.who` completes once every access it covers has performed
(R126); a weak access that nothing holds up has performed when it issued (log 6). -/
def fenceDone (s : State) (w : Who) (n : Nat) : State :=
  let t := (aget (if w.stream then s.crew.strm.t else ((groupOf s w.grp).map (fun g => g.t)).getD []) n).getD .zero
  match t.fence with
  | none => s
  | some f =>
    let held := if w.stream then [] else ((groupOf s w.grp).map (fun g => heldStamps g (fun _ => true))).getD []
    if t.pending && f.items.all (fun i => !(openItems (batOf s w)).contains i) && f.held.all (fun n => !held.contains n) then
      updTok (if f.drains then fenceDrain s w else s) w n (fun _ => .zero)
    else s

def execFenceComplete (s : State) : Out :=
  .next (onCrew s s.ev.who.gang s.ev.who.crew (fun s1 => fenceDone s1 s1.ev.who s1.ev.n))

end Sys2Proof.Machine
end

