-- ==== Sys2Proof/Machine/Sync.lean ====
section
/-! DEFINITION. Barriers, queues, guard slots, the start and joining of an engine stream, and device-side launch
(R45–R53, R56, R261–R269). -/
namespace Sys2Proof.Machine

/-! ## Barriers (R261–R264) -/

/-- The phase the issuer recorded at its latest arrival at a barrier (R262). -/
def recordedPhase (s : State) (n : Nat) : Nat :=
  (aget (if isStream s then s.crew.strm.recPhase else s.grp.recPhase) n).getD 0

def recordPhase (s : State) (n ph : Nat) : State :=
  if isStream s then setStrm s (fun x => { x with recPhase := aput n ph x.recPhase })
  else setGrp s (fun g => { g with recPhase := aput n ph g.recPhase })

/-- An arrival: every live lane of the split, guard notwithstanding, or the stream's bit (R262). -/
def arrive (s : State) (n : Nat) : State :=
  let s1 := recordPhase s n (barOf s.crew n).phase
  if isStream s then setOwn s1 (fun c => barEvent c n (fun b => { b with strm := true }))
  else
    let ts := threadsOf s.grp s.split.mask
    setOwn s1 (fun c => barEvent c n (fun b => { b with arrived := b.arrived ++ ts.filter (fun t => !b.arrived.contains t) }))

/-- The phase whose end BARW and BARAW wait for: the one recorded when the wait began. A later arrival of another split of the group changes
nothing in it. -/
def waitPhase (s : State) (n : Nat) : Nat :=
  match holdOf s with
  | .bar m p => if m = n then p else recordedPhase s n
  | _ => recordedPhase s n

/-- The issuer is held in its wait at barrier n. -/
def heldAt (s : State) (n : Nat) : Bool :=
  match holdOf s with
  | .bar m _ => m = n
  | _ => false

/-- The wait of BARW and BARAW is over: the phase differs from the one they wait for. -/
def released (s : State) (n : Nat) : Bool := (barOf s.crew n).phase ≠ waitPhase s n

def barWait (s : State) (n : Nat) : Option State := if released s n then none else some (waitAs s (.bar n (waitPhase s n)))

def execBara (nx : NX) (a : BitVec 7) (s : State) : Out :=
  retire 0x90 nx { early := range (c16Ok a.toNat), done := arrive s a.toNat } s

def execBarw (nx : NX) (a : BitVec 7) (s : State) : Out :=
  retire 0x91 nx
    { early := range (c16Ok a.toNat), wait := barWait s a.toNat, done := s } s

def execBaraw (nx : NX) (a : BitVec 7) (s : State) : Out :=
  let s1 := if heldAt s a.toNat then s else arrive s a.toNat
  retire 0x92 nx { early := range (c16Ok a.toNat), wait := barWait s1 a.toNat, done := s1 } s

/-- The signed 56-bit range of P. -/
def in56 (x : Int) : Bool := -(2 ^ 55) ≤ x && x < 2 ^ 55

def execBarx (nx : NX) (a b : BitVec 7) (s : State) : Out :=
  let v := (iget s b.toNat).toInt
  retire 0x93 nx
    { early := range (c16Ok a.toNat && iOk s b.toNat),
      fault := check (in56 v && in56 ((barOf s.crew a.toNat).p + v)) .barCfg,
      done := setOwn s (fun c => barEvent c a.toNat (fun x => { x with p := x.p + v })) } s

def execBari (nx : NX) (a b : BitVec 7) (s : State) : Out :=
  let v := (iget s b.toNat).toNat
  let x := barOf s.crew a.toNat
  retire 0x94 nx
    { early := range (c16Ok a.toNat && iOk s b.toNat),
      fault := check (1 ≤ v && v ≤ 1024 && x.arrived = [] && !x.strm && x.p = 0) .barCfg,
      done := setOwn s (fun c => barEvent c a.toNat (fun y => { y with e := v })) } s

/-! ## Queues (R48, R49, R265–R267) -/

def Queue.size (q : Queue) : Nat := 2 ^ q.lsz
def Queue.depth (q : Queue) : Nat := 2 ^ q.ldep

/-- The pusher that the issuer counts as. -/
def pusherId (s : State) : Nat := if isStream s then 0 else s.grp.key + 1

/-- Registers of an entry's data run (R266). -/
def entryRegs (s : State) (z : Nat) : Nat := if isStream s then (z + 7) / 8 else (z + 127) / 128

/-- The data run lies in its class. -/
def entryOk (s : State) (d z : Nat) : Bool := if isStream s then d + entryRegs s z ≤ 32 else vRun s d (entryRegs s z)

def dataOk (s : State) (d : Nat) : Bool := if isStream s then d < 32 else vRun s d 1

/-- The z bytes of an entry from the issuer's registers (R266). -/
def entryBytes (s : State) (d z : Nat) : List (BitVec 8) :=
  if isStream s then (List.range z).map (fun i => BitVec.ofNat 8 ((eget s (d + i / 8)).toNat / 2 ^ (8 * (i % 8))))
  else (List.range z).map (fun i => BitVec.ofNat 8 ((vget s (d + i / 128) (i % 128 / 4)).toNat / 2 ^ (8 * (i % 4))))

/-- An entry's bytes written into the issuer's registers: in a group the covered positions in L (R266). -/
def entryPut (s : State) (d : Nat) (bs : List (BitVec 8)) : State :=
  if isStream s then
    (List.range (entryRegs s bs.length)).foldl (fun s r =>
      eput s (d + r) (BitVec.ofNat 64 (bytesNat ((bs.drop (8 * r)).take 8)))) s
  else
    let l := active s
    (List.range (bs.length / 4)).foldl (fun s w =>
      if l.contains (w % 32) then vput s (d + w / 32) (w % 32) (BitVec.ofNat 32 (bytesNat ((bs.drop (4 * w)).take 4))) else s) s

/-- Offset of the slot of entry i from the head. -/
def Queue.slotOff (q : Queue) (i : Nat) : Nat := q.off + q.size * ((q.head + i) % q.depth)

def spadBytes (c : Crew) (off n : Nat) : List (BitVec 8) := memBytes c.spad n off

def queueOf (s : State) (a : BitVec 7) : Option Queue := aget s.crew.queues a.toNat

/-- The checks of QPUSH, QPOP and QPEEK: QUEUE_CFG, then ILLEGAL_OP for the run (R274). An instruction that waits is checked again at each attempt,
against the queue as a QCFG has since left it (DESIGN CHOICE, log 104). -/
def queueFault (s : State) (d a : BitVec 7) : Option Fx :=
  match queueOf s a with
  | none => some (fx .queueCfg)
  | some q => check (entryOk s d.toNat q.size) .illegalOp

def setQueue (s : State) (a : BitVec 7) (q : Queue) : State := setOwn s (fun c => { c with queues := aput a.toNat q c.queues })

/-- QPUSH stalls while the queue is full or the allowance is reached (R49). -/
def pushBlocked (s : State) (q : Queue) : Bool :=
  q.depth ≤ q.pushers.length || q.alw ≤ (q.pushers.filter (· = pusherId s)).length

/-- What another split of the group holds issued before the instruction in execution. -/
def heldBefore (s : State) (f : Split → Capture → Bool) : Bool :=
  !isStream s && s.grp.splits.any (fun x => x.stop = none && x.cap.any (fun c => decide (c.stamp < issueStamp s) && f x c))

/-- Another split of the group waits to push into the queue since before: pushes of one issuer enter in the order of issue (R49). -/
def pushBehind (s : State) (a : BitVec 7) : Bool :=
  heldBefore s (fun x c => x.hold = .wait && opcodeOf c.word = 0x95 && fldN c.word 8 7 = a.toNat)

/-- The item writes memory or a scratchpad. -/
def ItemOp.writesMem : ItemOp → Bool
  | .cpld none .. => true
  | .cpst .. => true
  | .cpss .. => true
  | .acst .. => true
  | .ecmd .. => true
  | _ => false

/-- Accesses that the pusher issued before have still to perform: of instructions that wait for a page or a key slot, and of items that write
(R49, R266; log 91). -/
def pushEarly (s : State) : Bool :=
  heldBefore s (fun x c => memOpcode (opcodeOf c.word) && (x.hold = .wait || x.hold.isPage)) ||
    (batOf s (curWho s)).open_.any (fun i => i.drained = none && i.op.writesMem && decide (i.stamp < issueStamp s))

/-- A push writes the tail slot of the ring, whole words of it (R49, R420). -/
def pushDone (s : State) (d a : BitVec 7) (q : Queue) : State :=
  let o := q.slotOff q.pushers.length
  let s1 := setOwn s (fun c => { c with spad := memPutBytes c.spad o (entryBytes s d.toNat q.size) })
  let s2 := if s1.damaged = [] then s1 else (List.range q.size).foldl (fun s i => mend s (.spad s.crew.no (o + i))) s1
  setQueue s2 a { q with pushers := q.pushers ++ [pusherId s] }

def execQpush (nx : NX) (d a : BitVec 7) (s : State) : Out :=
  let q := (queueOf s a).getD ⟨0, 0, 0, 0, 0, []⟩
  retire 0x95 nx
    { early := range (c16Ok a.toNat && dataOk s d.toNat), fault := queueFault s d a,
      wait := if pushBlocked s q ∨ pushBehind s a ∨ pushEarly s then some (waitAs s .wait) else none, done := pushDone s d a q } s

/-- The head entry's bytes. -/
def headBytes (s : State) (q : Queue) : List (BitVec 8) := spadBytes s.crew (q.slotOff 0) q.size

/-- A pop or peek of an entry reads its words in the ring: a damaged one raises ECC_UNCORR (R49, R420). -/
def headEcc (s : State) (q : Queue) : Option Fx :=
  if q.pushers = [] then none
  else eccErr s ((List.range (q.size / 4)).map (fun i => ⟨0xFF, spadBase + q.slotOff 0 + 4 * i, 4⟩)) .read .read

def execQpop (nx : NX) (d a : BitVec 7) (s : State) : Out :=
  let q := (queueOf s a).getD ⟨0, 0, 0, 0, 0, []⟩
  retire 0x96 nx
    { early := range (c16Ok a.toNat && dataOk s d.toNat), fault := queueFault s d a,
      access := headEcc s q, wait := if q.pushers = [] then some (waitAs s .wait) else none,
      done := setQueue (entryPut s d.toNat (headBytes s q)) a
        { q with head := (q.head + 1) % q.depth, pushers := q.pushers.drop 1 } } s

def execQpeek (nx : NX) (d a b : BitVec 7) (s : State) : Out :=
  let q := (queueOf s a).getD ⟨0, 0, 0, 0, 0, []⟩
  retire 0x97 nx
    { early := range (c16Ok a.toNat && dataOk s d.toNat && iOk s b.toNat), fault := queueFault s d a,
      access := headEcc s q,
      done := if q.pushers = [] then iput s b.toNat 0 else iput (entryPut s d.toNat (headBytes s q)) b.toNat 1 } s

/-- The queue that QCFG's operand describes, or none where a field is out of range (R267). -/
def qcfgOf (s : State) (x : BitVec 64) : Option Queue :=
  let n := x.toNat
  let q : Queue := ⟨bitsOf n 0 19, bitsOf n 19 4, bitsOf n 23 4, bitsOf n 27 11, 0, []⟩
  if n < 2 ^ 38 ∧ 2 ≤ q.lsz ∧ q.lsz ≤ 8 ∧ 1 ≤ q.ldep ∧ q.ldep ≤ 10 ∧ 1 ≤ q.alw ∧ q.alw ≤ q.depth ∧ q.off % q.size = 0 ∧
      q.off + q.size * q.depth ≤ s.gang.pkt.spad * 1024 then some q else none

def execQcfg (nx : NX) (a b : BitVec 7) (s : State) : Out :=
  let x := iget s b.toNat
  let busy := (queueOf s a).any (fun q => q.pushers ≠ [])
  retire 0x98 nx
    { early := range (c16Ok a.toNat && iOk s b.toNat), fault := check (!busy && (x = 0 || (qcfgOf s x).isSome)) .queueCfg,
      done := setOwn s (fun c => { c with queues := if x = 0 then adel a.toNat c.queues
                                                     else aput a.toNat ((qcfgOf s x).getD ⟨0, 0, 0, 0, 0, []⟩) c.queues }) } s

/-! ## Guard slots (R50, R268) -/

def gOk (g : Nat) : Bool := g < 8

def execGset (nx : NX) (a : BitVec 7) (s : State) : Out :=
  retire 0x99 nx { early := range (gOk a.toNat), done := setOwn s (fun c => { c with guards := aput a.toNat true c.guards }) } s
def execGclr (nx : NX) (a : BitVec 7) (s : State) : Out :=
  retire 0x9A nx { early := range (gOk a.toNat), done := setOwn s (fun c => { c with guards := aput a.toNat false c.guards }) } s
def execGclrUnres (nx : NX) (a : BitVec 7) (s : State) : Out :=
  retire 0x9A nx { early := range (gOk a.toNat), done := setOwn s (fun c => { c with guards := adel a.toNat c.guards }) } s

/-! ## The engine stream as a group sees it (R52, R53) -/

def hasStream (s : State) : Bool := s.gang.pkt.eaddr ≠ 0
def streamBusy (s : State) : Bool := s.crew.strm.st = .running || s.crew.strm.st = .ending

/-- The stream at the start of a run (R52, R67, R163): tokens, handles and batches stay as the last run left them. Every e register is written, so
that none is damaged any more (R420). -/
def streamStart (s : State) (v : BitVec 64) : State :=
  setStrm { s with damaged := s.damaged.filter (fun c => match c with
                                | .ereg g k _ => g ≠ s.gid || k ≠ s.crew.no
                                | _ => true) }
    (fun x =>
      { x with st := .running, e := (Store.empty 64).put 0 v, mode := 0, pc := s.gang.pkt.eaddr, ls := 0, lc := 0, armed := none,
               hold := .none, stop := none, lgG := 0, depth := 0, sat := false, guard := none, cap := none })

def execEstart (nx : NX) (a : BitVec 7) (s : State) : Out :=
  retire 0x9B nx
    { early := range (sOk a.toNat), fault := check (hasStream s) .illegalContext,
      wait := if streamBusy s then some (waitAs s .wait) else none, done := streamStart s (sget s a.toNat) } s

/-- The e0 that a join of the ended stream reads is damaged: checked once the join no longer waits (R269, R420). -/
def joinEcc (s : State) : Option Fx :=
  if s.crew.strm.st = .ended && s.damaged.contains (.ereg s.gid s.crew.no 0) then some (fx .eccUncorr) else none

def execEjoin (nx : NX) (d : BitVec 7) (s : State) : Out :=
  let done :=
    if s.crew.strm.st = .ended then setStrm (sput s d.toNat (eget s 0)) (fun x => { x with st := .idle }) else sput s d.toNat 0
  retire 0x9C nx
    { early := range (sOk d.toNat), fault := check (hasStream s) .illegalContext,
      access := joinEcc s, wait := if streamBusy s then some (waitAs s .wait) else none, done := done } s

/-! ## Device-side launch (R56, R58, R269, R382) -/

/-- The entry of device queue q in its context's table lies in a damaged unit (R420). -/
def queueBad (s : State) (c : Ctx) (q : Nat) : Bool := c.dqtab ≠ 0 && q < c.dqcnt && badSpan s (physKey 0 (c.dqtab + 16 * q)) 16

/-- Ring base, LOG and EN of device queue q of a context (R382). -/
def devQueue (s : State) (c : Ctx) (q : Nat) : Option (Nat × Nat) :=
  if c.dqtab = 0 ∨ c.dqcnt ≤ q then none
  else
    let a := physKey 0 (c.dqtab + 16 * q)
    let lg := devNat s 1 (a + 8)
    if devNat s 1 (a + 9) % 2 = 1 ∧ 4 ≤ lg ∧ lg ≤ 12 then some (devNat s 8 a, lg) else none

/-- The device queue takes a packet, or refuses it when its ring is full (R382). -/
def acceptPacket (s : State) (ctx q parent cap : Nat) (bs : List (BitVec 8)) : Option State :=
  match aget s.ctxs ctx with
  | none => none
  | some c =>
    match devQueue s c q with
    | none => none
    | some (base, lg) =>
      let (put, get) := (aget c.dq q).getD (0, 0)
      if 2 ^ lg ≤ put - get then none
      else
        some { devPutBytes s (physKey 0 (base + 64 * (put % 2 ^ lg))) bs with
                      ctxs := aput ctx { c with dq := aput q (put + 1, get) c.dq } s.ctxs,
                      visible := s.visible ++ [⟨true, ctx, q, put, some parent, cap, s.clock.toNat⟩] }

/-- A packet of the issuer for a device queue; `no` tells its LAUNCH. -/
def packetMsg (s : State) (q no : Nat) (bs : List (BitVec 8)) : NakMsg :=
  .packet s.crew.core (curWho s) s.gang.ctx q no bs s.gang.grid s.gang.pkt.prio

/-- A packet goes to its queue; one that follows a refused packet of its sender, or is refused, is kept (R58). -/
def submitPacket (s : State) (q no : Nat) (bs : List (BitVec 8)) : State :=
  let m := packetMsg s q no bs
  if flowBusy s m then refuse s m
  else match acceptPacket s s.gang.ctx q s.gang.grid s.gang.pkt.prio bs with
    | some s1 => s1
    | none => refuse s m

/-- The packet a lane builds in a run of 16 registers. -/
def lanePacket (s : State) (d p : Nat) : List (BitVec 8) := (List.range 16).flatMap (fun j => natBytes 4 (vget s (d + j) p).toNat)

def queueSet (s : State) (q : BitVec 64) : Bool :=
  q.toNat < 64 && ((aget s.ctxs s.gang.ctx).bind (fun c => devQueue s c q.toNat)).isSome

/-- The checks of a LAUNCH's queue: a damaged entry of the table raises ECC_UNCORR (R420, log 101), a queue that is not configured PROT (R269). -/
def queueCheck (s : State) (q : BitVec 64) : Option Fx :=
  match (aget s.ctxs s.gang.ctx).bind (fun c => if q.toNat < 64 && queueBad s c q.toNat then some (physKey 0 (c.dqtab + 16 * q.toNat)) else none) with
  | some k => some { fx .eccUncorr with addr := k + 4 }
  | none => if queueSet s q then none else some (fx .prot)

/-- Packets of lanes submitted in order while the sender's window has room: the state, and the lanes still to submit (R58). -/
def submitLanes (d q no : Nat) : List Nat → State → State × List Nat
  | [], s => (s, [])
  | p :: r, s => if flowFull s (packetMsg s q no []) then (s, p :: r) else submitLanes d q no r (submitPacket s q no (lanePacket s d p))

/-- A packet of the LAUNCH of this number is not accepted yet. -/
def packetDue (s : State) (no : Nat) : Bool :=
  s.naks.any (fun n => match n.msg with
    | .packet _ _ _ _ m _ _ _ => m = no
    | _ => false)

/-- LAUNCH submits each lane's packet, and the lanes continue once all are accepted (R269). Its number is taken at its issue. -/
def execLaunch (nx : NX) (d a : BitVec 7) (s : State) : Out :=
  let q := sget s a.toNat
  let held := match s.split.hold with
    | .launch no l => some (no, l)
    | _ => none
  let no := (held.map (·.1)).getD s.nextReq
  let s0 := if held = none then { s with nextReq := s.nextReq + 1 } else s
  let r := submitLanes d.toNat q.toNat no ((held.map (·.2)).getD (active s)) s0
  retire 0x9D nx
    { early := range (vRun s d.toNat 16 && sOk a.toNat), stall := held = none && flowFull s (packetMsg s q.toNat no []),
      fault := if held ≠ none then none else queueCheck s q,
      wait := if r.2 ≠ [] ∨ packetDue r.1 no then some (waitAs r.1 (.launch no r.2)) else none, done := r.1 } s

end Sys2Proof.Machine
end

