-- ==== Sys2Proof/Machine/EngineFmt.lean ====
section
/-! DEFINITION. What the engine stream's commands hold in registers: step descriptors (R63, R64), handles (R80, R81),
control words (R286, R295, R298), engine-command operands (R304); and the pending items of an issuer (R276, R277). -/
namespace Sys2Proof.Machine

/-! ## Operand formats (R64) -/

/-- The element format of a code; 7 is the Q format of a register. -/
def opFmt (code : Nat) (r : BitVec 32) : EFmt :=
  match code with
  | 0 => .int true 4
  | 1 => .int false 4
  | 2 => .int true 8
  | 3 => .int false 8
  | 4 => .int true 16
  | 5 => .flt fmtF16
  | 6 => .flt fmtB16
  | _ => .flt (fmtOfReg r)

/-- Bits of an element in a dense slot or in memory. -/
def opBits (code : Nat) (r : BitVec 32) : Nat :=
  if code ≤ 1 then 4 else if code ≤ 3 then 8 else if code ≤ 6 then 16 else (fmtOfReg r).classWidth

/-- The code is 0–7, and 7 with a valid register (R95). -/
def opOk (code : Nat) (r : BitVec 32) : Bool := code ≤ 6 || (code = 7 && fmtValid r)

/-- The format carries block scales (R73). -/
def opScaled (code : Nat) (r : BitVec 32) : Bool := code = 7 && (fmtOfReg r).bscl = 1

/-- Tmax (R64). -/
def opTmax (code : Nat) (r : BitVec 32) : Nat :=
  match code with
  | 0 => 2
  | 1 => 3
  | 2 => 4
  | 3 => 5
  | 4 => 8
  | 5 => 6
  | 6 => 5
  | _ => ((fmtOfReg r).M + 3) / 2

/-- The TL term width, none for a format that is not TL (R64). -/
def tlWidth (code : Nat) (r : BitVec 32) : Option Nat :=
  if code ≤ 2 then some 4
  else if code = 3 then some 5
  else if code ≤ 6 then none
  else some (if (fmtOfReg r).M ≤ 6 then 4 else 5)

/-- Exponent bits of a TL block: 0 but for a Q format. -/
def tlExp (code : Nat) (r : BitVec 32) : Nat := if code = 7 then (fmtOfReg r).E else 0

/-! ## Step descriptors (R62–R64) -/

def dM (d : BitVec 64) : Nat := bitsOf d.toNat 0 6 + 1
def dK (d : BitVec 64) : Nat := bitsOf d.toNat 6 6 + 1
def dN (d : BitVec 64) : Nat := bitsOf d.toNat 12 9 + 1
def dAfmt (d : BitVec 64) : Nat := bitsOf d.toNat 21 4
def dAfr (d : BitVec 64) : Nat := bitsOf d.toNat 25 4
def dBfmt (d : BitVec 64) : Nat := bitsOf d.toNat 29 4
def dBfr (d : BitVec 64) : Nat := bitsOf d.toNat 33 4

/-- The limits of R62–R64 that the descriptor alone decides; fa and fb are the format registers it names. -/
def descOk (d : BitVec 64) (fa fb : BitVec 32) : Bool :=
  bitsOf d.toNat 37 27 = 0 && opOk (dAfmt d) fa && opOk (dBfmt d) fb &&
    dN d ≤ (match opBits (dBfmt d) fb with
      | 4 => 512
      | 8 => 256
      | _ => 128) &&
    (dK d % 4 = 0 || !(opScaled (dAfmt d) fa || opScaled (dBfmt d) fb))

/-- An integer step (R64). -/
def dInt (d : BitVec 64) : Bool := dAfmt d ≤ 4 && dBfmt d ≤ 4

/-- The bound Bd of R69. -/
def dBound (d : BitVec 64) (fa : BitVec 32) : Nat := dM d * opTmax (dAfmt d) fa + 6

/-- Tiles a step writes (R62). -/
def dTiles (d : BitVec 64) (acc : Nat) : List Nat := if 256 < dN d then [acc, acc + 1] else [acc]

/-! ## Slots and handles (R80–R82, R291) -/

def hSlot (h : BitVec 17) : Nat := bitsOf h.toNat 0 4
def hGen (h : BitVec 17) : Nat := bitsOf h.toNat 4 12
def hCls (h : BitVec 17) : Bool := h.getLsbD 16
def handleOf (slot gen : Nat) (cls : Bool) : BitVec 17 := BitVec.ofNat 17 (slot + gen * 16 + (if cls then 2 ^ 16 else 0))

def Slot.none : Slot := ⟨false, false, 0, .dense, .empty 8, .empty 8, false⟩
def slotOf (c : Crew) (n : Nat) : Slot := (aget c.slots n).getD .none
def setSlot (c : Crew) (n : Nat) (x : Slot) : Crew := { c with slots := aput n x c.slots }

/-- A handle passes the check of R81. -/
def handleOk (c : Crew) (h : BitVec 17) : Bool :=
  let x := slotOf c (hSlot h)
  x.claimed && x.gen = hGen h

/-- A step can use an A slot of a form (R63, R81). -/
def aFormOk (d : BitVec 64) (f : SlotForm) : Bool :=
  match f with
  | .dense => true
  | .tl _ _ => !(4 ≤ dAfmt d && dAfmt d ≤ 6)
  | .sparse _ _ _ _ _ => dK d % 8 = 0

/-- A step can use a B slot of a form (R81). -/
def bFormOk (f : SlotForm) : Bool := f = .dense

/-! ## Pending items -/

/-- The item is a copy into slot n. -/
def ItemOp.fills (n : Nat) : ItemOp → Bool
  | .cpld sl _ _ _ _ _ => sl = some n
  | _ => false

/-- The item is a step that may still read slot n (R82). -/
def Item.reads (n : Nat) (i : Item) : Bool :=
  match i.op with
  | .mx _ _ a b _ _ _ _ _ _ _ _ => (a = n && !i.readA) || (b = n && !i.readB)
  | _ => false

/-- The item is a step on tile n. -/
def ItemOp.stepsOn (n : Nat) : ItemOp → Bool
  | .mx acc d _ _ _ _ _ _ _ _ _ _ => (dTiles d acc).contains n
  | _ => false

/-- The item is an ACLD of tile n. -/
def ItemOp.fillsTile (n : Nat) : ItemOp → Bool
  | .acld acc _ _ => acc = n
  | _ => false

/-- The items of the crew's stream that have not ended. -/
def streamOpen (c : Crew) : List Item := c.strm.bat.open_

/-- Those whose work is not done: a step holds its tile until its last cycle, whatever delays the end of its item (R68, R84, R283). -/
def streamWork (c : Crew) : List Item := (streamOpen c).filter (fun i => i.drained = none)

def slotPending (c : Crew) (n : Nat) : Bool := (streamWork c).any (fun i => i.op.fills n)
def slotBusy (c : Crew) (n : Nat) : Bool := (streamWork c).any (fun i => i.op.fills n || i.reads n)
def tilePending (c : Crew) (n : Nat) : Bool := (streamWork c).any (fun i => i.op.stepsOn n)
def tileLoading (c : Crew) (n : Nat) : Bool := (streamWork c).any (fun i => i.op.fillsTile n)

/-- The slot has a pending reader (R82, R87). -/
def slotRead (c : Crew) (n : Nat) : Bool := (streamWork c).any (fun i => i.reads n)

/-- Every issuer's items that have not ended, of one crew. -/
def crewOpen (c : Crew) : List Item := streamOpen c ++ c.groups.flatMap (fun g => g.2.bat.open_)

/-- The items that have not ended of every issuer of a core, of a gang that has ended too (R277, log 37). -/
def coreOpen (s : State) (core : Nat) : List Item :=
  (if s.cur = .group then s.grp.bat.open_ else []) ++ (crewsOf s core).flatMap (fun x => crewOpen x.2)

/-- The item holds an entry of the load queue, of the store queue (R277). -/
def ItemOp.loads : ItemOp → Bool
  | .cpld .. => true
  | .acld .. => true
  | .cpss .. => true
  | _ => false

def ItemOp.stores : ItemOp → Bool
  | .cpst .. => true
  | .acst .. => true
  | .cpss .. => true
  | _ => false

/-- The 16 entries of the block-transfer engine's load queue, store queue are in use (R10, R277). -/
def loadFull (s : State) : Bool := 16 ≤ ((coreOpen s s.crew.core).filter (fun i => i.op.loads)).length
def storeFull (s : State) : Bool := 16 ≤ ((coreOpen s s.crew.core).filter (fun i => i.op.stores)).length

/-- The open batch holds n more items (R276). -/
def batchRoom (s : State) (n : Nat) : Option Fx := check ((batOf s (curWho s)).items.length + n ≤ 1024) .illegalOp

/-- The check of a command's flags (R127, R314). -/
def flagCheck (s : State) (acq rel : Bool) : Option Fx := check (!(acq || rel) || scopeOf (modeOf s) ≤ 4) .illegalOp

/-- A new item of the issuer. -/
def newItem (s : State) (op : ItemOp) (acq rel : Bool) : State := pushItem s (curWho s) op acq rel (scopeOf (modeOf s)) none

/-! ## Control words -/

/-- Accumulator transfer control word (R286). -/
def acRows (w : BitVec 64) : Nat := bitsOf w.toNat 0 6 + 1
def acCols (w : BitVec 64) : Nat := bitsOf w.toNat 6 8 + 1
def acAos (w : BitVec 64) : Bool := w.getLsbD 14
def acFt (w : BitVec 64) : Bool := w.getLsbD 15
def acZero (w : BitVec 64) : Bool := w.getLsbD 16
def acAcq (w : BitVec 64) : Bool := w.getLsbD 17
def acRel (w : BitVec 64) : Bool := w.getLsbD 18
def acBar (w : BitVec 64) : Option Nat := if w.getLsbD 19 then some (bitsOf w.toNat 20 4) else none
def acPitch (w : BitVec 64) : Nat := if bitsOf w.toNat 24 20 = 0 then 4 * acCols w else 4 * bitsOf w.toNat 24 20
def acOk (w : BitVec 64) : Bool := w.toNat < 2 ^ 44

/-- Copy control word (R295). -/
def ccRows (w : BitVec 64) : Nat := bitsOf w.toNat 0 6 + 1
def ccCols (w : BitVec 64) : Nat := bitsOf w.toNat 6 9 + 1
def ccTl (w : BitVec 64) : Bool := w.getLsbD 15
def ccAcq (w : BitVec 64) : Bool := w.getLsbD 16
def ccRel (w : BitVec 64) : Bool := w.getLsbD 17
def ccBar (w : BitVec 64) : Option Nat := if w.getLsbD 18 then some (bitsOf w.toNat 19 4) else none
def ccSoff (w : BitVec 64) : Nat := bitsOf w.toNat 23 19
def ccPitch (w : BitVec 64) (bits : Nat) : Nat :=
  if bitsOf w.toNat 42 12 = 0 then ((ccCols w * bits + 7) / 8 + 3) / 4 * 4 else 4 * bitsOf w.toNat 42 12
def ccOk (w : BitVec 64) (load : Bool) : Bool := w.toNat < 2 ^ 54 && !(load && ccTl w)

/-- CPSS control word (R298). -/
def csLen (w : BitVec 64) : Nat := 4 * (bitsOf w.toNat 0 12 + 1)
def csRows (w : BitVec 64) : Nat := bitsOf w.toNat 12 12 + 1
def csAcq (w : BitVec 64) : Bool := w.getLsbD 24
def csRel (w : BitVec 64) : Bool := w.getLsbD 25
def csBar (w : BitVec 64) : Option Nat := if w.getLsbD 26 then some (bitsOf w.toNat 27 4) else none
def csOk (w : BitVec 64) : Bool := w.toNat < 2 ^ 31

/-! ## Lease tokens and engine commands (R302, R304) -/

def leaseKind (v : BitVec 64) : Nat := bitsOf v.toNat 5 3
def leaseEvicted (v : BitVec 64) : Bool := v.getLsbD 13

/-- SUB is defined for the kind. -/
def subOk (kind sub : Nat) : Bool :=
  match kind with
  | 0 => sub ≤ 6
  | 1 => sub ≤ 1
  | 2 => sub = 0
  | _ => kind ≤ 5 && sub ≤ 2

/-- n of XF and SP commands, and their rows. -/
def rowLen (p2 : BitVec 64) : Nat := bitsOf p2.toNat 0 24
def rowCount (p2 : BitVec 64) : Nat := bitsOf p2.toNat 24 8 + 1

/-- The arguments lie within the limits of R304. -/
def argsOk (kind sub : Nat) (p2 p3 : BitVec 64) : Bool :=
  let hi := bitsOf p3.toNat 32 32
  match kind with
  | 0 =>
    rowCount p2 ≤ 64 && bitsOf p3.toNat 0 6 + rowCount p2 ≤ 64 && (5 ≤ sub || (1 ≤ rowLen p2 && rowLen p2 ≤ 65536))
  | 1 => 2 ≤ bitsOf p3.toNat 0 4 && bitsOf p3.toNat 0 4 ≤ 8 && (sub = 0 || 1 ≤ hi)
  | 2 => 1 ≤ p2.toNat && p2.toNat ≤ 64 && p3 = 0
  | 3 => if sub = 0 then 1 ≤ rowLen p2 && rowLen p2 ≤ 65536 else p2 = 0 && p3 = 0
  | 4 => bitsOf p3.toNat 0 32 % 4 = 0 && (sub ≠ 0 || (bitsOf p3.toNat 32 4 ≤ 2 && bitsOf p3.toNat 36 4 ≤ 2))
  | _ =>
    1 ≤ p2.toNat && p2.toNat < 2 ^ 32 &&
      (match sub with
        | 0 => 1 ≤ p3.toNat && p3.toNat ≤ 65536
        | 1 => true
        | _ => 1 ≤ p3.toNat && p3.toNat ≤ p2.toNat)

/-- Items of a command (R304). -/
def cmdItems (kind sub : Nat) (p2 : BitVec 64) : Nat :=
  match kind with
  | 0 => if 5 ≤ sub then 1 else rowCount p2
  | 2 => p2.toNat
  | 3 => if sub = 0 then rowCount p2 else 1
  | _ => 1

end Sys2Proof.Machine
end

