-- ==== Sys2Proof/Machine/EngineItem.lean ====
section
/-! DEFINITION. Items and batches as they complete: the checks of an item's accesses (R277), its status and fault record
(R118, R119, R276), the PAGE that suspends it (R118, R359), and batches that complete in the order they were sealed
(R128, R278). -/
namespace Sys2Proof.Machine

/-! ## Accesses of items (R123, R277) -/

/-- SRC 6 names a shadow gather; every other access of the item has the SRC of its kind. -/
def withSrc (src : Nat) (f : Fx) : Fx := if f.src = 6 ∨ f.busy then f else { f with src := src }

/-- ALIGN of the first access that is not aligned. -/
def engAlign (s : State) (src : Nat) (as : List LaneAcc) (wr : Bool) : Option Fx := (alignErr s as wr).map (withSrc src)

/-- The address checks of an item's reads rs and writes ws: ALIGN, PROT, PAGE, each over all. -/
def engAddr (s : State) (src : Nat) (rs ws : List LaneAcc) : Option Fx :=
  firstFx [engAlign s src rs false, engAlign s src ws true,
    (firstFx [firstErr s .read AccErr.isProt rs, firstErr s .write AccErr.isProt ws,
      firstErr s .read (· = .page) rs, firstErr s .write (· = .page) ws,
      firstErr s .read (· = .busy) rs, firstErr s .write (· = .busy) ws]).map (withSrc src)]

/-- ECC_UNCORR and LINK_DOWN of an item's accesses. -/
def engData (s : State) (src : Nat) (rs ws : List LaneAcc) : Option Fx :=
  (firstFx [eccErr s rs .read .read, eccErr s ws .write .write, firstErr s .read (· = .link) rs, firstErr s .write (· = .link) ws]).map (withSrc src)

/-- Every check of an item's accesses, made before its first write (R277). -/
def engFx (s : State) (src : Nat) (rs ws : List LaneAcc) : Option Fx := firstFx [engAddr s src rs ws, engData s src rs ws]

/-- n accesses of w bytes from an address. -/
def runAcc (va : Int) (w n : Nat) : List LaneAcc := (List.range n).map (fun i => ⟨0xFF, ((va + w * i) % 2 ^ 64).toNat, w⟩)

/-- The little-endian value of n accesses, lines drained first (R131). -/
def readRun (s : State) (as : List LaneAcc) : State × List Nat :=
  let s1 := drainAcc s as .read
  (s1, as.map (loadAcc s1))

/-- Stores of values, lines drained first. -/
def writeRun (s : State) (l : List (LaneAcc × Nat)) : State := storeAll (drainAcc s (l.map (·.1)) .write) l

/-! ## Items of an issuer -/

/-- The issuers of the loaded crew. -/
def whosOf (s : State) : List Who :=
  ⟨s.gid, s.crew.no, 0, true⟩ :: s.crew.groups.map (fun g => ⟨s.gid, s.crew.no, g.1, false⟩)

/-- Every item of an issuer with its batch number, in issue order. -/
def Batches.refs (b : Batches) : List (Nat × Item) :=
  (b.sealed.flatMap (fun x => x.items.map (fun i => (x.no, i)))) ++ b.items.map (fun i => (b.no, i))

def Batches.find (b : Batches) (no ix : Nat) : Option Item :=
  (b.refs.find? (fun x => x.1 = no && x.2.ix = ix)).map (·.2)

/-- The place in the order of issue of the command whose item it is: of the first of its rows. -/
def Item.command (i : Item) : Nat :=
  match i.op with
  | .ecmd _ _ _ _ row _ _ _ _ => i.stamp - row
  | _ => i.stamp

/-- The items of earlier commands of the issuer whose work is not done (R127). -/
def Batches.before (b : Batches) (i : Item) : List Item :=
  b.open_.filter (fun j => j.drained = none && decide (j.stamp < i.command))

def Batches.update (b : Batches) (no ix : Nat) (f : Item → Item) : Batches :=
  let g := fun (l : List Item) => l.map (fun i => if i.ix = ix then f i else i)
  { b with items := if b.no = no then g b.items else b.items,
           sealed := b.sealed.map (fun x => if x.no = no then { x with items := g x.items } else x) }

/-- An item of the loaded crew. -/
def itemOf (s : State) (r : ItemRef) : Option Item := (batOf s r.who).find r.batch r.ix
def updItem (s : State) (r : ItemRef) (f : Item → Item) : State := updBat s r.who (fun b => b.update r.batch r.ix f)

/-! ## Records of items (R276, R357) -/

/-- The cause a failed status reports. -/
def Status.cause : Status → Cause
  | .stale => .stale
  | .prot => .prot
  | .align => .align
  | .eccUncorr => .eccUncorr
  | .termFormat => .termFormat
  | .slotExhausted => .slotExhausted
  | .metaMalformed => .metaMalformed
  | .mergeOrder => .mergeOrder
  | .chunkCorrupt => .chunkCorrupt
  | .linkDown => .linkDown
  | .dieLost => .dieLost
  | .residue => .residue
  | _ => .badDesc

/-- The status of a failing access. -/
def Cause.status : Cause → Status
  | .prot => .prot
  | .align => .align
  | .eccUncorr => .eccUncorr
  | .linkDown => .linkDown
  | .termFormat => .termFormat
  | .stale => .stale
  | .dieLost => .dieLost
  | _ => .badDesc

/-- SRC of an item's records: 2 copy, 3 matrix step, 4 ACST or ACLD, 5 leasable engine, 6 shadow gather. -/
def ItemOp.src : ItemOp → Nat
  | .mx .. => 3
  | .acst .. => 4
  | .acld .. => 4
  | .ecmd .. => 5
  | .swbind .. => 6
  | .swunb .. => 6
  | _ => 2

/-- The record of an item of the loaded crew. ADDR of a failure that names no address is a free value (log 5). -/
def itemRec (s : State) (r : ItemRef) (pc : BitVec 64) (f : Fx) (aux : Nat) (rid : Option Nat) (named : Bool) : FRec :=
  { dest := none, cause := f.cause, src := f.src,
    flags := (if rid.isSome then 1 else 0) + (if f.write then 2 else 0) + (if r.who.stream then 32 else 0),
    seq := 0, addr := if named then BitVec.ofNat 64 f.addr else Config.freeBits 64 s.fresh 0, pc := pc, core := s.crew.core,
    group := if r.who.stream then 0xFF else ((groupOf s r.who.grp).map (fun g => g.no)).getD 0xFF, lane := 0xFF, batch := r.batch,
    item := r.ix, aux := aux, rid := rid.getD 0, gang := s.gang.no,
    mark := if r.who.stream then 0 else ((groupOf s r.who.grp).map (fun g => g.mark)).getD 0, detail := BitVec.ofNat 64 f.detail }

/-! ## Batches that complete (R128, R278) -/

/-- How the stores of a status vector end: all performed, a failure, or a wait. -/
inductive VecEnd where
  | done
  | failed (ix : Nat) (f : Fx)
  | page (ix : Nat) (f : Fx)
  deriving DecidableEq, Repr

/-- The status-vector stores of a batch, one byte an item, in item order. -/
def vecStores (s : State) (va : Nat) : List Item → Nat → State × VecEnd
  | [], _ => (s, .done)
  | i :: r, k =>
    let a : LaneAcc := ⟨0xFF, (va + k) % 2 ^ 64, 1⟩
    match engFx s 2 [] [a] with
    | some f => (s, if f.cause = .page then .page k f else .failed k f)
    | none => vecStores (writeRun s [(a, (i.status.getD .ok).code)]) va r (k + 1)

/-- The oldest sealed batch leaves with its token. -/
def retireBatch (s : State) (w : Who) (b : Batch) (err : Option Status) : State :=
  let s1 := updBat s w (fun x => { x with sealed := x.sealed.drop 1 })
  match b.tok with
  | none => s1
  | some n => updTok s1 w n (fun _ => { Tok.zero with val := b.token err })

def itemDie (s : State) : Nat := dieOfCore s.crew.core

/-- A record of an item or batch, staged. -/
def stageItem (s : State) (r : FRec) : State := (pushRec s (some s.gang.grid) (some s.gang.ctx) r).freshen

/-- The ring of a context's fault buffer has room for a record beside those staged for it (R358). -/
def ringRoom (s : State) (ctx : Nat) : Bool :=
  match aget s.ctxs ctx with
  | none => true
  | some c =>
    ringHas s (physKey c.fbufSpace c.fbuf) c.fblog (c.put + (s.staged.filter (fun r => r.dest = some ctx)).length)

/-- A record that names an item of an issuer waits in the staging store (R358). -/
def recStaged (s : State) (w : Who) (no ix : Nat) (pc : BitVec 64) : Bool :=
  let group := if w.stream then 0xFF else ((groupOf s w.grp).map (fun g => g.no)).getD 0xFF
  s.staged.any (fun x => x.gang = s.gang.no && x.core = s.crew.core && x.group = group && x.batch = no && x.item = ix && x.pc = pc)

def itemStaged (s : State) (w : Who) (no : Nat) (i : Item) : Bool := recStaged s w no i.ix i.pc

/-- The oldest sealed batch of an issuer changed. -/
def updOldest (s : State) (w : Who) (f : Batch → Batch) : State :=
  updBat s w (fun x => { x with sealed := match x.sealed with
    | [] => []
    | y :: ys => f y :: ys })

/-- The status-vector stores of the oldest batch fail at item k, with a record. The batch waits for that while the ring of its buffer is full
(R278, R358). -/
def failVec (s : State) (w : Who) (b : Batch) (k : Nat) (f : Fx) : State :=
  let s1 := stageItem (noteEcc s f true) (itemRec s ⟨w, b.no, k⟩ b.pc f 0 none true)
  if ringRoom s s.gang.ctx then retireBatch s1 w b (some f.cause.status)
  else updOldest s1 w (fun y => { y with page := none, err := some (f.cause.status, k) })

/-- Batches of an issuer complete, oldest first (R128, R278). The record of a status-vector store names the item whose byte it met: the manual
does not say which item it names (DESIGN CHOICE, log 87). -/
def settle (w : Who) : Nat → State → State
  | 0, s => s
  | n + 1, s =>
    match (batOf s w).sealed with
    | [] => s
    | b :: _ =>
      match b.err with
      | some (st, k) => if recStaged s w b.no k b.pc then s else settle w n (retireBatch s w b (some st))
      | none =>
        if b.items.any (fun i => i.status = none) ∨ b.page.isSome ∨ stagedFull s (itemDie s) then s
        else match b.vec with
          | none => settle w n (retireBatch s w b none)
          | some va =>
            match vecStores s va.toNat b.items 0 with
            | (s1, .done) => settle w n (retireBatch s1 w b none)
            | (s1, .failed k f) => settle w n (failVec s1 w b k f)
            | (s1, .page k f) =>
              if f.busy then s
              else
                let r := joinPage s1 (itemDie s) s.gang.ctx f.addr (fun rid s => stageItem s (itemRec s ⟨w, b.no, k⟩ b.pc f 0 (some rid) true))
                updOldest (bump r.2 s.crew.core 0x22 1) w (fun y => { y with page := some (r.1, k, f) })

/-- What an item whose work is done still waits for: a step with a release flag for the earlier commands (R283), a failed item for the
room of its record (R358). -/
def lingers (s : State) (w : Who) (no : Nat) (i : Item) : Bool :=
  (i.rel && i.op.src = 3 && (batOf s w).before i ≠ []) || itemStaged s w no i

/-- The items of an issuer whose work is done end, in issue order, unless they have to wait. -/
def promote (s : State) (w : Who) : State :=
  (batOf s w).refs.foldl (fun s x => match x.2.status, x.2.drained with
    | none, some st => if lingers s w x.1 x.2 then s
                       else updItem s ⟨w, x.1, x.2.ix⟩ (fun j => { j with status := some st })
    | _, _ => s) s

def settleAll (s0 : State) (w : Who) : State :=
  let s := promote s0 w
  settle w ((batOf s w).sealed.length) s

/-! ## The end of an item -/

/-- How an item's work ends: with its effects, a failure (an address named or not, AUX), a PAGE, or not yet. -/
inductive ItemRes where
  | ok (s : State)
  | fail (st : Status) (f : Fx) (named : Bool) (aux : Nat) (s : State)
  | page (f : Fx)
  | wait

/-- A failure without an address. -/
def failPlain (s : State) (i : Item) (st : Status) : ItemRes := .fail st ⟨st.cause, i.op.src, 0xFF, 0, false, 0⟩ false 0 s

/-- A failure by a damaged unit of the core, of the storage that a number names (R415, R420). -/
def failStore (s : State) (i : Item) (kind : Nat) : ItemRes := .fail .eccUncorr ⟨.eccUncorr, i.op.src, 0xFF, kind, false, 0⟩ false 0 s

/-- A failing access: PAGE suspends, every other fails the item (R118). -/
def failAcc (s : State) (f : Fx) : ItemRes := if f.cause = .page then .page f else .fail f.cause.status f true 0 s

/-- A subtraction from P of the barrier a command counts against (R299). -/
def countBar (s : State) (bn : Option Nat) (bytes : Int) : State :=
  match bn with
  | none => s
  | some n => setOwn s (fun c => barEvent c n (fun b => { b with p := b.p - bytes }))

/-- The engine of a cluster that a request holds. -/
def engineOfReq (c : Cluster) (req : Nat) : Option (Nat × Engine) :=
  c.engines.find? (fun e => e.2.lease.any (fun l => l.1 = req))

def updEngine (s : State) (cl n : Nat) (f : Engine → Engine) : State :=
  let c := clusterOf s cl
  setCluster s cl { c with engines := aput n (f ((aget c.engines n).getD .zero)) c.engines }

/-- The idle time of a command's engine counts from the end of its items, however they end (R138). -/
def touchEngine (s : State) (op : ItemOp) : State :=
  match op with
  | .ecmd cl req _ _ _ _ _ _ _ =>
    match engineOfReq (clusterOf s cl) req with
    | none => s
    | some (n, _) => updEngine s cl n (fun e => { e with since := s.clock.toNat })
  | _ => s

/-- The work of an item is done with a status; one that is neither OK nor EVICTED writes a record (R276). The item ends, unless it has to
wait: a failed one for its record while the ring of the buffer is full (R358). -/
def endItem (s0 : State) (r : ItemRef) (i : Item) (st : Status) (f : Fx) (named : Bool) (aux : Nat) : State :=
  let s := countMisses s0 s0.crew.core
  let bad := st ≠ .ok ∧ st ≠ .evicted
  let s1 := if bad then stageItem (noteEcc s f named) (itemRec s r i.pc f aux none named) else s
  let late := (bad && !ringRoom s s.gang.ctx) || (i.rel && i.op.src = 3 && (batOf s r.who).before i ≠ [])
  settleAll (updItem (touchEngine s1 i.op) r (fun j => { j with status := if late then none else some st, drained := some st, page := none })) r.who

/-- The item ends with a status that something outside it decides, as soon as its record finds room: it waits as one whose PAGE wait an
abort has ended does (R358). -/
def doomItem (s : State) (r : ItemRef) (i : Item) (st : Status) : State :=
  updItem s r (fun j => { j with page := some (2 ^ 32, ⟨st.cause, i.op.src, 0xFF, 0, false, 0⟩) })

/-- The result of an item's work recorded. With the staging store full, the item waits (R358). -/
def finishItem (s : State) (r : ItemRef) (i : Item) (res : ItemRes) : State :=
  match res with
  | .wait => s
  | .ok s1 => endItem s1 r i .ok (fx .stale) false 0
  | .fail st f named aux s1 => if stagedFull s (itemDie s) then s else endItem s1 r i st f named aux
  | .page f =>
    if stagedFull s (itemDie s) ∨ f.busy then s
    else
      let p := joinPage s (itemDie s) s.gang.ctx f.addr (fun rid s => stageItem s (itemRec s r i.pc f 0 (some rid) true))
      updItem (countMisses (bump p.2 s.crew.core 0x22 1) s.crew.core) r (fun j => { j with page := some (p.1, f) })

/-- An acquire flag lets the item begin: every earlier command of the issuer has performed (R127); the rows of its own command are none. -/
def acqOk (s : State) (r : ItemRef) (i : Item) : Bool := !i.acq || (batOf s r.who).before i = []

/-- The completion event of the item `ev.item`, if it is of the kind, has not ended and waits for nothing. -/
def itemEvent (kind : ItemOp → Bool) (work : State → ItemRef → Item → ItemRes) (s : State) : State :=
  let r := s.ev.item
  onCrew s r.who.gang r.who.crew (fun s1 =>
    match itemOf s1 r with
    | none => s1
    | some i =>
      if kind i.op ∧ i.status = none ∧ i.drained = none ∧ i.page = none ∧ acqOk s1 r i then
        { finishItem { s1 with accStamp := some i.stamp } r i (work { s1 with accStamp := some i.stamp } r i) with accStamp := none }
      else s1)

end Sys2Proof.Machine
end

