-- ==== Sys2Proof/Machine/EngineIssue.lean ====
section
/-! DEFINITION. The issue of the engine stream's instructions (chapter 12): matrix steps, accumulator transfers, slots,
copies, batches, shadow windows, leases, engine commands and the stream's registers. -/
namespace Sys2Proof.Machine

def eOk (r : Nat) : Bool := r < 32
/-- A run of n e registers of a stream, or s registers of a group (R160, R275). -/
def iRun (s : State) (r n : Nat) : Bool := r + n ≤ iLimit s

/-! ## Choosing the next step (R20) -/

/-- The streams of a core: gang and crew, stream number, batches. -/
def streamsOn (s : State) (core : Nat) : List (Nat × Nat × Nat × Batches) :=
  let l := s.gangs.flatMap (fun g => g.2.crews.filterMap (fun c =>
    if c.2.core = core then some (g.1, c.1, c.2.strm.num, c.2.strm.bat) else none))
  let own := if s.gang.pkt.crew ≠ 0 ∧ s.crew.core = core then [(s.gid, s.crew.no, s.crew.strm.num, s.crew.strm.bat)] else []
  let sib := if s.gang.pkt.crew = 0 then [] else s.gang.crews.filterMap (fun c =>
    if c.2.core = core then some (s.gid, c.1, c.2.strm.num, c.2.strm.bat) else none)
  own ++ sib ++ l

def ItemOp.isMx : ItemOp → Bool
  | .mx .. => true
  | _ => false

/-- The oldest step of a stream that is neither begun nor chosen. -/
def oldestStep (b : Batches) (busy : Nat × Nat → Bool) : Option (Nat × Nat) :=
  (b.refs.find? (fun x => x.2.op.isMx && !x.2.started && x.2.status = none && x.2.drained = none && !busy (x.1, x.2.ix))).map (fun x => (x.1, x.2.ix))

/-- The engine of a core chooses its next step, if it has none (R20). -/
def chooseNext (s : State) (core : Nat) : State :=
  let c := coreOf s core
  if c.nxt.isSome then s
  else
    let cands := (streamsOn s core).filterMap (fun x =>
      (oldestStep x.2.2.2 (fun _ => false)).map (fun r => ((x.2.2.1 + 3 - c.lastStream) % 4, x, r)))
    let best := cands.foldl (fun (b : Option (Nat × (Nat × Nat × Nat × Batches) × (Nat × Nat))) x => match b with
      | none => some x
      | some y => if x.1 < y.1 then some x else some y) none
    match best with
    | none => s
    | some (_, x, r) => setCore s core { c with nxt := some ⟨⟨⟨x.1, x.2.1, 0, true⟩, r.1, r.2⟩, none, none, false, none, .zero, none, []⟩ }

/-- The operand slots of a step. -/
def ItemOp.slotsAB : ItemOp → Nat × Nat
  | .mx _ _ a b _ _ _ _ _ _ _ _ => (a, b)
  | _ => (0, 0)

/-- The batches of a stream that is not loaded, and the step of them that a reference names. -/
def stepAt (s : State) (r : ItemRef) : Option (Batches × Item) :=
  ((aget s.gangs r.who.gang).bind (fun g => aget g.crews r.who.crew)).bind (fun c =>
    (c.strm.bat.find r.batch r.ix).map (fun i => (c.strm.bat, i)))

/-- The chosen step's B slot holds its data, so that its latch window is open (R66). -/
def windowOpen (s : State) (x : Running) : Bool :=
  (stepAt s x.item).all (fun y => !(y.1.before y.2).any (fun j => j.op.fills y.2.op.slotsAB.2))

/-! ## Matrix steps (R281–R285) -/

def execMxg (nx : NX) (sel : BitVec 1) (d : BitVec 2) (g : BitVec 3) (s : State) : Out :=
  retire 0xB0 nx
    { fault := check (g.toNat ≤ 4) .illegalOp,
      done := setStrm s (fun x => { x with lgG := g.toNat, depth := d.toNat, sat := sel = 1 }) } s

/-- The format registers a descriptor names. -/
def descA (s : State) (d : BitVec 64) : BitVec 32 := fmtReg s (dAfr d)
def descB (s : State) (d : BitVec 64) : BitVec 32 := fmtReg s (dBfr d)

/-- The checks of R282 from the handles on, and R283. -/
def mxFault (s : State) (acc : Nat) (d : BitVec 64) (ha hb : BitVec 17) (acq rel : Bool) : Option Fx :=
  firstFx [check (handleOk s.crew ha) .handleStale, check (handleOk s.crew hb) .handleStale,
    check (descOk d (descA s d) (descB s d) && (dN d ≤ 256 || (acc % 2 = 0 && acc + 1 < s.gang.pkt.accs))) .termFormat,
    check (!hCls ha && hCls hb && (slotPending s.crew (hSlot ha) || aFormOk d (slotOf s.crew (hSlot ha)).form) &&
      (slotPending s.crew (hSlot hb) || bFormOk (slotOf s.crew (hSlot hb)).form)) .termFormat,
    batchRoom s 1, flagCheck s acq rel]

/-- The step as it is issued: what R282 captures. -/
def mxItem (s : State) (acc : Nat) (d : BitVec 64) (ha hb : BitVec 17) (v : BitVec 64) : ItemOp :=
  .mx acc d (hSlot ha) (hSlot hb) (min v.toNat (dM d)) s.crew.strm.lgG s.crew.strm.depth s.crew.strm.sat (descA s d) (descB s d) ha hb

/-- MX (R281–R283). Among the steps that issue in one cycle the engine chooses at its end (R20). -/
def execMx (nx : NX) (c : BitVec 2) (se : BitVec 5) (a b : BitVec 4) (v : BitVec 5) (q r : BitVec 1) (s : State) : Out :=
  let d := eget s se.toNat
  let ha := hget s a.toNat
  let hb := hget s b.toNat
  retire 0xB1 nx
    { early := range (c.toNat < s.gang.pkt.accs), guarded := true,
      stall := (dTiles d c.toNat).any (tileLoading s.crew),
      fault := mxFault s c.toNat d ha hb (q = 1) (r = 1),
      done := newItem s (mxItem s c.toNat d ha hb (eget s v.toNat)) (q = 1) (r = 1),
      post := fun s' => if s'.crew.joint then s' else chooseNext s' s.crew.core } s

def execMxbound (nx : NX) (d a : BitVec 7) (s : State) : Out :=
  let x := eget s a.toNat
  retire 0xB2 nx
    { early := range (eOk d.toNat && eOk a.toNat), fault := check (descOk x (descA s x) (descB s x)) .termFormat,
      done := eput s d.toNat (BitVec.ofNat 64 (dBound x (descA s x))) } s

def Tile.zero : Tile := ⟨.empty 32, false⟩
def tileOf (c : Crew) (n : Nat) : Tile := (aget c.tiles n).getD .zero
def setTile (c : Crew) (n : Nat) (t : Tile) : Crew := { c with tiles := aput n t c.tiles }

def accOk (s : State) (a : Nat) : Bool := a < s.gang.pkt.accs

/-- A tile set to zero, whole again and no longer poisoned (R84, R85, R420). -/
def zeroTile (s : State) (acc : Nat) : State :=
  let s1 := if s.damaged = [] then s else { s with damaged := s.damaged.filter (fun c => match c with
    | .tile g cr n _ => !(g = s.gid && cr = s.crew.no && n = acc)
    | _ => true) }
  setOwn s1 (fun c => setTile c acc .zero)

def execMxz (nx : NX) (d : BitVec 7) (s : State) : Out :=
  retire 0xB3 nx
    { early := range (accOk s d.toNat), guarded := true, stall := tileLoading s.crew d.toNat,
      fault := check (!tilePending s.crew d.toNat) .accBusy, done := zeroTile s d.toNat } s

/-! ## Accumulator transfers (R286–R288) -/

/-- The region of a tile that a transfer reads holds a damaged unit (R420). -/
def tileBad (s : State) (acc : Nat) (w : BitVec 64) : Bool :=
  s.damaged.any (fun c => match c with
    | .tile g cr n ix => g = s.gid && cr = s.crew.no && n = acc && ix / 256 < acRows w && ix % 256 < acCols w
    | _ => false)

/-- ACST reads the tile, zeroes it if ZERO is set, and joins the batch. -/
def acstDone (s : State) (acc : Nat) (addr w : BitVec 64) : State :=
  let t := tileOf s.crew acc
  let s1 := newItem s (.acst addr w t.acc t.poison (tileBad s acc w)) (acAcq w) (acRel w)
  if acZero w then zeroTile s1 acc else s1

def execAcst (nx : NX) (d a b : BitVec 7) (s : State) : Out :=
  let w := eget s b.toNat
  retire 0xB4 nx
    { early := range (eOk d.toNat && accOk s a.toNat && eOk b.toNat), guarded := true,
      stall := tilePending s.crew a.toNat || tileLoading s.crew a.toNat || storeFull s,
      fault := firstFx [check (acOk w) .illegalOp, batchRoom s 1, flagCheck s (acAcq w) (acRel w)],
      done := acstDone s a.toNat (eget s d.toNat) w } s

/-- ACLD at issue: poison is cleared, and what a poisoned tile holds is undefined (R288). -/
def acldDone (s : State) (acc : Nat) (addr w : BitVec 64) : State :=
  newItem (setOwn s (fun c => setTile c acc { tileOf c acc with poison := false })) (.acld acc addr w) (acAcq w) (acRel w)

/-- ACLD. One of a tile that another ACLD is still to load stalls until that load is done (DESIGN CHOICE, log 105). -/
def execAcld (nx : NX) (d a b : BitVec 7) (s : State) : Out :=
  let w := eget s b.toNat
  retire 0xB5 nx
    { early := range (accOk s d.toNat && eOk a.toNat && eOk b.toNat), guarded := true,
      stall := tileLoading s.crew d.toNat || loadFull s,
      fault := firstFx [check (!tilePending s.crew d.toNat) .accBusy,
        check (acOk w && !acAos w && !acFt w && !acZero w) .illegalOp, batchRoom s 1, flagCheck s (acAcq w) (acRel w)],
      done := acldDone s d.toNat (eget s a.toNat) w } s

/-! ## Operand slots (R80, R289, R290) -/

/-- The lowest slot of the reservation that is free: not claimed, and no deferred release pending. -/
def freeSlot (s : State) : Option Nat :=
  (List.range s.gang.pkt.slots).find? (fun n => !(slotOf s.crew n).claimed && !slotBusy s.crew n)

/-- A deferred release is outstanding. -/
def releaseDue (s : State) : Bool :=
  (List.range s.gang.pkt.slots).any (fun n => !(slotOf s.crew n).claimed && slotBusy s.crew n)

/-- Bytes of an operand slot: data and scales (R80, R291). -/
def slotBytes : Nat := 16384
def scaleBytes : Nat := 8192

/-- The claim of slot n (R80); its contents are undefined until a copy writes them. -/
def claimSlot (s : State) (n d : Nat) (cls : Bool) : State :=
  let g := ((slotOf s.crew n).gen + 1) % 4096
  hput (setOwn s.freshen.freshen (fun c => setSlot c n ⟨true, cls, g, .dense, .undef 8 slotBytes s.fresh, .undef 8 scaleBytes (s.fresh + 1), false⟩))
    d (handleOf n g cls)

def execHclaim (nx : NX) (d : BitVec 7) (x : BitVec 1) (s : State) : Out :=
  retire 0xB6 nx
    { early := range (c16Ok d.toNat), fault := check ((freeSlot s).isSome || releaseDue s) .slotExhausted,
      wait := if (freeSlot s).isNone then some (waitAs s .wait) else none,
      done := claimSlot s ((freeSlot s).getD 0) d.toNat (x = 1) } s

def execHrel (nx : NX) (a : BitVec 7) (s : State) : Out :=
  let h := hget s a.toNat
  retire 0xB7 nx
    { early := range (c16Ok a.toNat), fault := check (handleOk s.crew h) .handleStale,
      done := setOwn s (fun c => setSlot c (hSlot h) { slotOf c (hSlot h) with claimed := false }) } s

/-! ## Copies (R295–R298) -/

/-- An earlier step of the issuer may still read the slot that the copy fills: it waits on the write-after-read interlock (R82, R87). -/
def Batches.interlocked (b : Batches) (i : Item) : Bool :=
  match i.op with
  | .cpld (some n) _ _ _ _ _ => i.drained = none && i.status = none && (b.before i).any (fun j => j.reads n)
  | _ => false

/-- A copy into slot n joins the batch; a slot with pending readers makes it wait (R82, R87). -/
def copyItem (s : State) (n : Nat) (op : ItemOp) (acq rel : Bool) : State :=
  updBat (newItem s op acq rel) (curWho s) (fun b =>
    { b with items := b.items.map (fun i => if i.stamp = s.nextItem then { i with waited := slotRead s.crew n } else i) })

def execCpldSlot (nx : NX) (d a b : BitVec 7) (s : State) : Out :=
  let w := iget s b.toNat
  let h := hget s d.toNat
  retire 0xB8 nx
    { early := range (c16Ok d.toNat && iRun s a.toNat 2 && iOk s b.toNat), guarded := true, stall := loadFull s,
      fault := firstFx [check (isStream s) .illegalContext, check (handleOk s.crew h) .handleStale, check (ccOk w true) .illegalOp,
        batchRoom s 1, flagCheck s (ccAcq w) (ccRel w)],
      done := copyItem s (hSlot h) (.cpld (some (hSlot h)) h (iget s a.toNat) (iget s (a.toNat + 1)) w s.crew.f) (ccAcq w) (ccRel w) } s

def execCpldSp (nx : NX) (a b : BitVec 7) (s : State) : Out :=
  let w := iget s b.toNat
  retire 0xB8 nx
    { early := range (iRun s a.toNat 2 && iOk s b.toNat), guarded := true, stall := loadFull s,
      fault := firstFx [check (ccOk w true) .illegalOp, batchRoom s 1, flagCheck s (ccAcq w) (ccRel w)],
      done := newItem s (.cpld none 0 (iget s a.toNat) (iget s (a.toNat + 1)) w s.crew.f) (ccAcq w) (ccRel w) } s

def execCpst (nx : NX) (a b : BitVec 7) (s : State) : Out :=
  let w := iget s b.toNat
  retire 0xB9 nx
    { early := range (iRun s a.toNat 2 && iOk s b.toNat), guarded := true, stall := storeFull s,
      fault := firstFx [check (ccOk w false) .illegalOp, batchRoom s 1, flagCheck s (ccAcq w) (ccRel w)],
      done := newItem s (.cpst (iget s a.toNat) (iget s (a.toNat + 1)) w s.crew.f) (ccAcq w) (ccRel w) } s

def execCpss (nx : NX) (a b : BitVec 7) (s : State) : Out :=
  let w := iget s b.toNat
  retire 0xBA nx
    { early := range (iRun s a.toNat 3 && iOk s b.toNat), guarded := true, stall := loadFull s || storeFull s,
      fault := firstFx [check (csOk w) .illegalOp, batchRoom s 1, flagCheck s (csAcq w) (csRel w)],
      done := newItem s (.cpss (iget s a.toNat) (iget s (a.toNat + 1)) (iget s (a.toNat + 2)) w) (csAcq w) (csRel w) } s

/-! ## Batches (R278, R280) -/

/-- 32 sealed batches of the issuer are unfinished. -/
def sealFull (s : State) : Bool := 32 ≤ (batOf s (curWho s)).sealed.length

/-- The open batch is sealed under token d. -/
def bsealDone (s : State) (d : Nat) (vec : Option (BitVec 64)) : State :=
  sealBatch (tput s d { Tok.zero with pending := true }) (curWho s) (some d) vec

def execBseal (nx : NX) (d : BitVec 7) (s : State) : Out :=
  retire 0xBB nx
    { early := range (c16Ok d.toNat), stall := (tget s d.toNat).pending,
      wait := if sealFull s then some (waitAs s .wait) else none, done := bsealDone s d.toNat none,
      post := fun s' => settleAll s' (curWho s) } s

def execBsealStatus (nx : NX) (d a : BitVec 7) (s : State) : Out :=
  retire 0xBB nx
    { early := range (c16Ok d.toNat && iOk s a.toNat), stall := (tget s d.toNat).pending,
      wait := if sealFull s then some (waitAs s .wait) else none, done := bsealDone s d.toNat (some (iget s a.toNat)),
      post := fun s' => settleAll s' (curWho s) } s

/-- More than n sealed batches of the issuer are unfinished. -/
def bwaitBusy (s : State) (n : Nat) : Bool := n < (batOf s (curWho s)).sealed.length

def execBwaitImm (nx : NX) (i : BitVec 15) (s : State) : Out :=
  retire 0xBC nx { wait := if bwaitBusy s i.toNat then some (waitAs s .wait) else none, done := s } s

def execBwaitReg (nx : NX) (a : BitVec 6) (s : State) : Out :=
  retire 0xBC nx
    { early := range (iOk s a.toNat), wait := if bwaitBusy s (iget s a.toNat).toNat then some (waitAs s .wait) else none,
      done := s } s

/-! ## Leases and engine commands (R140, R144, R302–R304) -/

/-- A request enters its kind's queue, which holds 16, at the slate cycle `now` (R141). -/
def enterQueue (now : Nat) (c : Cluster) (r : LeaseReq) : Option Cluster :=
  let q := (aget c.queues r.kind).getD []
  if q.length < 16 then some { c with queues := aput r.kind (q ++ [{ r with ent := now }]) c.queues } else none

/-- A request of the issuer. -/
def leaseMsg (s : State) (r : LeaseReq) : NakMsg := .lease s.crew.core (s.crew.core / 8) r

/-- A request goes to the halter unit; one that follows a refused one, or is refused, is kept (R58). -/
def submitLease (s : State) (r : LeaseReq) : State :=
  let cl := s.crew.core / 8
  if flowBusy s (leaseMsg s r) then refuse s (leaseMsg s r)
  else match enterQueue s.clock.toNat (clusterOf s cl) r with
    | some c => setCluster s cl c
    | none => refuse s (leaseMsg s r)

def execLease (nx : NX) (d a b : BitVec 7) (s : State) : Out :=
  let kind := bitsOf (iget s a.toNat).toNat 0 3
  let prio := min (bitsOf (iget s b.toNat).toNat 0 3) s.gang.pkt.prio
  let req : LeaseReq := ⟨s.nextReq, kind, prio, curWho s, d.toNat, 0⟩
  retire 0xBD nx
    { early := range (c16Ok d.toNat && iOk s a.toNat && iOk s b.toNat),
      stall := (tget s d.toNat).pending || flowFull s (leaseMsg s req),
      fault := check (kind ≤ 5) .illegalOp,
      done :=
        let s1 := tput s d.toNat { Tok.zero with pending := true, lease := some (s.nextReq, s.crew.core / 8) }
        submitLease { s1 with nextReq := s.nextReq + 1 } req } s

/-- The LREL of a lease that is still held has issued. -/
def markRelease (s : State) (cl req : Nat) : State :=
  match engineOfReq (clusterOf s cl) req with
  | none => s
  | some (n, _) => updEngine s cl n (fun e => { e with lrel := true })

def execLrel (nx : NX) (a : BitVec 7) (s : State) : Out :=
  let t := tget s a.toNat
  retire 0xBE nx
    { early := range (c16Ok a.toNat), fault := check (t.pending || t.lease.isSome) .illegalOp,
      wait := if t.pending then some (waitAs s .wait) else none,
      done := match t.lease with
        | none => s
        | some (req, cl) => markRelease (tput s a.toNat { t with released := true }) cl req } s

/-- A dim engine wakes for a command of its lease (R138). -/
def wakeFor (s : State) (cl req : Nat) : State :=
  match engineOfReq (clusterOf s cl) req with
  | none => s
  | some (n, e) => if e.power = .dim then updEngine s cl n (fun e => { e with power := .lit, waking := true }) else s

/-- The items of a command join the batch; on an evicted lease they have ended (R142, R304). -/
def ecmdDone (s : State) (t : Tok) (op p0 p1 p2 p3 : BitVec 64) : State :=
  match t.lease with
  | none => s
  | some (req, cl) =>
    let kind := leaseKind t.val
    let sub := bitsOf op.toNat 0 8
    let st := if leaseEvicted t.val then some Status.evicted else none
    let s1 := (List.range (cmdItems kind sub p2)).foldl (fun s row =>
      pushItem s (curWho s) (.ecmd cl req kind sub row p0 p1 p2 p3) (op.getLsbD 8) (op.getLsbD 9) (scopeOf (modeOf s)) st) s
    wakeFor s1 cl req

def execEcmd (nx : NX) (d a b : BitVec 7) (s : State) : Out :=
  let t := tget s d.toNat
  let op := iget s a.toNat
  let p := fun (i : Nat) => iget s (b.toNat + i)
  let kind := leaseKind t.val
  let sub := bitsOf op.toNat 0 8
  retire 0xBF nx
    { early := range (c16Ok d.toNat && iOk s a.toNat && iRun s b.toNat 4), guarded := true,
      fault := if t.pending then none else firstFx [check (t.lease.isSome && !t.released) .illegalOp,
        check (subOk kind sub && op.toNat < 2 ^ 10 && argsOk kind sub (p 2) (p 3)) .illegalOp,
        batchRoom s (cmdItems kind sub (p 2)), flagCheck s (op.getLsbD 8) (op.getLsbD 9)],
      wait := if t.pending then some (waitAs s .wait) else none,
      done := ecmdDone s t op (p 0) (p 1) (p 2) (p 3) } s

/-! ## Shadow windows (R300, R301) -/

def swOk (a n : BitVec 64) : Bool :=
  let lz := bitsOf a.toNat 8 4
  a.toNat < 2 ^ 12 && bitsOf a.toNat 6 2 = 0 && 2 ≤ lz && lz ≤ 8 && 1 ≤ n.toNat && n.toNat ≤ 2 ^ (36 - lz)

/-- The window is closed to later accesses until the item completes. -/
def swbindDone (s : State) (a g ixa n : BitVec 64) : State :=
  let w := bitsOf a.toNat 0 6
  let s1 := newItem s (.swbind w (2 ^ bitsOf a.toNat 8 4) g ixa n.toNat) false false
  match aget s1.ctxs s1.gang.ctx with
  | none => s1
  | some c => { s1 with ctxs := aput s1.gang.ctx { c with closing := c.closing ++ [(w, s.nextItem)] } s1.ctxs }

def execSwbind (nx : NX) (a b : BitVec 7) (s : State) : Out :=
  retire 0xC0 nx
    { early := range (iOk s a.toNat && iRun s b.toNat 3), guarded := true,
      fault := firstFx [check (swOk (iget s a.toNat) (iget s (b.toNat + 2))) .illegalOp, batchRoom s 1],
      done := swbindDone s (iget s a.toNat) (iget s b.toNat) (iget s (b.toNat + 1)) (iget s (b.toNat + 2)) } s

def execSwunb (nx : NX) (a : BitVec 7) (s : State) : Out :=
  let w := iget s a.toNat
  retire 0xC1 nx
    { early := range (iOk s a.toNat), guarded := true, fault := firstFx [check (w.toNat < 64) .illegalOp, batchRoom s 1],
      done := newItem s (.swunb w.toNat) false false } s

/-! ## The stream's registers (R311–R313) -/

def e2 (op : Nat) (nx : NX) (d a b : BitVec 7) (f : BitVec 64 → BitVec 64 → BitVec 64) (s : State) : Out :=
  retire op nx { early := range (eOk d.toNat && eOk a.toNat && eOk b.toNat), done := eput s d.toNat (f (eget s a.toNat) (eget s b.toNat)) } s

def e1 (op : Nat) (nx : NX) (d a : BitVec 7) (f : BitVec 64 → BitVec 64) (s : State) : Out :=
  retire op nx { early := range (eOk d.toNat && eOk a.toNat), done := eput s d.toNat (f (eget s a.toNat)) } s

def execEadd (nx : NX) (d a b : BitVec 7) (s : State) : Out := e2 0xC2 nx d a b (· + ·) s
def execEsub (nx : NX) (d a b : BitVec 7) (s : State) : Out := e2 0xC3 nx d a b (· - ·) s

def execEli (nx : NX) (d : BitVec 7) (i : BitVec 15) (s : State) : Out :=
  retire 0xC4 nx { early := range (eOk d.toNat), done := eput s d.toNat (BitVec.ofInt 64 (signExt i.toNat 15)) } s

def execElih (nx : NX) (d : BitVec 7) (i : BitVec 15) (s : State) : Out :=
  retire 0xC5 nx
    { early := range (eOk d.toNat), done := eput s d.toNat (BitVec.ofNat 64 ((eget s d.toNat).toNat * 2 ^ 15 + i.toNat)) } s

def execEmov (nx : NX) (d a : BitVec 7) (s : State) : Out := e1 0xC6 nx d a id s
def execEshl (nx : NX) (d a : BitVec 7) (c : BitVec 6) (s : State) : Out := e1 0xC7 nx d a (fun v => v <<< c.toNat) s
def execEshr (nx : NX) (d a : BitVec 7) (c : BitVec 6) (s : State) : Out := e1 0xC7 nx d a (fun v => v >>> c.toNat) s

/-- A transfer of the stream, armed as taken or not (R312). -/
def streamArm (s : State) (i : BitVec 15) (taken : Bool) : State :=
  setArmed s (some ⟨false, if taken then [(0, pcOf s + BitVec.ofInt 64 (4 * signExt i.toNat 15))] else []⟩)

def execXjz (nx : NX) (d : BitVec 7) (i : BitVec 15) (s : State) : Out :=
  retire 0xC8 nx { early := range (eOk d.toNat), done := streamArm s i (eget s d.toNat = 0) } s

def execXjnz (nx : NX) (d : BitVec 7) (i : BitVec 15) (s : State) : Out :=
  retire 0xC9 nx { early := range (eOk d.toNat), done := streamArm s i (eget s d.toNat ≠ 0) } s

/-- The value of an EFROMS selector (R313). -/
def efromsValue (s : State) (sel : Nat) : Option (BitVec 64) :=
  if (2 ≤ sel && sel ≤ 6) || sel = 9 || sel = 0xA then srdValue s sel
  else if 0x100 ≤ sel && sel ≤ 0x108 then csrValue s (sel - 0x100)
  else if 0x200 ≤ sel && cntOk (sel - 0x200) then
    some ((coreOf s s.crew.core).cnt.get (sel - 0x200))
  else none

def execEfroms (nx : NX) (d : BitVec 7) (i : BitVec 15) (s : State) : Out :=
  retire 0xCA nx
    { early := range (eOk d.toNat), fault := range (efromsValue s i.toNat).isSome,
      done := eput s d.toNat ((efromsValue s i.toNat).getD 0) } s

end Sys2Proof.Machine
end

