-- ==== Sys2Proof/Machine/EngineStep.lean ====
section
/-! DEFINITION. The matrix engine (chapter 03): the choice, latch load, start and end of steps, the cycle recurrence of
R67 and its counters, term lists, sparse rows, and the arithmetic of R70–R73. -/
namespace Sys2Proof.Machine

/-! ## Elements of a slot (R64, R291) -/

/-- Element j of a row of `bits`-bit elements from byte off. -/
def codeAt (d : Store 8) (off bits j : Nat) : Nat :=
  match bits with
  | 4 => (d.get (off + j / 2)).toNat / 16 ^ (j % 2) % 16
  | 8 => (d.get (off + j)).toNat
  | _ => (d.get (off + 2 * j)).toNat + 256 * (d.get (off + 2 * j + 1)).toNat

/-- An activation row: the value and the terms of each lane's activation (R65). -/
structure ARow where
  vals : List Val
  terms : List Nat

def denseRow (d : Store 8) (f : EFmt) (bits k m : Nat) : ARow :=
  let cs := (List.range k).map (fun j => decodeE (codeAt d (256 * m) bits j) f)
  ⟨cs.map Dec.val, cs.map Dec.terms⟩

/-! ## Term lists (R75, R76) -/

/-- Natural length of a block with T terms. -/
def tlNatural (w e t : Nat) : Nat := (24 + 8 * e + (t * w + 7) / 8 + 31) / 32 * 32

/-- Counts of the 64 activations of a block at byte off. -/
def tlCounts (d : Store 8) (off : Nat) : List Nat :=
  let c := memNat d 24 off
  (List.range 64).map (fun k => bitsOf c (3 * k) 3)

/-- The exponent offset of a stored exponent field (R75, R96). -/
def tlOffset (f : EFmt) (e : Nat) : Int :=
  match f with
  | .int _ _ => 0
  | .flt F => (if e = 0 then 1 else (e : Int)) - F.bias - F.M

/-- The sum of n terms of w bits from bit pos. -/
def tlSum (bits w : Nat) (ex : Int) : Nat → Nat → Dy
  | 0, _ => ⟨0, 0⟩
  | n + 1, pos =>
    let t := bitsOf bits pos w
    Dy.add ⟨if t % 2 = 1 then -1 else 1, ((t / 2 : Nat) : Int) + ex⟩ (tlSum bits w ex n (pos + w))

/-- The values of the activations of a block, term counts given. -/
def tlVals (bits exps w e : Nat) (f : EFmt) : List Nat → Nat → Nat → List Val
  | [], _, _ => []
  | c :: r, k, pos => Val.ofDy (tlSum bits w (tlOffset f (bitsOf exps (e * k) e)) c pos) :: tlVals bits exps w e f r (k + 1) (pos + c * w)

/-- The row of a block at byte off. -/
def tlRow (d : Store 8) (f : EFmt) (w e off k : Nat) : ARow :=
  let cs := tlCounts d off
  let total := cs.foldl (· + ·) 0
  let bits := memNat d ((total * w + 7) / 8) (off + 24 + 8 * e)
  ⟨(tlVals bits (memNat d (8 * e) (off + 24)) w e f cs 0 0).take k, cs.take k⟩

/-- The byte at which each of n blocks begins. -/
def tlOffs (d : Store 8) (w e : Nat) : Nat → Nat → List Nat
  | 0, _ => []
  | n + 1, off => off :: tlOffs d w e n (off + tlNatural w e ((tlCounts d off).foldl (· + ·) 0))

/-! ## Sparse rows (R77, R78) -/

def bytePop (b : Nat) : Nat := ((List.range 8).filter (fun i => b / 2 ^ i % 2 = 1)).length

/-- The row of kept values: bitmaps of the 8-column groups, budget b; the terms are those of the kept values. A kept element at or beyond column `cols`
of the row is code 0 (R296): which of a group's codes it is shows in the bitmap that the step reads (log 36). -/
def sparseRow (d : Store 8) (f : EFmt) (bits cols m b : Nat) (maps : List Nat) : ARow :=
  let kept := fun (mp : Nat) => (List.range 8).filter (fun i => mp / 2 ^ i % 2 = 1)
  let dec := fun (mp g t : Nat) =>
    decodeE (if (kept mp)[t]?.any (fun i => cols ≤ 8 * g + i) then 0 else codeAt d (256 * m) bits (b * g + t)) f
  ⟨maps.zipIdx.flatMap (fun x => (List.range 8).map (fun i => match (kept x.1).idxOf? i with
      | some t => (dec x.1 x.2 t).val
      | none => .zero false)),
   maps.zipIdx.flatMap (fun x => (List.range b).map (fun t => (dec x.1 x.2 t).terms))⟩

/-- Lists of n at a time. -/
def chunks {α : Type} (n : Nat) : Nat → List α → List (List α)
  | 0, _ => []
  | f + 1, l => if l = [] ∨ n = 0 then [] else l.take n :: chunks n f (l.drop n)

/-- The lane-rows of R77: rows by budget, ascending. -/
def laneRows (k : Nat) (rows : List (Nat × ARow)) : List (List Nat) :=
  (List.range 8).flatMap (fun i =>
    let w := (i + 1) * k / 8
    (chunks (64 / w) 64 (rows.filterMap (fun r => if r.1 = i + 1 then some r.2.terms else none))).map List.flatten)

/-! ## The recurrence of R67 -/

/-- Start of each of the 64 lanes on a row, from Finish of the row before and the group completions of row m − 1 − D. -/
def rowStart (G : Nat) (prev old : List Nat) : List Nat := (List.range 64).map (fun l => max (prev.getD l 0) (old.getD (l / G) 0))

def groupMax (G : Nat) (fin : List Nat) : List Nat :=
  (List.range (64 / G)).map (fun g => (List.range G).foldl (fun m j => max m (fin.getD (g * G + j) 0)) 0)

/-- Rows in order; `hist` holds the completions of the rows before, latest first. The answer is every lane's terms and waits, and W. -/
def recurrence (G D : Nat) : List (List Nat) → List Nat → List (List Nat) → StepPlan
  | [], prev, _ => { StepPlan.zero with width := prev.foldl max 0 }
  | t :: r, prev, hist =>
    let start := rowStart G prev (hist.getD D [])
    let fin := start.zipIdx.map (fun x => x.1 + t.getD x.2 0)
    let p := recurrence G D r fin (groupMax G fin :: hist)
    { p with terms := (start.zipIdx.map (fun x => (x.1, t.getD x.2 0))).filter (·.2 ≠ 0) ++ p.terms,
             waits := (start.zipIdx.map (fun x => (prev.getD x.2 0, x.1 - prev.getD x.2 0))).filter (·.2 ≠ 0) ++ p.waits }

/-! ## Step arithmetic (R70–R73) -/

/-- One element of a float step: accumulator code, products (none is a scale of 0xFF). -/
def floatElem (acc : BitVec 32) (prods : List (Option Val)) : BitVec 32 :=
  let a := (decodeFlt acc.toNat fmtF32).val
  let xs := a :: prods.filterMap id
  if prods.any (·.isNone) ∨ xs.any (· = .nan) ∨ (xs.any (· = .inf true) ∧ xs.any (· = .inf false)) then f32NaN
  else if xs.any (· = .inf true) then 0xFF800000
  else if xs.any (· = .inf false) then 0x7F800000
  else
    let ds := (xs.map Val.dy).filter (fun d => d.m ≠ 0)
    match ds with
    | [] => 0
    | d :: r =>
      let e := r.foldl (fun m x => max m x.log2) d.log2
      let q := e - 60
      let sum := ds.foldl (fun (t : Int) x => t + x.floorAt q) 0
      BitVec.ofNat 32 (convert false (Val.ofDy ⟨sum, q⟩) .rne (.flt fmtF32))

/-- A product with its scales (R73). -/
def scaled (p : Val) (sa sb : Option Int) : Option Val :=
  match sa, sb with
  | some x, some y => some (match p with
    | .num d => .num ⟨d.m, d.e + x + y⟩
    | v => v)
  | _, _ => none

/-- One element of an integer step (R70). -/
def intElem (sat : Bool) (acc : BitVec 32) (sum : Int) : BitVec 32 :=
  let x := acc.toInt + sum
  BitVec.ofInt 32 (if sat then satInt true 32 x else x)

/-- The integer value of a decoded integer element. -/
def Val.int (v : Val) : Int := v.dy.at 0

/-- The operands of a step that begins: activation rows m < V (none for a row of budget 0), the scales of A, what the
latches hold of B, and the lane-rows of the recurrence. -/
structure StepData where
  rows : List (Option ARow)
  grid : List (List Nat)

/-- What stops a step before cycle 0, or a PAGE, or what was fetched or prepared. -/
inductive Prep (α : Type) where
  | go (d : α)
  | fail (st : Status) (f : Fx) (named : Bool)
  | page (f : Fx)

def prepFail {α : Type} (st : Status) : Prep α := .fail st ⟨st.cause, 3, 0xFF, 0, false, 0⟩ false

/-- The reads of a step on a sparse A slot (R78): its rows' budgets, and each row's bitmaps. Two points the manual leaves open: the pitch of the
metadata array is COLS / 8 rounded down where COLS is no multiple of 8, and for rows and groups that lie beyond the tensor the step reads, and checks
by R79, what follows the tables (DESIGN CHOICE, log 77). -/
def budgetAccs (s : State) (op : ItemOp) : Option (List LaneAcc × List (List LaneAcc)) :=
  match op with
  | .mx _ d sa _ v _ _ _ _ _ _ _ =>
    match (slotOf s.crew sa).form with
    | .sparse bud mdat cols r0 c0 =>
      some (runAcc (bud.toNat + r0) 1 v,
        (List.range v).map (fun (m : Nat) => runAcc (mdat.toNat + (r0 + m) * (cols / 8) + c0 / 8) 1 (dK d / 8)))
    | _ => none
  | _ => none

/-- The budgets and bitmaps that a step fetches, as loads do (R78, R132): the state in which they are read, and each row's budget with its bitmaps. -/
def fetchBudgets (s : State) (op : ItemOp) : State × Prep (List (Nat × List Nat)) :=
  match budgetAccs s op with
  | none => (s, .go [])
  | some (ba, ma) =>
    match engFx s 3 (ba ++ ma.flatten) [] with
    | some e => (s, if e.cause = .page then .page e else .fail e.cause.status e true)
    | none =>
      let s1 := drainAcc s (ba ++ ma.flatten) .read
      (s1, .go ((ba.map (loadAcc s1)).zip (ma.map (fun l => l.map (loadAcc s1)))))

/-- The rows of a sparse step, its budgets and bitmaps checked (R79). -/
def prepSparse (data : Store 8) (f : EFmt) (bits k cols : Nat) (bs : List (Nat × List Nat)) : Prep StepData :=
  if bs.any (fun x => 8 < x.1 || x.2.any (fun b => bytePop b ≠ x.1)) then prepFail .metaMalformed
  else
    let rows := bs.zipIdx.map (fun x => (x.1.1, sparseRow data f bits cols x.2 x.1.1 x.1.2))
    .go ⟨rows.map (fun r => if r.1 = 0 then none else some r.2), laneRows k rows⟩

/-- Unit u of a slot lies in the first m rows of dense data, `width` bytes of each, or in the scales of the first m rows of `cols` scales, whose
units follow those of the data and of which `pitch` bytes are a row (R291). -/
def unitIn (m width : Nat) (scaled : Bool) (pitch sm cols u : Nat) : Bool :=
  if u < 4096 then decide (u / 64 < m) && decide (u % 64 * 4 < width)
  else scaled && decide (4 * (u - 4096) / pitch < sm) && decide (4 * (u - 4096) % pitch < cols)

/-- The step reads unit u of its A slot (R77, R291): in the rows it uses of dense data, in any part of the data of another form, and of the scales those of
its rows and K groups where its format takes them. -/
def readsA (s : State) (op : ItemOp) (u : Nat) : Bool :=
  match op with
  | .mx _ d sa _ v _ _ _ afr _ _ _ =>
    (decide (u < 4096) && (slotOf s.crew sa).form ≠ .dense) ||
      unitIn v ((dK d * opBits (dAfmt d) afr + 7) / 8) (opScaled (dAfmt d) afr) 16 v ((dK d + 3) / 4) u
  | _ => false

/-- The latch load of a step reads unit u of its B slot (R66, R291): in the rows and columns it uses, and of the scales those of its columns. -/
def readsB (op : ItemOp) (u : Nat) : Bool :=
  match op with
  | .mx _ d _ _ _ _ _ _ _ bfr _ _ =>
    unitIn (dK d) ((dN d * opBits (dBfmt d) bfr + 7) / 8) (opScaled (dBfmt d) bfr) 512 ((dK d + 3) / 4) (dN d) u
  | _ => false

/-- A unit of slot n of the loaded crew that a step reads is damaged (R420). -/
def slotBad (s : State) (n : Nat) (reads : Nat → Bool) : Bool :=
  s.damaged.any (fun c => match c with
    | .slot g cr m u => g = s.gid && cr = s.crew.no && m = n && reads u
    | _ => false)

/-- An element of the step's tiles that it reads is damaged (R420). -/
def tilesBad (s : State) (op : ItemOp) : Bool :=
  s.damaged.any (fun c => match c, op with
    | .tile g cr n ix, .mx acc d _ _ v _ _ _ _ _ _ _ =>
      g = s.gid && cr = s.crew.no && (dTiles d acc).contains n && ix / 256 < v && ix % 256 + 256 * (n - acc) < dN d
    | _, _ => false)

/-- The failure of a step by a damaged unit of the core, of the storage that a number names (R415, R420). -/
def eccFx (kind : Nat) : Fx := ⟨.eccUncorr, 3, 0xFF, kind, false, 0⟩

/-- The rows of A as a slot of the form and data gives them, or what the checks of a TL or sparse slot find (R76, R79). A TL slot's blocks lie by the
step's own AFMT, whatever format they were loaded under (DESIGN CHOICE, log 94). -/
def prepRows (op : ItemOp) (form : SlotForm) (data : Store 8) (bs : List (Nat × List Nat)) : Prep StepData :=
  match op with
  | .mx _ d _ _ v _ _ _ afr _ _ _ =>
    let f := opFmt (dAfmt d) afr
    let bits := opBits (dAfmt d) afr
    match form with
    | .dense =>
      let rows := (List.range v).map (denseRow data f bits (dK d))
      .go ⟨rows.map some, rows.map (fun r => r.terms)⟩
    | .tl _ ovr =>
      let w := (tlWidth (dAfmt d) afr).getD 4
      let e := tlExp (dAfmt d) afr
      let offs := tlOffs data w e v 0
      if (List.range v).any (fun m => ovr.contains m) ||
          offs.any (fun o => (tlCounts data o).any (fun c => opTmax (dAfmt d) afr < c)) then prepFail .termFormat
      else
        let rows := offs.map (fun o => tlRow data f w e o (dK d))
        .go ⟨rows.map some, rows.map (fun r => r.terms)⟩
    | .sparse _ _ cols _ c0 => prepSparse data f bits (dK d) (cols - c0) bs
  | _ => prepFail .badDesc

/-- What is checked before cycle 0 (R68, R76, R79, R81, R85), and the operands; `bf` is the form of B, and `badB` says that its load met a damaged unit.
Where several checks fail, the manual does not say which status the step reports: a lost slot comes first, then an unusable form, then the term lists or
metadata, then a damaged unit, then a poisoned tile (DESIGN CHOICE, log 78). A's units are read at cycle 0, by which the recoder has finished (R66); one
damaged while the step runs is not met (DESIGN CHOICE, log 98). -/
def prepStep (s : State) (op : ItemOp) (bf : SlotForm) (badB : Bool) (bs : List (Nat × List Nat)) : Prep StepData :=
  match op with
  | .mx acc d sa sb _ _ _ _ _ _ _ _ =>
    let a := slotOf s.crew sa
    if a.lost || (slotOf s.crew sb).lost then prepFail .stale
    else if !bFormOk bf || !aFormOk d a.form then prepFail .termFormat
    else match prepRows op a.form a.data bs with
      | .go x =>
        if badB || slotBad s sa (readsA s op) then .fail .eccUncorr (eccFx 2) false
        else if tilesBad s op then .fail .eccUncorr (eccFx 3) false
        else if (dTiles d acc).any (fun t => (tileOf s.crew t).poison) then prepFail .residue
        else .go x
      | x => x
  | _ => prepFail .badDesc

/-- The element (m, j) of the accumulator after the step. -/
def stepElem (op : ItemOp) (asc : Store 8) (bd bsc : Store 8) (row : ARow) (m j : Nat) (acc : BitVec 32) : BitVec 32 :=
  match op with
  | .mx _ d _ _ _ _ _ sat afr bfr _ _ =>
    let bv := fun (k : Nat) => (decodeE (codeAt bd (256 * k) (opBits (dBfmt d) bfr) j) (opFmt (dBfmt d) bfr)).val
    if dInt d then
      intElem sat acc (((List.range (dK d)).map (fun k => (row.vals.getD k (.zero false)).int * (bv k).int)).foldl (· + ·) 0)
    else
      floatElem acc ((List.range (dK d)).map (fun k =>
        scaled ((row.vals.getD k (.zero false)).mul (bv k))
          (if opScaled (dAfmt d) afr then e8 (asc.get (16 * m + k / 4)).toNat else some 0)
          (if opScaled (dBfmt d) bfr then e8 (bsc.get (512 * (k / 4) + j)).toNat else some 0)))
  | _ => acc

/-- The tiles after a step, from the scales of A and the data and scales of B (R62, R70, R71). -/
def applyStep (s : State) (op : ItemOp) (asc bd bsc : Store 8) (x : StepData) : State :=
  match op with
  | .mx acc d _ _ _ _ _ _ _ _ _ _ =>
    setOwn s (fun c => (dTiles d acc).foldl (fun c t =>
      let tl := tileOf c t
      let js := (List.range (min 256 (dN d - 256 * (t - acc)))).map (fun j => (j, j + 256 * (t - acc)))
      let st := x.rows.zipIdx.foldl (fun (st : Store 32) r => match r.1 with
        | none => st
        | some row => js.foldl (fun st j =>
          st.put (256 * r.2 + j.1) (stepElem op asc bd bsc row r.2 j.2 (tl.acc.get (256 * r.2 + j.1)))) st) tl.acc
      setTile c t { tl with acc := st }) c)
  | _ => s

/-- The cycles of a step (R67). -/
def stepPlan (op : ItemOp) (x : StepData) : StepPlan :=
  match op with
  | .mx _ d _ _ v lgG depth _ _ _ _ _ => { recurrence (2 ^ lgG) depth x.grid (List.replicate 64 0) [] with skip := dM d - v }
  | _ => .zero

/-! ## Events of the engine of core `ev.n` (R20, R66, R68) -/

def setRun (s : State) (core : Nat) (f : Core → Core) : State := setCore s core (f (coreOf s core))

/-- No copy into the slot that issued before the item is pending (R82). -/
def copied (s : State) (r : ItemRef) (i : Item) (n : Nat) : Bool := !((batOf s r.who).before i).any (fun j => j.op.fills n)

/-- n cycles of the core have passed since the step's window opened, or since its cycle 0 (R66 to R68). -/
def passed (s : State) (core : Nat) (x : Running) (n : Nat) : Bool := x.since.any (fun t => decide (t + n ≤ coreCycles s core))

/-- The chosen step's latches are loaded from its B slot 16 cycles after its window opened, which its B slot's data open (R66). The load reads the slot
to its end, and meets a damaged unit then (R420). -/
def latchLoad (s : State) (core : Nat) : State :=
  match (coreOf s core).nxt with
  | none => s
  | some x =>
    if x.latch.isSome ∨ !passed s core x 16 then s
    else
      onCrew s x.item.who.gang x.item.who.crew (fun s1 =>
        match itemOf s1 x.item with
        | none => s1
        | some i =>
          let b := slotOf s1.crew i.op.slotsAB.2
          if copied s1 x.item i i.op.slotsAB.2 then
            setRun (updItem s1 x.item (fun j => { j with readB := true })) core
              (fun c => { c with nxt := some { x with latch := some (b.form, b.data, b.scales), badB := slotBad s1 i.op.slotsAB.2 (readsB i.op) } })
          else s1)

def execLatchLoadComplete (s : State) : Out := .next (latchLoad s s.ev.n)

/-- Cycle 0 of a step whose cycles are p: what its A slot holds is taken, of which the reading ends with the last term cycle (R82). -/
def beginStep (s : State) (core : Nat) (x : Running) (op : ItemOp) (fail : Option (Status × Fx × Bool)) (bs : List (Nat × List Nat)) (p : StepPlan) : State :=
  let a := slotOf s.crew op.slotsAB.1
  setRun (updItem s x.item (fun j => { j with started := true, readA := p.width = 0 })) core (fun c =>
    { c with run := some { x with fail := fail, budgets := bs, since := some (coreCycles s core), slotA := some (a.form, a.data, a.scales), plan := p },
             nxt := none, lastStream := s.crew.strm.num })

/-- MXMETA counts the lines that the metadata cache fetched, whose number is not architected (R78): some, and at least one when one was fetched and
none before (R87). -/
def countMeta (s : State) (core : Nat) (op : ItemOp) (fetched : Bool) : State :=
  match budgetAccs s op with
  | none => s
  | some (ba, _) => if ba = [] then s else bumpSome s core 5 (if fetched ∧ (coreOf s core).cnt.get 5 = 0 then 1 else 0)

/-- The chosen step begins, once the engine is free and its A slot, its metadata and its acquire flag let it. Its metadata are read first: a
failing access of theirs comes before a lost slot or a form that the step cannot use, of which the manual says neither comes first (DESIGN
CHOICE, log 78). The engine chooses the next step in the same cycle (R20). -/
def startStep (s : State) (core : Nat) : State :=
  match (coreOf s core).run, (coreOf s core).nxt with
  | none, some x =>
    match x.latch with
    | none => s
    | some l =>
      onCrew s x.item.who.gang x.item.who.crew (fun s1 =>
        match itemOf s1 x.item with
        | none => s1
        | some i =>
          if !copied s1 x.item i i.op.slotsAB.1 ∨ i.page.isSome ∨ !acqOk s1 x.item i then s1
          else
            match fetchBudgets { s1 with accStamp := some i.stamp } i.op with
            | (s2, .page f) => { finishItem s2 x.item i (.page f) with accStamp := none }
            | (_, .fail st f nm) =>
              chooseNext (countMeta (beginStep s1 core x i.op (some (st, f, nm)) [] .zero) core i.op (st = .eccUncorr)) core
            | (s2, .go bs) =>
              let begin := beginStep { s2 with accStamp := none } core x i.op
              chooseNext (countMeta (match prepStep s2 i.op l.1 x.badB bs with
                | .go dat => begin none bs (stepPlan i.op dat)
                | .fail st f nm => begin (some (st, f, nm)) bs .zero
                | .page _ => begin none bs .zero) core i.op true) core)
  | _, _ => s

def execMxStepStart (s : State) : Out := .next (startStep s s.ev.n)

/-- Undefined contents for the tiles of a step that found a residue mismatch (R85), or a damaged unit (R277, R420). -/
def poisonTiles (s : State) (poison : Bool) : List Nat → State
  | [] => s
  | t :: r => poisonTiles (setOwn s.freshen (fun c => setTile c t ⟨.undef 32 16384 s.fresh, poison || (tileOf c t).poison⟩)) poison r

/-- The tiles that a step writes. -/
def ItemOp.tiles : ItemOp → List Nat
  | .mx acc d _ _ _ _ _ _ _ _ _ _ => dTiles d acc
  | _ => []

/-- The running step ends once its T cycles have passed: `mismatch` says that a residue mismatch was detected in it, in the term lane `ev.m` (R415). The
engine and the tile are free; a release flag delays only the end of the item (R67, R68, R84, R283). A step without a term cycle takes the 6 cycles of
the drain (R85, log 15). The accumulators are read to its end, and an element of them that is damaged then fails it (R420). -/
def endStep (s : State) (core : Nat) (x : Running) (i : Item) (mismatch : Bool) : State :=
  let s0 := setRun s core (fun c => { c with run := none })
  let ends := fun (y : State) (st : Status) (f : Fx) (nm : Bool) => if stagedFull s (itemDie s) then s else endItem y x.item i st f nm 0
  if !passed s core x x.plan.cycles then s
  else match x.fail, x.latch, x.slotA with
  | some (st, f, nm), _, _ => ends (if st = .eccUncorr ∨ st = .linkDown then poisonTiles s0 false i.op.tiles else s0) st f nm
  | none, some (_, bd, bsc), some (af, ad, asc) =>
    if tilesBad s i.op then ends (poisonTiles s0 false i.op.tiles) .eccUncorr (eccFx 3) false
    else if mismatch then
      ends (poisonTiles (addLog s0 3 4 core 1 (1 + 2 ^ 8 * (s.ev.m % 256))) true i.op.tiles) .residue ⟨.residue, 3, 0xFF, 0, false, 0⟩ false
    else match prepRows i.op af ad x.budgets with
      | .go dat => endItem (applyStep s0 i.op asc bd bsc dat) x.item i .ok (fx .stale) false 0
      | _ => s
  | none, _, _ => s

/-- The end of the step that runs. -/
def completeStep (s : State) (core : Nat) (mismatch : Bool) : State :=
  match (coreOf s core).run with
  | none => s
  | some x =>
    onCrew s x.item.who.gang x.item.who.crew (fun s1 =>
      match itemOf s1 x.item with
      | none => s1
      | some i => endStep s1 core x i mismatch)

def execMxStepComplete (s : State) : Out := .next (completeStep s s.ev.n s.ev.flag)

end Sys2Proof.Machine
end

