-- ==== Sys2Proof/Machine/EngineCopy.lean ====
section
/-! DEFINITION. The completion of copies, accumulator transfers and shadow-window items (R114, R286–R301, R361). -/
namespace Sys2Proof.Machine

/-! ## Layout records (R292–R294) -/

structure Layout where
  base : Nat
  fmt : Nat
  freg : Nat
  kind : Nat
  rows : Nat
  cols : Nat
  pitch : Nat
  mdat : Nat
  bud : Nat
  scale : Nat
  reserved : Bool

def layoutOf (bs : List (BitVec 8)) : Layout :=
  let f := fun (off n : Nat) => bytesNat ((bs.drop off).take n)
  { base := f 0 8, fmt := f 8 1, freg := f 9 1, kind := f 10 1, rows := f 12 4, cols := f 16 4, pitch := f 24 8, mdat := f 32 8,
    bud := f 40 8, scale := f 48 8, reserved := f 11 1 = 0 && f 20 4 = 0 && f 56 8 = 0 && f 9 1 < 16 }

/-- The format register's value at the copy's issue (R207). -/
def Layout.reg (l : Layout) (f : Store 32) : BitVec 32 := f.get (l.freg % 16)
def Layout.bits (l : Layout) (f : Store 32) : Nat := opBits l.fmt (l.reg f)
def Layout.scaled (l : Layout) (f : Store 32) : Bool := opScaled l.fmt (l.reg f)

/-- A code as a container takes it: the bits above the width of a Q format's code are written as zero (R95). -/
def Layout.clean (l : Layout) (f : Store 32) (c : Nat) : Nat := if l.fmt = 7 then c % 2 ^ (fmtOfReg (l.reg f)).width else c

/-- The least PITCH of a TL record (R293). -/
def tlMinPitch (fmt : Nat) (r : BitVec 32) : Nat :=
  let w := (tlWidth fmt r).getD 4
  (24 + 8 * tlExp fmt r + (64 * opTmax fmt r * w + 7) / 8 + 31) / 32 * 32

/-- The rules of R293 on the record and origin; `cls` is the class of the destination slot. -/
def Layout.ok (l : Layout) (f : Store 32) (r0 c0 rr cc : Nat) (cls : Option Bool) : Bool :=
  l.reserved && l.kind ≤ 3 && l.fmt ≤ 7 && 1 ≤ l.rows && 1 ≤ l.cols &&
    (l.kind ≠ 2 || ((tlWidth l.fmt (l.reg f)).isSome && l.pitch % 32 = 0 && tlMinPitch l.fmt (l.reg f) ≤ l.pitch &&
      c0 % 64 = 0 && cc ≤ 64)) &&
    l.pitch % 4 = 0 && (l.kind ≠ 3 || (c0 % 8 = 0 && cc % 8 = 0)) &&
    (match cls with
      | none => true
      | some false => !l.scaled f || (c0 % 4 = 0 && cc % 4 = 0)
      | some true => !l.scaled f || (r0 % 4 = 0 && rr % 4 = 0))

/-- Element (r, c) of kinds 0 and 1: the access that holds it, and which nibble of it (R294). -/
def Layout.elem (l : Layout) (bits r c : Nat) : LaneAcc × Nat :=
  let o := if l.kind = 1 then l.pitch * c + r * bits / 8 else l.pitch * r + c * bits / 8
  (⟨0xFF, (l.base + o) % 2 ^ 64, if bits = 16 then 2 else 1⟩, if l.kind = 1 then r % 2 else c % 2)

/-- Blocks of 64 columns of a TL tensor, and the address of a block. -/
def Layout.block (l : Layout) (r c : Nat) : Nat := l.base + l.pitch * (r * ((l.cols + 63) / 64) + c / 64)

/-- A code taken from the value of its access. -/
def pickCode (bits nib v : Nat) : Nat := if bits = 4 then v / 16 ^ nib % 16 else v

/-- Codes of w bits in bytes, the lower first. The spare half of a last byte of 4-bit codes is 0 (DESIGN CHOICE, log 96). -/
def packCodes (bits : Nat) : List Nat → List (BitVec 8)
  | [] => []
  | [c] => natBytes ((bits + 7) / 8) (c % 2 ^ bits)
  | c :: d :: r =>
    if bits = 4 then BitVec.ofNat 8 (c % 16 + 16 * (d % 16)) :: packCodes bits r
    else natBytes ((bits + 7) / 8) (c % 2 ^ bits) ++ packCodes bits (d :: r)

/-- The region of a copy: rows, columns, origin. -/
def orgRow (o : BitVec 64) : Nat := bitsOf o.toNat 0 32
def orgCol (o : BitVec 64) : Nat := bitsOf o.toNat 32 32

/-- Steps 1 to 4 of R293. -/
def readLayout (s : State) (i : Item) (recd org w : BitVec 64) (f : Store 32) (cls : Option Bool) (accept : Layout → Bool) :
    Sum ItemRes Layout :=
  let acc := runAcc recd.toNat 8 8
  match engAlign s i.op.src [⟨0xFF, recd.toNat, 64⟩] false with
  | some e => .inl (failAcc s e)
  | none =>
  match engFx s i.op.src acc [] with
  | some e => .inl (failAcc s e)
  | none =>
    let l := layoutOf ((readRun s acc).2.flatMap (natBytes 8))
    if !l.ok f (orgRow org) (orgCol org) (ccRows w) (ccCols w) cls || !accept l then .inl (failPlain s i .badDesc)
    else if l.fmt = 7 ∧ fmtValid (l.reg f) = false then .inl (failPlain s i .termFormat)
    else .inr l

/-- n bytes of undefined value for a destination (R277), numbered from k. -/
def junkBytes (s : State) (k n : Nat) : List (BitVec 8) := (List.range n).map (fun j => Config.freeBits 8 s.fresh (k + j))

/-- SOFF and the scratchpad extent (R295): ALIGN, then PROT. -/
def spadAlign (s : State) (i : Item) (w : BitVec 64) : Option ItemRes := if ccSoff w % 4 = 0 then none else some (failPlain s i .align)
def spadExtent (s : State) (i : Item) (w : BitVec 64) (bits : Nat) : Option ItemRes :=
  if ccSoff w + ccPitch w bits * (ccRows w - 1) + (ccCols w * bits + 7) / 8 ≤ s.gang.pkt.spad * 1024 then none
  else some (failPlain s i .prot)

/-- The first failure of a list. -/
def firstRes : List (Option ItemRes) → Option ItemRes
  | [] => none
  | some r :: _ => some r
  | none :: l => firstRes l

/-- The nominal size of a copy (R299). Where its record tells no element size, that size alone is a free choice among
4, 8 and 16 bits (log 26). -/
def copySize (s : State) (i : Item) (recd w : BitVec 64) (f : Store 32) : Int :=
  let nominal := fun (bits : Nat) => ((ccRows w * ((ccCols w * bits + 7) / 8) : Nat) : Int)
  let free := 4 * 2 ^ ((Config.freeBits 2 s.fresh i.stamp).toNat % 3)
  let acc := runAcc recd.toNat 8 8
  if engAlign s i.op.src [⟨0xFF, recd.toNat, 64⟩] false = none ∧ engFx s i.op.src acc [] = none then
    let l := layoutOf (acc.flatMap (fun a => natBytes 8 (loadAcc s a)))
    if l.fmt ≤ 7 then nominal (l.bits f) else nominal free
  else nominal free

/-- The subtraction of R299 when the item ends. -/
def withBar (bn : Option Nat) (size : Int) (r : ItemRes) : ItemRes :=
  match r with
  | .ok s => .ok (countBar s bn size)
  | .fail st f nm aux s => .fail st f nm aux (countBar s bn size)
  | r => r

/-! ## CPLD (R296) -/

/-- The codes of a dense region in the tensor, by rows: accesses for the elements within it, none for those outside. -/
def denseElems (l : Layout) (bits r0 c0 rr cc : Nat) : List (List (Option (LaneAcc × Nat))) :=
  (List.range rr).map (fun i => (List.range cc).map (fun j =>
    if r0 + i < l.rows ∧ c0 + j < l.cols then some (l.elem bits (r0 + i) (c0 + j)) else none))

def codesOf (s : State) (l : Layout) (f : Store 32) (row : List (Option (LaneAcc × Nat))) : List Nat :=
  row.map (fun e => match e with
    | none => 0
    | some (a, nib) => l.clean f (pickCode (l.bits f) nib (loadAcc s a)))

def elemAccs (rows : List (List (Option (LaneAcc × Nat)))) : List LaneAcc := rows.flatten.filterMap (fun e => e.map (·.1))

/-- The scales of a region toward a slot: destination byte and address (R291, R294). -/
def scaleAccs (l : Layout) (cls : Bool) (r0 c0 rr cc : Nat) : List (Nat × LaneAcc) :=
  if cls then
    (List.range (rr / 4)).flatMap (fun g => (List.range (min cc 512)).filterMap (fun j =>
      if r0 + 4 * g < l.rows ∧ c0 + j < l.cols then
        some (512 * g + j, ⟨0xFF, (l.scale + (r0 / 4 + g) * l.cols + c0 + j) % 2 ^ 64, 1⟩) else none))
  else
    (List.range rr).flatMap (fun i => (List.range (min 16 (cc / 4))).filterMap (fun g =>
      if r0 + i < l.rows ∧ c0 + 4 * g < l.cols then
        some (16 * i + g, ⟨0xFF, (l.scale + (r0 + i) * ((l.cols + 3) / 4) + c0 / 4 + g) % 2 ^ 64, 1⟩) else none))

/-- How many of the four bytes of unit u of a slot a copy writes: of its data, or of its scales, whose units follow those of the data. -/
def slotHits (data : List (Nat × List (BitVec 8))) (sc : List (Nat × LaneAcc)) (u : Nat) : Nat :=
  ((List.range 4).filter (fun i =>
    if u < 4096 then data.any (fun d => d.1 ≤ 4 * u + i && 4 * u + i < d.1 + d.2.length)
    else sc.any (fun x => x.1 = 4 * (u - 4096) + i))).length

/-- A damaged unit of the slot of which a copy writes a part (R420). -/
def slotPart (s : State) (n : Nat) (data : List (Nat × List (BitVec 8))) (sc : List (Nat × LaneAcc)) : Bool :=
  s.damaged.any (fun c => match c with
    | .slot g cr m u => g = s.gid && cr = s.crew.no && m = n && slotHits data sc u % 4 ≠ 0
    | _ => false)

/-- Damaged units of a slot that a copy writes whole are whole again (R420). -/
def mendSlot (s : State) (n : Nat) (data : List (Nat × List (BitVec 8))) (sc : List (Nat × LaneAcc)) : State :=
  if s.damaged = [] then s
  else { s with damaged := s.damaged.filter (fun c => match c with
    | .slot g cr m u => !(g = s.gid && cr = s.crew.no && m = n && slotHits data sc u = 4)
    | _ => true) }

/-- A slot after a copy: form, data bytes by offset, scales. -/
def fillSlot (s0 : State) (n : Nat) (form : SlotForm) (data : List (Nat × List (BitVec 8))) (sc : List (Nat × LaneAcc)) : State :=
  let s := mendSlot s0 n data sc
  let scs := sc.map (fun x => (x.1, BitVec.ofNat 8 (loadAcc s x.2)))
  setOwn s (fun c =>
    let x := slotOf c n
    setSlot c n { x with form := form, data := data.foldl (fun d b => memPutBytes d b.1 b.2) x.data,
                         scales := scs.foldl (fun d b => d.put b.1 b.2) x.scales })

/-- A slot whose contents a failed copy left undefined (R277). -/
def spoilSlot (s : State) (n : Nat) : State :=
  setOwn s.freshen.freshen (fun c => setSlot c n { slotOf c n with data := .undef 8 slotBytes s.fresh, scales := .undef 8 scaleBytes (s.fresh + 1) })

def slotFail (s : State) (i : Item) (n : Nat) (st : Status) : ItemRes :=
  .fail st ⟨st.cause, i.op.src, 0xFF, 0, false, 0⟩ false 0 (spoilSlot s n)

/-- A slot filled; one of which a damaged unit is written in part fails (R420). -/
def fillOr (s : State) (i : Item) (n : Nat) (form : SlotForm) (data : List (Nat × List (BitVec 8))) (sc : List (Nat × LaneAcc)) : ItemRes :=
  if slotPart s n data sc then failStore (spoilSlot s n) i 2 else .ok (fillSlot s n form data sc)

/-- A failing access found after the item's first writes (step 8 of R293). -/
def lateFail (s : State) (e : Fx) : ItemRes := .fail e.cause.status e true 0 s

def cpldDense (s : State) (i : Item) (n : Nat) (cls : Bool) (l : Layout) (w : BitVec 64) (f : Store 32) (r0 c0 : Nat) : ItemRes :=
  let bits := l.bits f
  let rows := denseElems l bits r0 c0 (ccRows w) (ccCols w)
  let sc := if l.scaled f then scaleAccs l cls r0 c0 (ccRows w) (ccCols w) else []
  let as := elemAccs rows ++ sc.map (·.2)
  match firstRes [spadAlign s i w, (engAddr s i.op.src as []).map (failAcc s)] with
  | some e => e
  | none =>
    if 256 < (ccCols w * bits + 7) / 8 then slotFail s i n .slotExhausted
    else match engData s i.op.src as [] with
    | some e => lateFail (spoilSlot s n) e
    | none =>
      let s1 := drainAcc s as .read
      fillOr s1 i n .dense (rows.zipIdx.map (fun x => (256 * x.2, packCodes bits (codesOf s1 l f x.1)))) sc

/-- The accesses of a row's kept codes, none for a group beyond the tensor (R294, R296). In a group that reaches past its last column the bitmap says
which codes lie beyond: the step takes those as code 0 (`sparseRow`; log 36). -/
def sparseElems (l : Layout) (bits r c0 cc b : Nat) : List (Option (LaneAcc × Nat)) :=
  (List.range (b * (cc / 8))).map (fun k =>
    if c0 + 8 * (k / b) < l.cols then
      let ix := b * (c0 / 8) + k
      some (⟨0xFF, (l.base + l.pitch * r + ix * bits / 8) % 2 ^ 64, if bits = 16 then 2 else 1⟩, ix % 2)
    else none)

/-- What the accesses of each row give, none for a row of which one cannot be read; that failure is reported last (R293). -/
def readRows (s : State) (src : Nat) (rows : List (List LaneAcc)) : List (Option (List (BitVec 8))) :=
  rows.map (fun as => if engData s src as [] = none then some (as.map (fun a => BitVec.ofNat 8 (loadAcc (drainAcc s as .read) a))) else none)

/-- A sparse copy, with the checks in the order of R293; the codes of a row whose budget byte cannot be read are not known, and are checked no further.
A row beyond the tensor is codes 0 (R296). -/
def cpldSparse (s : State) (i : Item) (n : Nat) (cls : Bool) (l : Layout) (w : BitVec 64) (f : Store 32) (r0 c0 : Nat) : ItemRes :=
  let (rr, cc) := (ccRows w, ccCols w)
  let bits := l.bits f
  let nr := min rr (l.rows - r0)
  let ba := runAcc (l.bud + r0) 1 nr
  match firstRes [spadAlign s i w, (engAddr s i.op.src ba []).map (failAcc s)] with
  | some e => e
  | none =>
    let bs := (readRows s i.op.src (ba.map (fun a => [a]))).map (fun x => x.map bytesNat)
    let rows := bs.zipIdx.map (fun x => match x.1 with
      | none => []
      | some b => if 8 < b then [] else sparseElems l bits (r0 + x.2) c0 cc b)
    let sc := if l.scaled f then scaleAccs l cls r0 c0 rr cc else []
    let as := elemAccs rows ++ sc.map (·.2)
    match engAddr s i.op.src as [] with
    | some e => failAcc s e
    | none =>
      if bs.any (fun b => b.any (fun b => 8 < b)) then slotFail s i n .metaMalformed
      else if bs.any (fun b => b.any (fun b => 256 < (b * (cc / 8) * bits + 7) / 8)) then slotFail s i n .slotExhausted
      else match engData s i.op.src (ba ++ as) [] with
      | some e => lateFail (spoilSlot s n) e
      | none =>
        let s1 := drainAcc s (ba ++ as) .read
        let none_ := (List.range (rr - nr)).map (fun k => (256 * (nr + k), List.replicate (min 256 ((cc * bits + 7) / 8)) 0))
        fillOr s1 i n (.sparse (BitVec.ofNat 64 l.bud) (BitVec.ofNat 64 l.mdat) l.cols r0 c0)
          (rows.zipIdx.map (fun x => (256 * x.2, packCodes bits (codesOf s1 l f x.1))) ++ none_) sc

/-- The natural length of a TL block whose counts are given as bytes. -/
def blockLen (w e : Nat) (bs : List (BitVec 8)) : Nat :=
  tlNatural w e (((List.range 64).map (fun k => bitsOf (bytesNat (bs.take 24)) (3 * k) 3)).foldl (· + ·) 0)

/-- Blocks back to back: offset of each, and the end. -/
def layBlocks : List (List (BitVec 8)) → Nat → List (Nat × List (BitVec 8)) × Nat
  | [], off => ([], off)
  | b :: r, off => let (l, e) := layBlocks r (off + b.length); ((off, b) :: l, e)

/-- A TL block with no term beyond its first n activations: their counts are 0 (R75, R296). -/
def trimBlock (w e n : Nat) (bs : List (BitVec 8)) : List (BitVec 8) :=
  let x := bytesNat bs
  let total := ((List.range n).map (fun k => bitsOf x (3 * k) 3)).foldl (· + ·) 0
  natBytes 24 (bitsOf x 0 (3 * n)) ++ natBytes (8 * e) (bitsOf x 192 (e * n)) ++
    natBytes (tlNatural w e total - 24 - 8 * e) (bitsOf x (192 + 64 * e) (w * total))

/-- A copy of TL blocks, with the checks in the order of R293: the counts of a block say where its terms end; those of a block whose counts cannot be read
are checked no further. -/
def cpldTl (s : State) (i : Item) (n : Nat) (cls : Bool) (l : Layout) (w : BitVec 64) (f : Store 32) (r0 c0 : Nat) : ItemRes :=
  let (rr, cc) := (ccRows w, ccCols w)
  let tw := (tlWidth l.fmt (l.reg f)).getD 4
  let e := tlExp l.fmt (l.reg f)
  let inT := fun (k : Nat) => r0 + k < l.rows && decide (c0 < l.cols)
  let head := (List.range rr).map (fun k => if inT k then runAcc (l.block (r0 + k) c0) 1 24 else [])
  let sc := (if l.scaled f then scaleAccs l cls r0 c0 rr cc else [])
  match firstRes [spadAlign s i w, (engAddr s i.op.src (head.flatten ++ sc.map (·.2)) []).map (failAcc s)] with
  | some x => x
  | none =>
    let heads := readRows s i.op.src head
    let keep := min 64 (min cc (l.cols - c0))
    let lens := heads.map (fun h => (h.map (blockLen tw e)).getD 0)
    let kept := heads.map (fun h => (h.map (fun b =>
      tlNatural tw e (((List.range keep).map (fun k => bitsOf (bytesNat b) (3 * k) 3)).foldl (· + ·) 0))).getD 0)
    let body := lens.zipIdx.map (fun x => if inT x.2 then runAcc (l.block (r0 + x.2) c0) 1 (min x.1 l.pitch) else [])
    match engAddr s i.op.src body.flatten [] with
    | some x => failAcc s x
    | none =>
      if 16384 < kept.foldl (· + ·) 0 then slotFail s i n .slotExhausted
      else match engData s i.op.src (head.flatten ++ body.flatten ++ sc.map (·.2)) [] with
      | some x => lateFail (spoilSlot s n) x
      | none =>
        let s1 := drainAcc s (head.flatten ++ body.flatten ++ sc.map (·.2)) .read
        let blocks := body.map (fun x => trimBlock tw e keep (x.map (fun a => BitVec.ofNat 8 (loadAcc s1 a))))
        fillOr s1 i n (.tl rr ((lens.zipIdx.filter (fun x => l.pitch < x.1)).map (·.2))) (layBlocks blocks 0).1 sc

/-- A damaged unit of the scratchpad lies partly in the region that a copy writes (R420). -/
def spadPart (s : State) (w : BitVec 64) (bits : Nat) : Bool :=
  let rows := (List.range (ccRows w)).map (fun k => ccSoff w + ccPitch w bits * k)
  let inside := fun (o : Nat) => rows.any (fun lo => lo ≤ o && o < lo + (ccCols w * bits + 7) / 8)
  s.damaged.any (fun c => match c with
    | .spad g cr u => g = s.gid && cr = s.crew.no && (let bs := (List.range 4).map (fun i => inside (4 * u + i)); bs.any id && !bs.all id)
    | _ => false)

def cpldSp (s : State) (i : Item) (l : Layout) (w : BitVec 64) (f : Store 32) (r0 c0 : Nat) : ItemRes :=
  let bits := l.bits f
  let rows := denseElems l bits r0 c0 (ccRows w) (ccCols w)
  let as := elemAccs rows
  let put := fun (s : State) (f : Nat → List (BitVec 8)) => (List.range (ccRows w)).foldl (fun s k =>
    (f k).zipIdx.foldl (fun s b => locPut s (.spad s.crew.no (ccSoff w + ccPitch w bits * k + b.2)) b.1) s) s
  let junk := keepBad s (put s.freshen (fun k => junkBytes s (1024 * k) ((ccCols w * bits + 7) / 8)))
  match firstRes [spadAlign s i w, (engAlign s i.op.src as false).map (failAcc s), spadExtent s i w bits,
      (engAddr s i.op.src as []).map (failAcc s)] with
  | some r => r
  | none =>
    match engData s i.op.src as [] with
    | some e => lateFail junk e
    | none =>
      let s1 := drainAcc s as .read
      if spadPart s w bits then failStore junk i 1
      else .ok (put s1 (fun k => packCodes bits (codesOf s1 l f (rows.getD k []))))

/-- A CPLD item: the copies and steps that issued before it on its slot go first (R82, R296). -/
def cpldWork (s : State) (r : ItemRef) (i : Item) : ItemRes :=
  match i.op with
  | .cpld sl h recd org w f =>
    let prior := (batOf s r.who).before i
    let held := match sl with
      | none => false
      | some n => prior.any (fun j => j.op.fills n || j.reads n)
    if held then .wait
    else
      let cls := sl.map (fun _ => hCls h)
      withBar (ccBar w) (copySize s i recd w f)
        (if sl.any (fun n => (slotOf s.crew n).lost) then failPlain s i .stale
         else match readLayout s i recd org w f cls (fun l => sl.isSome || l.kind ≤ 1) with
          | .inl e => e
          | .inr l =>
            match sl with
            | none => cpldSp s i l w f (orgRow org) (orgCol org)
            | some n =>
              if l.kind = 2 then cpldTl s i n (hCls h) l w f (orgRow org) (orgCol org)
              else if l.kind = 3 then
                cpldSparse s i n (hCls h) l w f (orgRow org) (orgCol org)
              else cpldDense s i n (hCls h) l w f (orgRow org) (orgCol org))
  | _ => .wait

def ItemOp.isCpld : ItemOp → Bool
  | .cpld .. => true
  | _ => false

/-- The wait of a copy that found its slot with pending readers is over: it was of a cycle at least, which MXWAR counts where no tick has counted
one of it (R87, R322). -/
def endInterlock (s : State) (i : Item) : State := if i.waited then bump s s.crew.core 4 1 else s

/-- The result of a copy, with the wait before it counted. -/
def countWait (i : Item) (r : ItemRes) : ItemRes :=
  match r with
  | .ok s => .ok (endInterlock s i)
  | .fail st x nm aux s => .fail st x nm aux (endInterlock s i)
  | r => r

def execCpldItemComplete (s : State) : Out := .next (itemEvent ItemOp.isCpld (fun s r i => countWait i (cpldWork s r i)) s)

/-! ## CPST (R75, R297) -/

/-- The terms of a code: sign and position within the significand, and the exponent field (R75). -/
def codeTerms (code c : Nat) (r : BitVec 32) : List (Bool × Nat) × Nat :=
  match opFmt code r with
  | .int sg w =>
    let d := decodeE c (.int sg w)
    ((naf d.sig).map (fun t => (t.1 != d.s, t.2)), 0)
  | .flt F =>
    let d := decodeFlt c F
    if F.hasExtra && c % 2 ^ F.width = 2 ^ (F.width - 1) then
      ([(true, if F.E = 0 then F.M else F.M + 1)], if F.E = 0 then 0 else 2 ^ F.E - 1)
    else if d.kind = .zero then ([], 0)
    else ((naf d.sig).map (fun t => (t.1 != d.s, t.2)), c / 2 ^ F.M % 2 ^ F.E)

/-- Fields of n bits packed, the first lowest. -/
def packFields (n : Nat) : List Nat → Nat
  | [] => 0
  | x :: r => x % 2 ^ n + 2 ^ n * packFields n r

/-- The TL block of up to 64 codes at its natural length (R75). The exponent field of an activation at k ≥ K, which has count 0, is 0: the manual states
no value (DESIGN CHOICE, log 79). -/
def tlBlock (code : Nat) (r : BitVec 32) (cs : List Nat) : List (BitVec 8) :=
  let w := (tlWidth code r).getD 4
  let e := tlExp code r
  let ts := cs.map (fun c => codeTerms code c r)
  let terms := ts.flatMap (fun t => t.1.map (fun x => (if x.1 then 1 else 0) + 2 * x.2))
  natBytes 24 (packFields 3 (ts.map (fun t => t.1.length))) ++ natBytes (8 * e) (packFields e (ts.map (·.2))) ++
    natBytes (tlNatural w e terms.length - 24 - 8 * e) (packFields w terms)

/-- A code that is an infinity or a NaN. -/
def codeSpecial (code c : Nat) (r : BitVec 32) : Bool :=
  let k := (decodeE c (opFmt code r)).kind
  k = .nan || k = .infinity

/-- The scratchpad region that a copy reads holds a damaged unit (R420). -/
def spadBad (s : State) (w : BitVec 64) (bits : Nat) : Bool :=
  s.damaged.any (fun c => match c with
    | .spad g cr u => g = s.gid && cr = s.crew.no && (List.range (ccRows w)).any (fun k =>
        let lo := ccSoff w + ccPitch w bits * k
        lo < 4 * u + 4 && 4 * u < lo + (ccCols w * bits + 7) / 8)
    | _ => false)

/-- The code of element (i, j) of the scratchpad region. -/
def spadCode (s : State) (w : BitVec 64) (bits i j : Nat) : Nat := codeAt s.crew.spad (ccSoff w + ccPitch w bits * i) bits j

/-- A code written at its locations; a 4-bit code keeps its neighbour. -/
def putCode (s : State) (bits : Nat) (x : List Loc × Nat × Nat) : State :=
  locsPut s x.1 (if bits = 4 then setBits (locsNat s x.1) (4 * x.2.1) 4 x.2.2 else x.2.2)

def cpstDense (s : State) (i : Item) (l : Layout) (w : BitVec 64) (f : Store 32) (r0 c0 : Nat) : ItemRes :=
  let bits := l.bits f
  let ws := (denseElems l bits r0 c0 (ccRows w) (ccCols w)).zipIdx.flatMap (fun x => x.1.zipIdx.filterMap (fun y =>
    y.1.map (fun e => (e.1, e.2, l.clean f (spadCode s w bits x.2 y.2)))))
  let as := ws.map (·.1)
  let rs := if bits = 4 then as else []
  match firstRes [spadAlign s i w, (engAlign s i.op.src as true).map (failAcc s), spadExtent s i w bits,
      (engAddr s i.op.src [] as).map (failAcc s)] with
  | some r => r
  | none =>
    let s1 := drainAcc s as .write
    match engData s i.op.src rs as with
    | some e => lateFail (spoilMem s as) e
    | none =>
      if spadBad s w bits then failStore (spoilMem s as) i 1
      else .ok (((storeOrder ws).map (fun x => (locsOr s1 x.1 .write, x.2))).foldl (fun s x => putCode s bits x) (as.foldl dirtyAcc s1))

def cpstTl (s : State) (i : Item) (l : Layout) (w : BitVec 64) (f : Store 32) (r0 c0 : Nat) : ItemRes :=
  let bits := l.bits f
  let rows := (List.range (ccRows w)).filter (fun k => r0 + k < l.rows && decide (c0 < l.cols))
  let codes := fun (k : Nat) => (List.range (min (ccCols w) (l.cols - c0))).map (fun j => spadCode s w bits k j)
  let as := rows.map (fun k => runAcc (l.block (r0 + k) c0) 1 l.pitch)
  match firstRes [spadAlign s i w, spadExtent s i w bits, (engAddr s i.op.src [] as.flatten).map (failAcc s)] with
  | some r => r
  | none =>
    let junk := spoilMem s as.flatten
    match engData s i.op.src [] as.flatten with
    | some e => lateFail junk e
    | none =>
      if spadBad s w bits then failStore junk i 1
      else if rows.any (fun k => (codes k).any (fun c => codeSpecial l.fmt c (l.reg f))) then failPlain junk i .termFormat
      else .ok (writeRun s ((as.zip rows).flatMap (fun x =>
        let b := (tlBlock l.fmt (l.reg f) (codes x.2)).map BitVec.toNat
        x.1.zip (b ++ List.replicate (l.pitch - b.length) 0))))

def cpstWork (s : State) (_ : ItemRef) (i : Item) : ItemRes :=
  match i.op with
  | .cpst recd org w f =>
    withBar (ccBar w) (copySize s i recd w f)
      (match readLayout s i recd org w f none (fun l => l.kind ≤ 2 && (ccTl w = (l.kind = 2))) with
        | .inl e => e
        | .inr l =>
          if l.kind = 2 then cpstTl s i l w f (orgRow org) (orgCol org) else cpstDense s i l w f (orgRow org) (orgCol org))
  | _ => .wait

def ItemOp.isCpst : ItemOp → Bool
  | .cpst .. => true
  | _ => false

def execCpstItemComplete (s : State) : Out := .next (itemEvent ItemOp.isCpst cpstWork s)

/-! ## CPSS (R298) -/

/-- The bytes of a row at a signed pitch. -/
def csRow (va : Nat) (pitch : Int) (len k : Nat) : List LaneAcc := runAcc (va + pitch * k) 4 (len / 4)

/-- The byte that CPSS writes for pair p of (destination, source): the source byte's original value or, where the source byte is a destination too, as a
free bit says, a value that the item writes to it. -/
def cpssByte (s : State) (pairs : List ((Loc × Loc) × Nat)) : Nat → (Loc × Loc) × Nat → BitVec 8
  | 0, p => locGet s p.1.2
  | f + 1, p =>
    let l := pairs.filter (fun q => q.1.1 = p.1.2)
    match l[(Config.freeBits 16 s.fresh (2 * p.2)).toNat % max 1 l.length]? with
    | none => locGet s p.1.2
    | some q => if Config.freeBits 1 s.fresh (2 * p.2 + 1) = 1 then cpssByte s pairs f q else locGet s p.1.2

def cpssWork (s : State) (_ : ItemRef) (i : Item) : ItemRes :=
  match i.op with
  | .cpss src dst pitch w =>
    let sp := signExt (bitsOf pitch.toNat 0 32) 32
    let dp := signExt (bitsOf pitch.toNat 32 32) 32
    let rs := (List.range (csRows w)).flatMap (csRow src.toNat sp (csLen w))
    let ws := (List.range (csRows w)).flatMap (csRow dst.toNat dp (csLen w))
    let bad := src.toNat % 4 ≠ 0 || dst.toNat % 4 ≠ 0 || sp % 4 ≠ 0 || dp % 4 ≠ 0
    withBar (csBar w) (csRows w * csLen w : Nat)
      (if bad then failPlain s i .align
       else match engAddr s 2 rs ws with
       | some e => failAcc s e
       | none =>
         match engData s 2 rs ws with
         | some e => lateFail (spoilMem s ws) e
         | none =>
           let s1 := drainAcc (drainAcc s rs .read) ws .write
           let pairs := ((storeOrder (ws.zip rs)).flatMap (fun x => (locsOr s1 x.1 .write).zip (locsOr s1 x.2 .read))).zipIdx
           .ok (pairs.foldl (fun s p => locPut s p.1.1 (cpssByte s1 pairs pairs.length p)) (ws.foldl dirtyAcc s1)).freshen)
  | _ => .wait

def ItemOp.isCpss : ItemOp → Bool
  | .cpss .. => true
  | _ => false

def execCpssItemComplete (s : State) : Out := .next (itemEvent ItemOp.isCpss cpssWork s)

/-! ## ACST and ACLD (R86, R131, R287, R288) -/

/-- The accesses of a tile transfer, in ascending (i, j). -/
def acAccs (va w : BitVec 64) : List LaneAcc := (List.range (acRows w)).flatMap (fun (i : Nat) => runAcc (va.toNat + acPitch w * i) 4 (acCols w))
def tileKeys (w : BitVec 64) : List Nat := (List.range (acRows w)).flatMap (fun i => (List.range (acCols w)).map (fun j => 256 * i + j))

/-- One element of an add-on-store: withheld in the local slice of a bounded line of its type, applied at home when that
slice is the home, else an ordinary update (R130, R131). -/
def addOnStore (s : State) (fp : Bool) (x : LaneAcc × List Loc) (v : BitVec 32) : State :=
  let upd := fun (s : State) =>
    let s1 := drainFor s x.2
    locsPut (dirtyAcc s1 x.1) x.2 (boundAdd fp (BitVec.ofNat 32 (locsNat s1 x.2)) v).toNat
  match locsBound s x.2 with
  | none => upd s
  | some (i, b, key, kid) =>
    if b.fp ≠ fp then upd s
    else
      let s1 := dirtyAcc s x.1
      let home := homeSlice s key
      let loc := 48 * (s.crew.core / 96) + home % 48
      if loc = home then addHome fp kid (lineKey key) [(key % 128 / 4, v)] s1
      else contribute s1 s.gang.ctx i b kid (lineKey key) (192 + loc) [(key % 128 / 4, v)]

/-- An earlier ACST of the issuer whose work is not done stores to a word of these: the two take effect in order (R325). -/
def acstBehind (s : State) (r : ItemRef) (i : Item) (ws : List LaneAcc) : Bool :=
  ((batOf s r.who).before i).any (fun j => match j.op with
    | .acst addr w _ _ _ => (acAccs addr w).any (fun a => ws.any (fun b => a.va = b.va))
    | _ => false)

def acstWork (s : State) (r : ItemRef) (i : Item) : ItemRes :=
  match i.op with
  | .acst addr w tile poison bad =>
    let ws := acAccs addr w
    let vs := (tileKeys w).map (fun k => tile.get k)
    if acstBehind s r i ws then .wait
    else withBar (acBar w) (4 * acRows w * acCols w : Nat)
      (if poison then failPlain s i .residue
       else match engAddr s 4 [] ws with
       | some e => failAcc s e
       | none =>
         match engData s 4 (if acAos w then ws else []) ws with
         | some e => lateFail (spoilMem s ws) e
         | none =>
           if bad then failStore (spoilMem s ws) i 3
           else if acAos w then .ok (((storeOrder (ws.zip vs)).map (fun x => ((x.1, locsOr s x.1 .write), x.2))).foldl (fun s x => addOnStore s (acFt w) x.1 x.2) s)
           else .ok (writeRun s (ws.zip (vs.map BitVec.toNat))))
  | _ => .wait

def ItemOp.isAcst : ItemOp → Bool
  | .acst .. => true
  | _ => false

def execAcstItemComplete (s : State) : Out := .next (itemEvent ItemOp.isAcst acstWork s)

/-- Words of a region of a tile; a word written is whole again (R420). -/
def putTile (s0 : State) (acc : Nat) (l : List (Nat × BitVec 32)) : State :=
  let s := if s0.damaged = [] then s0
    else { s0 with damaged := s0.damaged.filter (fun c => !l.any (fun x => c = .tile s0.gid s0.crew.no acc x.1)) }
  setOwn s (fun c => let t := tileOf c acc; setTile c acc { t with acc := l.foldl (fun st x => st.put x.1 x.2) t.acc })

/-- The loaded region is undefined when the item fails (R288). -/
def spoilTile (s : State) (acc : Nat) (w : BitVec 64) : State :=
  keepBad s (putTile s.freshen acc ((tileKeys w).map (fun k => (k, Config.freeBits 32 s.fresh k))))

def acldWork (s : State) (_ : ItemRef) (i : Item) : ItemRes :=
  match i.op with
  | .acld acc addr w =>
    let rs := acAccs addr w
    withBar (acBar w) (4 * acRows w * acCols w : Nat)
      (match engFx s 4 rs [] with
       | some e => if e.cause = .page then .page e else lateFail (spoilTile s acc w) e
       | none =>
         let s1 := drainAcc s rs .read
         .ok (putTile s1 acc ((tileKeys w).zip (rs.map (fun a => BitVec.ofNat 32 (loadAcc s1 a))))))
  | _ => .wait

def ItemOp.isAcld : ItemOp → Bool
  | .acld .. => true
  | _ => false

def execAcldItemComplete (s : State) : Out := .next (itemEvent ItemOp.isAcld acldWork s)

/-! ## Shadow windows (R114, R300, R301, R361) -/

def ItemOp.window : ItemOp → Option Nat
  | .swbind w _ _ _ _ => some w
  | .swunb w => some w
  | _ => none

/-- Some of the n bytes at an address lie in window w. -/
def spanTouches (w a n : Nat) : Bool := decide (a < globalTop + 2 ^ 36 * (w + 1)) && decide (globalTop + 2 ^ 36 * w < a + n)

/-- The bytes of a collective's entry list, as its descriptor names them (R309): address and length. -/
def entrySpan (s : State) (p0 : Nat) : Nat × Nat :=
  let da := runAcc p0 8 2
  let d := da.map (loadAcc s)
  if engFx s 5 da [] = none then (d.getD 1 0, 8 * bitsOf (d.getD 0 0) 32 16) else (0, 0)

/-- The item, of the loaded crew, may still access memory through the window: a SWBIND by its index vector, a collective by its descriptor, its entry
list or a span that holds its data, every other by what it accesses (log 16). -/
def ItemOp.mayTouch (s : State) (w : Nat) : ItemOp → Bool
  | .swbind _ _ _ ixa n => spanTouches w ixa.toNat (4 * n)
  | .swunb _ => false
  | .ecmd _ _ 4 _ _ p0 p1 p2 p3 =>
    let len := 64 * bitsOf p3.toNat 0 32
    let es := entrySpan s p0.toNat
    [(p0.toNat, 64), (p1.toNat, len), (p2.toNat, len), es].any (fun x => spanTouches w x.1 x.2)
  | _ => true

/-- The crews of the loaded context, each as the loaded one. -/
def ctxCrews (s : State) : List State :=
  s :: s.gang.crews.map (fun c => { s with crew := c.2 }) ++
    (s.gangs.filter (fun g => g.2.ctx = s.gang.ctx)).flatMap (fun g => g.2.crews.map (fun c => { s with gid := g.1, gang := g.2, crew := c.2 }))

/-- A memory instruction of the loaded crew that issued before the stamp has not performed: it waits for a page, or for its turn after the
answer. Whichever addresses it accesses, it may access the window (log 16). -/
def accessBefore (s : State) (stamp : Nat) : Bool :=
  s.crew.groups.any (fun g => g.2.splits.any (fun x => (x.hold = .wait || x.hold.isPage) &&
    x.cap.any (fun c => memOpcode (opcodeOf c.word) && decide (c.stamp ≤ stamp))))

/-- A status vector whose batch was sealed before the stamp has still bytes to store through window w. -/
def vecBefore (s : State) (stamp w : Nat) : Bool :=
  (whosOf s).any (fun x => (batOf s x).sealed.any (fun b => b.err = none && decide (b.stamp ≤ stamp) &&
    b.vec.any (fun a => spanTouches w a.toNat b.items.length)))

/-- Every item, status vector and memory instruction of the context that issued before the item and may access through the window has ended; the
window's items of the issuer take effect in their issue order (R114, R300). -/
def windowIdle (s : State) (r : ItemRef) (i : Item) (w : Nat) : Bool :=
  !(ctxCrews s).any (fun x => accessBefore x i.stamp || vecBefore x i.stamp w ||
    (crewOpen x.crew).any (fun j => decide (j.stamp < i.stamp) && j.op.mayTouch { x with accStamp := some j.stamp } w)) &&
    !((batOf s r.who).before i).any (fun j => j.op.window = some w)

/-- The lowest run of n pool units that fits (R361). -/
def poolRun (runs : List (Nat × Nat)) (units n : Nat) : Option Nat :=
  (List.range (units + 1)).find? (fun a => a + n ≤ units && runs.all (fun x => a + n ≤ x.1 || x.1 + x.2 ≤ a))

def bindUnits (n : Nat) : Nat := (4 * n + 4095) / 4096

/-- The window's binding replaced, and one SWBIND of it no longer outstanding. -/
def setWindow (s : State) (w stamp : Nat) (b : Option Binding) : State :=
  match aget s.ctxs s.gang.ctx with
  | none => s
  | some c =>
    let ws := match b with
      | none => adel w c.windows
      | some b => aput w b c.windows
    let c' : Ctx := { c with windows := ws, closing := c.closing.filter (fun x => x ≠ (w, stamp)) }
    { s with ctxs := aput s.gang.ctx c' s.ctxs }

/-- The index vector written into the run of the context's pool (R361). -/
def fillPool (s : State) (run : Nat) (idx : List (BitVec 32)) : State :=
  match aget s.ctxs s.gang.ctx with
  | none => s
  | some c => devPutBytes s (physKey 0 (c.pool + 4096 * run)) (idx.flatMap (fun x => natBytes 4 x.toNat))

/-- The item's own accesses through its window raise PROT too (R300). -/
def swbindWork (s0 : State) (r : ItemRef) (i : Item) : ItemRes :=
  match i.op with
  | .swbind w z base ixaddr n =>
    let s := { s0 with accStamp := some (i.stamp + 1) }
    let as := runAcc ixaddr.toNat 4 n
    if !windowIdle s r i w then .wait
    else match engFx s 6 as [] with
    | some e => if e.cause = .page then .page e else lateFail (setWindow s w i.stamp none) e
    | none =>
      let s1 := drainAcc s as .read
      let idx := as.map (fun x => BitVec.ofNat 32 (loadAcc s1 x))
      let c := (aget s1.ctxs s1.gang.ctx)
      let runs := (c.map (fun c => (c.windows.filter (fun x => x.1 ≠ w)).map (fun x => (x.2.run, bindUnits x.2.idx.length)))).getD []
      match poolRun runs ((c.map (fun c => c.poolUnits)).getD 0) (bindUnits n) with
      | none => failPlain (setWindow s1 w i.stamp none) i .slotExhausted
      | some a =>
        let k := physKey 0 ((c.map (fun c => c.pool)).getD 0 + 4096 * a)
        if badPart s1 k (4 * n) then
          .fail .eccUncorr ⟨.eccUncorr, 6, 0xFF, k + 4, true, 0⟩ false 0 (setWindow s1 w i.stamp none)
        else .ok (setWindow (fillPool s1 a idx) w i.stamp (some ⟨base, z, a, idx⟩))
  | _ => .wait

def ItemOp.isSwbind : ItemOp → Bool
  | .swbind .. => true
  | _ => false

def execSwbindItemComplete (s : State) : Out := .next (itemEvent ItemOp.isSwbind swbindWork s)

def swunbWork (s : State) (r : ItemRef) (i : Item) : ItemRes :=
  match i.op with
  | .swunb w => if windowIdle s r i w then .ok (setWindow s w i.stamp none) else .wait
  | _ => .wait

def ItemOp.isSwunb : ItemOp → Bool
  | .swunb .. => true
  | _ => false

def execSwunbItemComplete (s : State) : Out := .next (itemEvent ItemOp.isSwunb swunbWork s)

end Sys2Proof.Machine
end

