-- ==== Sys2Proof/Machine/EngineLease.lean ====
section
/-! DEFINITION. The halter unit (R137–R145): grants, evictions, wakes, idle timers and releases of leasable engines. -/
namespace Sys2Proof.Machine

/-! ## Engines of a cluster -/

def engOf (c : Cluster) (n : Nat) : Engine := (aget c.engines n).getD .zero

/-- Internal state at a grant (R137). -/
def freshXf : Store 32 := (List.range 64).foldl (fun st k => st.put (2 * k) 0xFF800000) (.empty 32)

/-- The items of a lease's commands that have not ended. -/
def leaseItems (s : State) (w : Who) (req : Nat) : List (Nat × Item) :=
  match (aget s.gangs w.gang).bind (fun g => aget g.crews w.crew) with
  | none => []
  | some c =>
    let b := if w.stream then c.strm.bat else ((aget c.groups w.grp).map (fun g => g.bat)).getD .start
    b.refs.filter (fun x => x.2.status = none && x.2.drained = none && match x.2.op with
      | .ecmd _ l _ _ _ _ _ _ _ => l = req
      | _ => false)

/-- The token of a lease that is granted (R302). -/
def leaseToken (eng kind cl : Nat) (evicted : Bool) (serial : BitVec 32) : BitVec 64 :=
  BitVec.ofNat 64 (eng + kind * 2 ^ 5 + cl * 2 ^ 8 + (if evicted then 2 ^ 13 else 0) + serial.toNat * 2 ^ 32)

/-- The token of a lease changed, wherever its issuer is resident. -/
def updLeaseTok (s : State) (w : Who) (n req : Nat) (f : Tok → Tok) : State :=
  onCrew s w.gang w.crew (fun s1 => updTok s1 w n (fun t => if t.lease.any (fun l => l.1 = req) then f t else t))

/-- Items of an issuer of the loaded crew end with a status: EVICTED ones at once, others once their records find room. -/
def endItems (s : State) (w : Who) (items : List (Nat × Item)) (st : Status) : State :=
  items.foldl (fun s x =>
    if st = .evicted then endItem s ⟨w, x.1, x.2.ix⟩ x.2 st ⟨st.cause, x.2.op.src, 0xFF, 0, false, 0⟩ false 0
    else doomItem s ⟨w, x.1, x.2.ix⟩ x.2 st) s

/-- The lease of an engine is taken back (R142, R145): what it had not completed ends with the status, its token reads
EVICTED, and the engine goes dark. -/
def evictLease (s : State) (cl n : Nat) (st : Status) : State :=
  let e := engOf (clusterOf s cl) n
  match e.lease with
  | none => s
  | some (req, _, _, w, tok) =>
    let items := leaseItems s w req
    let s1 := onCrew s w.gang w.crew (fun s1 => endItems s1 w items st)
    let s2 := updLeaseTok s1 w tok req (fun t => { t with pending := false, val := t.val ||| 0x2000 })
    updEngine s2 cl n (fun _ => { Engine.zero with since := s.clock.toNat })

/-! ## Grants (R138, R141) -/

/-- A free engine of the kind in a power state, the lowest numbered. -/
def freeEngine (c : Cluster) (kind : Nat) (p : Power) : Option Nat :=
  ((List.range 4).map (fun i => 4 * kind + i)).find? (fun n => (engOf c n).lease = none && (engOf c n).power = p)

def poweredCount (c : Cluster) : Nat := ((List.range 24).filter (fun n => (engOf c n).power ≠ .dark)).length

/-- The unleased engine darkened for another: dim before lit, the lowest number first. -/
def spareEngine (c : Cluster) : Option Nat :=
  match (List.range 24).find? (fun n => (engOf c n).lease = none && (engOf c n).power = .dim) with
  | some n => some n
  | none => (List.range 24).find? (fun n => (engOf c n).lease = none && (engOf c n).power = .lit)

/-- Slate cycles a lease is held before it can be evicted: 10 µs. -/
def holdCycles : Nat := 16000

/-- Victim of R141 among engines ns, for a request of priority p: lowest priority, longest held, lowest number. -/
def victim (s : State) (c : Cluster) (ns : List Nat) (p : Nat) : Option Nat :=
  (ns.foldl (fun (best : Option (Nat × Nat × Nat)) n => match (engOf c n).lease with
    | none => best
    | some (_, pr, t, _, _) =>
      if pr < p ∧ t + holdCycles ≤ s.clock.toNat then
        match best with
        | none => some (pr, t, n)
        | some b => if pr < b.1 ∨ (pr = b.1 ∧ t < b.2.1) then some (pr, t, n) else some b
      else best) none).map (·.2.2)

/-- A request leaves its queue. -/
def dropReq (s : State) (cl : Nat) (r : LeaseReq) : State :=
  let c := clusterOf s cl
  setCluster s cl { c with queues := c.queues.map (fun q => (q.1, q.2.filter (fun x => x.req ≠ r.req))) }

/-- The grant of engine n: its state is reset, and it wakes unless it is lit. The token holds its value once the engine
is lit. -/
def grant (s : State) (cl : Nat) (r : LeaseReq) (n : Nat) : State :=
  let s0 := dropReq s cl r
  let c := clusterOf s0 cl
  let lit := (engOf c n).power = .lit && !(engOf c n).waking
  let s1 := updEngine s0 cl n (fun _ => ⟨.lit, !lit, some (r.req, r.prio, s.clock.toNat, r.who, r.tok), false, s.clock.toNat, freshXf, 1⟩)
  let s2 := setCluster s1 cl { clusterOf s1 cl with serial := c.serial + 1 }
  updLeaseTok s2 r.who r.tok r.req (fun t => { t with pending := !lit, val := leaseToken n r.kind cl false c.serial })

def darken (s : State) (cl n : Nat) : State := updEngine s cl n (fun _ => { Engine.zero with since := s.clock.toNat })

/-- The head request of a kind is served, or goes on waiting (R141). -/
def serve (s : State) (cl : Nat) (r : LeaseReq) : State :=
  let c := clusterOf s cl
  match freeEngine c r.kind .lit with
  | some n => grant s cl r n
  | none =>
    match freeEngine c r.kind .dim with
    | some n => grant s cl r n
    | none =>
      match freeEngine c r.kind .dark with
      | some n =>
        if poweredCount c < 8 then grant s cl r n
        else match spareEngine c with
          | some m => grant (darken s cl m) cl r n
          | none =>
            match victim s c (List.range 24) r.prio with
            | some m => grant (evictLease s cl m .evicted) cl r n
            | none => s
      | none =>
        match victim s c ((List.range 4).map (fun i => 4 * r.kind + i)) r.prio with
        | some m =>
          let was := engOf c m
          let s1 := evictLease s cl m .evicted
          grant (updEngine s1 cl m (fun e => { e with power := was.power, waking := was.waking })) cl r m
        | none => s

/-- The request at the head of a kind's queue: highest priority, then earliest entry. -/
def headReq (q : List LeaseReq) : Option LeaseReq :=
  q.foldl (fun b r => match b with
    | none => some r
    | some x => if x.prio < r.prio then some r else some x) none

/-- The heads in the order of R141: descending priority, then the earlier slate cycle of entry, then ascending kind; those that entered before the
slate cycle `now`. -/
def headsOf (c : Cluster) (now : Nat) : List LeaseReq :=
  let before := fun (a b : LeaseReq) => b.prio < a.prio || (a.prio = b.prio && (a.ent < b.ent || (a.ent = b.ent && a.kind < b.kind)))
  let ins := fun (r : LeaseReq) (l : List LeaseReq) => l.takeWhile (fun x => before x r) ++ r :: l.dropWhile (fun x => before x r)
  ((List.range 6).filterMap (fun k => headReq (((aget c.queues k).getD []).filter (fun r => r.ent < now)))).foldr ins []

/-- The engine's lease has no command executing or queued. -/
def leaseIdle (s : State) (e : Engine) : Bool := e.lease.all (fun l => leaseItems s l.2.2.2.1 l.1 = [])

def Engine.unlease (e : Engine) (now : Nat) : Engine :=
  { e with lease := none, lrel := false, since := now, xf := freshXf, sp := 1 }

/-- The lease is given back: state cleared, the engine unleased in its power state. -/
def freeLease (s : State) (cl n : Nat) : State :=
  updEngine s cl n (fun e => e.unlease s.clock.toNat)

/-- An LREL takes effect once every command issued on the lease has completed (R144). -/
def lrelEffect (s : State) (cl n : Nat) : State :=
  let e := engOf (clusterOf s cl) n
  if e.lrel ∧ leaseIdle s e then freeLease s cl n else s

/-- Slate cycles in n µs. -/
def usCycles (n : Nat) : Nat := 1600 * n
def lingerOf (s : State) (cl : Nat) : Nat := bitsOf (s.reg (regHALTCFG cl)) 0 10
def dimIdleOf (s : State) (cl : Nat) : Nat := bitsOf (s.reg (regHALTCFG cl)) 10 10
def darkIdleOf (s : State) (cl : Nat) : Nat := bitsOf (s.reg (regHALTCFG cl)) 20 10

/-- A leased lit engine dims, its state kept. -/
def dimIdle (s : State) (cl n : Nat) : State :=
  let e := engOf (clusterOf s cl) n
  if e.power = .lit ∧ !e.waking ∧ e.lease.isSome ∧ leaseIdle s e ∧ dimIdleOf s cl ≠ 0 ∧
      e.since + usCycles (dimIdleOf s cl) ≤ s.clock.toNat then updEngine s cl n (fun e => { e with power := .dim })
  else s

/-- An unleased lit engine dims, and its time as a dim one counts from the end of LINGER. -/
def lingerExpire (s : State) (cl n : Nat) : State :=
  let e := engOf (clusterOf s cl) n
  if e.power = .lit ∧ e.lease = none ∧ e.since + usCycles (lingerOf s cl) ≤ s.clock.toNat then
    updEngine s cl n (fun e => { e with power := .dim, waking := false, since := e.since + usCycles (lingerOf s cl) })
  else s

/-- An unleased dim engine goes dark. -/
def darkIdle (s : State) (cl n : Nat) : State :=
  let e := engOf (clusterOf s cl) n
  if e.power = .dim ∧ e.lease = none ∧ e.since + usCycles (100 * darkIdleOf s cl) ≤ s.clock.toNat then darken s cl n else s

/-- What a slate cycle changes of an engine before the decisions: a release that is due, and then the idle timers that have run out (R138, R141). -/
def settleEngine (s : State) (cl n : Nat) : State := darkIdle (lingerExpire (dimIdle (lrelEffect s cl n) cl n) cl n) cl n

/-- The decisions of the halter unit at the end of a slate cycle, once in a cycle: every release that is due comes first and so wins against an
eviction, with every idle timer that has run out, and then each head is served in its order (R141, R142). -/
def haltRound (s : State) (cl : Nat) : State :=
  let now := s.clock.toNat
  if now ≤ (clusterOf s cl).roundAt then s
  else
    let s1 := (List.range 24).foldl (fun s n => settleEngine s cl n) (setCluster s cl { clusterOf s cl with roundAt := now })
    (headsOf (clusterOf s1 cl) now).foldl (fun s r => serve s cl r) s1

/-- LEASE_GRANT of cluster `ev.n`: the decisions for the slate cycle that has just ended. A dark die's halter unit serves nothing (R389, log 16). -/
def execLeaseGrant (s : State) : Out := .next (if s.ev.n < 24 ∧ !s.dark.contains (s.ev.n / 12) then haltRound s s.ev.n else s)

/-- A hold time reaches 10 µs: the waiting heads are tried again. -/
def execLeaseHoldExpire (s : State) : Out :=
  let c := clusterOf s s.ev.n
  let ripe := (List.range 24).any (fun n => (engOf c n).lease.any (fun l => l.2.2.1 + holdCycles ≤ s.clock.toNat))
  .next (if ripe then haltRound s s.ev.n else s)

/-! ## Wakes, idle timers, releases (R138, R139, R144); engine `ev.m` of cluster `ev.n` -/

/-- The engine's wake ends; a grant that waited for it writes its token. -/
def engineLit (s : State) (cl n : Nat) : State :=
  let e := engOf (clusterOf s cl) n
  if !e.waking then s
  else
    let s1 := updEngine s cl n (fun e => { e with power := .lit, waking := false, since := s.clock.toNat })
    match e.lease with
    | none => s1
    | some (req, _, _, w, tok) => updLeaseTok s1 w tok req (fun t => { t with pending := false })

def execEngineLit (s : State) : Out := .next (engineLit s s.ev.n s.ev.m)

def execEngineDimIdle (s : State) : Out := .next (dimIdle s s.ev.n s.ev.m)

def execEngineLingerExpire (s : State) : Out := .next (lingerExpire s s.ev.n s.ev.m)

def execEngineDarkIdle (s : State) : Out := .next (darkIdle s s.ev.n s.ev.m)

def execLrelTakeEffect (s : State) : Out := .next (lrelEffect s s.ev.n s.ev.m)

/-- A cluster without the leases and requests of a gang. -/
def Cluster.without (c : Cluster) (gid now : Nat) : Cluster :=
  let qs := c.queues.map (fun q => (q.1, q.2.filter (fun r => r.who.gang ≠ gid)))
  let es := c.engines.map (fun e => (e.1, if e.2.lease.any (fun l => l.2.2.2.1.gang = gid) then e.2.unlease now else e.2))
  { c with queues := qs, engines := es }

/-- Every lease and request of a gang's issuers: released as LREL would release them (R54, R144). -/
def releaseGang (s : State) (gid : Nat) : State :=
  { s with clusters := s.clusters.map (fun c => (c.1, c.2.without gid s.clock.toNat)),
           naks := s.naks.filter (fun n => match n.msg with
             | .lease _ _ r => r.who.gang ≠ gid
             | .sample _ w _ _ => w.gang ≠ gid
             | .ingress _ r => r.who.gang ≠ gid
             | _ => true) }

/-- Every lease and request of a gang taken back, as a save or an abort does (R145, R385): requests read ENG = 31. A release that is due wins
against the eviction (R142). -/
def evictGang (s : State) (gid : Nat) (st : Status) : State :=
  let reqs := s.clusters.flatMap (fun c => c.2.queues.flatMap (fun q => (q.2.filter (fun r => r.who.gang = gid)).map (fun r => (c.1, r)))) ++
    s.naks.filterMap (fun n => match n.msg with
      | .lease _ cl r => if r.who.gang = gid then some (cl, r) else none
      | _ => none)
  let s1 := reqs.foldl (fun s x => updLeaseTok s x.2.who x.2.tok x.2.req (fun t =>
    { t with pending := false, val := leaseToken 31 x.2.kind x.1 true 0 })) s
  let s2 := s1.clusters.foldl (fun s c => c.2.engines.foldl (fun s e =>
    if e.2.lease.any (fun l => l.2.2.2.1.gang = gid) then evictLease (lrelEffect s c.1 e.1) c.1 e.1 st else s) s) s1
  releaseGang s2 gid

end Sys2Proof.Machine
end

