-- ==== Sys2Proof/Machine/EngineCmd.lean ====
section
/-! DEFINITION. The work of the leasable engines (R146–R148, R304–R310): function, merge, decoder, sampler, collective and
index engine. -/
namespace Sys2Proof.Machine

/-! ## FP32 arithmetic, RNE without flush (R305) -/

def f32v (x : BitVec 32) : Val := (decodeFlt x.toNat fmtF32).val
def f32r (v : Val) : BitVec 32 := BitVec.ofNat 32 (convert false v .rne (.flt fmtF32))
def f32add (a b : BitVec 32) : BitVec 32 := f32r (sumVals [f32v a, f32v b] false)
def f32sub (a b : BitVec 32) : BitVec 32 := f32r (sumVals [f32v a, (f32v b).neg] false)
def f32mul (a b : BitVec 32) : BitVec 32 := f32r ((f32v a).mul (f32v b))
def f32div (a b : BitVec 32) : BitVec 32 := f32r ((f32v a).div (f32v b))

/-- e^x and ln x, the exact result rounded once, with the specials of R229 carried over to base e. -/
def expVal : Val → Val
  | .nan => .nan
  | .inf true => .zero false
  | .inf false => .inf false
  | .zero _ => .num ⟨1, 0⟩
  | .num d => .num (if Dy.lt ⟨512, 0⟩ d then ⟨1, 512⟩ else if Dy.lt d ⟨-512, 0⟩ then ⟨1, -512⟩ else expDy d)

def lnVal : Val → Val
  | .nan => .nan
  | .inf true => .nan
  | .inf false => .inf false
  | .zero _ => .inf true
  | .num d => if d.m < 0 then .nan else Val.ofDy (lnDy d)

def f32exp (x : BitVec 32) : BitVec 32 := f32r (expVal (f32v x))
def f32ln (x : BitVec 32) : BitVec 32 := f32r (lnVal (f32v x))

def negInf32 : BitVec 32 := 0xFF800000

/-- e^(a − b), +0 where the argument is −infinity − (−infinity) (R305). -/
def expDiff (a b : BitVec 32) : BitVec 32 := if a = negInf32 ∧ b = negInf32 then 0 else f32exp (f32sub a b)

/-! ## Reading and writing of items -/

/-- What a failing access leaves of a destination (R277). -/
def lostState (s : State) (e : Fx) (ws : List LaneAcc) : State := if e.cause = .prot ∨ e.cause = .align then s else spoilMem s ws

/-- A failing access: with PROT or ALIGN nothing is written, with any other cause but PAGE the destination is undefined (R277). -/
def lostDest (s : State) (e : Fx) (ws : List LaneAcc) : ItemRes :=
  if e.cause = .page then .page e else .fail e.cause.status e true 0 (lostState s e ws)

/-- Work that reads rs and writes ws: every address check first, then the values read, then the values f gives. -/
def rwWork (s : State) (rs ws : List LaneAcc) (f : List Nat → State → State × List Nat) : ItemRes :=
  match engAddr s 5 rs ws with
  | some e => failAcc s e
  | none =>
    match engData s 5 rs ws with
    | some e => lateFail (spoilMem s ws) e
    | none =>
      let r := readRun s rs
      let o := f r.2 r.1
      .ok (writeRun o.1 (ws.zip o.2))

/-- The engine of a lease. -/
def leaseEngine (s : State) (cl req : Nat) : Option (Nat × Engine) := engineOfReq (clusterOf s cl) req

/-- The item's command may run: the engine is lit, every earlier command on the lease has ended, and for a sampler every
earlier row of the command too (R143, R308). -/
def ecmdReady (s : State) (r : ItemRef) (i : Item) : Bool :=
  match i.op with
  | .ecmd cl req kind _ row _ _ _ _ =>
    (leaseEngine s cl req).any (fun e => e.2.power = .lit && !e.2.waking) &&
      !((batOf s r.who).refs.any (fun x => x.2.status = none && x.2.drained = none && decide (x.2.stamp < (if kind = 3 then i.stamp else i.stamp - row)) &&
        (match x.2.op with
          | .ecmd _ l _ _ _ _ _ _ _ => decide (l = req)
          | _ => false)))
  | _ => false

/-- Work on the engine of the lease, its idle time counted from now (R138). -/
def onEngine (s : State) (cl req : Nat) (f : Engine → Engine) : State :=
  match leaseEngine s cl req with
  | none => s
  | some (n, _) => updEngine s cl n (fun e => f { e with since := s.clock.toNat })

def ItemOp.isKind (k : Nat) : ItemOp → Bool
  | .ecmd _ _ k' _ _ _ _ _ _ => k' = k
  | _ => false

/-- The completion event of an engine item of kind k. -/
def ecmdEvent (k : Nat) (work : State → ItemOp → Engine → Item → ItemRes) (s : State) : State :=
  itemEvent (ItemOp.isKind k) (fun s r i =>
    if !ecmdReady s r i then .wait
    else match i.op with
    | .ecmd cl req _ _ _ _ _ _ _ => work (onEngine s cl req id) i.op ((leaseEngine s cl req).map (·.2) |>.getD .zero) i
    | _ => .wait) s

def w32 (l : List Nat) : List (BitVec 32) := l.map (BitVec.ofNat 32)
def n32 (l : List (BitVec 32)) : List Nat := l.map BitVec.toNat

/-! ## XF (R305) -/

/-- STAT of a row from (m, S). The sum starts at S × e^(m − m′) and takes the exponentials one at a time, j ascending (DESIGN CHOICE, log 96). -/
def statRow (m sm : BitVec 32) (xs : List (BitVec 32)) : BitVec 32 × BitVec 32 :=
  let m' := f32r (xs.foldl (fun a x => match a, f32v x with
    | .nan, _ => .nan
    | _, .nan => .nan
    | a, v => a.max v) (f32v m))
  let s0 := if m = negInf32 ∧ m' = negInf32 then 0 else f32mul sm (f32exp (f32sub m m'))
  (m', xs.foldl (fun a x => f32add a (expDiff x m')) s0)

def normRow (m sm : BitVec 32) (xs : List (BitVec 32)) : List (BitVec 32) := xs.map (fun x => f32div (f32exp (f32sub x m)) sm)

def setSlotXf (s : State) (cl req k : Nat) (m sm : BitVec 32) : State :=
  onEngine s cl req (fun e => { e with xf := (e.xf.put (2 * k) m).put (2 * k + 1) sm })

def xfWork (s : State) (op : ItemOp) (e : Engine) (_ : Item) : ItemRes :=
  match op with
  | .ecmd cl req _ sub row p0 p1 p2 p3 =>
    let pitch := bitsOf p2.toNat 32 32
    let k := bitsOf p3.toNat 0 6 + row
    let src := runAcc (p0.toNat + row * pitch) 4 (rowLen p2)
    let dst := runAcc (p1.toNat + row * pitch) 4 (rowLen p2)
    let m := e.xf.get (2 * k)
    let sm := e.xf.get (2 * k + 1)
    match sub with
    | 0 => rwWork s src dst (fun v s => (s, n32 ((w32 v).map f32exp)))
    | 1 => rwWork s src dst (fun v s => (s, n32 ((w32 v).map f32ln)))
    | 2 => rwWork s src [] (fun v s => let r := statRow m sm (w32 v); (setSlotXf s cl req k r.1 r.2, []))
    | 3 => rwWork s src dst (fun v s => (s, n32 (normRow m sm (w32 v))))
    | 4 => rwWork s src dst (fun v s =>
        let r := statRow m sm (w32 v)
        (setSlotXf s cl req k r.1 r.2, n32 (normRow r.1 r.2 (w32 v))))
    | 5 =>
      rwWork s [] (runAcc p1.toNat 4 (2 * rowCount p2)) (fun _ s =>
        (s, (List.range (2 * rowCount p2)).map (fun j => (e.xf.get (2 * bitsOf p3.toNat 0 6 + j)).toNat)))
    | _ =>
      rwWork s (runAcc p0.toNat 4 (2 * rowCount p2)) [] (fun v s =>
        (onEngine s cl req (fun e => { e with
          xf := (w32 v).zipIdx.foldl (fun st x => st.put (2 * bitsOf p3.toNat 0 6 + x.2) x.1) e.xf }), []))
  | _ => .wait

def execXfItemComplete (s : State) : Out := .next (ecmdEvent 0 xfWork s)

/-! ## MG (R146, R306) -/

/-- The order of two keys of a type; none where a key is NaN. F32 keys have −0 below +0. -/
def keyCmp (kt a b : Nat) : Option Ordering :=
  match kt with
  | 0 => ordInt a b
  | 1 => ordInt (signExt a 32) (signExt b 32)
  | 2 =>
    let x := f32v (BitVec.ofNat 32 a)
    let y := f32v (BitVec.ofNat 32 b)
    if x = .nan ∨ y = .nan then none else if x.below y then some .lt else if y.below x then some .gt else some .eq
  | _ => ordInt a b

/-- a comes before b in the direction of the merge. -/
def keyBefore (kt : Nat) (desc : Bool) (a b : Nat) : Bool := keyCmp kt a b = some (if desc then .gt else .lt)

/-- A stream in a merge: number, index of its head, what is left of it (key, value). -/
structure MgStream where
  no : Nat
  ix : Nat
  left : List (Nat × Nat)

/-- The head of the stream breaks its order after the key `prev`. -/
def headBreaks (kt : Nat) (desc : Bool) (prev : Option Nat) (x : MgStream) : Bool :=
  match x.left with
  | [] => false
  | (k, _) :: _ => keyCmp kt k k = none || (match prev with
    | none => false
    | some p => !keyBefore kt desc p k)

/-- The stream with the first head; ties go to the lower stream. -/
def firstHead (kt : Nat) (desc : Bool) (xs : List MgStream) : Option Nat :=
  (xs.foldl (fun (b : Option (Nat × Nat)) x => match x.left, b with
    | [], _ => b
    | (k, _) :: _, none => some (k, x.no)
    | (k, _) :: _, some y => if keyBefore kt desc k y.1 then some (k, x.no) else some y) none).map (·.2)

/-- The merge: where several streams break the order at once the manual does not say which one the record names; it is the lowest-numbered
(DESIGN CHOICE, log 80). Outputs so far reversed; the answer is the outputs and, where the order broke, stream and element. -/
def mergeLoop (kt : Nat) (desc comb vf : Bool) (limit : Nat) : Nat → List MgStream → List (Nat × Nat) →
    List (Nat × Nat) × Option (Nat × Nat)
  | 0, _, out => (out.reverse, none)
  | f + 1, xs, out =>
    if limit ≤ out.length then (out.reverse, none)
    else match firstHead kt desc xs with
    | none => (out.reverse, none)
    | some n =>
      match (xs.find? (fun x => x.no = n)).bind (fun x => x.left.head?) with
      | none => (out.reverse, none)
      | some (k, v) =>
        let takes := fun (x : MgStream) => x.no = n || (comb && x.left.head?.any (fun h => keyCmp kt h.1 k = some .eq))
        let vs := (xs.filter (fun x => takes x && x.no ≠ n)).filterMap (fun x => x.left.head?.map (·.2))
        let sum := vs.foldl (fun a b => if vf then (f32add (BitVec.ofNat 32 a) (BitVec.ofNat 32 b)).toNat else (a + b) % 2 ^ 32) v
        let xs' := xs.map (fun x => if takes x then { x with ix := x.ix + 1, left := x.left.drop 1 } else x)
        let out' := (k, sum) :: out
        match (xs'.filter (fun x => (xs.find? (fun y => y.no = x.no)).any takes)).find? (headBreaks kt desc (some k)) with
        | some b => if limit ≤ out'.length then (out'.reverse, none) else (out'.reverse, some (b.no, b.ix))
        | none => mergeLoop kt desc comb vf limit f xs' out'

/-- The merge of MG. An address at which it accesses nothing, of an output or a stream without an element, is not checked (DESIGN CHOICE, log 105). -/
def mgWork (s : State) (op : ItemOp) (_ : Engine) (i : Item) : ItemRes :=
  match op with
  | .ecmd _ _ _ sub _ p0 p1 p2 p3 =>
    let ns := bitsOf p3.toNat 0 4
    let kt := bitsOf p3.toNat 4 2
    let kw := if kt = 3 then 8 else 4
    let vals := p3.getLsbD 8
    let da := runAcc p0.toNat 8 (4 * ns)
    match engFx s 5 da [] with
    | some e => lostDest s e (runAcc (p0.toNat + 32 * ns) 8 1)
    | none =>
      let d := (readRun s da).2
      let f := fun (j k : Nat) => d.getD (4 * j + k) 0
      let total := ((List.range ns).map (fun j => f j 2)).foldl (· + ·) 0
      let all := runAcc p1.toNat kw total ++ (if vals then runAcc p2.toNat 4 total else []) ++ runAcc (p0.toNat + 32 * ns) 8 1
      if (List.range ns).any (fun j => f j 3 ≠ 0) then failPlain (spoilMem s all) i .badDesc
      else
        let ka := (List.range ns).map (fun j => runAcc (f j 0) kw (f j 2))
        let va := (List.range ns).map (fun j => if vals then runAcc (f j 1) 4 (f j 2) else [])
        match engFx s 5 (ka ++ va).flatten [] with
        | some e => lostDest s e all
        | none =>
          let s1 := drainAcc s (ka ++ va).flatten .read
          let xs := (ka.zip va).zipIdx.map (fun x =>
            (⟨x.2, 0, x.1.1.zipIdx.map (fun a => (loadAcc s1 a.1, ((x.1.2[a.2]?).map (loadAcc s1)).getD 0))⟩ : MgStream))
          let limit := if sub = 1 then bitsOf p3.toNat 32 32 else total
          let r := match xs.find? (headBreaks kt (p3.getLsbD 6) none) with
            | some b => ([], some (b.no, b.ix))
            | none => mergeLoop kt (p3.getLsbD 6) (p3.getLsbD 7) (p3.getLsbD 9) limit (total + 1) xs []
          let ws := runAcc p1.toNat kw r.1.length ++ (if vals then runAcc p2.toNat 4 r.1.length else []) ++
            runAcc (p0.toNat + 32 * ns) 8 1
          match engFx s1 5 [] ws with
          | some e => lostDest s e ws
          | none =>
            let s2 := writeRun s1 (ws.zip (r.1.map (·.1) ++ (if vals then r.1.map (·.2) else []) ++ [r.1.length]))
            match r.2 with
            | none => .ok s2
            | some (st, el) => .fail .mergeOrder ⟨.mergeOrder, 5, 0xFF, 0, false, el⟩ false st s2
  | _ => .wait

def execMgItemComplete (s : State) : Out := .next (ecmdEvent 1 mgWork s)

/-! ## DC (R147, R307) -/

/-- The symbol of v, with its cum and frequency. -/
def findSym (v : Nat) : List Nat → Nat → Nat → Option (Nat × Nat × Nat)
  | [], _, _ => none
  | f :: r, sy, cum => if cum ≤ v ∧ v < cum + f then some (sy, cum, f) else findSym v r (sy + 1) (cum + f)

/-- Renormalisation: code bytes taken while rng < 2^24; none past the end of the source. -/
def dcNorm : Nat → Nat → Nat → List Nat → Option (Nat × Nat × List Nat)
  | 0, code, rng, bs => some (code, rng, bs)
  | f + 1, code, rng, bs =>
    if rng < 2 ^ 24 then
      match bs with
      | [] => none
      | b :: r => dcNorm f ((code * 256 + b) % 2 ^ 32) (rng * 256) r
    else some (code, rng, bs)

/-- n symbols of a chunk, or none where it is corrupt. -/
def dcLoop (fs : List Nat) : Nat → Nat → Nat → List Nat → Option (List Nat)
  | 0, _, _, _ => some []
  | n + 1, code, rng, bs =>
    let q := rng / 4096
    let v := code / q
    if 4096 ≤ v then none
    else match findSym v fs 0 0 with
    | none => none
    | some (sy, cum, f) =>
      match dcNorm 4 (code - q * cum) (q * f) bs with
      | none => none
      | some (c, r, bs') => (dcLoop fs n c r bs').map (fun l => sy :: l)

/-- A chunk's output bytes, or none where it is corrupt. -/
def decodeChunk (bs : List Nat) (dlen : Nat) : Option (List Nat) :=
  if bs.length < 392 then none
  else
    let nat := fun (off n : Nat) => bytesNat (((bs.drop off).take n).map (BitVec.ofNat 8))
    let n := nat 0 4
    let fb := nat 4 384
    let fs := (List.range 256).map (fun s => bitsOf fb (12 * s) 12)
    if fs.foldl (· + ·) 0 ≠ 4096 ∨ dlen < n then none
    else
      let code := ((bs.drop 388).take 4).foldl (fun a b => a * 256 + b) 0
      dcLoop fs n code (2 ^ 32 - 1) (bs.drop 392)

/-- The other chunks of the item's command: all ended; the bitmap of those that failed, this one's failure given. -/
def chunkMap (s : State) (i : Item) (failed : Bool) : Option Nat :=
  match i.op with
  | .ecmd _ req _ _ row _ _ p2 _ =>
    let own := fun (j : Item) => i.stamp - row ≤ j.stamp && j.stamp < i.stamp - row + p2.toNat
    let all := ((crewOpen s.crew).filter (fun j => own j && j.drained = none))
    let done := (((s.crew.strm.bat.refs ++ s.crew.groups.flatMap (fun g => g.2.bat.refs)).map (·.2)).filter own)
    if all.any (fun j => j.stamp ≠ i.stamp) then none
    else some (done.foldl (fun m j => match j.op with
      | .ecmd _ l _ _ r _ _ _ _ =>
        if l = req ∧ (if j.stamp = i.stamp then failed = true else j.status.or j.drained ≠ some .ok) then m + 2 ^ r else m
      | _ => m) 0)
  | _ => none

/-- A chunk ends: `work` writes or spoils its destination, `fail` says how it fails. The item that ends last in its command writes the bitmap, whose address
is checked before the chunk is written (R277): where that store fails, a chunk that decoded ends with the store's failure, and one that fails keeps its
own (DESIGN CHOICE, log 80). -/
def endChunk (s : State) (i : Item) (p1 : BitVec 64) (dst : List LaneAcc) (work : State → State) (fail : Option (Fx × Bool)) : ItemRes :=
  let close := fun (s : State) => match fail with
    | none => ItemRes.ok s
    | some (f, nm) => .fail f.cause.status f nm 0 s
  match chunkMap s i fail.isSome with
  | none => close (work s)
  | some m =>
    let ws := runAcc p1.toNat 8 1
    match engFx s 5 [] ws with
    | some e => if e.cause = .page then .page e else if fail.isNone then lostDest s e dst else close (work s)
    | none => close (writeRun (work s) (ws.zip [m]))

/-- One chunk. Bytes 24–31 of its table entry are read with it and ignored (R7): R307 states no outcome for them. -/
def dcWork (s : State) (op : ItemOp) (_ : Engine) (i : Item) : ItemRes :=
  match op with
  | .ecmd _ _ _ _ row p0 p1 _ _ =>
    let da := runAcc (p0.toNat + 32 * row) 8 4
    let lost := fun (e : Fx) (ws : List LaneAcc) =>
      if e.cause = .page then .page e else endChunk s i p1 ws (fun s => lostState s e ws) (some (e, true))
    match engFx s 5 da [] with
    | some e => lost e []
    | none =>
      let d := (readRun s da).2
      let slen := bitsOf (d.getD 1 0) 0 32
      let dlen := bitsOf (d.getD 1 0) 32 32
      let all := runAcc (d.getD 2 0) 1 dlen
      let sa := runAcc (d.getD 0 0) 1 slen
      match engFx s 5 sa [] with
      | some e => lost e all
      | none =>
        let out := decodeChunk (readRun s sa).2 dlen
        let ws := runAcc (d.getD 2 0) 1 ((out.map List.length).getD dlen)
        match engFx s 5 [] ws with
        | some e => lost e ws
        | none =>
          match out with
          | some o => endChunk s i p1 ws (fun s => writeRun (drainAcc s sa .read) (ws.zip o)) none
          | none => endChunk s i p1 ws (fun s => spoilMem (drainAcc s sa .read) ws) (some (⟨.chunkCorrupt, 5, 0xFF, 0, false, 0⟩, false))
  | _ => .wait

def execDcItemComplete (s : State) : Out := .next (ecmdEvent 2 dcWork s)

/-! ## SP (R308) -/

/-- z before z': larger value first, then the lower index. -/
def zBefore (a b : Nat × BitVec 32) : Bool :=
  match (f32v a.2).cmp (f32v b.2) with
  | some .gt => true
  | some .eq => a.1 < b.1
  | _ => false

def zInsert (a : Nat × BitVec 32) : List (Nat × BitVec 32) → List (Nat × BitVec 32)
  | [] => [a]
  | b :: r => if zBefore a b then a :: b :: r else b :: zInsert a r

/-- Running FP32 sums. -/
def runSums : List (BitVec 32) → Option (BitVec 32) → List (BitVec 32)
  | [], _ => []
  | w :: r, none => w :: runSums r (some w)
  | w :: r, some c => let c' := f32add c w; c' :: runSums r (some c')

/-- The generator's advance. -/
def spAdvance (x : BitVec 64) : BitVec 64 :=
  let x := x ^^^ (x <<< 13)
  let x := x ^^^ (x >>> 7)
  x ^^^ (x <<< 17)

/-- a > b, a ≥ b as values. -/
def valGt (a b : Val) : Bool := a.cmp b = some .gt
def valGe (a b : Val) : Bool := a.cmp b = some .gt || a.cmp b = some .eq

/-- A row's index and the generator after it. -/
def sampleRow (xs : List (BitVec 32)) (tau topp : BitVec 32) (k : Nat) (x : BitVec 64) : BitVec 32 × BitVec 64 :=
  let t := f32v tau
  let pos := match t with
    | .num d => decide (0 < d.m)
    | _ => false
  let zs := (xs.zipIdx.filterMap (fun a => if f32v a.1 = .nan then none else some (a.2, if pos then f32div a.1 tau else a.1)))
  let ord := (zs.foldr zInsert []).take (if k = 0 then xs.length else k)
  match ord with
  | [] => (0xFFFFFFFF, x)
  | z0 :: _ =>
    if !pos then (BitVec.ofNat 32 z0.1, x)
    else
      let cs := runSums (ord.map (fun z => f32exp (f32sub z.2 z0.2))) none
      let all := ord.zip cs
      let last := f32v (cs.getLastD 0)
      let kept := if (f32v topp).cmp (.num ⟨1, 0⟩) = some .lt then
          (match all.findIdx? (fun z => valGe (f32v z.2) ((f32v topp).mul last)) with
            | some j => all.take (j + 1)
            | none => all)
        else all
      let x' := spAdvance x
      let lim := (Val.ofDy ⟨(x'.toNat / 2 ^ 40 : Nat), -24⟩).mul (f32v ((kept.getLast?.map (·.2)).getD 0))
      let pick := match kept.find? (fun z => valGt (f32v z.2) lim) with
        | some z => z.1.1
        | none => ((kept.getLast?.map (fun z => z.1.1)).getD 0)
      (BitVec.ofNat 32 pick, x')

def spWork (s : State) (op : ItemOp) (e : Engine) (_ : Item) : ItemRes :=
  match op with
  | .ecmd cl req _ sub row p0 p1 p2 p3 =>
    match sub with
    | 0 =>
      rwWork s (runAcc (p0.toNat + 4 * rowLen p2 * row) 4 (rowLen p2)) (runAcc (p1.toNat + 4 * row) 4 1) (fun v s =>
        let r := sampleRow (w32 v) (BitVec.ofNat 32 (bitsOf p2.toNat 32 32)) (BitVec.ofNat 32 (bitsOf p3.toNat 32 32))
          (bitsOf p3.toNat 0 16) e.sp
        (onEngine s cl req (fun e => { e with sp := r.2 }), [r.1.toNat]))
    | 1 => .ok (onEngine s cl req (fun e => { e with sp := if p0 = 0 then 1 else p0 }))
    | _ => rwWork s [] (runAcc p1.toNat 8 1) (fun _ s => (s, [e.sp.toNat]))
  | _ => .wait

def execSpItemComplete (s : State) : Out := .next (ecmdEvent 3 spWork s)

/-! ## IX (R310) -/

/-- a before b for TOPKIDX: NaN above infinity, then by value, then the lower index. -/
def topBefore (a b : Nat × BitVec 32) : Bool :=
  match decide (f32v a.2 = .nan), decide (f32v b.2 = .nan) with
  | true, true => a.1 < b.1
  | true, false => true
  | false, true => false
  | false, false => zBefore a b

def topInsert (a : Nat × BitVec 32) : List (Nat × BitVec 32) → List (Nat × BitVec 32)
  | [] => [a]
  | b :: r => if topBefore a b then a :: b :: r else b :: topInsert a r

/-- Distinct values, ascending. -/
def setInsert (a : Nat) : List Nat → List Nat
  | [] => [a]
  | b :: r => if a = b then b :: r else if a < b then a :: b :: r else b :: setInsert a r

def ixWork (s : State) (op : ItemOp) (_ : Engine) (_ : Item) : ItemRes :=
  match op with
  | .ecmd _ _ _ sub _ p0 p1 p2 p3 =>
    let src := runAcc p0.toNat 4 p2.toNat
    match sub with
    | 0 =>
      let bins := runAcc p1.toNat 4 p3.toNat
      rwWork s (src ++ bins) bins (fun v s =>
        let vs := v.take src.length
        (s, (v.drop src.length).zipIdx.map (fun b => (b.1 + (vs.filter (· = b.2)).length) % 2 ^ 32)))
    | 1 =>
      match engFx s 5 src [] with
      | some e => lostDest s e (runAcc p1.toNat 4 p2.toNat ++ runAcc p3.toNat 8 1)
      | none =>
        let out := (readRun s src).2.foldr setInsert []
        rwWork s src (runAcc p1.toNat 4 out.length ++ runAcc p3.toNat 8 1) (fun _ s => (s, out ++ [out.length]))
    | _ =>
      rwWork s src (runAcc p1.toNat 4 p3.toNat) (fun v s =>
        (s, (((w32 v).zipIdx.map (fun x => (x.2, x.1))).foldr topInsert []).map (·.1) |>.take p3.toNat))
  | _ => .wait

def execIxItemComplete (s : State) : Out := .next (ecmdEvent 5 ixWork s)

/-! ## CL (R148, R309) -/

/-- A collective descriptor: id, participants, own rank, address of the entries, well formed. -/
structure Coll where
  id : Nat
  parts : Nat
  rank : Nat
  ents : List Nat
  ok : Bool

/-- A participant: the core of this package, or the port of a peer. -/
inductive Part where
  | core (c : Nat)
  | peer (port : Nat)
  deriving DecidableEq, Repr

def partOf (e : Nat) : Part := if bitsOf e 0 8 = 0xFF then .peer (bitsOf e 8 4) else .core (bitsOf e 0 8)

/-- An entry's format: a core 0–191 or 0xFF, and zero in bits [15:12]. -/
def entOk (e : Nat) : Bool := (bitsOf e 0 8 < 192 || bitsOf e 0 8 = 0xFF) && bitsOf e 12 4 = 0

/-- The descriptor at p0 as the loaded crew reads it. -/
def readColl (s : State) (p0 : BitVec 64) : Sum Fx Coll :=
  let da := runAcc p0.toNat 8 8
  match engFx s 5 da [] with
  | some e => .inl e
  | none =>
    let d := (readRun s da).2
    let w0 := d.getD 0 0
    let parts := bitsOf w0 32 16
    let rank := bitsOf w0 48 16
    let ok := 2 ≤ parts && parts ≤ 64 && rank < parts && (d.drop 2).all (· = 0)
    let ea := if ok then runAcc (d.getD 1 0) 8 parts else []
    match engFx s 5 ea [] with
    | some e => .inl e
    | none =>
      let es := (readRun s ea).2
      .inr ⟨bitsOf w0 0 32, parts, rank, es, ok && es.all entOk⟩

/-- The CL items that have not ended of the context's crews, those that wait for a page among them: item, core, gang and operation. -/
def clOpen (s : State) (ctx : Nat) : List (ItemRef × Nat × Item) :=
  (s.gangs.filter (fun g => g.2.ctx = ctx)).flatMap (fun g => g.2.crews.flatMap (fun c =>
    let f := fun (w : Who) (b : Batches) => b.refs.filterMap (fun x =>
      if x.2.status = none ∧ x.2.drained = none ∧ x.2.op.isKind 4 then some ((⟨w, x.1, x.2.ix⟩ : ItemRef), c.2.core, x.2) else none)
    f ⟨g.1, c.1, 0, true⟩ c.2.strm.bat ++ c.2.groups.flatMap (fun y => f ⟨g.1, c.1, y.1, false⟩ y.2.bat)))

/-- Those that wait for no page. -/
def clItems (s : State) (ctx : Nat) : List (ItemRef × Nat × Item) := (clOpen s ctx).filter (fun x => x.2.2.page = none)

/-- What an item's crew sees: the function applied with the crew loaded; none where it is not resident. -/
def seenBy {α : Type} (s : State) (r : ItemRef) (i : Item) (f : State → α) : Option α :=
  (focusCrew s r.who.gang r.who.crew).map (fun s1 => f { s1 with accStamp := some i.stamp })

def clArgs (i : Item) : Nat × BitVec 64 × BitVec 64 × BitVec 64 × BitVec 64 :=
  match i.op with
  | .ecmd _ _ _ sub _ p0 p1 p2 p3 => (sub, p0, p1, p2, p3)
  | _ => (0, 0, 0, 0, 0)

/-- A participant present: rank, item, its operation. -/
abbrev Present := Nat × ItemRef × Item

/-- The entry that the engine of an item sends to collective ingress. -/
def ingressMsg (s : State) (r : ItemRef) (i : Item) : Option (Nat × NakMsg) :=
  match i.op with
  | .ecmd cl req _ _ _ _ _ _ _ => (leaseEngine s cl req).map (fun e => (cl, .ingress (24 * cl + e.1) r))
  | _ => none

/-- Collective ingress has accepted the item's entry, or accepts it now (R58). -/
def ingressOk (s : State) (r : ItemRef) (i : Item) : Bool :=
  i.sent || match ingressMsg s r i with
  | none => true
  | some (cl, m) => !flowBusy s m && !s.shutPorts.contains (false, cl)

/-- The entry of an item is accepted: its engine keeps it no more (R58). -/
def acceptEntry (s : State) (r : ItemRef) : State :=
  onCrew s r.who.gang r.who.crew (fun s1 => updItem s1 r (fun j => { j with sent := true }))

/-- The items that take part with the collective id, by rank, and whether one disagrees or is malformed (R309). -/
def gather (s : State) (ctx : Nat) (c : Coll) (p3 : BitVec 64) (sub : Nat) : List Present × Bool :=
  let l := (clItems s ctx).filterMap (fun x => match seenBy s x.1 x.2.2 (fun s1 =>
      if ecmdReady s1 x.1 x.2.2 ∧ acqOk s1 x.1 x.2.2 ∧ ingressOk s x.1 x.2.2 then some (readColl s1 (clArgs x.2.2).2.1) else none) with
    | some (some (.inr d)) => if d.id = c.id ∧ (clArgs x.2.2).1 = sub then some (x, d) else none
    | _ => none)
  let mine := l.filter (fun x => !x.2.ok || (c.ents[x.2.rank]?).any (fun e => partOf e = .core x.1.2.1))
  (mine.map (fun x => (x.2.rank, x.1.1, x.1.2.2)),
   mine.any (fun x => !x.2.ok || (clArgs x.1.2.2).2.2.2.2 ≠ p3))

/-- Every one of a list of items ends with a status. -/
def endAll (s : State) (l : List Present) (st : Status) : State :=
  l.foldl (fun s x => onCrew s x.2.1.who.gang x.2.1.who.crew (fun s1 =>
    if stagedFull s1 (itemDie s1) ∧ st ≠ .ok then doomItem s1 x.2.1 x.2.2 st
    else endItem s1 x.2.1 x.2.2 st ⟨st.cause, 5, 0xFF, 0, false, 0⟩ false 0)) s

/-- One element combined in ascending rank; an F32 operand that is NaN gives the canonical NaN (R219, R309). -/
def clCombine (op ty : Nat) (xs : List Nat) : Nat :=
  match xs with
  | [] => 0
  | x :: r => r.foldl (fun a b =>
      let lt := match ty with
        | 0 => decide (signExt a 32 < signExt b 32)
        | 1 => decide (a < b)
        | _ => false
      let fa := f32v (BitVec.ofNat 32 a)
      let fb := f32v (BitVec.ofNat 32 b)
      match op, ty with
      | 0, 2 => (f32add (BitVec.ofNat 32 a) (BitVec.ofNat 32 b)).toNat
      | 0, _ => (a + b) % 2 ^ 32
      | 1, 2 => if fa = .nan ∨ fb = .nan then f32NaN.toNat else (f32r (fa.min fb)).toNat
      | 1, _ => if lt then a else b
      | _, 2 => if fa = .nan ∨ fb = .nan then f32NaN.toNat else (f32r (fa.max fb)).toNat
      | _, _ => if lt then b else a) x

/-- What a destination receives, the sources by rank given as words. -/
def clResult (sub : Nat) (p3 : BitVec 64) (srcs : List (List Nat)) : List Nat :=
  match sub with
  | 0 => (List.range (bitsOf p3.toNat 0 32 / 4)).map (fun k =>
      clCombine (bitsOf p3.toNat 32 4) (bitsOf p3.toNat 36 4) (srcs.map (fun x => x.getD k 0)))
  | 1 => srcs.flatten
  | _ => srcs.getD (bitsOf p3.toNat 40 8) []

/-- The accesses of a participant: its source where it gives one, its destination. -/
def clSrc (i : Item) (rank : Nat) : List LaneAcc :=
  let (sub, _, p1, _, p3) := clArgs i
  if sub = 2 ∧ rank ≠ bitsOf p3.toNat 40 8 then [] else runAcc p1.toNat 4 (bitsOf p3.toNat 0 32 / 4)
def clDst (i : Item) (parts : Nat) : List LaneAcc :=
  let (sub, _, _, p2, p3) := clArgs i
  runAcc p2.toNat 4 (bitsOf p3.toNat 0 32 / 4 * (if sub = 1 then parts else 1))

/-- A link of the package is down: it is neither up nor in a retrain (R399, R417). -/
def portDown (s : State) (port : Nat) : Bool := !linkUp s (6 + port)

/-- The words that peers contribute: bytes of the event, by ascending rank of the peers. -/
def peerWords (bs : List (BitVec 8)) (words k : Nat) : List Nat :=
  (List.range words).map (fun j => bytesNat ((bs.drop (4 * (words * k + j))).take 4))

/-- The core of a resident crew. -/
def coreOfRef (s : State) (r : ItemRef) : Nat :=
  (((aget s.gangs r.who.gang).bind (fun g => aget g.crews r.who.crew)).map (fun c => c.core)).getD 0

/-- A collective fails with BAD_DESC at the participants present; the ones that come later find that it has failed (R309). -/
def failColl (s : State) (ctx id sub : Nat) (here : List Present) : State :=
  let cs := here.map (fun x => coreOfRef s x.2.1)
  let same := fun (x : Nat × Nat × Nat × List Nat) => x.1 = ctx && x.2.1 = id && x.2.2.1 = sub
  let old := ((s.failedCl.find? same).map (fun x => x.2.2.2)).getD []
  endAll { s with failedCl := (ctx, id, sub, cs ++ old) :: s.failedCl.filter (fun x => !same x) } here .badDesc

/-- The collective with this id failed before a core took part in it. A core at which it has ended already starts another one. -/
def collFailed (s : State) (ctx id sub core : Nat) : Bool :=
  s.failedCl.any (fun x => x.1 = ctx && x.2.1 = id && x.2.2.1 = sub && !x.2.2.2.contains core)

/-- The memory of a failed collective goes once each of its cores has met it, or one of them starts another. -/
def forgetColl (s : State) (ctx : Nat) (c : Coll) (sub core : Nat) : State :=
  { s with failedCl := s.failedCl.filter (fun x => !(x.1 = ctx && x.2.1 = c.id && x.2.2.1 = sub &&
      (x.2.2.2.contains core || c.ents.all (fun e => match partOf e with
        | .core n => x.2.2.2.contains n
        | .peer _ => true)))) }

/-- The collective of the item completes at every participant of the package (R148, R309). The manual states no outcome for the others where one
participant's own access fails: only that item ends, and the others go on waiting. Nor does it give the root of a BCAST a limit: one that is not
below P ends the item as disagreement does (both DESIGN CHOICE, log 35). -/
def collective (s : State) (ctx : Nat) (c : Coll) (i : Item) (bytes : List (BitVec 8)) : State :=
  let (sub, _, _, _, p3) := clArgs i
  let (here, bad) := gather s ctx c p3 sub
  let words := bitsOf p3.toNat 0 32 / 4
  let parts := c.ents.map partOf
  if bad ∨ (sub = 2 ∧ c.parts ≤ bitsOf p3.toNat 40 8) then failColl s ctx c.id sub here
  else if parts.any (fun p => match p with
      | .core n => s.dark.contains (n / 96)
      | _ => false) then endAll s here .dieLost
  else if parts.any (fun p => match p with
      | .peer n => portDown s n
      | _ => false) then endAll s here .linkDown
  else if parts.zipIdx.any (fun p => match p.1 with
      | .core _ => here.all (fun x => x.1 ≠ p.2)
      | _ => false) then here.foldl (fun s x => acceptEntry s x.2.1) s
  else
    match here.findSome? (fun x => (seenBy s x.2.1 x.2.2 (fun s1 => engFx s1 5 (clSrc x.2.2 x.1) (clDst x.2.2 c.parts))).bind
        (fun e => e.map (fun f => (x, f)))) with
    | some (x, f) => onCrew (here.foldl (fun s x => acceptEntry s x.2.1) s) x.2.1.who.gang x.2.1.who.crew (fun s1 => finishItem s1 x.2.1 x.2.2 (failAcc s1 f))
    | none =>
      let srcs := parts.zipIdx.map (fun p => match p.1 with
        | .core _ => ((here.find? (fun x => x.1 = p.2)).bind (fun x => seenBy s x.2.1 x.2.2 (fun s1 => (readRun s1 (clSrc x.2.2 x.1)).2))).getD []
        | .peer _ => peerWords bytes words ((parts.take p.2).filter (fun q => match q with
            | .peer _ => true
            | _ => false)).length)
      let out := clResult sub p3 srcs
      let s1 := here.foldl (fun s x => onCrew s x.2.1.who.gang x.2.1.who.crew (fun s1 =>
        { writeRun { s1 with accStamp := some x.2.2.stamp } ((clDst x.2.2 c.parts).zip out) with accStamp := none })) s
      endAll s1 here .ok

/-- The collective item that may begin: its command's turn has come. -/
def clReady (s : State) (r : ItemRef) (i : Item) : Option (Nat × Sum Fx Coll) :=
  (seenBy s r i (fun s1 => if ecmdReady s1 r i && acqOk s1 r i then some (s1.gang.ctx, readColl s1 (clArgs i).2.1) else none)).join

/-- Collective ingress of the cluster refuses the item, or its engine has a refused one to send again: the engine holds it (R58). -/
def clHeld (s : State) (r : ItemRef) (i : Item) : Option State :=
  match ingressMsg s r i with
  | none => none
  | some (cl, m) =>
    if i.sent then none
    else if keptMsg s m ∨ flowFull s m then some s
    else if flowBusy s m ∨ s.shutPorts.contains (false, cl) then some (refuse s m)
    else none

/-- CL_ITEM_COMPLETE: the collective of the item `ev.item`; `ev.bytes` holds what peers of other packages sent. -/
def clComplete (s : State) : State :=
  let r := s.ev.item
  match (clItems s (((aget s.gangs r.who.gang).map (fun g => g.ctx)).getD 0)).find? (fun x => x.1 = r) with
  | none => s
  | some (_, _, i) =>
    match clReady s r i with
    | none => s
    | some (_, .inl e) => onCrew s r.who.gang r.who.crew (fun s1 => finishItem s1 r i (failAcc s1 e))
    | some (ctx, .inr c) =>
      match clHeld s r i with
      | some s1 => s1
      | none =>
        let sub := (clArgs i).1
        let core := coreOfRef s r
        if collFailed s ctx c.id sub core then forgetColl (failColl s ctx c.id sub [(c.rank, r, i)]) ctx c sub 192
        else
          let s0 := forgetColl s ctx c sub core
          if c.ok then collective s0 ctx c i s.ev.bytes
          else failColl s0 ctx c.id sub ((c.rank, r, i) :: (gather s0 ctx c (clArgs i).2.2.2.2 sub).1.filter (fun x => x.2.1 ≠ r))

/-- CL items of the package that have a partner of a kind, those that wait for a page among them, but for those that an abort has ended. -/
def itemsWith (s : State) (p : Part → Bool) : List Present :=
  s.ctxs.flatMap (fun c => ((clOpen s c.1).filter (fun x => x.2.2.page.all (fun q => q.1 < 2 ^ 32))).filterMap (fun x => match seenBy s x.1 x.2.2 (fun s1 => readColl s1 (clArgs x.2.2).2.1) with
    | some (.inr d) => if d.ok && d.ents.any (fun e => p (partOf e)) then some (d.rank, x.1, x.2.2) else none
    | _ => none))

def execClItemComplete (s : State) : Out := .next (clComplete s)

end Sys2Proof.Machine
end

