-- ==== Sys2Proof/Machine/Launch.lean ====
section
/-! DEFINITION. The state a launched group, crew and gang start with (R13, R14, R35), and the shape of a packet (R31). -/
namespace Sys2Proof.Machine

/-- The fields of a 64-byte packet (R31). -/
def packetOf (bs : List (BitVec 8)) : Packet :=
  let f := fun (off n : Nat) => bytesNat ((bs.drop off).take n)
  { kaddr := BitVec.ofNat 64 (f 0 8), param := BitVec.ofNat 64 (f 8 8), eaddr := BitVec.ofNat 64 (f 0x10 8), gx := f 0x18 4,
    gy := f 0x1C 2, gz := f 0x1E 2, regs := f 0x20 1, crew := f 0x21 1, gang := f 0x22 1, prio := f 0x23 1, spad := f 0x24 2,
    spawn := f 0x26 2, slots := f 0x28 1, accs := f 0x29 1, ctx := f 0x2A 2, notify := f 0x2C 4 % 2 = 1,
    caddr := BitVec.ofNat 64 (f 0x30 8) }

/-- The must-be-zero fields of a packet are zero (R31). -/
def packetMbz (bs : List (BitVec 8)) : Bool :=
  let f := fun (off n : Nat) => bytesNat ((bs.drop off).take n)
  f 0x23 1 < 8 && f 0x2A 2 < 4096 && f 0x2C 4 < 2 && f 0x38 8 = 0

/-- The dispatcher accepts a packet from a queue of context `ctx` (R31, R32). -/
def packetOk (bs : List (BitVec 8)) (ctx : Nat) : Bool :=
  let p := packetOf bs
  packetMbz bs && p.kaddr.toNat % 4 = 0 && p.kaddr.toNat < 2 ^ 60 && p.eaddr.toNat % 4 = 0 && 1 ≤ p.gx && 1 ≤ p.gy && 1 ≤ p.gz &&
    1 ≤ p.regs && p.regs ≤ 8 && 1 ≤ p.crew && p.crew ≤ 16 && 1 ≤ p.gang && p.gang ≤ 8 && p.spad ≤ 448 && p.spawn ≤ 448 &&
    p.slots ≤ 16 && p.accs ≤ 4 && p.spad + p.spawn ≤ 448 && (p.eaddr ≠ 0 || (p.slots = 0 && p.accs = 0)) &&
    (p.eaddr = 0 || p.accs ≠ 0) && (!p.notify || (p.caddr ≠ 0 && p.caddr.toNat % 32 = 0)) && p.ctx = ctx

/-- A launched group at its first instruction (R35). -/
def launchGroup (p : Packet) (no slot : Nat) : Group :=
  { Group.zero with
    key := no, no := no, slot := slot, lanes := (List.range 32).map (fun l => (l, ⟨no, l, none⟩)),
    s := (Store.empty 64).put 0 p.param,
    splits := [{ Split.zero with mask := BitVec.allOnes 32, pc := p.kaddr }] }

def launchGroups (p : Packet) (used : List Nat) : Nat → Nat → List (Nat × Group)
  | 0, _ => []
  | n + 1, no =>
    match lowestFree used 0 64 with
    | none => []
    | some sl => (no, launchGroup p no sl) :: launchGroups p (sl :: used) n (no + 1)

/-- A crew at its start (R35); undefined contents take the numbers from `tag` on (R18, R85). -/
def newCrew (p : Packet) (no core strm tag : Nat) (used : List Nat) : Crew :=
  { Crew.zero with
    no := no, core := core, bars := (List.range 16).map (fun b => (b, ⟨32 * p.crew, [], false, 0, 0⟩)),
    spad := .undef 8 (p.spad * 1024) tag, slots := (List.range p.slots).map (fun i => (i, ⟨false, false, 0, .dense, .empty 8, .empty 8, false⟩)),
    tiles := (List.range p.accs).map (fun i => (i, ⟨.undef 32 16384 (tag + 1 + i), false⟩)),
    strm := { Stream.zero with num := strm }, groups := launchGroups p used p.crew 0, nextGrp := p.crew }

/-- Numbers of undefined contents that a new crew takes. -/
def crewTags : Nat := 8

/-- The stream number a crew placed on a core takes (R20). -/
def freeStream (s : State) (core : Nat) : Nat :=
  (lowestFree (((crewsOn s core).filter (fun x => x.1.pkt.eaddr ≠ 0)).map (fun x => x.2.strm.num)) 0 4).getD 0

/-- A gang at its start on consecutive cores from `core`. -/
def newGang (s : State) (grid : Nat) (no : BitVec 64) (p : Packet) (core : Nat) : Gang :=
  { grid := grid, ctx := p.ctx, no := no, pkt := p, halt := false, sg := [], gone := false,
    crews := (List.range p.gang).map (fun c =>
      (c, newCrew p c (core + c) (freeStream s (core + c)) (s.fresh + crewTags * c) (slotsUsed s (core + c)))) }

/-- The gang becomes resident. -/
def placeGang (s : State) (g : Gang) : State :=
  { s with gangs := aput s.nextGang g s.gangs, nextGang := s.nextGang + 1, fresh := s.fresh + crewTags * g.pkt.gang }

end Sys2Proof.Machine
end

