-- ==== Sys2Proof/Machine/SampleGroup.lean ====
section
/-! DEFINITION. The sample-group instructions (R149–R154, R270–R273). -/
namespace Sys2Proof.Machine

/-- The entry and index of the issuing sibling. -/
def mySg (s : State) : Option (Nat × Nat × SgEntry) :=
  match s.grp.sib with
  | none => none
  | some (e, i) => (sgOf s (s.crew.core / 8) e).map (fun x => (e, i, x))

def sibCheck (s : State) : Option Fx := check (mySg s).isSome .illegalContext

/-! ## SFORK (R150) -/

/-- Another crew of the loaded gang loaded in place of the present one. -/
def switchCrew (s : State) (c : Nat) : State :=
  if c = s.crew.no then s
  else match aget s.gang.crews c with
    | none => s
    | some cr => { s with gang := { s.gang with crews := aput s.crew.no s.crew (adel c s.gang.crews) }, crew := cr }

/-- The %group numbers that a sibling placed in a crew may take, ascending (R14). -/
def freeNos (s : State) (c : Nat) : List Nat :=
  match crewOf s c with
  | none => []
  | some cr =>
    let nos := (liveGroups cr).map (fun g => g.no) ++ (if c = s.crew.no ∧ s.cur = .group then [s.grp.no] else [])
    ((List.range 64).filter (fun n => s.gang.pkt.crew ≤ n && !nos.contains n))

/-- Group slots that a crew's core and the crew itself still have, with a number and register space (R14, R15, R17). -/
def freeSlots (s : State) (c : Nat) : Nat :=
  match crewOf s c with
  | none => 0
  | some cr =>
    let own := (liveGroups cr).length + (if c = s.crew.no ∧ s.cur = .group then 1 else 0)
    min (min (64 - (slotsUsed s cr.core).length) (min (64 - own) (freeNos s c).length)) ((512 * 1024 - regBytes s cr.core) / (regsOf s * 128))

/-- Crews in the order SFORK tries them: from the issuer's upward, wrapping. -/
def crewOrder (s : State) : List Nat := (List.range s.gang.pkt.gang).map (fun i => (s.crew.no + i) % s.gang.pkt.gang)

/-- How many of n siblings each crew receives. -/
def shareOut (s : State) : List Nat → Nat → List (Nat × Nat)
  | [], _ => []
  | c :: r, n => let k := min n (freeSlots s c); (c, k) :: shareOut s r (n - k)

/-- The crew of each sibling from 1 on. -/
def sibCrews (s : State) (g : Nat) : List Nat := (shareOut s (crewOrder s) (g - 1)).flatMap (fun x => List.replicate x.2 x.1)

def forkG (s : State) (a : BitVec 7) : Nat := (sget s a.toNat).toNat % 2 ^ 32

/-- A record of a thread of the group (R150). -/
def ownRecord (s : State) : Bool :=
  s.crew.recs.any (fun r => s.grp.lanes.any (fun l => l.2.origin = r.thread.origin) && (s.grp.sib = none || r.sib = s.grp.sib))

def freeEntry (s : State) : Option Nat := lowestFree ((clusterOf s (s.crew.core / 8)).sg.map (·.1)) 0 64

/-- The receiving crews can hold their siblings' records. -/
def sibRecsFit (s : State) (g : Nat) : Bool :=
  (shareOut s (crewOrder s) (g - 1)).all (fun x => match crewOf s x.1 with
    | none => false
    | some c => spawnFits s c (x.2 * laneCount s.split.mask))

/-- The checks of R150 in its order. -/
def forkCheck (s : State) (a : BitVec 7) : Option Fx :=
  let g := forkG s a
  firstFx [check (2 ≤ g && g ≤ 64) .illegalOp, check (s.grp.sib = none) .illegalContext,
    check (s.grp.splits = [] && !ownRecord s) .nonuniform,
    check ((freeEntry s).isSome && (sibCrews s g).length = g - 1) .sgFull, check (sibRecsFit s g) .spawnFull]

/-- The sibling's copy of the issuing group: live lanes closed up from position 0, in the order of their positions in the issuer; R150 and R270 name no
order (DESIGN CHOICE, log 102). -/
def sibGroup (s : State) (key no slot e i : Nat) (phases : List (Nat × Nat)) : Group :=
  let live := lanesOf s.split.mask
  let posOf := live.zipIdx
  let v := (List.range (regsOf s)).foldl (fun st r => posOf.foldl (fun st x => st.put (32 * r + x.2) (vget s r x.1)) st) (Store.empty 32)
  let k := (List.range 8).foldl (fun st n => st.put n (BitVec.ofNat 32 (posOf.foldl (fun m x => if kget s n x.1 then m + 2 ^ x.2 else m) 0)))
    (Store.empty 32)
  let armed := s.split.armed.map (fun a => { a with tgts := posOf.filterMap (fun x => (aget a.tgts x.1).map (fun t => (x.2, t))) })
  { Group.zero with
    key := key, no := no, slot := slot, formed := true, sib := some (e, i), v := v, k := k, s := s.grp.s, mode := s.grp.mode,
    lanes := posOf.map (fun x => (x.2, { (aget s.grp.lanes x.1).getD ⟨s.grp.no, x.1, none⟩ with sib := some i })),
    recPhase := phases, splits := [{ s.split with mask := BitVec.ofNat 32 (2 ^ live.length - 1), armed := armed, hold := .none, cap := none }] }

/-- The threads of the issuing group that have ended, under the sibling's name. -/
def endedCopies (s : State) (i : Nat) : List Thread :=
  ((s.grp.lanes.map (·.2)).filter (fun t => s.crew.ended.contains t)).map (fun t => { t with sib := some i })

/-- The units that a sibling's registers are copied from and to. -/
def sibCells (s : State) (c key : Nat) : List (Cell × Cell) :=
  ((lanesOf s.split.mask).zipIdx).flatMap (fun x => (laneCells s s.crew.no s.grp.key x.1).zip (laneCells s c key x.2)) ++
    (List.range 64).map (fun r => (.sreg s.gid s.crew.no s.grp.key r, .sreg s.gid c key r))

/-- Sibling i placed in crew c. -/
def placeSib (s : State) (e i c : Nat) : State :=
  match crewOf s c with
  | none => s
  | some cr =>
    let no := (freeNos s c).headD 63
    let slot := (lowestFree (slotsUsed s cr.core) 0 64).getD 0
    let g := sibGroup s cr.nextGrp no slot e i (cr.bars.map (fun b => (b.1, b.2.phase)))
    let gone := endedCopies s i
    let s1 := carryBad s (sibCells s c cr.nextGrp)
    bump (setCrew s1 c (fun x => endThreads { x with groups := aput x.nextGrp g x.groups, nextGrp := x.nextGrp + 1 } gone)) cr.core 0x14 1

/-- Siblings 1 on placed, and the table entry written (R149, R150). -/
def forkDone (s : State) (a b : BitVec 7) : State :=
  let g := forkG s a
  let e := (freeEntry s).getD 0
  let eps := (sget s a.toNat).toNat / 2 ^ 32
  let v := (decodeFlt eps fmtF32).val
  let eps' : BitVec 32 := if v = .nan ∨ v.isNeg then 0 else BitVec.ofNat 32 eps
  let dl := (sget s b.toNat).toNat
  let ent : SgEntry := ⟨g, s.gid, 0, 0, .empty 32, eps', if dl = 0 then none else some ((ctxTime s).toNat + dl), .empty 32, false, false, 0, false, 0⟩
  let s1 := setSg s (s.crew.core / 8) e ent
  let s2 := ((sibCrews s g).zipIdx).foldl (fun s' x => placeSib s' e (x.2 + 1) x.1) s1
  setGrp s2 (fun x => { x with sib := some (e, 0) })

/-- NX acts in each sibling from its own copy (R150, R161). -/
def sibNx (nx : NX) (e : Nat) (pc : BitVec 64) (s0 : State) : State :=
  let s := unfocusSplit s0
  let home := s.crew.no
  let crews := home :: s.gang.crews.map (·.1)
  let todo := fun (s : State) (c : Nat) => ((crewOf s c).map (fun x => (x.groups.map (·.2)).filter (fun g =>
    g.sib.any (fun y => y.1 = e && y.2 ≠ 0) && g.splits.any (fun z => z.pc = pc)))).getD []
  switchCrew (crews.foldl (fun s c => (todo s c).foldl (fun s g =>
    let s1 := switchCrew s c
    match focusSplit s1 g.key 0 with
    | none => s1
    | some s2 => unfocusSplit (nxApply nx 4 s2)) s) s) home

/-- The records that an XFER would exile in every sibling fit beside the issuer's (R41). -/
def sibXferFits (nx : NX) (s : State) (a : BitVec 7) : Bool :=
  match nx, s.split.armed with
  | .xfer, some ar =>
    let n := ((xferPlan s ar (s.split.pc + 4)).2.1.map (fun q => laneCount q.mask)).foldl (· + ·) 0
    (shareOut s (crewOrder s) (forkG s a - 1)).all (fun x => match crewOf s x.1 with
      | none => true
      | some c => spawnFits s c ((if x.1 = s.crew.no then x.2 + 1 else x.2) * n))
  | _, _ => true

/-- A split of the group is held by a sample-group operation that its table refused, and that has a number below `no`. -/
def sentBefore (s : State) (no : Nat) : Bool :=
  s.grp.splits.any (fun x => match x.hold with
    | .sent m => m < no
    | _ => false)

/-- A sample-group operation that the table refuses is kept for resending, and its split waits; the operations of the group's sender are accepted
and act in the order in which they were sent (R58). -/
def sgWait (s : State) : Option State :=
  let msg := fun (no : Nat) => NakMsg.sample s.crew.core (curWho s) (s.crew.core / 8) no
  match s.split.hold with
  | .sent no => if keptMsg s (msg no) ∨ sentBefore s no then some (waitAs s (.sent no)) else none
  | _ =>
    if flowBusy s (msg s.nextReq) ∨ s.shutPorts.contains (true, s.crew.core / 8) then
      some (waitAs { refuse s (msg s.nextReq) with nextReq := s.nextReq + 1 } (.sent s.nextReq))
    else if sentBefore s s.nextReq then some { s with stalled := true }
    else none

def execSfork (nx : NX) (a b : BitVec 7) (s : State) : Out :=
  retire 0xA0 nx
    { early := range (sOk a.toNat && sOk b.toNat), fault := forkCheck s a, access := check (sibXferFits nx s a) .spawnFull,
      wait := sgWait s, done := forkDone s a b, post := sibNx nx ((freeEntry s).getD 0) s.split.pc } s

/-! ## Rewards and results (R151–R153, R271–R273) -/

/-- An operation on the issuing sibling's entry, and sD: 0 while it is open, 1 LATE once it is complete. In a cycle of several operations the
entry completes after the last of them, so that of two on one index the later stands (R271). -/
def sgOp (s : State) (d : Nat) (f : Nat → SgEntry → SgEntry) : State :=
  match mySg s with
  | none => s
  | some (e, i, x) => if x.complete then sput s d 1 else sput (setSg s (s.crew.core / 8) e (if s.crew.joint then f i x else (f i x).settle)) d 0

/-- The deadline has completed the entry in this slate cycle: its operations of the cycle are over (R152). -/
def sgShut (s : State) : Bool := (mySg s).any (fun x => x.2.2.complete && x.2.2.deadline = some (ctxTime s).toNat)

def rewardOf (r : BitVec 32) (i : Nat) (x : SgEntry) : SgEntry :=
  { x with rewards := x.rewards.put i r, arrived := setBit64 x.arrived i true, cancelled := setBit64 x.cancelled i false }

def cancelOf (j : Nat) (x : SgEntry) : SgEntry :=
  { x with arrived := setBit64 x.arrived j false, cancelled := setBit64 x.cancelled j true }

def execSreward (nx : NX) (d a : BitVec 7) (s : State) : Out :=
  retire 0xA1 nx
    { early := range (sOk d.toNat && sOk a.toNat), stall := sgShut s, fault := sibCheck s, wait := sgWait s,
      done := sgOp s d.toNat (rewardOf ((sget s a.toNat).setWidth 32)) } s

def sgComplete (s : State) : Bool := (mySg s).any (fun x => x.2.2.complete)

def execSbar (nx : NX) (s : State) : Out :=
  retire 0xA2 nx { fault := sibCheck s, wait := if sgComplete s then none else some (waitAs s .wait), done := s } s

def execScancel (nx : NX) (d a : BitVec 7) (s : State) : Out :=
  let j := (sget s a.toNat).toNat
  retire 0xA3 nx
    { early := range (sOk d.toNat && sOk a.toNat), stall := sgShut s,
      fault := firstFx [sibCheck s, check ((mySg s).any (fun x => j < x.2.2.g)) .illegalOp], wait := sgWait s,
      done := sgOp s d.toNat (fun _ x => cancelOf j x) } s

/-- The status word of SGINFO (R272). -/
def sgInfo (i : Nat) (x : SgEntry) : BitVec 64 :=
  let gone := if x.complete then x.absent.getLsbD i else x.cancelled.getLsbD i
  BitVec.ofNat 64 ((if x.complete then 1 else 0) + (if x.complete then x.n else x.present.length) * 4 + x.g * 2 ^ 9 +
    (if x.zv then 2 ^ 16 else 0) + (if x.small then 2 ^ 17 else 0) + (if gone then 2 ^ 18 else 0))

def execSginfo (nx : NX) (d : BitVec 7) (s : State) : Out :=
  retire 0xA4 nx
    { early := range (sOk d.toNat), fault := sibCheck s,
      done := sput s d.toNat (((mySg s).map (fun x => sgInfo x.2.1 x.2.2)).getD 0) } s

def execSgabs (nx : NX) (d : BitVec 7) (s : State) : Out :=
  retire 0xA4 nx
    { early := range (sOk d.toNat), fault := sibCheck s,
      done := sput s d.toNat (((mySg s).map (fun x => if x.2.2.complete then x.2.2.absent else 0)).getD 0) } s

def execSgadv (nx : NX) (a : BitVec 7) (s : State) : Out :=
  let x := mySg s
  let g := (x.map (fun y => y.2.2.g)).getD 0
  let acc := fun (i : Nat) => (⟨0xFF, (sget s a.toNat + BitVec.ofNat 64 (4 * i)).toNat, 4⟩ : LaneAcc)
  let as := (List.range g).map acc
  let adv := fun (i : Nat) => ((x.map (fun (y : Nat × Nat × SgEntry) => y.2.2.adv.get i)).getD 0).toNat
  retire 0xA5 nx
    { early := range (sOk a.toNat), fault := sibCheck s, access := accessFx s as .write,
      wait := if sgComplete s then none else some (waitAs s .wait),
      done := storeAll (drainAcc s as .write) ((List.range g).map (fun i => (acc i, adv i))) } s

/-- SG_DEADLINE: entry `ev.m` of cluster `ev.n` completes when its deadline has come, after the arrivals of that slate cycle (R152). -/
def execSgDeadline (s : State) : Out :=
  .next (match sgOf s s.ev.n s.ev.m with
    | none => s
    | some x =>
      let now := (((aget s.gangs x.gang).bind (fun g => aget s.ctxs g.ctx)).map (fun c => c.ctxtime.toNat)).getD 0
      match x.deadline with
      | some d => if !x.complete ∧ d ≤ now then setSg s s.ev.n s.ev.m x.complete' else s
      | none => s)

end Sys2Proof.Machine
end

