-- ==== Sys2Proof/Machine/Scoreboard.lean ====
section
/-! DEFINITION. What each instruction reads and writes of the registers, and what follows from it around the execution of an instruction:
pending writes (R37), what a held instruction captured at its issue (R164, R207), damaged source registers (R171, R420), and a residue
mismatch (R172). -/
namespace Sys2Proof.Machine

/-! ## Register operands -/

/-- A register operand: a v register at positions, an s, e or k register; `bad` stands for an operand that R159, R160 or R90 excludes. -/
inductive Opd where
  | v (r : Nat) (ps : List Nat)
  | s (r : Nat)
  | e (r : Nat)
  | k (n : Nat)
  | bad
  deriving DecidableEq, Repr

/-- The registers an instruction reads and those it writes. -/
structure Uses where
  reads : List Opd
  writes : List Opd
  deriving DecidableEq, Repr

/-- A run of n v registers in the lanes of L. -/
def vs (s : State) (r n : Nat) : List Opd := (List.range n).map (fun j => .v (r + j) (active s))

/-- An operand of the type in force (R89, R90, R160). -/
def vt (s : State) (r : Nat) : List Opd :=
  if 14 ≤ ty s ∨ (ty s = 11 ∧ r % 2 = 1) then [.bad] else vs s r (tyRegs (ty s))

/-- ILLEGAL_OP of an instruction that interprets MODE.ty (R90). -/
def typed (s : State) : List Opd := if ty s < 14 then [] else [.bad]

/-- A register number of a class of n. -/
def below (n r : Nat) : List Opd := if r < n then [] else [.bad]

/-- The issuer-scalar class: a run of n registers. -/
def is (s : State) (r n : Nat) : List Opd := (List.range n).map (fun j => if isStream s then .e (r + j) else .s (r + j))

/-- The B operand: a run of n v registers, or one s register. -/
def bs (s : State) (x : BitVec 1) (b n : Nat) : List Opd := if x = 0 then vs s b n else [.s b]
def bt (s : State) (x : BitVec 1) (b : Nat) : List Opd := if x = 0 then vt s b else typed s ++ [.s b]

/-- The registers of a run that its instruction checks for itself, after its sources (R171): the first, and those that exist of the others. -/
def runRegs (d n lim : Nat) : List Nat := d :: ((List.range (n - 1)).map (fun j => d + 1 + j)).filter (fun r => r < lim)

/-- The data registers of a queue's entry, at positions ps of a group (R265, R266). -/
def entryRun (s : State) (d a : BitVec 7) (ps : List Nat) : List Opd :=
  let n := ((queueOf s a).map (fun q => entryRegs s q.size)).getD 1
  below 16 a.toNat ++
    if isStream s then (runRegs d.toNat n 32).map (fun r => .e r) else (runRegs d.toNat n (regsOf s)).map (fun r => .v r ps)

/-- The positions that an entry of a queue covers in its run's registers. -/
def entryLanes (s : State) (a : BitVec 7) : List Nat :=
  List.range (min 32 (((queueOf s a).map (fun q => q.size / 4)).getD 32))

/-- Those of them in L, which a pop writes. -/
def liveEntryLanes (s : State) (a : BitVec 7) : List Nat := (active s).filter (fun p => (entryLanes s a).contains p)

/-- The registers of a tile, the first part's as those of an operand of the type (R89, R250). -/
def tileRun (s : State) (d b : BitVec 7) : List Opd :=
  vt s d.toNat ++ (runRegs d.toNat (tileN (sget s b.toNat) * tyRegs (ty s)) (regsOf s)).map (fun r => .v r (active s))

/-- Positions of the full groups of VPRUNE (R240). -/
def fullLanes (s : State) : List Nat := (fullGroups s).flatMap (fun j => (List.range 8).map (8 * j + ·))

/-- A scalar selector of SLD and SST (R205). -/
def selOpd (d : Nat) : List Opd := if d < 64 then [.s d] else []

/-- The registers of an instruction (R173–R313). An event has none. -/
def uses (s : State) : Instr → Uses
  | .xjr _ a | .estart _ a | .sgadv _ a | .seed _ a => ⟨[.s a.toNat], []⟩
  | .lpsReg _ a => ⟨is s a.toNat 1, []⟩
  | .xbtab _ a _ | .setmodev _ a => ⟨vs s a.toNat 1, []⟩
  | .setmode _ f i => ⟨if f.toNat = 8 ∧ i.toNat < 128 then is s i.toNat 1 else [], []⟩
  | .getmode _ d => ⟨[], is s d.toNat 1⟩
  | .rwait _ d a | .sreward _ d a | .scancel _ d a => ⟨[.s a.toNat], [.s d.toNat]⟩
  | .ejoin _ d | .sginfo _ d | .sgabs _ d | .sli _ d _ | .srd _ d _ | .csrr _ d _ | .cntr _ d _ | .clk _ d _ => ⟨[], [.s d.toNat]⟩
  | .sfork _ a b => ⟨[.s a.toNat, .s b.toNat], []⟩
  | .sadd _ d a b | .ssub _ d a b | .smul _ d a b | .sand _ d a b | .sor _ d a b | .sxor _ d a b | .sshl _ d a b | .sshr _ d a b
  | .ssra _ d a b => ⟨[.s a.toNat, .s b.toNat], [.s d.toNat]⟩
  | .smulh _ d a b _ | .sdiv _ d a b _ | .srem _ d a b _ | .smin _ d a b _ | .smax _ d a b _ | .saddr _ d a b _ =>
    ⟨[.s a.toNat, .s b.toNat], [.s d.toNat]⟩
  | .scmp _ _ k a b _ => ⟨[.s a.toNat, .s b.toNat], [.k k.toNat]⟩
  | .ssel _ d a b => ⟨[.s d.toNat, .s a.toNat, .s b.toNat], [.s d.toNat]⟩
  | .smov _ d a | .sclz _ d a | .spopc _ d a => ⟨[.s a.toNat], [.s d.toNat]⟩
  | .saddi _ d a _ | .ssext _ d a _ => ⟨[.s a.toNat], [.s d.toNat]⟩
  | .sshli _ d a _ | .sshri _ d a _ | .ssrai _ d a _ => ⟨[.s a.toNat], [.s d.toNat]⟩
  | .sbfx _ d a _ _ => ⟨[.s a.toNat], [.s d.toNat]⟩
  | .sbfi _ d a _ _ => ⟨[.s a.toNat, .s d.toNat], [.s d.toNat]⟩
  | .slih _ d _ => ⟨[.s d.toNat], [.s d.toNat]⟩
  | .swr _ d _ | .csrw _ d _ => ⟨[.s d.toNat], []⟩
  | .sld _ d a _ => ⟨[.s a.toNat], selOpd d.toNat⟩
  | .sst _ d a _ => ⟨.s a.toNat :: selOpd d.toNat, []⟩
  | .vadd _ d a b x | .vsub _ d a b x | .vmul _ d a b x | .vmin _ d a b x | .vmax _ d a b x | .vshl _ d a b x | .vshr _ d a b x
  | .vsra _ d a b x | .vrshr _ d a b x => ⟨vt s a.toNat ++ bt s x b.toNat, vt s d.toNat⟩
  | .vmad _ d a b x | .vmsb _ d a b x | .vsel _ d a b x => ⟨vt s a.toNat ++ bt s x b.toNat ++ vt s d.toNat, vt s d.toNat⟩
  | .vabs _ d a | .vneg _ d a | .vclz _ d a | .vpopc _ d a | .vrcp _ d a | .vrsq _ d a | .vexp2 _ d a | .vlog2 _ d a | .vsin _ d a
  | .vcos _ d a => ⟨vt s a.toNat, vt s d.toNat⟩
  | .vand _ d a b x | .vor _ d a b x | .vxor _ d a b x => ⟨vs s a.toNat 1 ++ bs s x b.toNat 1, vs s d.toNat 1⟩
  | .vnot _ d a | .vmovV _ d a => ⟨vs s a.toNat 1, vs s d.toNat 1⟩
  | .vmovS _ d b => ⟨[.s b.toNat], vs s d.toNat 1⟩
  | .vli _ d _ => ⟨[], vs s d.toNat 1⟩
  | .vlane _ d _ => ⟨[], vs s d.toNat 1⟩
  | .vcmp _ _ _ k a b x => ⟨vt s a.toNat ++ bt s x b.toNat, [.k k.toNat]⟩
  | .vbcsImm _ d a p => ⟨[.v a.toNat [p.toNat]], [.s d.toNat]⟩
  | .vbcsReg _ d a b => ⟨[.s b.toNat, .v a.toNat [(sget s b.toNat).toNat % 32]], [.s d.toNat]⟩
  | .vdot4 _ d a b x | .vdot2 _ d a b x | .vsad _ d a b x =>
    ⟨typed s ++ vs s a.toNat 1 ++ bs s x b.toNat 1 ++ vs s d.toNat 1, vs s d.toNat 1⟩
  | .vcvt _ d a _ t =>
    let src := if t.toNat = 11 ∧ a.toNat % 2 = 1 then [.bad] else vs s a.toNat (tyRegs t.toNat)
    ⟨src ++ (if tyCount t.toNat < tyCount (ty s) then vt s d.toNat else typed s), vt s d.toNat⟩
  | .vpack _ d a b x | .vscl _ d a b x => ⟨typed s ++ vs s a.toNat 1 ++ bs s x b.toNat 1, vs s d.toNat 1⟩
  | .vunpk _ d a => ⟨typed s ++ vs s a.toNat 1, vs s d.toNat 2⟩
  | .vrq _ d a b x => ⟨typed s ++ vs s a.toNat (if accRq (ty s) then tyCount (ty s) else 1) ++ bs s x b.toNat 1, vs s d.toNat 1⟩
  | .vshfl _ d a b x =>
    ⟨bs s x b.toNat 1 ++ [.v a.toNat ((active s).map (fun p => (bRaw s x b.toNat p).toNat % 32))], vs s d.toNat 1⟩
  | .vshfli _ d a m c => ⟨[.v a.toNat ((active s).map (shflSrc m.toNat c.toNat))], vs s d.toNat 1⟩
  | .vred _ d a _ | .vscan _ d a _ _ => ⟨vt s a.toNat, vt s d.toNat⟩
  | .vprune _ d a b x =>
    ⟨typed s ++ [.v a.toNat (fullLanes s)] ++ (if x = 0 then [.v b.toNat ((fullGroups s).map (8 * ·))] else [.s b.toNat]),
      [.v d.toNat (fullLanes s), .v (d.toNat + 1) (fullLanes s)]⟩
  | .vspdot _ d a b x =>
    ⟨typed s ++ vs s a.toNat 2 ++ (if x = 0 then vs s b.toNat 2 else [.s b.toNat, .s (b.toNat + 1)]) ++ vs s d.toNat 1, vs s d.toNat 1⟩
  | .vnzc _ d a | .vnzb _ d a | .vterm _ d a => ⟨vt s a.toNat, vs s d.toNat 1⟩
  | .kand _ d a b _ | .kor _ d a b _ | .kxor _ d a b _ => ⟨[.k a.toNat, .k b.toNat], [.k d.toNat]⟩
  | .knot _ d a | .kmov _ d a => ⟨[.k a.toNat], [.k d.toNat]⟩
  | .kany _ d a | .kall _ d a | .kcnt _ d a | .kbits _ d a => ⟨[.k a.toNat], [.s d.toNat]⟩
  | .kfromv _ d a => ⟨vs s a.toNat 1, [.k d.toNat]⟩
  | .ktov _ d a => ⟨[.k a.toNat], vs s d.toNat 1⟩
  | .ld _ d a b | .ldw _ d a b => ⟨.s a.toNat :: vs s b.toNat 1, vt s d.toNat⟩
  | .st _ d a b | .stw _ d a b => ⟨.s a.toNat :: vs s b.toNat 1 ++ vt s d.toNat, []⟩
  | .ldi _ d a _ => ⟨[.s a.toNat], vt s d.toNat⟩
  | .sti _ d a _ => ⟨.s a.toNat :: vt s d.toNat, []⟩
  | .ldt _ d a b => ⟨[.s a.toNat, .s b.toNat], tileRun s d b⟩
  | .stt _ d a b => ⟨[.s a.toNat, .s b.toNat] ++ tileRun s d b, []⟩
  | .ldb _ d a b => ⟨typed s ++ .s a.toNat :: (if a.toNat < 63 then [.s (a.toNat + 1)] else []) ++ vs s b.toNat 1, vs s d.toNat 1⟩
  | .aadd _ d a b | .amin _ d a b | .amax _ d a b | .aand _ d a b | .aor _ d a b | .axor _ d a b | .axch _ d a b =>
    ⟨.s a.toNat :: vs s b.toNat 1 ++ vt s d.toNat, vt s d.toNat⟩
  | .acas _ d a b => ⟨.s a.toNat :: vs s b.toNat 1 ++ vt s d.toNat ++ vt s (d.toNat + tyRegs (ty s)), vt s d.toNat⟩
  | .rdadd _ d a b | .rdmin _ d a b | .rdmax _ d a b | .rdand _ d a b | .rdor _ d a b | .rdxor _ d a b =>
    ⟨.s a.toNat :: vs s b.toNat 1 ++ vt s d.toNat, []⟩
  | .rdx _ d a b => ⟨[.s a.toNat, .s (a.toNat + 1)] ++ vs s b.toNat 1 ++ vt s d.toNat ++ vs s (d.toNat + tyRegs (ty s)) 1, []⟩
  | .pref _ _ a b => ⟨.s a.toNat :: vs s b.toNat 1, []⟩
  | .barx _ a b | .bari _ a b | .qcfg _ a b => ⟨below 16 a.toNat ++ is s b.toNat 1, []⟩
  | .qpush _ d a => ⟨entryRun s d a (entryLanes s a), []⟩
  | .qpop _ d a => ⟨[], entryRun s d a (liveEntryLanes s a)⟩
  | .qpeek _ d a b => ⟨[], entryRun s d a (liveEntryLanes s a) ++ is s b.toNat 1⟩
  | .launch _ d a => ⟨.s a.toNat :: vs s d.toNat 16, []⟩
  | .mx _ c se _ _ v _ _ => ⟨below s.gang.pkt.accs c.toNat ++ [.e se.toNat, .e v.toNat], []⟩
  | .mxbound _ d a | .emov _ d a => ⟨[.e a.toNat], [.e d.toNat]⟩
  | .eshl _ d a _ | .eshr _ d a _ => ⟨[.e a.toNat], [.e d.toNat]⟩
  | .acst _ d a b => ⟨below s.gang.pkt.accs a.toNat ++ [.e d.toNat, .e b.toNat], []⟩
  | .acld _ d a b => ⟨below s.gang.pkt.accs d.toNat ++ [.e a.toNat, .e b.toNat], []⟩
  | .cpldSlot _ d a b => ⟨below 16 d.toNat ++ is s a.toNat 2 ++ is s b.toNat 1, []⟩
  | .cpldSp _ a b | .cpst _ a b => ⟨is s a.toNat 2 ++ is s b.toNat 1, []⟩
  | .cpss _ a b => ⟨is s a.toNat 3 ++ is s b.toNat 1, []⟩
  | .bsealStatus _ d a => ⟨below 16 d.toNat ++ is s a.toNat 1, []⟩
  | .bwaitReg _ a => ⟨is s a.toNat 1, []⟩
  | .lease _ d a b => ⟨below 16 d.toNat ++ is s a.toNat 1 ++ is s b.toNat 1, []⟩
  | .ecmd _ d a b => ⟨below 16 d.toNat ++ is s a.toNat 1 ++ is s b.toNat 4, []⟩
  | .swbind _ a b => ⟨is s a.toNat 1 ++ is s b.toNat 3, []⟩
  | .swunb _ a => ⟨is s a.toNat 1, []⟩
  | .eadd _ d a b | .esub _ d a b => ⟨[.e a.toNat, .e b.toNat], [.e d.toNat]⟩
  | .eli _ d _ | .efroms _ d _ => ⟨[], [.e d.toNat]⟩
  | .elih _ d _ => ⟨[.e d.toNat], [.e d.toNat]⟩
  | .xjz _ d _ | .xjnz _ d _ => ⟨[.e d.toNat], []⟩
  | _ => ⟨[], []⟩

/-! ## Pending writes (R37) -/

/-- Two operands name one register. -/
def Opd.same : Opd → Opd → Bool
  | .v r _, .v r' _ => r = r'
  | .s r, .s r' => r = r'
  | .e r, .e r' => r = r'
  | .k n, .k n' => n = n'
  | _, _ => false

/-- The state as an issued, held instruction reads it: the registers, MODE and format registers of its issue (R37, R164, R207), and the windows
that are closed to accesses issued when it was (R114). -/
def withCapture (s : State) (c : Capture) : State :=
  { s with accStamp := some c.stamp, grp := { s.grp with v := c.v, k := c.k, s := c.s, mode := c.mode }, crew := { s.crew with f := c.f } }

/-- What an instruction with these words that is held from now on has read. -/
def captureOf (s : State) (w : BitVec 32) (rest : List (BitVec 32)) : Capture :=
  ⟨w, rest, s.grp.v, s.grp.k, s.grp.s, s.grp.mode, s.crew.f, s.nextItem⟩

/-- The writes pending of a split that holds an issued instruction; of the arrivals at one RWAIT none waits for another (R44). -/
def pendingOf (s : State) (x : Split) : List Opd :=
  match x.cap with
  | none => []
  | some c =>
    if x.inRwait s.split.pc then []
    else match decode c.word c.rest with
    | .ok i => (uses (withCapture { s with split := x } c) i).writes
    | .error _ => []

/-- A source or destination of the instruction has a pending write of another split of the group. -/
def pendingHit (s : State) (i : Instr) : Bool :=
  let p := s.grp.splits.flatMap (pendingOf s)
  let u := uses s i
  p ≠ [] && (u.reads ++ u.writes).any (fun o => p.any (fun q => q.same o))

/-- Storage as the instruction leaves it, where it read `cap` and wrote `out`, over what stands there now. -/
def mergeStore {w : Nat} (cap out live : Store w) : Store w :=
  (cap.cells ++ out.cells).foldl (fun m c => if out.get c.1 = cap.get c.1 then m else m.put c.1 (out.get c.1)) live

/-- The state after a held instruction has gone on: its writes over the registers that stand there now; the records of the lanes that it has
exiled hold the MODE that the group has now (R41). -/
def uncapture (live s : State) (c : Capture) : State :=
  { s with accStamp := live.accStamp,
           grp := { s.grp with v := mergeStore c.v s.grp.v live.grp.v, k := live.grp.k, s := mergeStore c.s s.grp.s live.grp.s,
                               mode := live.grp.mode },
           crew := { s.crew with f := live.crew.f, recs := s.crew.recs.take live.crew.recs.length ++
             (s.crew.recs.drop live.crew.recs.length).map (fun r => { r with mode := live.grp.mode }) } }

/-- The state that an instruction held since its issue goes on with. An RWAIT has read its count when it arrived: it goes on with the registers
that stand now, of the lanes too that have come to it since (R44). -/
def resumed (s : State) (c : Capture) : State := if s.split.inRwait s.split.pc then s else withCapture s c

/-- The state `s` after such an instruction, issued in a split of `live`. -/
def putBack (live s : State) (c : Capture) : State := if live.split.inRwait live.split.pc then s else uncapture live s c

/-! ## Damaged registers (R171, R420) -/

/-- The protected units of an operand. -/
def Opd.cells (s : State) : Opd → List Cell
  | .v r ps => ps.map (fun p => .vreg s.gid s.crew.no s.grp.key (32 * r + p))
  | .s r => [.sreg s.gid s.crew.no s.grp.key r]
  | .e r => [.ereg s.gid s.crew.no r]
  | _ => []

/-- The operand is of the issuer's classes and in range (R159). -/
def Opd.ok (s : State) : Opd → Bool
  | .v r _ => r < regsOf s
  | .s r => r < 64
  | .e r => r < 32
  | .k n => n < 8
  | .bad => false

/-- A command that a stream's guard discards or holds back reads no register (R51, R166). -/
def guardedOff (s : State) (i : Instr) : Bool :=
  isStream s && guardState s ≠ some true && match i with
    | .mx .. | .mxz .. | .acst .. | .acld .. | .cpldSlot .. | .cpldSp .. | .cpst .. | .cpss .. | .ecmd .. | .swbind .. | .swunb .. => true
    | _ => false

/-- A source register read finds an uncorrectable error; the checks of class, must-be-zero, range and type come first (R171). -/
def sourceBad (s : State) (i : Instr) : Bool :=
  if s.damaged = [] || guardedOff s i then false
  else
    let u := uses s i
    ((i.opcode.map (fun o => classOk o s)).getD false) && (u.reads ++ u.writes).all (Opd.ok s) &&
      (u.reads.flatMap (Opd.cells s)).any (fun c => s.damaged.contains c)

/-- The instruction issued in `s0` has taken effect. -/
def tookEffect (s : State) : Bool :=
  !s.stalled && holdOf s = .none && (if isStream s then s.crew.strm.stop = none else s.split.stop = none)

/-- The units that the instruction has written whole are mended. -/
def mendRegs (s0 s : State) (i : Instr) : State :=
  if s0.damaged = [] ∨ !tookEffect s then s
  else
    let ws := (uses s0 i).writes.flatMap (Opd.cells s0)
    { s with damaged := s.damaged.filter (fun c => !ws.contains c) }

/-! ## A residue mismatch (R172) -/

/-- An operand left undefined. -/
def spoilOpd (s : State) : Opd → State
  | .v r ps => (ps.foldl (fun s p => vput s r p (Config.freeBits 32 s.fresh (32 * r + p))) s).freshen
  | .s r => (sput s r (Config.freeBits 64 s.fresh r)).freshen
  | .e r => (eput s r (Config.freeBits 64 s.fresh r)).freshen
  | .k n => ((active s).foldl (fun s p => kput s n p ((Config.freeBits 32 s.fresh n).getLsbD p)) s).freshen
  | .bad => s

/-- The accesses by which an instruction writes memory. -/
def storeAccs (s : State) : Instr → List LaneAcc
  | .st _ _ a b | .stw _ _ a b => laneAccs s (memWidth s) (gatherAddr s a.toNat b.toNat)
  | .sti _ _ a i => laneAccs s (memWidth s) (linearAddr s a.toNat i (memWidth s))
  | .stt _ _ a b => (tileAccs s a.toNat (sget s b.toNat)).map (·.1)
  | .sst _ _ a i => [⟨0xFF, scalarAddr s a i, 8⟩]
  | .aadd _ _ a b | .amin _ _ a b | .amax _ _ a b | .aand _ _ a b | .aor _ _ a b | .axor _ _ a b | .axch _ _ a b | .acas _ _ a b
  | .rdadd _ _ a b | .rdmin _ _ a b | .rdmax _ _ a b | .rdand _ _ a b | .rdor _ _ a b | .rdxor _ _ a b =>
    laneAccs s (atomWidth s) (gatherAddr s a.toNat b.toNat)
  | .rdx _ d a b => laneAccs s (atomWidth s) (gatherAddr s a.toNat b.toNat) ++
      (active s).map (fun p => ⟨p, gangBase + (vget s (d.toNat + tyRegs (ty s)) p).toNat, atomWidth s⟩)
  | .sgadv _ a => (List.range (((mySg s).map (fun y => y.2.2.g)).getD 0)).map (fun i =>
      ⟨0xFF, (sget s a.toNat + BitVec.ofNat 64 (4 * i)).toNat, 4⟩)
  | _ => []

/-- MODE left undefined: every value it can hold is legal (R163). -/
def spoilMode (s : State) : State :=
  let m := Config.freeBits 32 s.fresh 0
  (if modeLegal m then setMode s m else s).freshen

/-- ls, lc, lk or a format register left undefined, by the selector that names it in SWR (R206); ls and lk stay word-aligned. -/
def spoilSel (s : State) (sel : Nat) : State :=
  let v := Config.freeBits 64 s.fresh sel
  (if swrSel sel then swrPut s sel (if sel = 0x021 then v else v <<< 2) else s).freshen

/-- A guard slot left undefined: true, false or unresolved. -/
def spoilGuard (s : State) (n : Nat) : State :=
  let v := Config.freeBits 2 s.fresh n
  (setOwn s (fun c => { c with guards := if v.getLsbD 1 then adel n c.guards else aput n (v.getLsbD 0) c.guards })).freshen

/-- The slot of a ring that a push would have written left undefined. -/
def spoilTail (s : State) (a : BitVec 7) : State :=
  match queueOf s a with
  | none => s
  | some q =>
    let o := q.slotOff q.pushers.length
    let junk := (List.range q.size).map (fun i => Config.freeBits 8 s.fresh i)
    ((List.range q.size).foldl (fun s i => mend s (.spad s.crew.no (o + i)))
      (setOwn s (fun c => { c with spad := memPutBytes c.spad o junk }))).freshen

/-- What an instruction writes beside registers and memory, left undefined: MODE, ls, lc and lk, the format registers, the mark, the generator,
tokens, guard slots and the slots of queues. -/
def spoilSpecial (s : State) : Instr → State
  | .setmode .. | .setmodev .. => spoilMode s
  | .lpsImm .. | .lpsReg .. => spoilSel (spoilSel s 0x020) 0x021
  | .swr _ _ i => spoilSel s i.toNat
  | .sld _ d _ _ => if d.toNat = 64 then spoilSel s 0x022 else if d.toNat = 65 then spoilSel s 0x020 else if d.toNat = 66 then spoilSel s 0x021 else s
  | .csrw .. => (setGrp s (fun g => { g with mark := Config.freeBits 64 s.fresh 0 })).freshen
  | .seed .. => (setGen s (Config.freeBits 32 s.fresh 0 ||| 1)).freshen
  | .fnc _ d _ | .bseal _ d | .bsealStatus _ d _ | .lease _ d _ _ => (tput s d.toNat { Tok.zero with val := Config.freeBits 64 s.fresh 0 }).freshen
  | .gset _ a | .gclr _ a | .gclrUnres _ a => spoilGuard s a.toNat
  | .qpush _ _ a => spoilTail s a
  | _ => s

/-- RESIDUE: the destinations of the instruction, in registers and in memory, hold undefined values, and the split issues nothing more (R172). -/
def residueFault (s : State) (i : Instr) : State :=
  let s1 := raise s (fx .residue)
  if s1.stalled then s1
  else
    let s2 := (uses s i).writes.foldl spoilOpd s1
    spoilSpecial (if storeAccs s i = [] then s2 else spoilMem s2 (storeAccs s i)) i

end Sys2Proof.Machine
end

