-- ==== Sys2Proof/Machine/Fetch.lean ====
section
/-! DEFINITION. Fetching (R170), the order in which issuers are tried (R36), the passing of time, and the placing of a
program that the first step fetches. -/
namespace Sys2Proof.Machine

/-- One instruction word of global memory (R170). Of a store into the code of a running grid the spec lets the grid fetch the old or the new
word: the word that memory holds at the turn is the one fetched (DESIGN CHOICE, log 87). -/
def fetchWord (s : State) (va : Nat) : Except Fx (BitVec 32) :=
  if regionOf va ≠ .global then .error (accFx (.prot false) 1 0xFF va false)
  else
    match (List.range 4).mapM (fun i => translate s s.gang.ctx (va + i) .fetch) with
    | .error e => .error (accFx e 1 0xFF va false)
    | .ok ls =>
      if readsBad s ls .fetch then .error (accFx .ecc 1 0xFF va false) else .ok (BitVec.ofNat 32 (locsNat s ls))

def fetchWords (s : State) : Nat → Nat → Except Fx (List (BitVec 32))
  | 0, _ => .ok []
  | n + 1, va =>
    match fetchWord s va with
    | .error f => .error f
    | .ok w =>
      match fetchWords s n (va + 4) with
      | .error f => .error f
      | .ok r => .ok (w :: r)

/-- The word at the pc, with the target words of an XBTAB (R170). -/
def fetch (s : State) : Except Fx (BitVec 32 × List (BitVec 32)) :=
  match fetchWord s (pcOf s).toNat with
  | .error f => .error f
  | .ok w =>
    if opcodeOf w = 0x07 then
      match fetchWords s (fldN w 0 8 + 1) ((pcOf s).toNat + 4) with
      | .error f => .error f
      | .ok r => .ok (w, r)
    else .ok (w, [])

/-- A word that decodes to nothing: ILLEGAL_CONTEXT outranks a must-be-zero bit (R171). -/
def undecodable (e : DecodeError) (s : State) : State :=
  match e with
  | .mustBeZero op => if classOk op s then raise s (fx .illegalOp) else raise s (fx .illegalContext)
  | .missingTargets => raise s (fx .illegalOp)

/-- A split of a group, or the stream of a crew. -/
structure Cand where
  gang : Nat
  crew : Nat
  split : Option (Nat × Nat)
  deriving DecidableEq, Repr

/-- The issuer loaded. -/
def load (s : State) (c : Cand) : Option State :=
  match focusCrew s c.gang c.crew with
  | none => none
  | some s1 =>
    match c.split with
    | some (k, ix) => focusSplit s1 k ix
    | none => some { s1 with cur := .stream }

def unload (s : State) : State := unfocusCrew s

/-- The split is held in its instruction, or waits for the page of the instruction itself (R170). -/
def Hold.fetching : Hold → Bool
  | .page _ f => f.src = 1
  | _ => false

/-- A split that may issue: not stopped, and not waiting for a page. -/
def Split.runnable (x : Split) : Bool := x.stop = none && !x.hold.isPage

/-- The words of an instruction that holds the loaded stream stay with it: they are fetched once, at its issue (R38, R170); the stream has issued in
this cycle. -/
def keepWords (s : State) (w : BitVec 32) (rest : List (BitVec 32)) : State :=
  setStrm s (fun x => { x with cap := if x.hold ≠ .none ∧ !x.hold.fetching then some (w, rest) else none, went := true })

/-- What an issue adds beside the instruction's effect: ISSUE counts it once, its slot is the last issued of its pipe (R36), and what the
instruction has read stays with a split that it holds. An instruction whose own word waits for a page has not issued. The fetch and the accesses of
an instruction may miss the TLB and L1, and those of its replay again (R10, R211). -/
def account (before after : State) (w : BitVec 32) (rest : List (BitVec 32)) : State :=
  let core := before.crew.core
  if isStream before then countMisses (keepWords after w rest) core
  else if before.cur = .group then
    let held := after.split.hold ≠ .none ∧ !after.split.hold.fetching
    let s1 := if after.cur = .group then
        setSplit (if held ∧ before.split.cap = none then { after with nextItem := after.nextItem + 1 } else after) (fun x =>
          { x with cap := if held then (if before.split.cap = none then some (captureOf before w rest) else before.split.cap) else none })
      else after
    if before.split.cap.isSome ∨ after.split.hold.fetching then (if memOpcode (opcodeOf w) then countMisses s1 core else s1)
    else
      let p := before.grp.slot % 4
      let s2 := bump s1 core 0x10 1
      let c := coreOf s2 core
      countMisses (setCore s2 core { c with last := c.last.set p before.grp.slot, issued := c.issued.set p (c.issued.getD p 0 + 1) }) core
  else after

/-- The splits of a group, lowest pc first (R36). Of ready splits with equal PC that do not merge the manual names no first: they are tried in the
order of the list (DESIGN CHOICE, log 81). -/
def splitCands (gid crew : Nat) (g : Group) : List Cand :=
  let l := (g.splits.zipIdx).filter (fun x => x.1.runnable)
  (sortBy (fun (x : Split × Nat) => x.1.pc.toNat) l).map (fun x => ⟨gid, crew, some (g.key, x.2)⟩)

/-- The groups of a pipe of a core, from the slot above the one that issued last (R36). -/
def pipeCands (s : State) (core p : Nat) : List Cand :=
  let gs := (s.gangs.filter (fun g => !g.2.halt)).flatMap (fun g => g.2.crews.flatMap (fun c =>
    if c.2.core = core then (liveGroups c.2).filterMap (fun x => if x.slot % 4 = p % 4 then some (g.1, c.1, x) else none) else []))
  let last := (coreOf s core).last.getD (p % 4) 63
  (sortBy (fun (x : Nat × Nat × Group) => (x.2.2.slot + 63 - last) % 64) gs).flatMap (fun x => splitCands x.1 x.2.1 x.2.2)

/-- The stream of a crew, while it runs. -/
def streamCands (s : State) (gid crew : Nat) : List Cand :=
  match (aget s.gangs gid).bind (fun g => if g.halt then none else aget g.crews crew) with
  | none => []
  | some c =>
    if c.strm.st = .running ∧ c.strm.stop = none ∧ c.strm.hold.isPage = false then [⟨gid, crew, none⟩] else []

/-- Entries whose deadline lies in the past complete (R152); one whose deadline is now may still take an arrival, and
completes by SG_DEADLINE. -/
def passDeadlines (s : State) : State :=
  s.clusters.foldl (fun s c => c.2.sg.foldl (fun s e =>
    let now := (((aget s.gangs e.2.gang).bind (fun g => aget s.ctxs g.ctx)).map (fun c => c.ctxtime.toNat)).getD 0
    match e.2.deadline with
    | some d => if !e.2.complete ∧ d < now then setSg s c.1 e.1 e.2.complete' else s
    | none => s) s) s

/-- A cluster is idle (R392); a gang that has ended holds no core of it (R54). -/
def clusterIdle (s : State) (cl : Nat) : Bool :=
  let c := clusterOf s cl
  c.sg = [] && c.queues.all (fun q => q.2 = []) && c.engines.all (fun e => e.2.lease = none && e.2.power = .dark) &&
    s.gangs.all (fun g => g.2.gone || g.2.crews.all (fun x => x.2.core / 8 ≠ cl))

/-- Clusters that are not idle are so until the time t. -/
def markBusy (s : State) (t : Nat) : State :=
  (List.range 24).foldl (fun s cl => if clusterIdle s cl then s else setCluster s cl { clusterOf s cl with busyAt := t }) s

/-! ## The passing of time on the cores (R18, R44, R211, R213) -/

/-- The gang is resident and its issuers go on. %ctxtime counts by this: a stopped gang that still stands on its cores does not count (log 100). -/
def Gang.runs (g : Gang) : Bool := !g.halt && !g.gone

/-- The count of an RWAIT has elapsed. -/
def Split.elapsed (x : Split) : Bool :=
  x.stop = none && match x.hold with
    | .rwait _ _ 0 => true
    | _ => false

/-- The RWAITs of a group that have elapsed end, at most n of them. -/
def expireGroup (key : Nat) : Nat → State → State
  | 0, s => s
  | n + 1, s =>
    match (aget s.crew.groups key).bind (fun g => g.splits.findIdx? Split.elapsed) with
    | none => s
    | some i => expireGroup key n (expireSplit s key i)

/-- The RWAITs that have elapsed and that no lane of their last cycle has completed end with a shortfall (R44). -/
def expireWaits (s : State) : State :=
  let todo := (s.gangs.filter (fun g => g.2.runs)).flatMap (fun g => g.2.crews.flatMap (fun c =>
    (c.2.groups.filter (fun x => x.2.splits.any Split.elapsed)).map (fun x => (g.1, c.1, x.1, x.2.splits.length))))
  todo.foldl (fun s x => onCrew s x.1 x.2.1 (expireGroup x.2.2.1 x.2.2.2)) s

/-- An RWAIT after n more cycles. -/
def Split.age (x : Split) (n : Nat) : Split :=
  match x.hold with
  | .rwait d nx left => { x with hold := .rwait d nx (left - n) }
  | _ => x

/-- The cycle of its core in which the reading of the A slot by the step that runs ends: after its last term cycle (R82). -/
def readEnd (c : Core) : Nat := (c.run.bind (fun x => x.since.map (fun t => t + x.plan.width))).getD 0

/-- Of the next `cyc` cycles of a core, those for which a copy waits on the write-after-read interlock: until the running step has read its A slot
where no other step still has to read the slot (R82, R87). -/
def waitOf (s : State) (core cyc : Nat) (b : Batches) (i : Item) : Nat :=
  let running := fun (j : Item) => (coreOf s core).run.any (fun x => (stepAt s x.item).any (fun y => y.2.stamp = j.stamp))
  match i.op with
  | .cpld (some n) _ _ _ _ _ =>
    if (b.before i).any (fun j => j.reads n && !running j) then cyc else min cyc (readEnd (coreOf s core) - coreCycles s core)
  | _ => 0

/-- The cycles for which the copies of a core wait on the write-after-read interlock in its next `cyc` cycles (R87). -/
def interlockedOn (s : State) (core cyc : Nat) : Nat :=
  ((crewsOf s core).map (fun x =>
    ((x.2.strm.bat.open_.filter x.2.strm.bat.interlocked).map (waitOf s core cyc x.2.strm.bat)).foldl (· + ·) 0)).foldl (· + ·) 0

/-- What the next `cyc` cycles of a core add to the counters of its engine: the terms, waits and skipped rows of the step that runs, and the cycles
of the latch load of the chosen step in which no step runs (R67, R68, R87). -/
def countEngine (s : State) (core cyc : Nat) : State :=
  let c := coreOf s core
  let now := coreCycles s core
  let s1 := match c.run.bind (fun x => x.since.map (fun t => (x.plan, t))) with
    | none => s
    | some (p, t) =>
      let add := fun (s : State) (ix : Nat) (l : List (Nat × Nat)) => bump s core ix (ranBy l (now + cyc - t) - ranBy l (now - t))
      add (add (add s 0 p.terms) 1 p.waits) 2 [(p.width, p.skip)]
  match c.nxt.bind (fun x => x.since) with
  | none => s1
  | some w =>
    let free := (c.run.bind (fun x => x.since.map (fun t => t + x.plan.cycles))).getD 0
    bump s1 core 3 (min (now + cyc) (w + 16) - max now (max w free))

/-- The copies of a crew that waited in the cycles now past, which MXWAR has counted. -/
def Crew.countedWaits (c : Crew) : Crew :=
  let b := c.strm.bat
  if b.open_.any b.interlocked then
    let g := fun (l : List Item) => l.map (fun i => if b.interlocked i then { i with waited := false } else i)
    { c with strm := { c.strm with bat := { b with items := g b.items, sealed := b.sealed.map (fun x => { x with items := g x.items }) } } }
  else c

/-- A crew of a gang that runs after n cycles of its core: its RWAITs count. -/
def Crew.age (c : Crew) (n : Nat) : Crew :=
  { c with groups := c.groups.map (fun x => (x.1, { x.2 with splits := x.2.splits.map (fun y => y.age n) })) }

/-- The crew's stream has not issued in the cycle that begins. -/
def Crew.nextTurn (c : Crew) : Crew := { c with strm := { c.strm with went := false } }

/-- The gangs after n slate cycles: the RWAITs of those that run count, and the waits of copies that MXWAR has counted are marked. -/
def ageWaits (s : State) (n : Nat) : List (Nat × Gang) :=
  s.gangs.map (fun g => (g.1, { g.2 with crews := g.2.crews.map (fun c =>
    let k := cyclesIn s c.2.core n
    let c1 := (if k = 0 then c.2 else c.2.countedWaits).nextTurn
    (c.1, if g.2.runs then c1.age k else c1)) }))

/-- The instruction that holds the split is a QPUSH or QPOP. -/
def Split.inQueue (x : Split) : Bool :=
  x.hold = .wait && x.cap.any (fun c => opcodeOf c.word = 0x95 || opcodeOf c.word = 0x96)

/-- The live groups of the gangs on a core, with their crews. -/
def groupsOn (s : State) (core : Nat) : List (Crew × Group) :=
  (crewsOn s core).flatMap (fun x => (liveGroups x.2).map (fun g => (x.2, g)))

/-- The latch windows that have opened since the last cycle open in the present one (R66). -/
def openWindows (s : State) : State :=
  s.cores.foldl (fun s c => match c.2.nxt with
    | none => s
    | some x => if x.since = none ∧ windowOpen s x then
        setCore s c.1 { c.2 with nxt := some { x with since := some (coreCycles s c.1) } } else s) s

/-- What n slate cycles add to the time counters of a core that has a crew (R87, R211): IDLE for each pipe with a group and no issue, QSTALL and
BARWAIT for each group that waits, MXWAR for each copy that waits on an interlock, and the engine's counters. -/
def countCycles (s : State) (n core : Nat) : State :=
  let c := coreOf s core
  let cyc := cyclesIn s core n
  let gs := groupsOn s core
  let idle := ((List.range 4).map (fun p => if gs.any (fun g => g.2.slot % 4 = p) then cyc - c.issued.getD p 0 else 0)).foldl (· + ·) 0
  let many := fun (f : Crew → Split → Bool) => cyc * (gs.filter (fun g => g.2.splits.any (f g.1))).length
  let s0 := bump (countEngine s core cyc) core 4 (interlockedOn s core cyc)
  let s1 := bump (bump (bump s0 core 0x11 idle) core 0x16 (many (fun _ => Split.inQueue))) core 0x17 (many (fun c x => x.waitsBar c))
  setCore s1 core { coreOf s1 core with issued := [0, 0, 0, 0], idleAt := if crewsOn s core = [] then c.idleAt else coreSixteenths s core n / 16 }

/-- The running steps whose last term cycle has passed have read their A slots (R82). -/
def endReads (s : State) : State :=
  s.cores.foldl (fun s c => match c.2.run with
    | none => s
    | some x => if (stepAt s x.item).any (fun y => !y.2.readA) ∧ readEnd c.2 ≤ coreCycles s c.1 then
        onCrew s x.item.who.gang x.item.who.crew (fun s1 => updItem s1 x.item (fun j => { j with readA := true })) else s) s

/-- The cores that hold a crew, or have issued since the last cycle. -/
def countedCores (s : State) : List Nat :=
  (s.gangs.flatMap (fun g => g.2.crews.map (fun c => c.2.core)) ++
    (s.cores.filter (fun c => c.2.issued.any (· ≠ 0))).map (·.1)).eraseDups

/-- n slate cycles pass (R22, R44, R213). The count of %ctxtime advances while a gang of the context is resident and
not stopped: R22 pauses it while no gang is resident and R29 across a whole pause, and what it does while the one gang still stands stopped on its cores
is open; it pauses from the stop (DESIGN CHOICE, log 100). -/
def tick (s0 : State) (n : Nat) : State :=
  let s1 := openWindows (expireWaits s0)
  let s := (countedCores s1).foldl (fun s c => countCycles s n c) (markBusy s1 (s1.clock.toNat + n))
  passDeadlines (endReads
    { s with ambTime := s.ambTime + n,
             gangs := ageWaits s n,
             clock := s.clock + BitVec.ofNat 64 n,
             ctxs := s.ctxs.map (fun c => if s.gangs.any (fun g => g.2.ctx = c.1 ∧ g.2.runs) then
               (c.1, { c.2 with ctxtime := c.2.ctxtime + BitVec.ofNat 64 n }) else c) })

/-! ## A program for the first step (log 12) -/

def progAddr : Nat := 0x100000
def progRoot : Nat := 0x10000
def progTable : Nat := 0x20000

def progPacket : Packet :=
  { Packet.zero with
    kaddr := BitVec.ofNat 64 progAddr, eaddr := BitVec.ofNat 64 progAddr, gx := 1, gy := 1, gz := 1, regs := 8, crew := 1, gang := 1,
    spad := 64, slots := 4, accs := 4, ctx := 1 }

def progCtx : Ctx :=
  { st := .running, part := 0, psize := 3, brken := false, save := 0, saveSize := 0, workRec := 0, memRec := 0, dqtab := 0, dqcnt := 0, dq := [], root := progRoot,
    rootSpace := 0, fbuf := 0x40000, fbufSpace := 0, fblog := 6, fbvec := 0, put := 0, btab := 0, bounds := [], pool := 0,
    poolUnits := 0, windows := [], closing := [], ctxtime := 0, image := [], prestaged := none, recSeq := 0, signalled := none }

def progGrid : Grid := ⟨1, progPacket, false, 0, 0, 1, 0, 0, none, 0, 0, false, none⟩

/-- Words in memory from the program's address. -/
def putWords (m : Store 8) : Nat → List (BitVec 32) → Store 8
  | _, [] => m
  | a, w :: r => putWords (memPut m 4 (physKey 0 a) w.toNat) (a + 4) r

/-- Both dies with power, a context with one page of 512 GiB that maps the first stacks, one gang of one group and one stream, the words at
its kernel address, and the turn of the issuer that may execute them. -/
def placeProgram (s : State) (ws : List (BitVec 32)) : State :=
  let op := match ws with
    | [] => 0
    | w :: _ => opcodeOf w
  let m1 := memPut s.mem 8 (physKey 0 progRoot) (1 + progTable / 4096 * 4096)
  let m2 := memPut m1 8 (physKey 0 progTable) (1 + 2 + 2 ^ 61 + 2 ^ 62 + 2 ^ 63)
  let s1 := { s with mem := putWords m2 progAddr ws, ctxs := aput 1 progCtx s.ctxs, grids := aput 0 progGrid s.grids,
                     nextGrid := s.nextGrid + 1, dark := [] }
  let g := newGang s1 0 0 progPacket 0
  let run := fun (c : Crew) => { c with strm := { c.strm with st := .running, pc := BitVec.ofNat 64 progAddr } }
  let s2 := placeGang s1 { g with crews := g.crews.map (fun c => (c.1, if classOf op = .streams then run c.2 else c.2)) }
  { s2 with agenda := [if classOf op = .streams then .stream s.nextGang 0 else .pipe 0 0] }

end Sys2Proof.Machine
end

