-- ==== Sys2Proof/Machine/Dispatcher.lean ====
section
/-! DEFINITION. The group former, the end of streams, gangs and grids, the dispatcher, and replay between units (R18, R32–R34,
R40–R43, R51–R59, R122, R135). -/
namespace Sys2Proof.Machine

/-! ## The group former (R42, R43) -/

/-- Class a is taken before class b. -/
def RecClass.before (a b : RecClass) : Bool :=
  let sib := fun (c : RecClass) => match c.sib with
    | none => 0
    | some (e, i) => 1 + 64 * e + i
  a.pc.toNat < b.pc.toNat || (a.pc = b.pc && (a.mode.toNat < b.mode.toNat || (a.mode = b.mode && sib a < sib b)))

/-- Classes to build now: 32 records, or marked at a flush point. -/
def readyClasses (c : Crew) : List RecClass :=
  ((c.recs.map SpawnRec.cls).eraseDups).filter (fun k => 32 ≤ (c.recs.filter (fun r => r.cls = k)).length || c.flush.contains k)

def firstClass (l : List RecClass) : Option RecClass :=
  l.foldl (fun b k => match b with
    | none => some k
    | some x => if k.before x then some k else some x) none

/-- The group built from records of one class; the phases standing now count as recorded (R262). -/
def builtGroup (s : State) (k : RecClass) (rs : List SpawnRec) (no slot : Nat) : Group :=
  let ls := rs.zipIdx
  let v := ls.foldl (fun st x => (x.1.v.zipIdx).foldl (fun st y => st.put (32 * y.2 + x.2) y.1) st) (Store.empty 32)
  let kb := (List.range 8).foldl (fun st n =>
    st.put n (BitVec.ofNat 32 (ls.foldl (fun m x => if x.1.k.getLsbD n then m + 2 ^ x.2 else m) 0))) (Store.empty 32)
  { launchGroup s.gang.pkt no slot with
    key := s.crew.nextGrp, formed := true, sib := k.sib, lanes := ls.map (fun x => (x.2, x.1.thread)), v := v, k := kb, mode := k.mode,
    recPhase := s.crew.bars.map (fun b => (b.1, b.2.phase)),
    splits := [{ Split.zero with mask := BitVec.ofNat 32 (2 ^ rs.length - 1), pc := k.pc }] }

/-- The units of a built group's v registers whose words held an uncorrectable error in their records (R420; log 82). -/
def builtBad (s : State) (key : Nat) (rs : List SpawnRec) : List Cell :=
  rs.zipIdx.flatMap (fun x => x.1.bad.map (fun r => .vreg s.gid s.crew.no key (32 * r + x.2)))

/-- Records without the first n of a class. -/
def takeRecs (k : RecClass) : Nat → List SpawnRec → List SpawnRec
  | 0, l => l
  | _, [] => []
  | n + 1, r :: l => if r.cls = k then takeRecs k n l else r :: takeRecs k (n + 1) l

/-- The former builds one group of the loaded crew, when a slot and register space are free. -/
def formGroup (s0 : State) : State :=
  let s := if autoFlush s0.crew then { s0 with crew := flushPoint s0.crew } else s0
  match firstClass (readyClasses s.crew) with
  | none => s
  | some k =>
    let core := s.crew.core
    let own := (liveGroups s.crew).map (fun g => g.no)
    match lowestFree (slotsUsed s core) 0 64, lowestFree own s.gang.pkt.crew (64 - s.gang.pkt.crew) with
    | some slot, some no =>
      if regBytes s core + regsOf s * 128 ≤ 512 * 1024 then
        let rs := (s.crew.recs.filter (fun r => r.cls = k)).take 32
        let g := builtGroup s k rs no slot
        let c := { s.crew with groups := aput g.key g s.crew.groups, nextGrp := s.crew.nextGrp + 1,
                               recs := takeRecs k rs.length s.crew.recs, flush := s.crew.flush.filter (· ≠ k) }
        bump { s with crew := c, damaged := builtBad s g.key rs ++ s.damaged } core 0x14 1
      else s
    | _, _ => s

/-- FORMER_BUILD in the crew `ev.who`. -/
def execFormerBuild (s : State) : Out := .next (onCrew s s.ev.who.gang s.ev.who.crew formGroup)

/-! ## The engine stream (R51, R53) -/

/-- The guard slot of the command at the stream's head has resolved: the decision is taken. -/
def releaseGuard (s : State) : State :=
  let x := s.crew.strm
  let n := guardOf x.mode
  if x.st = .running ∧ x.hold = .wait ∧ x.guard = none ∧ n ≠ 0 then
    match aget s.crew.guards (n - 1) with
    | none => s
    | some v => setStrm s (fun x => { x with guard := some (v != ginvOf x.mode), hold := .none })
  else s

def execGuardedCommandRelease (s : State) : Out := .next (onCrew s s.ev.who.gang s.ev.who.crew releaseGuard)

/-- An ending stream whose batches have all completed has ended. -/
def endStream (s0 : State) : State :=
  let s := settleAll s0 ⟨s0.gid, s0.crew.no, 0, true⟩
  if s.crew.strm.st = .ending ∧ s.crew.strm.bat.sealed = [] then setStrm s (fun x => { x with st := .ended }) else s

def execStreamEnded (s : State) : Out := .next (onCrew s s.ev.who.gang s.ev.who.crew endStream)

/-! ## The end of gangs and grids (R54, R57, R135) -/

/-- Every line that any holder withholds for a context drained. -/
def drainCtx (s : State) (ctx : Nat) : State :=
  s.lines.foldl (fun s l => if l.2.ctx = ctx then drainLine s l.1 else s) s

/-- Batches of a crew with items that have not ended or batches that are not complete. -/
def Batches.quiet (b : Batches) : Bool := b.open_ = [] && b.sealed = []

def Crew.over (c : Crew) : Bool :=
  liveGroups c = [] && c.recs = [] && (c.strm.st = .idle || c.strm.st = .ended)

def Crew.quiet (c : Crew) : Bool := c.strm.bat.quiet && c.groups.all (fun g => g.2.bat.quiet)

def gridSize (g : Grid) : Nat := g.pkt.gx * g.pkt.gy * g.pkt.gz

/-- A grid has ended: lines drain; one that does not notify leaves nothing behind. -/
def finishGrid (s : State) (id : Nat) (g : Grid) : State :=
  let s1 := drainCtx s g.ctx
  { s1 with grids := if g.pkt.notify then aput id { g with fin := true } s1.grids else adel id s1.grids }

/-- Gangs of a grid have ended, n normally and m otherwise. -/
def countEnded (s : State) (id n m : Nat) : State :=
  match aget s.grids id with
  | none => s
  | some g0 =>
    let g := { g0 with ended := g0.ended + n, lost := g0.lost + m }
    if gridSize g ≤ g.ended + g.lost ∧ !g.fin then finishGrid s id g else { s with grids := aput id g s.grids }

/-- The sample-group entries of a gang taken out of its cluster. -/
def dropSg (s : State) (gid : Nat) : State :=
  { s with clusters := s.clusters.map (fun c => (c.1, { c.2 with sg := c.2.sg.filter (fun e => e.2.gang ≠ gid) })) }

/-- A gang leaves its cores: leases, entries and steps of it go with it. -/
def removeGang (s : State) (gid : Nat) : State :=
  let s1 := dropSg (releaseGang s gid) gid
  let mine := fun (r : Option Running) => r.any (fun x => x.item.who.gang = gid)
  s1.cores.foldl (fun s c =>
    if mine c.2.run || mine c.2.nxt then
      chooseNext (setCore s c.1 { c.2 with run := if mine c.2.run then none else c.2.run, nxt := if mine c.2.nxt then none else c.2.nxt }) c.1
    else s) { s1 with gangs := adel gid s1.gangs }

/-- A gang that has ended gives back what R54 lists; a lease it still holds is released as LREL would release it, and its requests go. Its items
go on and report (R119, R162). -/
def parkGang (s : State) (gid : Nat) (g : Gang) : State :=
  let give := fun (c : Cluster) => { c with
    queues := c.queues.map (fun q => (q.1, q.2.filter (fun r => r.who.gang ≠ gid))),
    engines := c.engines.map (fun e => (e.1, if e.2.lease.any (fun l => l.2.2.2.1.gang = gid) then { e.2 with lrel := true } else e.2)) }
  dropSg { s with gangs := aput gid { g with gone := true } s.gangs, clusters := s.clusters.map (fun c => (c.1, give c.2)),
                  naks := s.naks.filter (fun n => match n.msg with
                    | .lease _ _ r => r.who.gang ≠ gid
                    | .sample _ w _ _ => w.gang ≠ gid
                    | _ => true) } gid

/-- A gang whose crews have all ended has ended. -/
def retireGang (s : State) (gid : Nat) (g : Gang) : State := countEnded (parkGang s gid g) g.grid 1 0

/-- A gang ends when all its crews have ended; its record goes with the last of its batches. -/
def gangEnd (s : State) (gid : Nat) : State :=
  match aget s.gangs gid with
  | none => s
  | some g =>
    if g.crews.all (fun c => c.2.over) then
      let s1 := if g.gone then s else retireGang s gid g
      if g.crews.all (fun c => c.2.quiet) then removeGang s1 gid else s1
    else s

/-- GANG_END of gang `ev.n`. -/
def execGangEnd (s : State) : Out := .next (gangEnd s s.ev.n)

/-- The launching grid of `ev.n` has ended: the child may start. -/
def startChild (s : State) (id : Nat) : State :=
  match aget s.grids id with
  | none => s
  | some g =>
    match g.parent with
    | none => s
    | some p => if (aget s.grids p).all (fun x => x.fin) then { s with grids := aput id { g with parent := none } s.grids } else s

def execChildGridStart (s : State) : Out := .next (startChild s s.ev.n)

/-! ## Taking packets (R32, R33, R381–R383) -/

/-- The ring of the queue a packet waits in: key of slot 0, log2 of its slots. -/
def ringOf (s : State) (r : PktRef) : Option (Nat × Nat) :=
  if r.dev then (aget s.ctxs r.ctx).bind (fun c => (devQueue s c r.q).map (fun x => (physKey 0 x.1, x.2)))
  else
    let b := s.reg (regLQ r.q 0)
    some (physKey (bitsOf b 59 2) (bitsOf b 6 46 * 64), bitsOf (s.reg (regLQ r.q 8)) 1 4)

def pktBytes (s : State) (r : PktRef) : List (BitVec 8) :=
  match ringOf s r with
  | none => []
  | some (k, lg) => devBytes s 64 (k + 64 * (r.ix % 2 ^ lg))

/-- Where the dispatcher meets a damaged unit as it reads a packet: the entry of its device queue, or its 64 bytes (R420). -/
def pktBad (s : State) (r : PktRef) : Option (Nat × Nat) :=
  match if r.dev then aget s.ctxs r.ctx else none with
  | some c => if queueBad s c r.q then some (physKey 0 (c.dqtab + 16 * r.q), 16) else pktSpan
  | none => pktSpan
where
  pktSpan : Option (Nat × Nat) :=
    (ringOf s r).bind (fun x => let k := x.1 + 64 * (r.ix % 2 ^ x.2)
                                if badSpan s k 64 then some (k, 64) else none)

/-- The context of the queue a packet waits in; none while a host queue is disabled. -/
def pktCtx (s : State) (r : PktRef) : Option Nat :=
  if r.dev then some r.ctx
  else
    let c := s.reg (regLQ r.q 8)
    if bitsOf c 0 1 = 1 then some (bitsOf c 5 12) else none

/-- The packet at the head of its queue. -/
def isHead (s : State) (r : PktRef) : Bool :=
  (s.visible.find? (fun x => x.dev = r.dev && x.q = r.q && (!x.dev || x.ctx = r.ctx))) = some r

/-- Its priority: the highest that its sender may give where it cannot be read. -/
def pktPrio (s : State) (r : PktRef) : Nat := if (pktBad s r).isSome then r.cap else min (packetOf (pktBytes s r)).prio r.cap

/-- Packet a became visible before b; in one cycle, host queues and lower queues first (R382). -/
def olderPkt (a b : PktRef) : Bool :=
  a.since < b.since || (a.since = b.since && ((!a.dev && b.dev) || (a.dev = b.dev && a.q < b.q)))

/-- The packet taken next from the queues of a context: highest priority, then oldest. -/
def nextPacket (s : State) (ctx : Nat) : Option PktRef :=
  (s.visible.filter (fun r => pktCtx s r = some ctx && isHead s r)).foldl (fun b r => match b with
    | none => some r
    | some x => if pktPrio s x < pktPrio s r || (pktPrio s x = pktPrio s r && olderPkt r x) then some r else some x) none

/-- The queue's index moves past a packet. -/
def advanceGet (s : State) (r : PktRef) : State :=
  let s1 := { s with visible := s.visible.filter (· ≠ r) }
  if r.dev then
    match aget s1.ctxs r.ctx with
    | none => s1
    | some c =>
      let (put, _) := (aget c.dq r.q).getD (0, 0)
      { s1 with ctxs := aput r.ctx { c with dq := aput r.q (put, r.ix + 1) c.dq } s1.ctxs }
  else s1.setReg (regLQ r.q 0x18) (r.ix + 1)

def srcq (dev : Bool) (q : Nat) : Nat := q + (if dev then 128 else 0)

def addGrid (s : State) (g : Grid) : State := { s with grids := aput s.nextGrid g s.grids, nextGrid := s.nextGrid + 1 }

/-- The packet can have a completion record: NOTIFY with a usable CADDR. -/
def Packet.canNotify (p : Packet) : Bool := p.notify && p.caddr ≠ 0 && p.caddr.toNat % 32 = 0

/-- A packet of context ctx ends without running, with a completion status, or with a BAD_PACKET record where it can have no
completion record (R32, R383). -/
def endPacket (s : State) (ctx : Nat) (r : PktRef) (p : Packet) (status : Nat) : State :=
  if p.canNotify then addGrid s ⟨ctx, p, r.dev, r.q, r.ix, 0, 0, 0, none, status, 0, true, none⟩
  else if status = 3 then pushRec s none none (unitRec .badPacket 9 r.ix (srcq r.dev r.q) 0)
  else s

/-- A packet that the dispatcher cannot read is taken and ends: what its record would say of its completion is not known, and an ECC_UNCORR record
with its place goes to the device fault buffer; the AMB has a record of the unit (DESIGN CHOICE, log 101). -/
def losePacket (s : State) (r : PktRef) (k n : Nat) : State :=
  pushRec (noteSpan s k n) none none (unitRec .eccUncorr 9 r.ix (srcq r.dev r.q) 0)

/-- The dispatcher takes the packet. -/
def takePacket (s : State) (ctx : Nat) (r : PktRef) : State :=
  match pktBad s r with
  | some (k, n) => losePacket (advanceGet s r) r k n
  | none =>
  let bs := pktBytes s r
  let p0 := packetOf bs
  let p := { p0 with prio := min p0.prio r.cap }
  let s1 := advanceGet s r
  if packetOk bs ctx then
    let held := r.parent.bind (fun g => if (aget s.grids g).any (fun x => !x.fin) then some g else none)
    addGrid s1 ⟨ctx, p, r.dev, r.q, r.ix, 0, 0, 0, held, 0, 0, false, none⟩
  else endPacket s1 ctx r p 3

/-- A context that runs, in a package that has met no fatal event (R418). -/
def ctxRuns (s : State) (ctx : Nat) : Bool := !s.halted && (aget s.ctxs ctx).any (fun c => c.st = .running)

/-- An ABORT of the context runs: it takes the packets itself. -/
def ctxAborts (s : State) (ctx : Nat) : Bool :=
  s.cmd.any (fun c => c.2 = none && bitsOf c.1.toNat 0 4 = 6 && bitsOf c.1.toNat 4 12 = ctx)

/-- PACKET_TAKE for the context `ev.n`. A record that may be needed finds room in the staging store (R358). -/
def execPacketTake (s : State) : Out :=
  .next (if ctxRuns s s.ev.n ∧ !dispStalls s ∧ !ctxAborts s s.ev.n then
    match nextPacket s s.ev.n with
    | none => s
    | some r => takePacket s s.ev.n r
  else s)

/-! ## Placement (R13, R17, R34, R376, R392) -/

/-- The partition that eighth e of the device belongs to. -/
def ownOf (s : State) (e : Nat) : Nat := bitsOf (s.reg regPARTMAP) (4 * e) 4

def eighthsOf (s : State) (part : Nat) : List Nat := (List.range 8).filter (fun e => ownOf s e = part)

/-- Clusters of a partition on dies in service. -/
def clustersOf (s : State) (part : Nat) : List Nat :=
  ((eighthsOf s part).flatMap (fun e => [3 * e, 3 * e + 1, 3 * e + 2])).filter (fun c =>
    !s.dark.contains (c / 12) && (aget s.darkening (c / 12)).isNone)

def rglOf (s : State) (cl : Nat) : Nat := bitsOf (s.reg (regCLSTAT cl)) 0 10
def gated (s : State) (cl : Nat) : Bool := bitsOf (s.reg (regCLSTAT cl)) 12 1 = 1
def setGated (s : State) (cl : Nat) (b : Bool) : State :=
  s.setReg (regCLSTAT cl) (setBits (s.reg (regCLSTAT cl)) 12 1 (if b then 1 else 0))

/-- Launched groups resident in a cluster. -/
def launchedIn (s : State) (cl : Nat) : Nat :=
  ((List.range 8).map (fun i => ((crewsOn s (8 * cl + i)).map (fun x => ((liveGroups x.2).filter (fun g => !g.formed)).length)).foldl (· + ·) 0)).foldl (· + ·) 0

/-- Resident sums of a core, by a field of the packet. -/
def sumOn (s : State) (core : Nat) (f : Packet → Nat) : Nat := ((crewsOn s core).map (fun x => f x.1.pkt)).foldl (· + ·) 0

/-- A crew with n groups of packet p fits on the core. -/
def crewFits (s : State) (core : Nat) (p : Packet) (n : Nat) : Bool :=
  (crewsOn s core).length < 8 && (p.eaddr = 0 || sumOn s core (fun q => if q.eaddr = 0 then 0 else 1) < 4) &&
    (slotsUsed s core).length + n ≤ 64 && regBytes s core + n * 16 * p.regs * 128 ≤ 512 * 1024 &&
    sumOn s core (fun q => q.spad + q.spawn) + p.spad + p.spawn ≤ 448 && sumOn s core (fun q => q.slots) + p.slots ≤ 16 &&
    sumOn s core (fun q => q.accs) + p.accs ≤ 4

/-- A gang to place: the groups of each crew, those among them that were launched, the sample-group entries it brings. -/
structure Want where
  pkt : Packet
  groups : List Nat
  launched : Nat
  entries : Nat
  deriving DecidableEq, Repr

/-- The lowest core of a cluster from which the gang fits; an RGL of 0 stops all placement (R34). -/
def coreFor (s : State) (cl : Nat) (w : Want) : Option Nat :=
  if rglOf s cl = 0 ∨ rglOf s cl < launchedIn s cl + w.launched ∨ 64 < (clusterOf s cl).sg.length + w.entries then none
  else ((List.range (9 - w.pkt.gang)).map (fun i => 8 * cl + i)).find? (fun c =>
    w.groups.zipIdx.all (fun n => crewFits s (c + n.2) w.pkt n.1))

/-- The core at which a gang of the context is placed, the lowest of the clusters given. -/
def spotFor (s : State) (cls : List Nat) (w : Want) : Option Nat := cls.findSome? (fun cl => coreFor s cl w)

/-- The SRAM split of a core follows its crews (R18). -/
def resplit (s : State) (core : Nat) : State :=
  let k := sumOn s core (fun q => q.spad + q.spawn)
  setCore s core { coreOf s core with spadKiB := (k + 63) / 64 * 64 }

def resplitAll (s : State) (core n : Nat) : State := (List.range n).foldl (fun s i => resplit s (core + i)) s

/-- Groups with their slots on a core, in ascending %group (R13). -/
def reslot (gs : List (Nat × Group)) (used : List Nat) : List (Nat × Group) :=
  ((sortBy (fun (x : Nat × Group) => x.2.no) gs).foldl (fun (acc : List (Nat × Group) × List Nat) x =>
    if x.2.splits = [] then (acc.1 ++ [x], acc.2)
    else
      let sl := (lowestFree acc.2 0 64).getD 0
      (acc.1 ++ [(x.1, { x.2 with slot := sl })], sl :: acc.2)) ([], used)).1

/-- Sample-group entries of a gang put in a cluster, and the crews with their entries renumbered (R30). -/
def renumber (m : List (Nat × Nat)) (c : Crew) : Crew :=
  let f := fun (x : Option (Nat × Nat)) => x.map (fun y => ((aget m y.1).getD y.1, y.2))
  { c with groups := c.groups.map (fun g => (g.1, { g.2 with sib := f g.2.sib })), recs := c.recs.map (fun r => { r with sib := f r.sib }),
           flush := c.flush.map (fun k => { k with sib := f k.sib }) }

def placeEntries (s : State) (cl : Nat) : List (Nat × SgEntry) → List (Nat × Nat) → State × List (Nat × Nat)
  | [], m => (s, m)
  | e :: r, m =>
    match lowestFree ((clusterOf s cl).sg.map (·.1)) 0 64 with
    | none => (s, m)
    | some i => placeEntries (setSg s cl i e.2) cl r ((e.1, i) :: m)

/-- A saved or moved gang resident again on consecutive cores from `core` (R13, R29); an entry it brings whose deadline has passed completes. -/
def resumeGang (s : State) (gid : Nat) (g : Gang) (core : Nat) : State :=
  let (s1, m) := placeEntries s (core / 8) g.sg []
  let crews := g.crews.map (fun c => (c.1, renumber m { c.2 with
    core := core + c.1, strm := { c.2.strm with num := freeStream s1 (core + c.1) }, groups := reslot c.2.groups (slotsUsed s1 (core + c.1)) }))
  passDeadlines (resplitAll { s1 with gangs := aput gid { g with crews := crews, halt := false, sg := [] } s1.gangs } core g.pkt.gang)

def wantGang (g : Gang) : Want :=
  { pkt := g.pkt, groups := g.crews.map (fun c => (liveGroups c.2).length),
    launched := (g.crews.map (fun c => ((liveGroups c.2).filter (fun x => !x.formed)).length)).foldl (· + ·) 0, entries := g.sg.length }

def wantNew (p : Packet) : Want := ⟨p, List.replicate p.gang p.crew, p.gang * p.crew, 0⟩

/-- The grid whose gangs are offered: of those that are not held, the one taken first (R33, R34, R57). -/
def offered (s : State) (ctx : Nat) : Option (Nat × Grid) :=
  s.grids.find? (fun g => g.2.ctx = ctx && !g.2.fin && g.2.parent = none && g.2.next < gridSize g.2)

/-- The placement is decided for a core: into a gated cluster it waits for the cluster to ungate; a gating committed in the
same slate cycle is abandoned (R392). -/
def decide_ (s : State) (core : Nat) (f : State → State) : State :=
  let cl := core / 8
  if gated s cl ∧ (clusterOf s cl).busyAt = s.clock.toNat then f (setGated s cl false)
  else if gated s cl then
    match (clusterOf s cl).placing with
    | some _ => s
    | none => setCluster s cl { clusterOf s cl with placing := some s.clock.toNat }
  else f s

/-- A gang of a resumed context first, lowest %gang first; then the next gang of the grid offered. -/
def placeNext (s : State) (ctx : Nat) (c : Ctx) : State :=
  let cls := clustersOf s c.part
  match sortBy (fun (x : Nat × Gang) => x.2.no.toNat) c.image with
  | (gid, g) :: _ =>
    match spotFor s cls (wantGang g) with
    | none => s
    | some core => decide_ s core (fun s =>
        resumeGang { s with ctxs := aput ctx { c with image := adel gid c.image } s.ctxs } gid g core)
  | [] =>
    match offered s ctx with
    | none => s
    | some (id, g) =>
      match spotFor s cls (wantNew g.pkt) with
      | none => s
      | some core => decide_ s core (fun s =>
          let s1 := placeGang s (newGang s id (BitVec.ofNat 64 g.next) g.pkt core)
          resplitAll { s1 with grids := aput id { g with next := g.next + 1 } s1.grids } core g.pkt.gang)

/-- The context is being saved or aborted: nothing is placed. -/
def ctxStops (s : State) (ctx : Nat) : Bool :=
  s.cmd.any (fun c => c.2 = none && (match bitsOf c.1.toNat 0 4 with
    | 3 => bitsOf c.1.toNat 4 12 = ctx
    | 6 => bitsOf c.1.toNat 4 12 = ctx
    | 4 => (aget s.ctxs ctx).any (fun x => x.st = .running && x.part = bitsOf c.1.toNat 16 3)
    | _ => false))

/-- GANG_PLACE for the context `ev.n`. -/
def execGangPlace (s : State) : Out :=
  .next (match aget s.ctxs s.ev.n with
    | none => s
    | some c => if c.st = .running ∧ !s.halted ∧ !ctxStops s s.ev.n then placeNext s s.ev.n c else s)

/-- SRAM_SPLIT_RECLAIM of core `ev.n`: it has been idle for 1,024 cycles (R18). -/
def execSramSplitReclaim (s : State) : Out :=
  .next (if s.ev.n < 192 ∧ crewsOn s s.ev.n = [] ∧ (coreOf s s.ev.n).idleAt + 1024 ≤ coreCycles s s.ev.n then resplit s s.ev.n else s)

/-! ## Replay between units (R58, R59) -/

/-- The item of a collective has not ended. -/
def itemLives (s : State) (r : ItemRef) : Bool :=
  (clItems s (((aget s.gangs r.who.gang).map (fun g => g.ctx)).getD 0)).any (fun x => x.1 = r)

/-- One entry sent again: accepted, or refused. A sample-group operation that is accepted lets its split go on. The entry of an item that has
ended is taken and does nothing. -/
def resendOne (s : State) (m : NakMsg) : Option State :=
  match m with
  | .packet _ _ ctx q _ bs parent cap => acceptPacket s ctx q parent cap bs
  | .lease _ cl r => (enterQueue s.clock.toNat (clusterOf s cl) r).map (fun c => setCluster s cl c)
  | .sample _ _ cl _ => if s.shutPorts.contains (true, cl) then none else some s
  | .grow _ st blk => if stagedFull s (st / 4) ∨ growStalls s st then none else storeBlock s st blk
  | .ingress e r => if !itemLives s r then some s else if s.shutPorts.contains (false, e / 24) then none else some (acceptEntry s r)

/-- The entries of one flow sent again in order, up to one that is refused: the receiver drops those after it (R58). The back-off of the
refused entry counts its consecutive NAKs (R59). -/
def resendFlow (s : State) : List Nak → State
  | [] => s
  | n :: r =>
    match resendOne { s with naks := s.naks.erase n } n.msg with
    | some s1 => resendFlow s1 r
    | none => { s with naks := s.naks.map (fun x => if x = n then
        { n with k := n.k + 1, due := s.clock.toNat + backoff s n.msg.die (n.k + 1) } else x) }

/-- A flow whose back-off has passed is sent again; NAKREP of the sender's core counts every entry of its window (R211). -/
def resendDue (s : State) (m : NakMsg) : State :=
  match s.naks.filter (fun n => n.msg.sameFlow m) with
  | [] => s
  | n :: r =>
    if s.clock.toNat < n.due then s
    else
      let s1 := match m.core with
        | some c => bump s c 0x23 (r.length + 1)
        | none => s
      resendFlow s1 (n :: r)

/-- REPLAY_RESEND of the flow of the entry `ev.n`. -/
def execReplayResend (s : State) : Out :=
  .next (match s.naks[s.ev.n]? with
    | none => s
    | some n => resendDue s n.msg)

/-! ## Logical time and holders (R121, R122, R135) -/

/-- Logical time advances for every group and the stream of the crew `ev.who`. -/
def execLogicalTimeAdvance (s : State) : Out :=
  .next (onCrew s s.ev.who.gang s.ev.who.crew (fun s1 => setOwn s1 (fun c =>
    { c with strm := { c.strm with ltime := c.strm.ltime + 1 }, groups := c.groups.map (fun g => (g.1, { g.2 with ltime := g.2.ltime + 1 })) })))

/-- Holder `ev.m` drains its share of line `ev.n`. -/
def execHolderDrain (s : State) : Out := .next (drainHolder s s.ev.n s.ev.m)

end Sys2Proof.Machine
end

