-- ==== Sys2Proof/Machine/DriverMemory.lean ====
section
/-! DEFINITION. The driver's memory side (chapter 16): page-table walks and invalidations, fault responses and fault buffers,
page heat, key slots. -/
namespace Sys2Proof.Machine

/-! ## Walks and translations (R350–R354) -/

/-- The access kind of an event: 0 read, 1 write, 2 fetch. -/
def kindOf (n : Nat) : AccKind :=
  match n with
  | 0 => .read
  | 1 => .write
  | _ => .fetch

/-- A core's TLB holds 256 entries (R10); a new one replaces that of its page, or else the oldest. -/
def tlbAdd (s : State) (t : TlbEnt) : List TlbEnt :=
  let mine := s.tlb.filter (fun x => x.core = t.core && !(x.ctx = t.ctx && x.page = t.page && x.log = t.log))
  t :: mine.take 255 ++ s.tlb.filter (fun x => x.core ≠ t.core)

/-- The pointers that a walk followed, in its die's walk cache. -/
def ptrsAdd (s : State) (core ctx va : Nat) (l : List (Nat × Nat)) : List PtrEnt :=
  let new := l.map (fun x => (⟨dieOfCore core, ctx, x.1, ptrPrefix va x.1, x.2⟩ : PtrEnt))
  new ++ s.ptrs.filter (fun p => !new.any (fun q => q.die = p.die && q.ctx = p.ctx && q.level = p.level && q.pre = p.pre))

/-- A walk for an access of a context on a core: the leaf is cached when the access may use it, with the pointers on the way, and a write sets D
first. A walk that ends in a fault caches nothing; the access meets the fault. It starts at the nearest cached pointer or, as the flag says, at
the root. -/
def walkFor (s : State) (core ctx va : Nat) (k : AccKind) (atRoot : Bool) : State :=
  match aget s.ctxs ctx with
  | none => s
  | some c =>
    let from_ := if atRoot then (4, physKey c.rootSpace c.root)
      else match ptrFind s.ptrs (dieOfCore core) ctx va with
        | some p => (p.level, p.tab)
        | none => (4, physKey c.rootSpace c.root)
    match walk s va (from_.1 + 1) from_.2 with
    | .leaf e lg (some a) =>
      match leafLoc s c va k e lg with
      | .error _ => s
      | .ok _ =>
        let dirty := k = .write ∧ bitsOf e 61 1 = 0
        let s1 := if dirty then devPut s 8 a (e + 2 ^ 61) else s
        bump { s1 with
          ptrs := ptrsAdd s core ctx va (walkPtrs s va (from_.1 + 1) from_.2),
          tlb := tlbAdd s ⟨core, ctx, va / 2 ^ lg, lg, BitVec.ofNat 64 (if dirty then e + 2 ^ 61 else e)⟩ } core 0x20 1
    | _ => s

/-- PAGE_TABLE_WALK for address `ev.v` of context `ev.n`, an access of kind `ev.m` of core `ev.item.ix`; with the flag set, from the root. -/
def execPageTableWalk (s : State) : Out :=
  .next (if s.ev.v.toNat < globalTop ∧ s.ev.item.ix < 192 then
    walkFor s s.ev.item.ix s.ev.n s.ev.v.toNat (kindOf s.ev.m) s.ev.flag else s)

/-- TLBIC written: the command waits for its turn with the address that TLBIA holds. -/
def startTlbi (s : State) (v : BitVec 64) : State := { s with tlbi := s.tlbi ++ [(v, BitVec.ofNat 64 (s.reg regTLBIA))] }

def tlbiEvent (kind : Nat) (s : State) : Out :=
  .next (onHost s (fun s => if bitsOf s.ev.v.toNat 12 2 = kind then startTlbi s s.ev.v else s))

/-- TLBIC written with the value `ev.v`. -/
def execTlbiRange (s : State) : Out := tlbiEvent 0 s
def execTlbiContext (s : State) : Out := tlbiEvent 1 s
def execTlbiAll (s : State) : Out := tlbiEvent 2 s

/-- log2 of a range's page size. -/
def tlbiLog (size : Nat) : Nat :=
  match size with
  | 0 => 12
  | 1 => 16
  | 2 => 21
  | 3 => 30
  | _ => 39

/-- The command covers a cached translation. -/
def tlbiCovers (v va : BitVec 64) (t : TlbEnt) : Bool :=
  match bitsOf v.toNat 12 2 with
  | 0 =>
    let lg := tlbiLog (bitsOf v.toNat 14 3)
    let lo := bitsOf va.toNat 0 60 / 2 ^ lg * 2 ^ lg
    let hi := lo + (bitsOf v.toNat 17 10 + 1) * 2 ^ lg
    t.ctx = bitsOf v.toNat 0 12 && t.page * 2 ^ t.log < hi && lo < (t.page + 1) * 2 ^ t.log
  | 1 => t.ctx = bitsOf v.toNat 0 12
  | _ => true

/-- The addresses that a walk-cache pointer serves meet those the command covers. -/
def tlbiCoversPtr (v va : BitVec 64) (p : PtrEnt) : Bool :=
  tlbiCovers v va ⟨0, p.ctx, p.pre, 12 + 9 * (p.level + 1), 0⟩

/-- The context memory record at a SPACE 0 address, when it keeps the limits of R347 and no unit of it or of its bound table is damaged (log 101). -/
def readMemRec (s : State) (a : Nat) (c : Ctx) : Option Ctx :=
  let f := fun (off n : Nat) => devNat s n (physKey 0 (a + off))
  let root := f 0 8
  let fb := f 8 8
  let sp := fun (x : Nat) => bitsOf x 59 2
  let ok := a % 64 = 0 && a < 512 * gib && bitsOf root 0 15 = 0 && bitsOf root 52 7 = 0 && bitsOf root 61 3 = 0 && (sp root = 0 || sp root = 3) &&
    bitsOf fb 0 12 = 0 && bitsOf fb 52 7 = 0 && bitsOf fb 61 3 = 0 && (sp fb = 0 || sp fb = 3) && 6 ≤ f 0x10 1 && f 0x10 1 ≤ 16 &&
    f 0x11 1 = 0 && f 0x14 4 = 0 && f 0x18 8 % 512 = 0 && f 0x18 8 < 512 * gib && f 0x20 8 % 65536 = 0 && f 0x20 8 < 512 * gib && f 0x2C 20 = 0 &&
    !badSpan s (physKey 0 a) 64 && !badSpan s (physKey 0 (f 0x18 8)) 512
  if ok then
    some { c with root := bitsOf root 12 40 * 4096, rootSpace := sp root, fbuf := bitsOf fb 12 40 * 4096, fbufSpace := sp fb,
                  fblog := f 0x10 1, fbvec := f 0x12 2, btab := f 0x18 8, pool := f 0x20 8, poolUnits := 16 * f 0x28 4 }
  else none

/-- The AMB records a damaged unit of a memory record, or of its bound table. -/
def noteMemRec (s : State) (a : Nat) : State :=
  if badSpan s (physKey 0 a) 64 then noteSpan s (physKey 0 a) 64
  else if (badSpan s (physKey 0 (devNat s 8 (physKey 0 (a + 0x18)))) 512) then noteSpan s (physKey 0 (devNat s 8 (physKey 0 (a + 0x18)))) 512
  else s

/-- The bound table (R360): the entries that act as enabled. An FP32 limit of −0 is not negative (DESIGN CHOICE, log 97). -/
def readBounds (s : State) (btab : Nat) : List (Nat × Bound) :=
  (List.range 64).filterMap (fun i =>
    let e := devNat s 8 (physKey 0 (btab + 8 * i))
    let l := BitVec.ofNat 32 e
    let fp := bitsOf e 32 1 = 1
    let v := boundVal fp l
    if bitsOf e 33 1 = 1 ∧ bitsOf e 34 30 = 0 ∧ (fp = false → 0 ≤ l.toInt) ∧ (fp = true → (bitsOf e 31 1 = 0 ∨ bitsOf e 0 31 = 0) ∧ v ≠ .nan ∧ v ≠ .inf false) then
      some (i, ⟨l, fp⟩)
    else none)

/-- The context's memory record and bound table read again. A record that breaks R347's limits leaves the old record and bounds (DESIGN CHOICE,
log 97). -/
def rereadCtx (s : State) (c : Ctx) : Ctx :=
  match readMemRec s c.memRec c with
  | none => c
  | some c1 => { c1 with bounds := readBounds s c1.btab }

/-- The window registers as written take effect (R371). -/
def latchWindows (s : State) : State :=
  (List.range 16).foldl (fun s w =>
    (s.setReg (winUse + regWCTL w) (s.reg (regWCTL w))).setReg (winUse + regWTGT w) (s.reg (regWTGT w))) s

/-- The oldest invalidation completes (R354). A holder may drain at any time (R135), so every line of the contexts covered
drains. SIZE has no meaning in KIND 1 and 2, and a reserved one is ignored there (DESIGN CHOICE, log 97). -/
def finishTlbi (s : State) : State :=
  match s.tlbi with
  | [] => s
  | (v, va) :: r =>
    let kind := bitsOf v.toNat 12 2
    let ctx := bitsOf v.toNat 0 12
    let s0 := { s with tlbi := r }
    let done := fun (s : State) => s.setField regTLBDONE 0 32 (bitsOf v.toNat 32 32)
    if kind = 3 ∨ (kind = 0 ∧ 5 ≤ bitsOf v.toNat 14 3) then done (s0.setField regTLBDONE 32 1 1)
    else
      let s1 := if kind = 2 then s0.lines.foldl (fun s l => drainLine s l.1) s0 else drainCtx s0 ctx
      let s2 := { s1 with tlb := s1.tlb.filter (fun t => !tlbiCovers v va t), ptrs := s1.ptrs.filter (fun p => !tlbiCoversPtr v va p) }
      let s3 := if kind = 0 then s2
        else
          let hit := fun (c : Nat × Ctx) => kind = 2 || c.1 = ctx
          (s2.ctxs.filter hit).foldl (fun s c => noteMemRec s c.2.memRec)
            { s2 with ctxs := s2.ctxs.map (fun c => if hit c then (c.1, rereadCtx s2 c.2) else c) }
      done (if kind = 2 then latchWindows s3 else s3)

def execTlbInvalidateComplete (s : State) : Out := .next (finishTlbi s)

/-! ## Fault responses (R355, R359) -/

def respRid (s : State) : Nat := bitsOf s.ev.v.toNat 0 32
def respAbort (s : State) : Bool := bitsOf s.ev.v.toNat 32 1 = 1

/-- A waiting record has the identity, and no earlier invalidation is pending. -/
def respOk (s : State) : Bool := s.tlbi = [] && s.pageWaits.any (fun w => w.rid = respRid s)

/-- The gang of a context's image that has a serial. -/
def imageOf (s : State) (gid : Nat) : Option (Nat × Ctx × Gang) :=
  s.ctxs.findSome? (fun c => (aget c.2.image gid).map (fun g => (c.1, c.2, g)))

/-- An operation on a crew of a resident gang, or of one held in an image. -/
def onAnyCrew (s : State) (gid crew : Nat) (f : State → State) : State :=
  if (aget s.gangs gid).isSome then onCrew s gid crew f
  else match imageOf s gid with
    | none => s
    | some (cid, c, g) =>
      let s1 := onCrew { s with gangs := aput gid g s.gangs, ctxs := aput cid { c with image := adel gid c.image } s.ctxs } gid crew f
      match aget s1.gangs gid, aget s1.ctxs cid with
      | some g1, some c1 =>
        { s1 with gangs := adel gid s1.gangs, ctxs := aput cid { c1 with image := aput gid g1 c1.image } s1.ctxs }
      | _, _ => s1

/-- Every crew there is, in images too. -/
def allCrews (s : State) : List (Nat × Nat) :=
  (s.gangs ++ s.ctxs.flatMap (fun c => c.2.image)).flatMap (fun g => g.2.crews.map (fun c => (g.1, c.1)))

/-- The record that ends an aborted wait: PROT in place of PAGE. -/
def asProt (f : Fx) : Fx := { f with cause := .prot, detail := 0 }

/-- The items of the loaded crew that a test selects. -/
def crewItems (s : State) (sel : Item → Bool) : List (ItemRef × Item) :=
  (whosOf s).flatMap (fun w => (batOf s w).refs.filterMap (fun x => if sel x.2 then some (⟨w, x.1, x.2.ix⟩, x.2) else none))

/-! ### Items that something outside them ends -/

/-- The barrier and the bytes that an item subtracts when it ends (R299). -/
def itemBar (s : State) (i : Item) : Option Nat × Int :=
  match i.op with
  | .cpld _ _ recd _ w f => (ccBar w, copySize s i recd w f)
  | .cpst recd _ w f => (ccBar w, copySize s i recd w f)
  | .cpss _ _ _ w => (csBar w, (csRows w * csLen w : Nat))
  | .acst _ w _ _ _ => (acBar w, (4 * acRows w * acCols w : Nat))
  | .acld _ _ w => (acBar w, (4 * acRows w * acCols w : Nat))
  | _ => (none, 0)

/-- The destination of an engine item, at its largest (R305–R310). A collective that fails leaves its destination unchanged (R148). -/
def ecmdDest (s : State) (i : Item) : List LaneAcc :=
  match i.op with
  | .ecmd _ _ kind sub row p0 p1 p2 p3 =>
    match kind with
    | 0 => if sub = 5 then runAcc p1.toNat 4 (2 * rowCount p2)
           else if sub = 2 ∨ sub = 6 then [] else runAcc (p1.toNat + row * bitsOf p2.toNat 32 32) 4 (rowLen p2)
    | 1 =>
      let ns := bitsOf p3.toNat 0 4
      let d := (readRun s (runAcc p0.toNat 8 (4 * ns))).2
      let total := ((List.range ns).map (fun j => d.getD (4 * j + 2) 0)).foldl (· + ·) 0
      runAcc p1.toNat (if bitsOf p3.toNat 4 2 = 3 then 8 else 4) total ++ (if p3.getLsbD 8 then runAcc p2.toNat 4 total else []) ++
        runAcc (p0.toNat + 32 * ns) 8 1
    | 2 =>
      let d := (readRun s (runAcc (p0.toNat + 32 * row) 8 4)).2
      runAcc (d.getD 2 0) 1 (bitsOf (d.getD 1 0) 32 32)
    | 3 => if sub = 0 then runAcc (p1.toNat + 4 * row) 4 1 else if sub = 1 then [] else runAcc p1.toNat 8 1
    | 4 => []
    | _ => if sub = 0 then runAcc p1.toNat 4 p3.toNat
           else if sub = 1 then runAcc p1.toNat 4 p2.toNat ++ runAcc p3.toNat 8 1 else runAcc p1.toNat 4 p3.toNat
  | _ => []

/-- What an item that fails leaves undefined (R277): its destination in memory, the scratchpad, a slot, a tile. -/
def spoilDest (s : State) (i : Item) : State :=
  match i.op with
  | .mx acc d .. => poisonTiles s false (dTiles d acc)
  | .acst addr w _ _ _ => spoilMem s (acAccs addr w)
  | .acld acc _ w => spoilTile s acc w
  | .cpld (some n) _ _ _ _ _ => spoilSlot s n
  | .cpld none _ recd org w f =>
    match readLayout s i recd org w f none (fun l => l.kind ≤ 1) with
    | .inl _ => s
    | .inr l =>
      let bits := l.bits f
      keepBad s ((List.range (ccRows w)).foldl (fun s k => (junkBytes s (1024 * k) ((ccCols w * bits + 7) / 8)).zipIdx.foldl (fun s b =>
        locPut s (.spad s.crew.no (ccSoff w + ccPitch w bits * k + b.2)) b.1) s) s.freshen)
  | .cpst recd org w f =>
    match readLayout s i recd org w f none (fun l => l.kind ≤ 2) with
    | .inl _ => s
    | .inr l =>
      if l.kind = 2 then
        spoilMem s (((List.range (ccRows w)).filter (fun k => orgRow org + k < l.rows)).flatMap (fun k =>
          runAcc (l.block (orgRow org + k) (orgCol org)) 1 l.pitch))
      else spoilMem s (elemAccs (denseElems l (l.bits f) (orgRow org) (orgCol org) (ccRows w) (ccCols w)))
  | .cpss _ dst pitch w =>
    spoilMem s ((List.range (csRows w)).flatMap (csRow dst.toNat (signExt (bitsOf pitch.toNat 32 32) 32) (csLen w)))
  | .ecmd .. => spoilMem s (ecmdDest s i)
  | _ => s

/-- What else the failure of an item does: a tile region or a window that its rule says (R288, R361), a step no longer chosen. -/
def itemCleanup (s : State) (r : ItemRef) (i : Item) : State :=
  match i.op with
  | .acld acc _ w => spoilTile s acc w
  | .swbind w _ _ _ _ => setWindow s w i.stamp none
  | .mx .. =>
    let c := coreOf s s.crew.core
    if c.nxt.any (fun x => x.item = r) then chooseNext (setCore s s.crew.core { c with nxt := none }) s.crew.core else s
  | _ => s

/-- The item ends with a status that something outside it decides; with any but PROT, ALIGN, EVICTED and STALE, which has no effect (R83), its
destination is undefined (R277). -/
def killItem (s : State) (r : ItemRef) (i : Item) (st : Status) (f : Fx) (named : Bool) : State :=
  let s0 := if st = .prot ∨ st = .align ∨ st = .evicted ∨ st = .stale then s else spoilDest s i
  let b := itemBar s i
  itemCleanup (endItem (countBar (endInterlock s0 i) b.1 b.2) r i st f named 0) r i

/-- An item that an abort or a loss has ended fails. The last chunk of a DC command that an abort ends writes its bitmap first (R147). -/
def abortItem (s : State) (r : ItemRef) (i : Item) (f : Fx) : State :=
  match f.cause, i.op with
  | .prot, .ecmd _ _ 2 _ _ _ p1 _ _ => finishItem s r i (endChunk s i p1 [] id (some (f, true)))
  | c, _ => killItem s r i c.status f (c = .prot)

/-! ### What waits for a record, and what an abort has ended -/

/-- A PAGE wait numbered beyond the 32 bits of a RID stands for one that an abort has ended and whose record has found no room yet (R358). -/
def aborted (rid : Nat) : Nat := rid + 2 ^ 32

/-- A split or stream that waits for the record goes on: its instruction, or its fetch, is tried again. -/
def Hold.answered (h : Hold) (rid : Nat) : Hold :=
  match h with
  | .page r f => if r = rid ∧ f.cause = .page then (if f.src = 1 then .none else .wait) else h
  | h => h

/-- A split or stream that waits for the record raises PROT at its next turn. -/
def Hold.aborted (h : Hold) (rid : Nat) : Hold :=
  match h with
  | .page r f => if r = rid ∧ f.cause = .page then .page r (asProt f) else h
  | h => h

/-- Waits of items and of status vectors replaced. -/
def Batches.onWaits (b : Batches) (item : Nat × Fx → Option (Nat × Fx)) : Batches :=
  let g := fun (l : List Item) => l.map (fun i => { i with page := i.page.bind item })
  let vec := fun (p : Nat × Nat × Fx) => (item (p.1, p.2.2)).map (fun q => (q.1, p.2.1, q.2))
  { b with items := g b.items, sealed := b.sealed.map (fun x => { x with items := g x.items, page := x.page.bind vec }) }

def Batches.answered (b : Batches) (rid : Nat) : Batches :=
  b.onWaits (fun p => if p.1 = rid then none else some p)

def Batches.aborted (b : Batches) (rid : Nat) : Batches :=
  b.onWaits (fun p => if p.1 = rid then some (Machine.aborted rid, asProt p.2) else some p)

/-- The waits of a crew replaced. -/
def Crew.onWaits (c : Crew) (hold : Hold → Hold) (bat : Batches → Batches) : Crew :=
  { c with strm := { c.strm with hold := hold c.strm.hold, bat := bat c.strm.bat },
           groups := c.groups.map (fun g => (g.1, { g.2 with bat := bat g.2.bat, splits := mergeSplits (g.2.splits.map (fun x =>
             { x with hold := hold x.hold })) })) }

/-- The waits of every crew, in images too, replaced. -/
def onWaits (s : State) (hold : Hold → Hold) (bat : Batches → Batches) : State :=
  let g := fun (x : Nat × Gang) => (x.1, { x.2 with crews := x.2.crews.map (fun c => (c.1, c.2.onWaits hold bat)) })
  { s with gangs := s.gangs.map g, ctxs := s.ctxs.map (fun c => (c.1, { c.2 with image := c.2.image.map g })) }

/-- A completion record that cannot be written: a PROT record in its place (R383). -/
def failRecord (s : State) (id : Nat) (g : Grid) (c : Cause) : State :=
  pushRec { s with grids := adel id s.grids } none none { unitRec c 9 g.pkt.caddr.toNat 0 g.pos with flags := 2 }

/-- The aborted items of the loaded crew end, those whose records find room. -/
def endAborted (s : State) : State :=
  (crewItems s (fun i => i.status = none && i.drained = none)).foldl (fun s x => match x.2.page with
    | some (rid, f) => if rid < 2 ^ 32 ∨ stagedFull s (itemDie s) then s else abortItem s x.1 { x.2 with page := none } f
    | none => s) s

/-- The aborted status vector of an issuer's oldest batch fails with PROT (R278). -/
def endVec (s : State) (w : Who) : State :=
  match (batOf s w).sealed with
  | [] => s
  | b :: _ =>
    match b.page with
    | some (rid, k, f) => if rid < 2 ^ 32 ∨ stagedFull s (itemDie s) then s else failVec s w b k f
    | none => s

/-- What waited for room in a staging store or in a ring, or for an answer, goes on as far as it can (R128, R278, R358). -/
def catchCrew (s : State) : State := (whosOf s).foldl (fun s w => settleAll (endVec s w) w) (endAborted s)

/-- The records of discarded lines that find room in the staging store (R136, R358). -/
def payOwed (s : State) : List (Nat × FRec) → State
  | [] => s
  | x :: r => if stagedFull s x.2.die then { s with owed := x :: r } else payOwed (pushRec { s with owed := r } none (some x.1) x.2) r

def catchUp (s0 : State) : State :=
  let s := payOwed s0 s0.owed
  let busy := fun (c : Crew) => c.strm.bat.open_ ≠ [] || c.strm.bat.sealed ≠ [] || c.groups.any (fun g => g.2.bat.open_ ≠ [] || g.2.bat.sealed ≠ [])
  let crews := (s.gangs ++ s.ctxs.flatMap (fun c => c.2.image)).flatMap (fun g => (g.2.crews.filter (fun c => busy c.2)).map (fun c => (g.1, c.1)))
  let s1 := crews.foldl (fun s x => onAnyCrew s x.1 x.2 catchCrew) s
  s1.grids.foldl (fun s g => if g.2.page.any (fun r => 2 ^ 32 ≤ r) ∧ !stagedFull s 0 then failRecord s g.1 g.2 .prot else s) s1

/-- The record is answered: it takes no more accesses. -/
def dropWait (s : State) (rid : Nat) : State := { s with pageWaits := s.pageWaits.filter (fun w => w.rid ≠ rid) }

/-- A replay: what waits for the record is tried again (R359). -/
def replay (s : State) (rid : Nat) : State :=
  let s1 := onWaits (dropWait s rid) (fun h => h.answered rid) (fun b => b.answered rid)
  catchUp { s1 with grids := s1.grids.map (fun g => (g.1, if g.2.page = some rid then { g.2 with page := none } else g.2)) }

/-- An abort: a SIMT instruction raises PROT at its split's next turn, and items, status vectors and completion records fail. -/
def abortAll (s : State) (rid : Nat) : State :=
  let s1 := onWaits (dropWait s rid) (fun h => h.aborted rid) (fun b => b.aborted rid)
  catchUp { s1 with grids := s1.grids.map (fun g => (g.1, if g.2.page = some rid then { g.2 with page := some (aborted rid) } else g.2)) }

/-- FLTRESP written with the value `ev.v`, ABORT clear. -/
def execFltrespReplay (s : State) : Out :=
  .next (onHost s (fun s => if respOk s ∧ !respAbort s then replay s (respRid s) else s))

/-- FLTRESP written with the value `ev.v`, ABORT set. -/
def execFltrespAbort (s : State) : Out :=
  .next (onHost s (fun s => if respOk s ∧ respAbort s then abortAll s (respRid s) else s))

/-! ## Fault buffers (R358, R386) -/

/-- Bit of a vector's MSI-X table entry that masks it, and its pending bit (R411). -/
def msiMasked (s : State) (v : Nat) : Bool := v < 4096 && s.field (0x300008 + 16 * v) 32 1 = 1
def msiPending (s : State) (v : Nat) : Bool := s.field (0x310000 + 8 * (v / 64)) (v % 64) 1 = 1
def setPending (s : State) (v : Nat) (b : Bool) : State := s.setField (0x310000 + 8 * (v / 64)) (v % 64) 1 (if b then 1 else 0)

/-- An MSI-X vector is signalled; 0xFFFF means none. A masked one becomes pending (log 83). -/
def signal (s : State) (v : Nat) : State :=
  if v = 0xFFFF then s else if msiMasked s v then setPending s v true else { s with msi := s.msi ++ [v] }

/-- A pending vector that is no longer masked is signalled. -/
def unmaskMsi (s : State) (v : Nat) : State :=
  if msiPending s v ∧ !msiMasked s v then { setPending s v false with msi := s.msi ++ [v] } else s

/-- A record written into a ring of 2^lg slots as record i, when there is room, and GET. -/
def ringPut (s : State) (base lg i : Nat) (r : FRec) : Option (State × Nat) :=
  if ringHas s base lg i then
    some (devPut (devPutBytes s (base + 64 * (i % (2 ^ lg - 1) + 1)) r.bytes) 8 base (i + 1), devNat s 8 (base + 8))
  else none

def writeCtxRec (s : State) (id : Nat) (c : Ctx) (r : FRec) : Option State :=
  (ringPut s (physKey c.fbufSpace c.fbuf) c.fblog c.put r).map (fun x =>
    let sig := c.signalled ≠ some x.2
    let s1 := { x.1 with ctxs := aput id { c with put := c.put + 1, signalled := if sig then some x.2 else c.signalled } s.ctxs }
    if sig then signal s1 c.fbvec else s1)

def writeDevRec (s : State) (r : FRec) : Option State :=
  let d := s.reg regDFBBASE
  if bitsOf d 54 1 = 0 then none
  else (ringPut s (physKey 0 (bitsOf d 12 40 * 4096)) (min (bitsOf d 0 4) 10 + 6) s.devPut r).map (fun x =>
    let sig := s.devSig ≠ some x.2
    let s1 := { x.1 with devPut := s.devPut + 1, devSig := if sig then some x.2 else s.devSig }
    if sig then signal s1 0 else s1)

/-- The oldest staged record of a buffer is written once there is room; what waited for room in the staging store goes on (R358). -/
def writeRec (s : State) (dest : Option Nat) : State :=
  match s.staged.find? (fun r => r.dest = dest) with
  | none => s
  | some r =>
    let out := match dest with
      | none => writeDevRec s { r with seq := s.devPut % 2 ^ 32 }
      | some id => (aget s.ctxs id).bind (fun c => writeCtxRec s id c { r with seq := r.seq % 2 ^ 32 })
    match out with
    | none => s
    | some s1 => catchUp { s1 with staged := s1.staged.erase r }

/-- FAULT_RECORD_WRITE: the buffer of context `ev.n`, or with the flag set the device fault buffer. -/
def execFaultRecordWrite (s : State) : Out := .next (writeRec s (if s.ev.flag then none else some s.ev.n))

/-! ## Page heat (R368, R369) -/

/-- The heat unit that serves a physical key. -/
def heatUnit (s : State) (key : Nat) : Option Nat :=
  match keySpace key with
  | 0 => some (keyAddr key / (64 * gib))
  | 1 => some (keyAddr key / (256 * gib))
  | 2 => some (if Config.lmod then 8 + keyAddr key / 65536 % 16 / 4 else 8 + portOf s (keyAddr key))
  | _ => none

def heatOn (s : State) : Bool := s.field regHEATCFG 0 1 = 1

/-- Key of the counter of a frame. -/
def heatKey (s : State) (key : Nat) : Nat := physKey 0 (s.reg (regHEATBASE (keySpace key)) + 2 * (keyAddr key / 65536))

/-- A unit handles a fill: countdown, generator, and whether it counts. -/
def heatStep (cfg : Nat) (u : Nat × BitVec 16) : (Nat × BitVec 16) × Bool :=
  if u.1 ≠ 0 then ((u.1 - 1, u.2), false)
  else
    let x := u.2.toNat
    let b := (x + x / 4 + x / 8 + x / 32) % 2
    let x' := x / 2 + b * 2 ^ 15
    ((2 ^ min (bitsOf cfg 1 5) 20 - 1 + (x' &&& bitsOf cfg 16 16), BitVec.ofNat 16 x'), true)

/-- L2 fills a line from memory. -/
def fillLine (s : State) (key : Nat) : State :=
  match heatUnit s key with
  | none => s
  | some u =>
    if !heatOn s ∨ !backed s (keySpace key) (keyAddr key) then s
    else
      let r := heatStep (s.reg regHEATCFG) ((aget s.heat u).getD (0, 0))
      let s1 := { s with heat := aput u r.1 s.heat }
      if r.2 then devPut s1 2 (heatKey s key) (min (devNat s1 2 (heatKey s key) + 1) 0xFFFF) else s1

/-- Counters of a table with a byte that is listed, by address. -/
def heatCells (m : Store 8) (base n : Nat) : List Nat :=
  ((m.cells.filter (fun c => physKey 0 base ≤ c.1 && c.1 < physKey 0 base + 2 * n)).map (fun c =>
    physKey 0 base + (c.1 - physKey 0 base) / 2 * 2)).eraseDups

/-- Every counter of a table halved, those never written too. -/
def halveTable (m : Store 8) (base n : Nat) : Store 8 :=
  (heatCells m base n).foldl (fun x k => memPut x 2 k (memNat m 2 k / 2)) (m.halve (physKey 0 base) (physKey 0 base + 2 * n))

def seedHeat (s : State) (seed : BitVec 16) : State :=
  { s with heat := (List.range 12).map (fun u => let x := seed ^^^ BitVec.ofNat 16 u; (u, (0, if x = 0 then 1 else x))) }

/-- HEATCMD written. -/
def heatCommand (s : State) (v : BitVec 64) : State :=
  let s1 := if bitsOf v.toNat 1 1 = 1 then seedHeat s (BitVec.ofNat 16 (bitsOf v.toNat 16 16)) else s
  if bitsOf v.toNat 0 1 = 1 then s1.setReg regHEATSTAT 1 else s1

/-- HEATCMD written with the value `ev.v`, DECAY set. -/
def execDecay (s : State) : Out := .next (onHost s (fun s => if bitsOf s.ev.v.toNat 0 1 = 1 then heatCommand s s.ev.v else s))

/-- HEATCMD written with the value `ev.v`, SEEDW set and DECAY clear. -/
def execSeedw (s : State) : Out :=
  .next (onHost s (fun s => if bitsOf s.ev.v.toNat 1 1 = 1 ∧ bitsOf s.ev.v.toNat 0 1 = 0 then heatCommand s s.ev.v else s))

/-- The units of a table that were written under an encrypting slot, as they are stored: the heat units read and write no plaintext (log 8). -/
def openTable (s : State) (base n : Nat) : State :=
  (s.sealed.filter (fun x => physKey 0 base ≤ 32 * x.1 && 32 * x.1 < physKey 0 base + 2 * n)).foldl (fun s x => reseal s (32 * x.1) (plainSlot, 0)) s

/-- Every counter of the table t halved, as it is stored. -/
def decayTable (s : State) (t : Nat) : State :=
  let base := s.reg (regHEATBASE t)
  let n := if t = 0 then 8388608 else 33554432
  let s1 := openTable s base n
  { s1 with mem := halveTable s1.mem base n }

/-- The decay that runs ends: each counter has been halved once. -/
def finishDecay (s : State) : State :=
  if s.reg regHEATSTAT % 2 = 1 then ([0, 1, 2].foldl decayTable s).setReg regHEATSTAT 0 else s

def execHeatDecayComplete (s : State) : Out := .next (finishDecay s)

/-! ## Key slots (R373, R374) -/

/-- The keys that KEYDATA holds. -/
def keyData (s : State) : List (BitVec 64) := (List.range 8).map (fun i => BitVec.ofNat 64 (s.reg (regKEYDATA i)))

/-- A slot's mode and keys set; translations that carry the slot leave the TLBs. -/
def setKeySlot (s : State) (n : Nat) (k : KeySlot) : State :=
  { s with keys := aput n k s.keys, tlb := s.tlb.filter (fun t => bitsOf t.pte.toNat 52 7 ≠ n) }

/-- A line of L2 carries the slot. -/
def slotDirty (s : State) (n : Nat) : Bool := s.dirty.any (fun d => d.2.1 = n)

/-- The running command's FLUSH, and once every line of the slot is written back, the mode and keys it sets (R374). -/
def advanceKey (s : State) : State :=
  match s.keyRun with
  | none => s
  | some (n, k) =>
    let s1 := writeBack s (fun _ kid => kid = n)
    if slotDirty s1 n then s1
    else match k with
      | none => s1
      | some k => { setKeySlot s1 n k with keyRun := some (n, none) }

/-- KEYCMD written with a given OP, while no command runs. -/
def keyEvent (op : Nat) (k : State → Option KeySlot) (s : State) : Out :=
  .next (onHost s (fun s =>
    if bitsOf s.ev.v.toNat 8 2 = op ∧ s.reg regKEYSTAT % 2 = 0 then
      advanceKey ({ s with keyRun := some (bitsOf s.ev.v.toNat 0 7, k s) }.setReg regKEYSTAT 1)
    else s))

/-- The mode and keys that LOAD sets. -/
def loadKey (s : State) : KeySlot :=
  match bitsOf s.ev.v.toNat 10 2 with
  | 1 => ⟨1, []⟩
  | 2 => ⟨2, keyData s⟩
  | _ => ⟨0, []⟩

/-- KEYCMD written with the value `ev.v`. -/
def execKeyLoad (s : State) : Out := keyEvent 0 (fun s => some (loadKey s)) s
def execKeyFlush (s : State) : Out := keyEvent 1 (fun _ => none) s
def execKeyClear (s : State) : Out := keyEvent 2 (fun _ => some ⟨0, []⟩) s

/-- The running command ends once its lines are written back; KEYDATA is cleared, and status-vector stores that met the slot go on (R374). -/
def finishKey (s : State) : State :=
  if s.reg regKEYSTAT % 2 = 1 then
    let s1 := advanceKey s
    if s1.keyRun.any (fun x => slotDirty s1 x.1) then s1
    else catchUp { (List.range 8).foldl (fun s i => s.setReg (regKEYDATA i) 0) (s1.setReg regKEYSTAT 0) with keyRun := none }
  else s

def execKeyCommandDone (s : State) : Out := .next (finishKey s)

end Sys2Proof.Machine
end

