-- ==== Sys2Proof/Machine/DriverWork.lean ====
section
/-! DEFINITION. Partitions, context commands, launch queues, completion records, and work that stops (chapter 17, R375–R390). -/
namespace Sys2Proof.Machine

/-! ## Partitions (R376) -/

/-- The eighths that an OWN value gives partition v. -/
def ownSet (own v : Nat) : List Nat := (List.range 8).filter (fun e => bitsOf own (4 * e) 4 = v)

/-- Every partition number names a permitted set. -/
def ownValid (own : Nat) : Bool :=
  (List.range 8).all (fun e =>
    let v := bitsOf own (4 * e) 4
    let l := ownSet own v
    v < 8 && (l = [v] || (v % 2 = 0 && l = [v, v + 1]) || (v % 4 = 0 && l = [v, v + 1, v + 2, v + 3]) || (v = 0 && l = List.range 8)))

def runningOn (s : State) (part : Nat) : Option (Nat × Ctx) := s.ctxs.find? (fun c => c.2.st = .running && c.2.part = part)

/-- A write of PARTMAP. -/
def writePartmap (s : State) (v : Nat) : State :=
  let own := v % 2 ^ 32
  let old := s.field regPARTMAP 0 32
  let s1 := if bitsOf v 32 1 = 1 then s.setField regPARTMAP 32 1 0 else s
  let moves := (List.range 8).any (fun e => bitsOf own (4 * e) 4 ≠ bitsOf old (4 * e) 4 && (runningOn s (bitsOf old (4 * e) 4)).isSome)
  if ownValid own && !moves then s1.setField regPARTMAP 0 32 own else s1.setField regPARTMAP 32 1 1

/-- PARTMAP written with the value `ev.v`. -/
def execPartmapWrite (s : State) : Out := .next (onHost s (fun s => writePartmap s s.ev.v.toNat))

/-! ## Context commands (R378, R379) -/

def cmdOp (v : BitVec 64) : Nat := bitsOf v.toNat 0 4
def cmdCtx (v : BitVec 64) : Nat := bitsOf v.toNat 4 12
def cmdPart (v : BitVec 64) : Nat := bitsOf v.toNat 16 3
def cmdDie (v : BitVec 64) : Nat := bitsOf v.toNat 16 1

/-- Results of CTXSTAT.RES. -/
def resOk : Nat := 0
def resBadDesc : Nat := 1
def resBadState : Nat := 2
def resBadArg : Nat := 3
def resNoSpace : Nat := 4

/-- CTXCMD written: f starts the command and gives its result, or none while it goes on. A write while BUSY is lost. -/
def startCommand (s : State) (f : State → State × Option Nat) : State :=
  if s.cmd.isSome then s.setField regCTXSTAT 36 1 1
  else
    let r := f (s.setField regCTXSTAT 32 1 1)
    { r.1 with cmd := some (s.ev.v, r.2) }

/-- The event of one command: the value `ev.v` written to CTXCMD has its OP. -/
def ctxEvent (op : Nat) (f : State → State × Option Nat) (s : State) : Out :=
  .next (onHost s (fun s => if cmdOp s.ev.v = op then startCommand s f else s))

/-- Image bound of a partition size in KiB (R387). -/
def imageKiB (psize : Nat) : Nat := 12896 * (3 * 2 ^ psize)

def Ctx.fresh : Ctx :=
  { st := .idle, part := 0, psize := 0, brken := false, save := 0, saveSize := 0, workRec := 0, memRec := 0, dqtab := 0, dqcnt := 0, dq := [], root := 0, rootSpace := 0,
    fbuf := 0, fbufSpace := 0, fblog := 6, fbvec := 0xFFFF, put := 0, btab := 0, bounds := [], pool := 0, poolUnits := 0, windows := [],
    closing := [], ctxtime := 0, image := [], prestaged := none, recSeq := 0, signalled := none }

/-- The context work record at a SPACE 0 address, when it keeps the limits of R377 and no unit of it is damaged (log 101). -/
def readWorkRec (s : State) (a : Nat) (c : Ctx) : Option Ctx :=
  let f := fun (off n : Nat) => devNat s n (physKey 0 (a + off))
  let ok := a % 64 = 0 && a < 512 * gib && f 0 8 % 64 = 0 && f 0 8 < 512 * gib && f 8 8 % 65536 = 0 && f 8 8 < 512 * gib && f 0x14 1 < 4 &&
    imageKiB (f 0x14 1) ≤ f 0x10 4 && f 0x15 1 < 2 && f 0x16 2 = 0 && f 0x18 8 % 1024 = 0 && f 0x18 8 < 512 * gib && f 0x20 1 ≤ 64 && f 0x21 31 = 0 &&
    !badSpan s (physKey 0 a) 64
  if ok then
    some { c with workRec := a, memRec := f 0 8, save := f 8 8, saveSize := f 0x10 4, psize := f 0x14 1, brken := f 0x15 1 = 1, dqtab := f 0x18 8, dqcnt := f 0x20 1 }
  else none

/-- CREATE. -/
def createCtx (s : State) : State × Option Nat :=
  match aget s.ctxs (cmdCtx s.ev.v) with
  | some _ => (s, some resBadState)
  | none =>
    match readWorkRec s (s.reg regCTXARG) .fresh with
    | none => (noteSpan s (physKey 0 (s.reg regCTXARG)) 64, some resBadDesc)
    | some c => ({ s with ctxs := aput (cmdCtx s.ev.v) c s.ctxs }, some resOk)

def execCreate (s : State) : Out := ctxEvent 1 createCtx s

/-- CARVE.USED follows the prestaged images (R387). -/
def countCarve (s : State) : State :=
  (List.range 2).foldl (fun s d => s.setField (regCARVE d) 16 12
    (((s.ctxs.map (fun c => if c.2.prestaged.any (fun p => p.1 = d) then imageKiB c.2.psize else 0)).foldl (· + ·) 0 + 63) / 64)) s

/-- The records of a context as they stand in memory (R347, R377). -/
def readRecs (s : State) (c : Ctx) : Option Ctx := (readWorkRec s c.workRec c).bind (fun c1 => readMemRec s c1.memRec c1)

/-- The AMB records a damaged unit of a context's records. -/
def noteRecs (s : State) (c : Ctx) : State :=
  match readWorkRec s c.workRec c with
  | none => noteSpan s (physKey 0 c.workRec) 64
  | some c1 => noteMemRec s c1.memRec

/-- The partition exists, has the context's size, and lies on dies that are not dark (R380). -/
def partCheck (s : State) (part psize : Nat) : Option Nat :=
  if (eighthsOf s part).length ≠ 2 ^ psize then some resBadArg
  else if (eighthsOf s part).any (fun e => s.dark.contains (e / 4)) then some resBadState
  else none

/-- The cores of a partition. -/
def coresOf (s : State) (part : Nat) : List Nat := (eighthsOf s part).flatMap (fun e => (List.range 24).map (fun i => 24 * e + i))

/-- The counters of the cores that a context comes onto are zero (R212). -/
def clearCounters (s : State) (part : Nat) : State :=
  { s with cores := s.cores.map (fun c => if (coresOf s part).contains c.1 then (c.1, { c.2 with cnt := .empty 64 }) else c) }

/-- The generators of the converters of the partition hold no state of another tenant (R27): on a core that another context had before, each holds what
the manual does not say, a free value, which a generator's 0 never is (DESIGN CHOICE, log 88). On the others they stay as the reset of the core
or the context itself left them (R106). The issue pointers of R36 are not touched (log 88). -/
def freshGens (s : State) (part id : Nat) : State :=
  let gen := fun (core : Nat) => (List.range 4).map (fun p =>
    let x := Config.freeBits 32 s.fresh (4 * core + p)
    if x = 0 then 1 else x)
  ((coresOf s part).foldl (fun s' c =>
    let x := coreOf s' c
    setCore s' c { x with gen := if x.tenant.all (· = id) then x.gen else gen c, tenant := some id }) s).freshen

/-- The context is gone: another one that takes its id is another tenant (R27). -/
def forgetTenant (s : State) (id : Nat) : State :=
  if s.cores.any (fun c => c.2.tenant = some id) then
    { s with cores := s.cores.map (fun c => (c.1, if c.2.tenant = some id then { c.2 with tenant := some 4096 } else c.2)) }
  else s

/-- The context placed on a partition, its records read (R347, R377) and the partition's size held against the record's. The bound table is
read at a start from idle. The issue pointers of the cores stay as the last tenant left them: R36 sets them at the core reset alone, and R27 does not name
them (DESIGN CHOICE, log 88). -/
def startOn (s : State) (id part : Nat) (c : Ctx) : State × Option Nat :=
  match readRecs s c with
  | none => (noteRecs s c, some resBadDesc)
  | some c1 =>
    match partCheck s part c1.psize with
    | some r => (s, some r)
    | none =>
      if (runningOn s part).isSome then (s, some resBadState)
      else
        let b := if c.st = .idle then readBounds s c1.btab else c1.bounds
        (freshGens (clearCounters (countCarve { s with ctxs := aput id { c1 with st := .running, part := part, bounds := b, prestaged := none } s.ctxs })
          part) part id, some resOk)

/-- START. -/
def startCtx (s : State) : State × Option Nat :=
  match aget s.ctxs (cmdCtx s.ev.v) with
  | none => (s, some resBadState)
  | some c => if c.st = .running then (s, some resBadState) else startOn s (cmdCtx s.ev.v) (cmdPart s.ev.v) c

def execStart (s : State) : Out := ctxEvent 2 startCtx s

/-! ## Stopping gangs (R60, R145, R387, R389) -/

def gangsOf (s : State) (ctx : Nat) : List Nat := (s.gangs.filter (fun g => g.2.ctx = ctx)).map (·.1)

/-- Gangs stop at an instruction boundary, and their leases are evicted with a status. -/
def haltGang (s : State) (gid : Nat) (st : Status) : State :=
  match aget s.gangs gid with
  | none => s
  | some g => evictGang { s with gangs := aput gid { g with halt := true } s.gangs } gid st

def haltGangs (s : State) (l : List Nat) (st : Status) : State := l.foldl (fun s g => haltGang s g st) s

/-- Every item of the gang has ended and every batch has reported. -/
def gangQuiet (s : State) (gid : Nat) : Bool := (aget s.gangs gid).all (fun g => g.crews.all (fun c => c.2.quiet))

/-- The gangs of a context are quiet, on their cores and in its image, where items that a dark die ended may still have to report (R119, R389). -/
def ctxQuiet (s : State) (id : Nat) : Bool :=
  (gangsOf s id).all (gangQuiet s) && (aget s.ctxs id).all (fun c => c.image.all (fun g => g.2.crews.all (fun x => x.2.quiet)))

/-- A gang taken off its cores with its sample-group entries. -/
def takeOut (s : State) (gid : Nat) : State × Option Gang :=
  match aget s.gangs gid with
  | none => (s, none)
  | some g =>
    let es := s.clusters.flatMap (fun c => c.2.sg.filter (fun e => e.2.gang = gid))
    (removeGang s gid, some { g with sg := es })

/-- A gang moved into its context's image. One that has ended leaves nothing to move. -/
def storeGang (s : State) (gid : Nat) : State :=
  match takeOut s gid with
  | (s1, some g) =>
    match aget s1.ctxs g.ctx with
    | some c => if g.gone then s1 else { s1 with ctxs := aput g.ctx { c with image := aput gid g c.image } s1.ctxs }
    | none => s1
  | (s1, none) => s1

def setCtxSt (s : State) (id : Nat) (st : CtxState) : State :=
  match aget s.ctxs id with
  | none => s
  | some c => { s with ctxs := aput id { c with st := st } s.ctxs }

/-- The image of a context is written to its save area. The manual gives no layout of an image, so the area's bytes become undefined
(R387; log 41). -/
def writeImage (s : State) (id : Nat) : State :=
  match aget s.ctxs id with
  | none => s
  | some c => spoilSave s c

/-- The save of a context whose gangs are quiet: lines drain, gangs go into the image. -/
def saveCtx (s : State) (id : Nat) : State := writeImage (setCtxSt ((gangsOf s id).foldl storeGang (drainCtx s id)) id .saved) id

/-- SAVE. -/
def startSave (s : State) : State × Option Nat :=
  let id := cmdCtx s.ev.v
  if (aget s.ctxs id).any (fun c => c.st = .running) then (haltGangs s (gangsOf s id) .evicted, none) else (s, some resBadState)

def execSave (s : State) : Out := ctxEvent 3 startSave s

/-- SWAP. -/
def startSwap (s : State) : State × Option Nat :=
  let part := cmdPart s.ev.v
  match aget s.ctxs (cmdCtx s.ev.v), runningOn s part with
  | some c, some (out, o) =>
    if c.st = .running then (s, some resBadState)
    else match readRecs s c with
      | none => (noteRecs s c, some resBadDesc)
      | some c1 =>
        if o.psize ≠ c1.psize then (s, some resBadState)
        else match partCheck s part c1.psize with
          | some r => (s, some r)
          | none => (haltGangs s (gangsOf s out) .evicted, none)
  | _, _ => (s, some resBadState)

def execSwap (s : State) : Out := ctxEvent 4 startSwap s

/-! ## PRESTAGE (R387) -/

/-- The lowest offset in KiB at which an image of n KiB fits among those of a die. -/
def carveFit (used : List (Nat × Nat)) (size n : Nat) : Option Nat :=
  ((0 :: used.map (fun u => u.1 + u.2)).filter (fun a => a + n ≤ size && used.all (fun u => a + n ≤ u.1 || u.1 + u.2 ≤ a))).foldl
    (fun b a => match b with
      | none => some a
      | some x => some (min x a)) none

/-- Units of 16 MiB that a SIZE reserves. -/
def carveUnits (size : Nat) : Nat := min size 10

def prestage (s : State) : State × Option Nat :=
  let id := cmdCtx s.ev.v
  let d := cmdDie s.ev.v
  match aget s.ctxs id with
  | none => (s, some resBadState)
  | some c =>
    if c.st ≠ .saved then (s, some resBadState)
    else
      let used := s.ctxs.filterMap (fun x => x.2.prestaged.bind (fun p => if p.1 = d ∧ x.1 ≠ id then some (p.2, imageKiB x.2.psize) else none))
      match carveFit used (carveUnits (s.field (regCARVE d) 0 4) * 16384) (imageKiB c.psize) with
      | none => (s, some resNoSpace)
      | some a => (countCarve { s with ctxs := aput id { c with prestaged := some (d, a) } s.ctxs }, some resOk)

def execPrestage (s : State) : Out := ctxEvent 5 prestage s

/-! ## ABORT and DESTROY (R379, R385) -/

/-- A grid ends with a status; the highest code stands. -/
def endGrid (status : Nat) (g : Grid) : Grid := { g with status := max g.status status, fin := true, parent := none }

/-- Every grid of a context that has not ended ends with a status. -/
def endGrids (s : State) (ctx status : Nat) : State :=
  { s with grids := s.grids.filterMap (fun g =>
      if g.2.ctx ≠ ctx ∨ g.2.fin then some g
      else if g.2.pkt.notify then some (g.1, endGrid status g.2) else none) }

/-- The packet waits in a queue of the context. -/
def pktOf (s : State) (ctx : Nat) (r : PktRef) : Bool := pktCtx s r = some ctx || (!r.dev && bitsOf (s.reg (regLQ r.q 8)) 5 12 = ctx)

/-- The packets that wait in a context's queues are taken and end without running, while the dispatcher's records find room; after a fatal event
no packet is taken (R418). -/
def endPackets (s : State) (ctx : Nat) : State :=
  s.visible.foldl (fun s r =>
    if pktOf s ctx r ∧ !dispStalls s ∧ !s.halted then
      match pktBad s r with
      | some (k, n) => losePacket (advanceGet s r) r k n
      | none =>
        let bs := pktBytes s r
        endPacket (advanceGet s r) ctx r (packetOf bs) (if packetOk bs ctx then 2 else 3)
    else s) s

/-- A packet that its sender is to resend to a device queue of the context. -/
def Nak.ofCtx (ctx : Nat) (n : Nak) : Bool :=
  match n.msg with
  | .packet _ _ c _ _ _ _ _ => c = ctx
  | _ => false

/-- Everything of a context whose gangs are quiet ends (R385). -/
def abortCtx (s : State) (id : Nat) : State :=
  let s1 := (gangsOf s id).foldl removeGang (drainCtx s id)
  let s2 := endPackets (endGrids { s1 with naks := s1.naks.filter (fun n => !n.ofCtx id) } id 2) id
  countCarve { s2 with ctxs := s2.ctxs.map (fun c => if c.1 = id then (c.1, { c.2 with image := [], prestaged := none }) else c),
                       pageWaits := s2.pageWaits.filter (fun w => w.ctx ≠ id || s2.grids.any (fun g => g.2.page = some w.rid)) }

/-- ABORT. -/
def startAbort (s : State) : State × Option Nat :=
  let id := cmdCtx s.ev.v
  if (aget s.ctxs id).isSome then (haltGangs s (gangsOf s id) .evicted, none) else (s, some resBadState)

def execAbort (s : State) : Out := ctxEvent 6 startAbort s

/-- DESTROY starts as ABORT does; the id is free once every item of the context has reported and the completion records are written. -/
def startDestroy (s : State) : State × Option Nat :=
  let id := cmdCtx s.ev.v
  if (aget s.ctxs id).any (fun c => c.st ≠ .running) then (haltGangs s (gangsOf s id) .evicted, none) else (s, some resBadState)

def execDestroy (s : State) : Out := ctxEvent 8 startDestroy s

/-- The id is free; records still staged for it go to the device fault buffer (R119). -/
def freeCtx (s : State) (id : Nat) : State :=
  let s1 := forgetTenant (countCarve { s with ctxs := adel id s.ctxs }) id
  s1.staged.foldl (fun s r =>
    if r.dest = some id then
      { s with staged := s.staged.map (fun x => if x = r then { r with dest := none, seq := s.devSeq } else x), devSeq := s.devSeq + 1 }
    else s) s1

/-! ## FLTACT (R384) -/

/-- The stopped split or stream of a record. -/
def Stopped (seq : Nat) (x : Option (Nat × Cause)) : Bool := x.any (fun y => y.1 % 2 ^ 32 = seq)

/-- A stopped split of the loaded crew. -/
def stoppedSplit (c : Crew) (seq : Nat) : Option (Nat × Nat) :=
  c.groups.findSome? (fun g => (g.2.splits.findIdx? (fun x => Stopped seq x.stop)).map (fun i => (g.1, i)))

/-- The crew of a context with a split or stream that the record stopped, and its cause. -/
def findStopped (s : State) (ctx seq : Nat) : Option (Nat × Nat × Cause) :=
  (s.gangs ++ s.ctxs.flatMap (fun c => c.2.image)).findSome? (fun g =>
    if g.2.ctx ≠ ctx then none
    else g.2.crews.findSome? (fun c =>
      if Stopped seq c.2.strm.stop then c.2.strm.stop.map (fun x => (g.1, c.1, x.2))
      else c.2.groups.findSome? (fun y => (y.2.splits.find? (fun x => Stopped seq x.stop)).bind (fun x => x.stop.map (fun z => (g.1, c.1, z.2))))))

/-- The action on the split or stream in execution. -/
def actOn (resume : Bool) (s : State) : State :=
  let s1 := if isStream s then setStrm s (fun x => { x with stop := none }) else setSplit s (fun x => { x with stop := none })
  if resume then setPc s1 (pcOf s1 + 4) else if isStream s then streamEnd s1 else endSplit s1

def actCrew (seq : Nat) (resume : Bool) (s : State) : State :=
  if Stopped seq s.crew.strm.stop then { actOn resume { s with cur := .stream } with cur := .none }
  else match stoppedSplit s.crew seq with
    | none => s
    | some (k, i) =>
      match focusSplit s k i with
      | none => s
      | some s1 => unfocusSplit (actOn resume s1)

def fltact (resume : Bool) (s : State) : State × Option Nat :=
  let id := cmdCtx s.ev.v
  let seq := bitsOf (s.reg regCTXARG) 0 32
  if (aget s.ctxs id).any (fun c => c.st ≠ .idle) then
    match findStopped s id seq with
    | none => (s, some resBadArg)
    | some (gid, crew, cause) =>
      if resume ∧ cause ≠ .trap ∧ cause ≠ .brk then (s, some resBadArg)
      else (onAnyCrew s gid crew (actCrew seq resume), some resOk)
  else (s, some resBadState)

/-- FLTACT with the action that CTXARG[32] gives. -/
def fltactEvent (resume : Bool) (s : State) : Out :=
  if bitsOf (s.reg regCTXARG) 32 1 = (if resume then 1 else 0) then ctxEvent 7 (fltact resume) s else .next s

def execFltactEnd (s : State) : Out := fltactEvent false s
def execFltactResume (s : State) : Out := fltactEvent true s

/-! ## Dies that go dark (R380, R389, R390) -/

def gangDie (g : Gang) : Nat :=
  match g.crews with
  | [] => 0
  | (_, c) :: _ => dieOfCore c.core

def gangsOnDie (s : State) (d : Nat) : List Nat := (s.gangs.filter (fun g => gangDie g.2 = d)).map (·.1)

/-- Gangs of a die stop; their engine items end FAILED(DIE_LOST). `trip`: the time of the trip at 110 °C that makes the die go dark. -/
def beginDark (s : State) (d : Nat) (trip : Option Nat) : State :=
  catchUp (haltGangs { s with darkening := aput d (s.clock.toNat, trip) s.darkening } (gangsOnDie s d) .dieLost)

/-- CL items with a partner core on the die fail (R148, R389). -/
def losePartners (s : State) (d : Nat) : State :=
  endAll s (itemsWith s (fun p => match p with
    | .core n => n / 96 = d
    | _ => false)) .dieLost

/-- Holders of a die: the L1s of its cores and its L2 slices (R130). -/
def holderDie (h : Nat) : Nat := if h < 192 then h / 96 else (h - 192) / 48

def drainDie (s : State) (d : Nat) : State :=
  s.lines.foldl (fun s l => l.2.shares.foldl (fun s h => if holderDie h.1 = d then drainHolder s l.1 h.1 else s) s) s

/-- Operand slots lose their contents (R29, R83). -/
def Gang.loseSlots (g : Gang) : Gang :=
  { g with crews := g.crews.map (fun c => (c.1, { c.2 with slots := c.2.slots.map (fun x => (x.1, { x.2 with lost := x.2.lost || x.2.claimed })) })) }

/-- A cluster without its engines, leases and sample groups; its count of grants goes on (R302). -/
def Cluster.unpowered (c : Cluster) : Cluster := { c with engines := [], queues := [], sg := [], placing := none }

/-- Clusters of a die as they stand once it has no power: gated, their cores and engines gone. -/
def powerDown (s : State) (d : Nat) : State :=
  let s1 := (List.range 12).foldl (fun s i => setGated s (12 * d + i) true) s
  { s1 with clusters := s1.clusters.map (fun c => if c.1 / 12 = d then (c.1, c.2.unpowered) else c),
            cores := s1.cores.filter (fun c => c.1 / 96 ≠ d),
            dark := if s1.dark.contains d then s1.dark else d :: s1.dark, darkening := adel d s1.darkening }

/-- The context is saved because its die went dark, with a record (R390); one of the whole device goes on while the other die is in service. -/
def darkSave (s : State) (id d : Nat) (thermal : Bool) : State :=
  let whole := (aget s.ctxs id).any (fun c => c.psize = 3)
  if whole ∧ !s.dark.contains (1 - d) then s
  else pushRec (writeImage (setCtxSt s id .saved) id) none none (unitRec .dieLost 9 0 id (if thermal then 2 else 0))

/-- The contexts with gangs on a die, and those of the whole device with gangs that an earlier dark die left without a place. -/
def darkCtxs (s : State) (d : Nat) : List Nat :=
  (s.ctxs.filter (fun c => c.2.st = .running && ((gangsOnDie s d).any (fun g => (aget s.gangs g).any (fun x => x.ctx = c.1 && !x.gone)) ||
    (c.2.psize = 3 && c.2.image ≠ [])))).map (·.1)

/-- The die goes dark: its gangs are saved, and placed again on the other die or kept with their context. A gang that has ended stays until its items
and batches have reported (R119). -/
def goDark (s : State) (d : Nat) (thermal : Bool) : State :=
  let s1 := (gangsOnDie s d).foldl (fun s g => match aget s.gangs g with
    | none => s
    | some x => if x.gone && !gangQuiet s g then s else storeGang { s with gangs := aput g x.loseSlots s.gangs } g) (drainDie s d)
  let s2 := losePartners (powerDown s1 d) d
  let s3 := (darkCtxs s d).foldl (fun s c => darkSave s c d thermal) s2
  addLog s3 (if thermal then 4 else 2) 9 d 1 (if thermal then 1 else 0)

def dieQuiet (s : State) (d : Nat) : Bool := (gangsOnDie s d).all (gangQuiet s)

/-- The staging store of die 0 has room for the records of the contexts that are saved (R358). -/
def darkRoom (s : State) (d : Nat) : Bool := (s.staged.filter (fun r => r.die = 0)).length + (darkCtxs s d).length ≤ 512

/-- A die whose gangs are all quiet goes dark. -/
def settleDark (s : State) (d : Nat) : State :=
  match aget s.darkening d with
  | none => s
  | some (_, trip) => if dieQuiet s d ∧ darkRoom s d then goDark s d trip.isSome else s

/-- The item transfers into or out of an operand slot. -/
def ItemOp.touchesSlot : ItemOp → Bool
  | .mx .. => true
  | .cpld sl _ _ _ _ _ => sl.isSome
  | _ => false

/-- Every item of a gang that has not ended ends for a lost die: STALE where it touches an operand slot. -/
def loseItems (s : State) (gid : Nat) : State :=
  match aget s.gangs gid with
  | none => s
  | some g => g.crews.foldl (fun s c => onCrew s gid c.1 (fun s =>
      endAborted ((crewItems s (fun i => i.status = none && i.drained = none)).foldl (fun s x =>
        doomItem s x.1 x.2 (if x.2.op.touchesSlot then .stale else .dieLost)) s))) s

/-- ORDERLY_DARK_TIMEOUT of die `ev.n`: 200 µs after the stop. -/
def execOrderlyDarkTimeout (s : State) : Out :=
  .next (match aget s.darkening s.ev.n with
    | none => s
    | some (t, trip) =>
      if t + 320000 ≤ s.clock.toNat ∧ darkRoom s s.ev.n then goDark ((gangsOnDie s s.ev.n).foldl loseItems s) s.ev.n trip.isSome else s)

/-- DIEOFF. A die on its way down is not yet dark: the command then completes with it. -/
def startDieoff (s : State) : State × Option Nat :=
  let d := cmdDie s.ev.v
  if s.dark.contains d then (s, some resBadState)
  else if (aget s.darkening d).isSome then (s, none) else (beginDark s d none, none)

def execDieoff (s : State) : Out := ctxEvent 9 startDieoff s

def tjOf (s : State) (cl : Nat) : Nat := s.field (regCLSTAT cl) 13 8

/-- The temperature of a site in 1/16 °C: of a cluster by its own sensor, which reads whole °C, of a stack (0x100 and its number) by the comparator of
its sensor, which a restart of the AMB does not affect (R391, R394, R404, R408). -/
def siteTemp (s : State) (site : Nat) : Int := if site < 0x100 then 16 * (tjOf s site : Int) else s.stackTj.getD (site - 0x100) 0

/-- The sensors of a die: its clusters and its stacks (R394). -/
def sitesOf (d : Nat) : List Nat := (List.range 12).map (12 * d + ·) ++ (List.range 4).map (0x100 + 4 * d + ·)

/-- A threshold of THERM; values above 109 act as 109. -/
def therm (s : State) (d lo : Nat) : Nat := min (s.field (regTHERM d) lo 8) 109

/-- The clusters of a die powered again: its cores come out of core reset now (R213). -/
def powerUp (s : State) (d : Nat) : State :=
  let s1 := (List.range 12).foldl (fun s i => setGated s (12 * d + i) false) { s with dark := s.dark.filter (· ≠ d) }
  (List.range 96).foldl (fun s i => setCore s (96 * d + i) { Core.zero with cycAt := s.clock.toNat }) s1

/-- DIEON; `ev.flag` says that powering the die fails. -/
def dieon (s : State) : State × Option Nat :=
  let d := cmdDie s.ev.v
  if !s.dark.contains d ∨ (sitesOf d).any (fun i => 16 * (therm s d 0 : Int) ≤ siteTemp s i) then (s, some resBadState)
  else if s.ev.flag then (s.setField regBOOTSTAT (16 + d) 1 1, some resBadState)
  else ((powerUp s d).setField regBOOTSTAT (16 + d) 1 0, some resOk)

def execDieon (s : State) : Out := ctxEvent 10 dieon s

/-- Deltas withheld in a lost die's holders are discarded, each line with a record (R136); a record that finds no room in the staging store waits
for it (R358). -/
def discardDie (s0 : State) (d : Nat) : State :=
  let s := s0.lines.foldl (fun s l =>
    let gone := l.2.shares.filter (fun h => holderDie h.1 = d)
    if gone = [] then s
    else
      let u := gone.foldl (fun u h => u.add (e8m8 h.2.s)) l.2.u
      let left : List (Nat × Share) := l.2.shares.filter (fun h => holderDie h.1 ≠ d)
      let s1 := { s with lines := (if left = [] then adel l.1 s.lines else aput l.1 { l.2 with u := u, shares := left } s.lines) }
      { s1 with owed := s1.owed ++ [(l.2.ctx, { unitRec .dieLost 7 (keyAddr (128 * l.1)) l.2.bidx 0 with flags := 4 + 8 * keySpace (128 * l.1) })] }) s0
  payOwed s s.owed

/-- A crew without lanes, records and stream: of a gang whose state is lost only the items that still have to report remain. -/
def Crew.ended_ (c : Crew) : Crew :=
  { c with recs := [], strm := { c.strm with st := .ended }, groups := c.groups.map (fun g => (g.1, { g.2 with splits := [] })) }

/-- A gang whose state is lost: its grid reports DIE_LOST. Items whose records find no room report later. -/
def loseGang (s : State) (gid : Nat) : State :=
  match aget s.gangs gid with
  | none => s
  | some g =>
    let s1 := evictGang (loseItems s gid) gid .dieLost
    let s2 := if gangQuiet s1 gid then removeGang s1 gid
      else { s1 with gangs := s1.gangs.map (fun x => if x.1 = gid then
        (gid, { x.2 with gone := true, crews := x.2.crews.map (fun c => (c.1, c.2.ended_)) }) else x) }
    match aget s2.grids g.grid with
    | none => s2
    | some x => if g.gone then s2 else countEnded { s2 with grids := aput g.grid { x with status := max x.status 4 } s2.grids } g.grid 0 1

/-- An abrupt loss of a die (R389): first its holders lose what they withhold (R136). -/
def abruptLoss (s : State) (d : Nat) : State :=
  if s.dark.contains d then s
  else addLog (losePartners (powerDown ((gangsOnDie s d).foldl loseGang (discardDie s d)) d) d) 4 9 d 1 2

/-- DIE_ABRUPT_LOSS of die `ev.n`. -/
def execDieAbruptLoss (s : State) : Out := .next (if s.ev.n < 2 then abruptLoss s s.ev.n else s)

/-! ## Commands complete (R378) -/

/-- What a running command still has to do, done when it can be: the state, and its result once it has ended. -/
def furtherCmd (s : State) (v : BitVec 64) : State × Option Nat :=
  let id := cmdCtx v
  let quiet := fun (id : Nat) => (gangsOf s id).all (gangQuiet s)
  let ends := fun (f : State → State × Option Nat) =>
    if ctxQuiet s id then
      let s1 := abortCtx s id
      if s1.visible.any (pktOf s1 id) then (s1, none) else f s1
    else (s, none)
  match cmdOp v with
  | 3 => if quiet id then (saveCtx s id, some resOk) else (s, none)
  | 4 =>
    match runningOn s (cmdPart v) with
    | none => (s, some resBadState)
    | some (out, _) =>
      if quiet out then
        let s1 := saveCtx s out
        match aget s1.ctxs id with
        | none => (s1, some resBadState)
        | some c => startOn s1 id (cmdPart v) c
      else (s, none)
  | 6 => ends (fun s1 => (s1, some resOk))
  | 8 => ends (fun s1 => if s1.grids.any (fun g => g.2.ctx = id && g.2.fin) then (s1, none) else (freeCtx s1 id, some resOk))
  | 9 => let s1 := settleDark s (cmdDie v); if s1.dark.contains (cmdDie v) then (s1, some resOk) else (s1, none)
  | _ => (s, some resBadArg)

/-- CTXSTAT reports a completed command. -/
def reportCmd (s : State) (v : BitVec 64) (res : Nat) : State :=
  let s1 := (s.setField regCTXSTAT 0 32 (bitsOf v.toNat 32 32)).setField regCTXSTAT 32 1 0
  { s1.setField regCTXSTAT 33 3 res with cmd := none }

def finishCommand (s : State) : State :=
  match s.cmd with
  | none => s
  | some (v, some res) => reportCmd s v res
  | some (v, none) =>
    match furtherCmd s v with
    | (s1, some res) => reportCmd s1 v res
    | (s1, none) => s1

def execContextCommandComplete (s : State) : Out := .next (finishCommand s)

/-! ## Launch queues (R381, R382) -/

/-- A write of LQCTL of queue q; while EN is set one that does not clear it is ignored, QERR's W1C included (R381; log 85). -/
def writeLqctl (s : State) (q v : Nat) : State :=
  let o := regLQ q 8
  let s1 := if bitsOf v 17 1 = 1 then s.setField o 17 1 0 else s
  if s.field o 0 1 = 0 ∨ bitsOf v 0 1 = 0 then (s1.setField o 0 17 (bitsOf v 0 17)).setField o 32 16 (bitsOf v 32 16) else s

def execLqctlWrite (s : State) : Out := .next (onHost s (fun s => if s.ev.n < 64 then writeLqctl s s.ev.n s.ev.v.toNat else s))

/-- A write of LQPUT of queue q: packets become visible, or QERR. -/
def writeLqput (s : State) (q put : Nat) : State :=
  let old := s.reg (regLQ q 0x10)
  if 2 ^ s.field (regLQ q 8) 1 4 < (put + 2 ^ 64 - s.reg (regLQ q 0x18)) % 2 ^ 64 then s.setField (regLQ q 8) 17 1 1
  else
    let kept := s.visible.filter (fun r => r.dev || r.q ≠ q || r.ix < put)
    let new := (List.range (put - old)).map (fun i => (⟨false, 0, q, old + i, none, 7, s.clock.toNat⟩ : PktRef))
    { s with visible := kept ++ new }.setReg (regLQ q 0x10) put

def execLqputWrite (s : State) : Out := .next (onHost s (fun s => if s.ev.n < 64 then writeLqput s s.ev.n s.ev.v.toNat else s))

/-- A read of LQGET of queue `ev.n` answers its signal (R383). -/
def execLqgetRead (s : State) : Out := .next (onHost s (fun s => { s with qsig := s.qsig.filter (· ≠ s.ev.n) }))

/-! ## Completion records (R383) -/

/-- The 32 bytes of a record. -/
def gridRecord (s : State) (g : Grid) : List (BitVec 8) :=
  natBytes 1 (if g.nrec = 0 then g.status else max g.status 1) ++ natBytes 1 (srcq g.dev g.q) ++ natBytes 2 0 ++ natBytes 4 g.nrec ++
    natBytes 8 g.pos ++ natBytes 8 g.ended ++ natBytes 8 s.clock.toNat

/-- The signal of a host queue after a record. -/
def signalQueue (s : State) (g : Grid) : State :=
  if g.dev ∨ s.qsig.contains g.q then s
  else
    let v := s.field (regLQ g.q 8) 32 16
    if v = 0xFFFF then s else { signal s v with qsig := s.qsig ++ [g.q] }

/-- The record of a grid that has ended is written, waits for a page, or gives way to a record of its failure. The
access is the dispatcher's (SRC 9), so its PAGE record counts for no grid. -/
def writeCompletion (s : State) (id : Nat) (g : Grid) : State :=
  let va := g.pkt.caddr.toNat
  let locs : Except AccErr (List Loc) :=
    if regionOf va ≠ .global then .error (.prot false) else (List.range 32).mapM (fun i => translate s g.ctx (va + i) .write)
  match locs with
  | .error .busy => s
  | .error .page =>
    let r := joinPage s 0 g.ctx va (fun rid s => pushRec s none (some g.ctx) { unitRec .page 9 va 0 0 with flags := 3, rid := rid })
    { r.2 with grids := r.2.grids.map (fun x => if x.1 = id then (x.1, { x.2 with page := some r.1 }) else x) }
  | .error .ecc => failRecord (match walkSite s g.ctx va with
      | some (c, site, d) => addLog s 3 c site 1 d
      | none => s) id g .eccUncorr
  | .error .link => failRecord s id g .linkDown
  | .error _ => failRecord s id g .prot
  | .ok ls =>
    if readsBad s ls .write then
      failRecord (match ls.findSome? (fun l => match l with
          | .phys k _ _ => keySite s k
          | .spad _ _ => none) with
        | some (c, site, d) => addLog s 3 c site 1 d
        | none => s) id g .eccUncorr
    else
    let s1 := locsPut (setDirty (drainFor s ls) g.ctx va) ls (bytesNat (gridRecord s g))
    signalQueue { s1 with grids := adel id s1.grids } g

/-- Every item that the grid issued has completed or failed, and its status vectors are stored (R383). -/
def gridDone (s : State) (id : Nat) : Bool := s.gangs.all (fun g => g.2.grid ≠ id || g.2.crews.all (fun c => c.2.quiet))

/-- COMPLETION_RECORD_WRITE of grid `ev.n`. -/
def execCompletionRecordWrite (s : State) : Out :=
  .next (match aget s.grids s.ev.n with
    | none => s
    | some g => if g.fin ∧ g.page = none ∧ !dispStalls s ∧ gridDone s s.ev.n then writeCompletion s s.ev.n g else s)

/-! ## Device fault buffer and carve-out registers (R386, R387) -/

/-- DFBBASE written with the value `ev.v`. -/
def execDfbbaseWrite (s : State) : Out :=
  .next (onHost s (fun s =>
    let v := s.ev.v.toNat
    s.setReg regDFBBASE (bitsOf v 0 4 + bitsOf v 12 40 * 2 ^ 12 + bitsOf v 54 1 * 2 ^ 54)))

/-- CARVE of die `ev.n` written with the value `ev.v`. Growing the carve-out writes lines of the die's L2 back; the manual does not say which
ones it takes, and every dirty line of the die is written back (DESIGN CHOICE, log 41). -/
def execCarveWrite (s : State) : Out :=
  .next (onHost s (fun s =>
    if s.ev.n < 2 ∧ s.field (regCARVE s.ev.n) 16 12 = 0 then
      let new := bitsOf s.ev.v.toNat 0 4
      let s1 := if carveUnits (s.field (regCARVE s.ev.n) 0 4) < carveUnits new then
          writeBack s (fun key _ => homeSlice s key / 48 = s.ev.n) else s
      s1.setField (regCARVE s.ev.n) 0 4 new
    else s))

end Sys2Proof.Machine
end

