-- ==== Sys2Proof/Machine/Power.lean ====
section
/-! DEFINITION. Residency, gating, boost, thermal limits and watchdogs (R391–R394, R413, R418). -/
namespace Sys2Proof.Machine

/-! ## Residency (R391) -/

def clpwr (s : State) (cl lo n : Nat) : Nat := s.field (regCLPWR cl) lo n
def rglMax (s : State) (cl : Nat) : Nat := min (clpwr s cl 0 10) 512
def rglMin (s : State) (cl : Nat) : Nat := min (clpwr s cl 10 10) (rglMax s cl)

/-- The die of a THERMAL site: a cluster, or 0x100 and the number of a stack (R415). -/
def siteDie (site : Nat) : Nat := if site < 0x100 then site / 12 else (site - 0x100) / 4

/-- DATA of a THERMAL record: the temperature in 1/16 °C, and the threshold crossed (R408, R415). -/
def thermalData (temp : Int) (t : Nat) : Nat := (BitVec.ofInt 16 temp).toNat + t * 65536

/-- The THERMAL record of a threshold of its die that the temperature of a site, in 1/16 °C, crossed upward (R415; log 60). -/
def thermalLog (s : State) (site : Nat) (old new : Int) : State :=
  let crossed := fun (lo : Nat) => old < 16 * (therm s (siteDie site) lo : Int) ∧ 16 * (therm s (siteDie site) lo : Int) ≤ new
  let t := if crossed 16 then 3 else if crossed 8 then 2 else if crossed 0 then 1 else 0
  if t = 0 then s else addLog s 0 8 site 1 (thermalData new t)

/-- The cluster's own sensor reads a temperature. -/
def setTj (s : State) (cl tj : Nat) : State :=
  let s1 := (thermalLog s cl (siteTemp s cl) (16 * (tj : Int))).setField (regCLSTAT cl) 13 8 tj
  let c := clusterOf s1 cl
  let hot := therm s (cl / 12) 16 ≤ tj
  setCluster s1 cl { c with hotSince := if hot then (if c.hotSince.isSome then c.hotSince else some s.clock.toNat) else none }

/-- The end of a power interval: temperature in °C, mean power in mW. -/
def rglStep (s : State) (cl tj p : Nat) : State :=
  let s1 := setTj s cl tj
  let rgl := rglOf s cl
  let step := clpwr s cl 20 6
  let b := clpwr s cl 26 12 * 1000
  let r := if therm s (cl / 12) 8 ≤ tj ∨ b < p then max (rglMin s cl) (rgl - step)
    else if 8 * p < 7 * b then min (rglMax s cl) (rgl + step) else rgl
  setCluster (s1.setField (regCLSTAT cl) 0 10 r) cl { clusterOf s1 cl with rglAt := s.clock.toNat / 16000 }

/-- CLPWR of cluster `ev.n` written with the value `ev.v`. -/
def execClpwrWrite (s : State) : Out :=
  .next (onHost s (fun s =>
    if s.ev.n < 24 then
      let s1 := s.setReg (regCLPWR s.ev.n) (bitsOf s.ev.v.toNat 0 48)
      s1.setField (regCLSTAT s.ev.n) 0 10 (rglMax s1 s.ev.n)
    else s))

/-! ## Gating (R392) -/

/-- CLUSTER_GATE of cluster `ev.n`: idle for GATEIDLE µs. -/
def execClusterGate (s : State) : Out :=
  let c := clusterOf s s.ev.n
  let g := clpwr s s.ev.n 38 10
  .next (if s.ev.n < 24 ∧ g ≠ 0 ∧ !gated s s.ev.n ∧ clusterIdle s s.ev.n ∧ c.placing = none ∧ c.busyAt + usCycles g ≤ s.clock.toNat then
    setGated (settleClock (setCluster s s.ev.n { c with engines := [], busyAt := s.clock.toNat }) s.ev.n) s.ev.n true
  else s)

/-- CLUSTER_UNGATE of cluster `ev.n`: 4 µs after a placement into it was decided. -/
def execClusterUngate (s : State) : Out :=
  let c := clusterOf s s.ev.n
  .next (match c.placing with
    | none => s
    | some t =>
      if t + 6400 ≤ s.clock.toNat then
        setGated (settleClock (setCluster s s.ev.n { c with placing := none, busyAt := s.clock.toNat }) s.ev.n) s.ev.n false
      else s)

/-! ## Boost (R393) -/

def bprio (s : State) (cl : Nat) : Nat := s.field (regBOOSTCTL cl) 1 3

/-- Clusters of die d that claim boost, as indices within the die. -/
def claims (s : State) (d : Nat) : List Nat :=
  (List.range 12).filter (fun i =>
    let cl := 12 * d + i
    s.field (regBOOSTCTL cl) 0 1 = 1 && !gated s cl && tjOf s cl < therm s d 0)

/-- The last places among equals, by the tie pointer: winners and the pointer after. -/
def tieWins : Nat → List Nat → Nat → List Nat × Nat
  | 0, _, ptr => ([], ptr)
  | n + 1, l, ptr =>
    match (l.find? (ptr ≤ ·)).orElse (fun _ => l.head?) with
    | none => ([], ptr)
    | some w => let r := tieWins n (l.filter (· ≠ w)) (w + 1); (w :: r.1, r.2)

/-- Grants of p places by priority from 7 down. -/
def grantBoost (s : State) (d : Nat) (cs : List Nat) : Nat → Nat → Nat → List Nat × Nat
  | 0, _, ptr => ([], ptr)
  | lv + 1, p, ptr =>
    let l := cs.filter (fun i => bprio s (12 * d + i) = lv)
    if l.length ≤ p then
      let r := grantBoost s d cs lv (p - l.length) ptr
      (l ++ r.1, r.2)
    else tieWins p l ptr

/-- Clusters of the die that ran at 2.9 GHz. -/
def boosted (s : State) (d : Nat) : Bool := (List.range 12).any (fun i => s.field (regCLSTAT (12 * d + i)) 10 2 = 2)

/-- The boundary between two intervals of die d. -/
def boostStep (s : State) (d : Nat) : State :=
  let p0 := s.field (regPERMIT d) 0 7
  let p := if boosted s d then p0 else min 64 (p0 + 1)
  let (win, ptr) := grantBoost s d (claims s d) 8 p (s.field (regPERMIT d) 7 5)
  let s1 := (List.range 12).foldl (fun s i =>
    let o := regCLSTAT (12 * d + i)
    let r := s.field o 10 2
    (settleClock s (12 * d + i)).setField o 10 2 (if win.contains i then 2 else if r = 2 then 1 else 0)) s
  { (s1.setField (regPERMIT d) 0 7 (p - win.length)).setField (regPERMIT d) 7 5 ptr with
    boostAt := aput d (s.clock.toNat / 16000) s.boostAt }

/-- BOOST_INTERVAL of die `ev.n`, once at each boundary of 10 µs. -/
def execBoostInterval (s : State) : Out :=
  .next (if s.ev.n < 2 ∧ (aget s.boostAt s.ev.n).all (fun t => t < s.clock.toNat / 16000) then boostStep s s.ev.n else s)

/-! ## Hot spots (R61, R394) -/

/-- The gang may be migrated: a group waits in a barrier, or copies are outstanding (R60 names ACSTs beside copies, and they are none). -/
def movable (g : Gang) : Bool :=
  !g.gone && g.crews.any (fun c => c.2.groups.any (fun x => x.2.splits ≠ [] && x.2.inBarrier c.2) ||
    (crewOpen c.2).any (fun i => match i.op with
      | .cpld .. => true
      | .cpst .. => true
      | .cpss .. => true
      | _ => false))

def gangsIn (s : State) (cl : Nat) : List (Nat × Gang) := s.gangs.filter (fun g => g.2.crews.any (fun c => c.2.core / 8 = cl))

/-- A gang of the cluster on its way to another one. -/
def migrating (s : State) (cl : Nat) : Option (Nat × Gang) :=
  (gangsIn s cl).find? (fun g => g.2.halt && !ctxStops s g.2.ctx && (aget s.darkening (cl / 12)).isNone)

/-- The gang chosen. -/
def migrant (s : State) (cl : Nat) : Option (Nat × Gang) :=
  (sortBy (fun (g : Nat × Gang) => g.2.no.toNat) ((gangsIn s cl).filter (fun g => !g.2.halt && movable g.2 && !ctxStops s g.2.ctx))).head?

/-- The coolest cluster of the partition, at least 10 °C cooler, with room for the gang and its sample-group entries (R30), and the core there. -/
def coolSpot (s : State) (cl gid : Nat) (g : Gang) : Option Nat :=
  match aget s.ctxs g.ctx with
  | none => none
  | some c =>
    let cs := (clustersOf s c.part).filter (fun x => x ≠ cl && tjOf s x + 10 ≤ tjOf s cl)
    let entries := ((clusterOf s cl).sg.filter (fun e => e.2.gang = gid)).length
    (sortBy (fun x => tjOf s x) cs).findSome? (fun x => coreFor s x { wantGang g with entries := entries })

/-- The gang moves, the lines of its context drained first (R135), or goes on where it is when no cluster has room any more. -/
def moveGang (s : State) (cl gid : Nat) (g : Gang) : State :=
  match coolSpot s cl gid g with
  | none => { s with gangs := aput gid { g with halt := false } s.gangs }
  | some core => decide_ s core (fun s =>
      match takeOut (drainCtx s g.ctx) gid with
      | (s1, some x) =>
        let s2 := resumeGang s1 gid x core
        setCluster s2 cl { clusterOf s2 cl with hotSince := some s.clock.toNat }
      | (s1, none) => s1)

/-- HOT_SPOT_MIGRATION of cluster `ev.n`: a gang stops, and moves once its copies and steps have completed. -/
def migrate (s : State) (cl : Nat) : State :=
  match migrating s cl with
  | some (gid, g) => if gangQuiet s gid then moveGang s cl gid g else s
  | none =>
    match (clusterOf s cl).hotSince, migrant s cl with
    | some t, some (gid, g) =>
      if t + 160000 ≤ s.clock.toNat ∧ (coolSpot s cl gid g).isSome then
        let s1 := haltGang s gid .evicted
        match aget s1.gangs gid with
        | some g1 => if gangQuiet s1 gid then moveGang s1 cl gid g1 else s1
        | none => s1
      else s
    | _, _ => s

def execHotSpotMigration (s : State) : Out := .next (if s.ev.n < 24 then migrate s s.ev.n else s)

/-! ## The trip at 110 °C (R394) -/

/-- 110 °C in 1/16 °C. -/
def hot16 : Int := 16 * 110

/-- A site reads a temperature in 1/16 °C; an AMB that serves holds that of a stack too (R408). -/
def readSite (s : State) (site : Nat) (temp : Int) : State :=
  if site < 0x100 then s.setField (regCLSTAT site) 13 8 (temp / 16).toNat
  else
    { s with stackTj := s.stackTj.set (site - 0x100) temp,
             sensors := if s.amb.serving then s.sensors.set (24 + (site - 0x100)) (BitVec.ofInt 16 temp) else s.sensors }

/-- The sensor of a stack reads less than 110 °C: the comparator follows it, whether the AMB serves or not (R394, R404). -/
def coolSite (s : State) (site : Nat) (temp : Int) : State :=
  if site < 0x100 then s else readSite (thermalLog s site (siteTemp s site) temp) site temp

/-- The die of a site goes dark at 110 °C; one that DIEOFF has stopped is on its way already. -/
def tripDark (s : State) (site : Nat) : State :=
  let d := siteDie site
  let s1 := pushRec s none none (unitRec .dieLost 9 0 0 2)
  let s2 := addLog (s1.setField (regTHERM d) 24 1 1) 4 8 site 1 (thermalData (siteTemp s site) 4)
  settleDark (match aget s2.darkening d with
    | none => beginDark s2 d (some s2.clock.toNat)
    | some (t, _) => { s2 with darkening := aput d (t, some s2.clock.toNat) s2.darkening }) d

/-- The die has tripped at 110 °C and is on its way down. -/
def tripping (s : State) (d : Nat) : Bool := (aget s.darkening d).any (fun x => x.2.isSome)

/-- A sensor of a site reads a temperature: 110 °C or more trips its die, unless that is on its way down or dark, and it may have settled. Whether die 0
goes dark is known at the end of the slate cycle. -/
def trip (s : State) (site : Nat) (temp : Int) : State :=
  let d := siteDie site
  if temp < hot16 then settleDark (coolSite s site temp) d
  else if tripping s d ∨ s.dark.contains d then settleDark (if site < 0x100 then s else readSite s site temp) d
  else
    let s1 := readSite s site temp
    if d = 1 then tripDark s1 site
    else if s1.trip0.isSome then s1 else { s1 with trip0 := some (site, false) }

/-- The end of a slate cycle: die 0 goes dark, unless die 1 has tripped in the same cycle; then it waits until die 1 is dark, and goes dark only if
it still reads 110 °C (R394). -/
def tripEnd (s : State) : State :=
  match s.trip0 with
  | none => s
  | some (site, waits) =>
    let d1 := aget s.darkening 1
    if waits ∧ d1.isSome ∨ stagedFull s 0 then s
    else if !waits ∧ d1.any (fun x => x.2 = some s.clock.toNat) then { s with trip0 := some (site, true) }
    else
      let s1 := { s with trip0 := none }
      if s1.dark.contains 0 ∨ tripping s1 0 then s1
      else match (site :: sitesOf 0).find? (fun i => hot16 ≤ siteTemp s1 i) with
        | none => s1
        | some i => tripDark s1 i

/-- THERMAL_EMERGENCY: a sensor of site `ev.n`, a cluster or 0x100 and a stack's number, reads `ev.m` in 1/16 °C. A reading below 110 °C is that of a
stack whose comparator no longer trips. -/
def execThermalEmergency (s : State) : Out :=
  .next (if (s.ev.n < 24 ∨ 0x100 ≤ s.ev.n ∧ s.ev.n < 0x108) ∧ !stagedFull s 0 then trip s s.ev.n (s.ev.m : Int) else s)

/-- RGL_INTERVAL of cluster `ev.n`: temperature `ev.m`, mean power `ev.v` in mW. Once in each interval of 10 µs. -/
def execRglInterval (s : State) : Out :=
  .next (if s.ev.n < 24 ∧ (clusterOf s s.ev.n).rglAt < s.clock.toNat / 16000 ∧ (s.ev.m < 110 ∨ !stagedFull s 0) then
      let s1 := rglStep s s.ev.n s.ev.m s.ev.v.toNat
      if s.ev.m < 110 then s1 else trip s1 s.ev.n (16 * (s.ev.m : Int))
    else s)

/-! ## Watchdogs (R413, R418) -/

/-- WATCHDOG of unit `ev.n`: bits [7:0] cluster or 0xFF, bits [15:8] unit kind. -/
def execWatchdog (s : State) : Out :=
  .next (if stagedFull s 0 then s
    else { pushRec s none none (unitRec .watchdog 9 0 0 0) with dogs := aput (s.ev.n % 65536) s.clock.toNat s.dogs })

/-- A gang whose grid a fatal event ends: its lanes and streams are gone, its items go on and report (R119, R418; log 47). -/
def fatalGang (s : State) (gid : Nat) : State :=
  match aget s.gangs gid with
  | none => s
  | some g => if g.gone then s else parkGang s gid { g with crews := g.crews.map (fun c => (c.1, c.2.ended_)) }

/-- Fatal to the package: the grids of every running context end with status 4, and no packet is taken. A gang of an image with items that still have to
report stays for them (R119). -/
def fatal (s : State) : State :=
  let run := (s.ctxs.filter (fun c => c.2.st = .running)).map (·.1)
  let s1 := run.foldl (fun s id => endGrids ((gangsOf s id).foldl fatalGang (drainCtx s id)) id 4) s
  let kept := (s1.ctxs.filter (fun c => run.contains c.1)).flatMap (fun c => (c.2.image.filter (fun g => !g.2.crews.all (fun x => x.2.quiet))).map
    (fun g => (g.1, { g.2 with gone := true, crews := g.2.crews.map (fun x => (x.1, x.2.ended_)) })))
  { s1 with halted := true, gangs := s1.gangs ++ kept,
            ctxs := s1.ctxs.map (fun c => if run.contains c.1 then (c.1, { c.2 with image := [] }) else c) }

/-- WATCHDOG_UNCLEARED of unit `ev.n`: 1 ms without a clear. -/
def execWatchdogUncleared (s : State) : Out :=
  .next (match aget s.dogs s.ev.n with
    | none => s
    | some t =>
      if t + 1600000 ≤ s.clock.toNat then
        let s1 := addLog { s with dogs := adel s.ev.n s.dogs } 4 7 s.ev.n 1 0
        if s.ev.n % 256 < 24 then abruptLoss s1 (s.ev.n % 256 / 12) else fatal s1
      else s)

/-- WATCHDOG_CLEARED of unit `ev.n`, a DEGRADED record. The work of the unit stays with it: every item, request and packet that it holds is still
there, goes on and reports by its own rule, so that none is dropped (R119, R418). No rule of the manual names another report of an interruption
(DEDUCED, log 47). -/
def execWatchdogCleared (s : State) : Out :=
  .next (match aget s.dogs s.ev.n with
    | none => s
    | some t => if s.clock.toNat < t + 1600000 then addLog { s with dogs := adel s.ev.n s.dogs } 2 7 s.ev.n 1 1 else s)

end Sys2Proof.Machine
end

