-- ==== Sys2Proof/Machine/Amb.lean ====
section
/-! DEFINITION. Firmware images, boot slots, bring-up, the mailbox, attestation and the event log (chapters 18 and 19), and host
register writes (R7, R411). -/
namespace Sys2Proof.Machine

/-! ## Firmware images (R400–R402) -/

def imgBytes (m : Store 8) (off n : Nat) : List (BitVec 8) := memBytes m n off

/-- Results of VerifyImage, in the order of its checks. -/
def verifyOk : Nat := 0
def verifyFormat : Nat := 1
def verifyRevoked : Nat := 2
def verifyKey : Nat := 3
def verifyDigest : Nat := 4
def verifySig : Nat := 5
def verifyRollback : Nat := 6

/-- Bytes of an image with a body of n bytes. -/
def imageSize (n : Nat) : Nat := 0x1600 + n

/-- VerifyImage of the image of kind k at an offset (R402). -/
def verifyImage (s : State) (m : Store 8) (off k : Nat) : Nat :=
  let f := fun (o n : Nat) => memNat m n (off + o)
  let b := fun (o n : Nat) => imgBytes m (off + o) n
  let len := f 0x10 8
  if f 0 4 ≠ 0x5746375A ∨ f 4 2 ≠ 1 ∨ f 6 2 ≠ k ∨ 4 ≤ f 0xC 4 ∨ len % 64 ≠ 0 ∨ len < 64 ∨ 32 * 2 ^ 20 < len ∨ f 0x60 160 ≠ 0 ∨
      f (0x15ED + len) 19 ≠ 0 then verifyFormat
  else
    let slot := f 0xC 4
    let head := b 0 0x100
    if s.revoked.contains slot then verifyRevoked
    else if Config.sha384 (b 0x100 32) ++ Config.sha384 (b 0x120 1952) ≠ (aget s.keyDigests slot).getD [] then verifyKey
    else if Config.sha384 (b 0x8C0 len) ≠ b 0x20 48 then verifyDigest
    else if !Config.edVerify (b 0x100 32) head (b (0x8C0 + len) 64) then verifySig
    else if !Config.mlVerify (b 0x120 1952) head (b (0x900 + len) 3309) then verifySig
    else if f 8 4 < s.fuseC then verifyRollback
    else verifyOk

/-- The four images of a set, one after another: the first result that is not OK, and the offset after. -/
def verifyFrom (s : State) (m : Store 8) : Nat → Nat → Nat → Nat
  | 0, _, _ => verifyOk
  | n + 1, k, off =>
    let r := verifyImage s m off k
    if r ≠ verifyOk then r
    else if memNat m 4 (off + 8) ≠ memNat m 4 8 then verifyFormat
    else verifyFrom s m n (k + 1) (off + imageSize (memNat m 8 (off + 0x10)))

def verifySet (s : State) (m : Store 8) : Nat := verifyFrom s m 4 1 0
def svnOf (m : Store 8) : Nat := memNat m 4 8

/-! ## Boot slots (R403–R405) -/

/-- Slot B when the flag is set. -/
def Amb.slot (a : Amb) (b : Bool) : Store 8 := if b then a.slotB else a.slotA
def Amb.setSlot (a : Amb) (b : Bool) (m : Store 8) : Amb := if b then { a with slotB := m } else { a with slotA := m }

def setAmb (s : State) (f : Amb → Amb) : State := { s with amb := f s.amb }

/-- A FIRMWARE record (R415). -/
def firmwareLog (s : State) (sev event res svn : Nat) : State := addLog s sev 11 0 1 (event + res * 2 ^ 8 + svn % 2 ^ 16 * 2 ^ 16)

/-- A BOOT record (R415). -/
def bootLog (s : State) : State :=
  addLog s (if s.field regBOOTSTAT 4 1 = 1 then 4 else 0) 13 0 1 (s.reg regBOOTSTAT)

/-- The header of the image of kind k + 1 of a set, its first image at an offset. -/
def headerOf (m : Store 8) : Nat → Nat → List (BitVec 8)
  | 0, off => imgBytes m off 0x100
  | k + 1, off => headerOf m k (off + imageSize (memNat m 8 (off + 0x10)))

/-- The four headers of a set, 256 bytes each; the header of kind k among them. -/
def headersOf (m : Store 8) : List (BitVec 8) := (List.range 4).flatMap (fun k => headerOf m k 0)
def kindHeader (l : List (BitVec 8)) (k : Nat) : List (BitVec 8) := (l.drop (0x100 * (k - 1))).take 0x100

/-- The AMB boots the set of a slot, and derives the identity of this boot (R404, R410). -/
def bootSet (s : State) (b : Bool) : State :=
  let h := headersOf (s.amb.slot b)
  setAmb s (fun a => { a with booted := some b, recov := false, fwNow := h, signed := [],
                              devId := Config.hmacSha384 s.uds (Config.sha384 (kindHeader h 1)) })

/-- An ordinary choice of slot: ACTIVE, the other, or recovery. -/
def bootPlain (s : State) : State :=
  let a := s.amb
  let ok := fun (b : Bool) => verifySet s (a.slot b) = verifyOk
  if ok a.activeB then bootSet s a.activeB
  else if ok !a.activeB then bootSet s !a.activeB
  else (setAmb s (fun a => { a with booted := none, recov := true })).setField regBOOTSTAT 39 1 1

/-- The boot record without its trial, with the FIRMWARE record of that. -/
def dropTrial (s : State) : State :=
  firmwareLog (setAmb s (fun a => { a with pend := false, tried := false, trialAt := none })) 2 4 0 (svnOf (s.amb.slot !s.amb.activeB))

/-- The AMB selects the slot it boots (R403). -/
def bootSelect (s : State) : State :=
  let a := s.amb
  if a.pend ∧ !a.tried then
    if verifySet s (a.slot !a.activeB) = verifyOk then
      setAmb (bootSet s !a.activeB) (fun a => { a with tried := true, trialAt := some s.ambTime })
    else bootPlain (dropTrial s)
  else if a.tried then bootPlain (dropTrial s)
  else bootPlain s

/-- The AMB serves: after the records of its own boot, those that waited enter the log, and a LOST record counts those that were discarded (R416). -/
def serveAfter (s : State) (boot : State → State) : State :=
  let w := s.amb.waiting
  let n := s.amb.lost
  let s1 := w.foldl logPut (boot (setAmb s (fun a => { a with serving := true, waiting := [], lost := 0 })))
  if n = 0 then s1 else addLog s1 2 14 0 n n

def startServing (s : State) : State := serveAfter s id

/-- The AMB stops serving to restart: its sensors are invalid and its session is gone (R404). -/
def stopServing (s : State) : State :=
  { setAmb s (fun a => { a with serving := false, session := none }) with sensors := List.replicate 96 0x8000 }

/-- AMB_RESTART: the AMB that has stopped boots again. -/
def execAmbRestart (s : State) : Out :=
  .next (if !s.amb.serving ∧ (s.amb.booted.isSome ∨ s.amb.recov) then serveAfter s (fun s => bootLog (bootSelect s)) else s)

/-- 600 s in slate cycles. -/
def trialLimit : Nat := 600 * 1600000000

/-- TRIAL_TIMEOUT: the AMB restarts. A CONFIRM of the cycle in which the 600 s expire wins (R403). -/
def execTrialTimeout (s : State) : Out :=
  .next (match s.amb.trialAt with
    | none => s
    | some t => if s.amb.tried ∧ s.amb.serving ∧ t + trialLimit < s.ambTime then stopServing s else s)

/-! ## Resets and bring-up (R395–R399) -/

/-- What a reset of the package leaves: the contents of HBM4E are undefined, memory outside the package keeps its bytes, and what is
not volatile stays (R395, R401, R403, R409). -/
def resetPackage (s : State) : State :=
  let outside := physKey 2 0
  { State.reset with
    mem := s.mem.spoil 0 outside s.fresh, fresh := s.fresh + 1, sealed := s.sealed.filter (fun x => outside ≤ 32 * x.1),
    bad := s.bad.filter (fun u => outside ≤ 64 * u),
    agenda := s.agenda, ev := s.ev, amb := { s.amb with session := none }, log := s.log, logSeq := s.logSeq, bootNo := s.bootNo + 1,
    fuseC := s.fuseC, revoked := s.revoked, keyDigests := s.keyDigests, pkgId := s.pkgId, uds := s.uds }

/-- The AMB without power: its non-volatile store stays. -/
def Amb.cold (a : Amb) : Amb := { Amb.zero with slotA := a.slotA, slotB := a.slotB, activeB := a.activeB, pend := a.pend, tried := a.tried }

def powered (s : State) : Bool := s.amb.booted.isSome || s.amb.recov || s.stage.isSome

/-- POWER_ON: a package without power starts stage 1. -/
def execPowerOn (s : State) : Out :=
  .next (if powered s then s else { resetPackage s with amb := s.amb.cold, stage := some (1, 0) })

/-- A slot that was being written when the power was lost fails R402: its image has no MAGIC any more (R405). -/
def loseSession (a : Amb) : Amb :=
  match a.session with
  | none => a
  | some (_, b) => a.setSlot b (memPut (a.slot b) 4 0 0)

/-- POWER_LOSS. -/
def execPowerLoss (s : State) : Out := .next { resetPackage s with amb := (loseSession s.amb).cold, bootNo := s.bootNo }

/-- LOG_COALESCE_WINDOW: one CORRECTED record for each class and site of the window that has ended, at its first event. -/
def execLogCoalesceWindow (s : State) : Out := .next (closeWindow s)

def linkOf (s : State) (k : Nat) : Link := (aget s.links k).getD ⟨0, false, [], 0⟩
def setLink (s : State) (k : Nat) (x : Link) : State := { s with links := aput k x s.links }

def setLinkState (s : State) (k st : Nat) : State := s.setField (regLSTAT k) 0 3 st

/-- The training of a link begins: of a UALink port, with the identity that UALEXP expects now (R399). -/
def beginTraining (s : State) (k : Nat) : State :=
  let s1 := setLinkState s k 1
  if 6 ≤ k then setLink s1 k { linkOf s k with want := s.field (regUALEXP (k - 6)) 16 48 } else s1

/-- The links of stage n train (R395, R399). -/
def trainStage (s : State) (n : Nat) : State :=
  match n with
  | 3 => beginTraining s 0
  | 4 => (List.range 8).foldl (fun s i => s.setField (regHBMSTAT i) 0 3 1) s
  | 6 => (List.range 16).foldl (fun s p => beginTraining s (6 + p)) s
  | 7 => (List.range (if Config.lmod then 1 else 5)).foldl (fun s i => beginTraining s (1 + i)) s
  | _ => s

/-- The stage in which a link trains first (R395). -/
def linkStage (k : Nat) : Nat := if k = 0 then 3 else if k < 6 then 7 else 6

/-- Training that failed. -/
def trainFailed (s : State) (o : Nat) : State := s.setField o 0 3 4

/-- A package reset: stages 2–7 run again while the AMB keeps running. The slate microcode and base-die firmware of the set that the AMB runs
take effect (R404). The window of corrected errors goes on: its counts keep the boot and the clock of their first events (R414, R416). -/
def packageReset (s : State) : State :=
  let r := resetPackage s
  let r1 := { r with corrected := s.corrected, amb := { s.amb with pkgNow := s.amb.fwNow }, sensors := s.sensors, stackTj := s.stackTj, excur := s.excur, ambTime := s.ambTime, reply := s.reply,
                     mbdata := s.mbdata, stage := some (2, s.ambTime) }
  if s.amb.mbox.isSome then r1.setField regMBSTAT 32 1 1 else r1

/-- PERST: the host link resets a package whose AMB runs. -/
def execPerst (s : State) : Out := .next (if s.amb.booted.isSome then packageReset s else s)

/-- Bit i of a mask. -/
def bitOn (v i : Nat) : Bool := v / 2 ^ i % 2 = 1

/-- LSTAT of a unit that came up, from what its training found. -/
def upStat (raw : Nat) (reduced : Bool) : Nat := setBits (setBits (raw % 2 ^ 48) 0 8 (if reduced then 3 else 2)) 25 7 0

/-- What the outcome of a stage gives unit i: its LSTAT fields, the identity of its partner. -/
def unitRaw (bs : List (BitVec 8)) (i : Nat) : Nat := bytesNat ((bs.drop (16 * i)).take 8)
def unitId (bs : List (BitVec 8)) (i : Nat) : Nat := bytesNat ((bs.drop (16 * i + 8)).take 8) % 2 ^ 48

/-- Training of UALink port p ends well: identities are exchanged, and the one that UALEXP held as it began is expected (R399). -/
def portUp (s : State) (p raw ident : Nat) (reduced : Bool) : State :=
  let s1 := s.setField (regUALPEER p) 16 48 ident
  let want := (linkOf s (6 + p)).want
  let keep := s.field (regLSTAT (6 + p)) 48 16
  let st := if want ≠ 0 ∧ want ≠ ident then setBits (upStat raw reduced) 0 3 5 else upStat raw reduced
  s1.setReg (regLSTAT (6 + p)) (setBits st 48 16 keep)

/-- A stage that halts bring-up. -/
def haltStage (s : State) (n : Nat) : State :=
  bootLog { (s.setField regBOOTSTAT 4 1 1).setField regBOOTSTAT 5 3 n with stage := none }

def nextStage (s : State) (n : Nat) : State :=
  let s1 := s.setField regBOOTSTAT 0 4 n
  if n < 7 then { trainStage s1 (n + 1) with stage := some (n + 1, s.ambTime) } else { s1 with stage := none }

/-- The girth bridge has trained, at its full rate: GDEG says whether a module of it uses spares (R396, R397; log 59). -/
def repaired (s : State) (spares : Bool) : State := s.setField regBOOTSTAT 38 1 (if spares then 1 else 0)

/-- A stage ends: `bad` holds a bit for each unit that failed, `low` one for each that runs reduced or repaired. How stage 1 ends follows from
the slots alone (R403). -/
def endStage (s : State) (n bad low : Nat) (bs : List (BitVec 8)) : State :=
  match n with
  | 1 =>
    let s1 := bootSelect s
    if s1.amb.recov then bootLog (startServing { s1 with stage := none })
    else nextStage (startServing (setAmb s1 (fun a => { a with pkgNow := a.fwNow }))) 1
  | 2 => if bitOn bad 0 then haltStage s 2 else nextStage s 2
  | 3 =>
    if bitOn bad 0 then haltStage (trainFailed s (regLSTAT 0)) 3
    else nextStage (repaired (s.setReg (regLSTAT 0) (upStat (unitRaw bs 0) false)) (bitOn low 0)) 3
  | 4 =>
    let s1 := (List.range 8).foldl (fun s i => if bitOn bad i then trainFailed s (regHBMSTAT i) else s.setReg (regHBMSTAT i) (upStat (unitRaw bs i) (bitOn low i))) s
    nextStage ((s1.setField regBOOTSTAT 8 8 bad).setReg regCHANOFF (bad / 2 ^ 8 % 2 ^ 16)) 4
  | 5 => nextStage ((List.range 2).foldl (fun s d => if bitOn bad d then powerDown s d else powerUp s d) (s.setField regBOOTSTAT 16 2 bad)) 5
  | 6 =>
    let s1 := (List.range 16).foldl (fun s p =>
      if bitOn bad p then trainFailed s (regLSTAT (6 + p)) else portUp s p (unitRaw bs p) (unitId bs p) (bitOn low p)) s
    nextStage ((List.range 16).foldl (fun s p => s.setField regBOOTSTAT (18 + p) 1 (if linkUp s (6 + p) then 0 else 1)) s1) 6
  | _ =>
    let s1 := (List.range 5).foldl (fun s i =>
      if Config.lmod ∧ i ≠ 0 then s else if bitOn bad i then trainFailed s (regLSTAT (1 + i)) else s.setReg (regLSTAT (1 + i)) (upStat (unitRaw bs i) (bitOn low i))) s
    bootLog (nextStage (s1.setField regBOOTSTAT 34 4 (bad / 2)) 7)

/-- Limits of the stages in slate cycles. -/
def stageLimit (n : Nat) : Nat :=
  1600000 * (match n with
    | 1 => 2000
    | 2 => 50
    | 3 => 20
    | 4 => 400
    | 5 => 20
    | 6 => 500
    | _ => 1000)

/-- BRINGUP_STAGE_COMPLETE: every unit of the running stage has finished within its limit, with the outcome `ev.v`, `ev.m`, `ev.bytes`. -/
def execBringupStageComplete (s : State) : Out :=
  .next (match s.stage with
    | none => s
    | some (n, t) => if s.ambTime ≤ t + stageLimit n then endStage s n s.ev.v.toNat s.ev.m s.ev.bytes else s)

/-- STAGE_LIMIT_EXPIRE: the units `ev.v` have not finished and fail. -/
def execStageLimitExpire (s : State) : Out :=
  .next (match s.stage with
    | none => s
    | some (n, t) =>
      if t + stageLimit n ≤ s.ambTime ∧ s.ev.v ≠ 0 then endStage s n (if n ≤ 3 then 1 else s.ev.v.toNat) s.ev.m s.ev.bytes else s)

/-! ## Links (R399, R417) -/

def countRetrain (s : State) (k : Nat) : State := s.setField (regLSTAT k) 48 16 (min (s.field (regLSTAT k) 48 16 + 1) 0xFFFF)

/-- CL items with a partner behind a UALink port (R148). -/
def portItems (s : State) (p : Nat) : List Present := itemsWith s (· = .peer p)

/-- A link goes down: its items end, its record is written, and it retrains by itself. Loss of the girth bridge is fatal. -/
def linkGoesDown (s : State) (k : Nat) : State :=
  let s1 := setLink (setLinkState s k 0) k { linkOf s k with replays := 0, auto := true }
  let s2 := if 6 ≤ k then endAll s1 (portItems s (k - 6)) .linkDown else s1
  let s3 := addLog s2 (if k = 0 then 4 else 2) 6 k 1 (s2.reg (regLSTAT k))
  if k = 0 then fatal s3 else s3

/-- The ports that are down begin their automatic retrains with the next slate cycle (R417, log 84). -/
def startRetrains (s : State) : State :=
  s.links.foldl (fun s x => if x.2.auto ∧ s.field (regLSTAT x.1) 0 3 = 0 then beginTraining s x.1 else s) s

/-- FLIT_CRC_REPLAY on link `ev.n`: the replay succeeds, or fails when `ev.flag` is set. -/
def execFlitCrcReplay (s : State) : Out :=
  let k := s.ev.n
  let x := linkOf s k
  .next (if 22 ≤ k ∨ !linkUp s k then s
    else if !s.ev.flag then addCorrected (setLink s k { x with replays := 0 }) 5 k 1 1
    else if x.replays < 7 then setLink s k { x with replays := x.replays + 1 }
    else linkGoesDown s k)

/-- Automatic retrains that failed within 1 s. -/
def recentFails (s : State) (l : List Nat) : List Nat := l.filter (fun t => s.ambTime < t + 1600000000)

/-- LINK_RETRAIN_COMPLETE on link `ev.n`: it comes up when `ev.flag` is set, as `ev.m` and `ev.bytes` say: bit 0 of `ev.m` stands for a reduced width or
rate, and of the girth bridge, which trains at its full rate alone, for repaired lanes (R397). The times of the automatic retrains
that failed outlast one that succeeds. The first training of a link is no retrain: it ends with its stage of bring-up (R395). -/
def execLinkRetrainComplete (s : State) : Out :=
  let k := s.ev.n
  let x := linkOf s k
  let training := s.field (regLSTAT k) 0 3 = 1
  .next (if 22 ≤ k ∨ !training ∨ s.stage.any (fun x => x.1 = linkStage k) then s
    else
      let s1 := countRetrain s k
      if s.ev.flag then
        let s2 := setLink s1 k ⟨0, false, recentFails s x.fails, x.want⟩
        if 6 ≤ k then portUp s2 (k - 6) (unitRaw s.ev.bytes 0) (unitId s.ev.bytes 0) (bitOn s.ev.m 0)
        else
          let up := fun (reduced : Bool) => s2.setReg (regLSTAT k) (setBits (upStat (unitRaw s.ev.bytes 0) reduced) 48 16 (s2.field (regLSTAT k) 48 16))
          if k = 0 then repaired (up false) (bitOn s.ev.m 0) else up (bitOn s.ev.m 0)
      else if x.auto then
        let fs := s.ambTime :: recentFails s x.fails
        if 3 ≤ fs.length then setLinkState (setLink s1 k ⟨0, false, [], x.want⟩) k 4 else setLinkState (setLink s1 k ⟨0, true, fs, x.want⟩) k 0
      else setLinkState s1 k 4)

/-- A write of UALEXP of port p; its bit 0 forces the port to train. -/
def writeUalexp (s : State) (p : Nat) (v : Nat) : State :=
  let s1 := s.setField (regUALEXP p) 16 48 (bitsOf v 16 48)
  if bitOn v 0 then
    beginTraining (setLink (if linkUp s1 (6 + p) then endAll s1 (portItems s1 p) .linkDown else s1) (6 + p) ⟨0, false, [], 0⟩) (6 + p)
  else s1

/-- RETRAIN of UALink port `ev.n`: the value `ev.v` written to UALEXP has bit 0 set. -/
def execRetrain (s : State) : Out :=
  .next (onHost s (fun s => if s.ev.n < 16 ∧ bitOn s.ev.v.toNat 0 then writeUalexp s s.ev.n s.ev.v.toNat else s))

/-! ## The mailbox (R406, R407) -/

def mbOk : Nat := 0
def mbBusy : Nat := 1
def mbBadArg : Nat := 2
def mbRefused : Nat := 3
def mbVerify : Nat := 4
def mbNotReady : Nat := 5

def mbOp (v : BitVec 64) : Nat := bitsOf v.toNat 0 8
def mbArg (v : BitVec 64) : Nat := bitsOf v.toNat 8 24

/-- The command runs: BUSY, until it completes with its result. -/
def mbRun (s : State) (v : BitVec 64) (res : Nat) : State :=
  setAmb (s.setField regMBSTAT 32 1 1) (fun a => { a with mbox := some (bitsOf v.toNat 32 32, res) })

/-- The running command has completed: MBSTAT and vector 1. -/
def mbDone (s : State) : State :=
  match s.amb.mbox with
  | none => s
  | some (seq, res) =>
    signal (((setAmb s (fun a => { a with mbox := none })).setField regMBSTAT 0 32 seq).setField regMBSTAT 32 5 (2 * res)) 1

/-- The commands served in recovery (R405). -/
def mbReadOnly (op : Nat) : Bool := op = 1 || op = 2 || op = 3

/-- The OPs of R407. -/
def mbListed (op : Nat) : Bool := [1, 2, 3, 0x10, 0x11, 0x12, 0x13, 0x14, 0x15, 0x20].contains op

/-- MBCMD written with an OP: f executes the command and gives its result (R404–R407). While a command runs the write is lost. -/
def mbCommand (s : State) (v : BitVec 64) (f : State → Nat → State × Nat) : State :=
  if s.amb.mbox.isSome then s.setField regMBSTAT 37 1 1
  else if !s.amb.serving then mbRun s v mbBusy
  else if s.amb.recov ∧ mbListed (mbOp v) ∧ !mbReadOnly (mbOp v) then mbRun s v mbNotReady
  else
    let r := f s (mbArg v)
    mbRun r.1 v r.2

def mbEvent (op : Nat) (f : State → Nat → State × Nat) (s : State) : Out :=
  .next (onHost s (fun s => if mbOp s.ev.v = op then mbCommand s s.ev.v f else s))

def putMb (s : State) (off : Nat) (bs : List (BitVec 8)) : State := { s with mbdata := memPutBytes s.mbdata off bs }

/-- ARG must be 0 for a command without an argument. -/
def noArg (f : State → State × Nat) (s : State) (arg : Nat) : State × Nat := if arg = 0 then f s else (s, mbBadArg)

/-- The AMB serves and runs no command (R406). -/
def ambFree (s : State) : Bool := s.amb.serving && s.amb.mbox.isNone

/-- A read-only command: by the mailbox, or while the host link is not up by another management path, which brings its arguments in `ev.bytes`
and takes the result and the 4 KiB of data as the reply (R405, R406; log 58). -/
def mbRead (op : Nat) (f : State → Nat → State × Nat) (s : State) : Out :=
  if linkUp s 1 then mbEvent op f s
  else .next (if mbOp s.ev.v = op ∧ ambFree s then
    let r := f (putMb s 0 s.ev.bytes) (mbArg s.ev.v)
    { r.1 with reply := natBytes 1 r.2 ++ memBytes r.1.mbdata 4096 0 }
  else s)

/-- SENSORS (R408). -/
def sensorBytes (s : State) : List (BitVec 8) := s.sensors.flatMap (fun x => natBytes 2 x.toNat)
def execSensors (s : State) : Out := mbRead 1 (noArg (fun s => (putMb s 0 (sensorBytes s), mbOk))) s

/-- LOGREAD: records from the sequence that MBDATA names (R409). -/
def readLog (s : State) (n : Nat) : State × Nat :=
  if n < 1 ∨ 128 < n then (s, mbBadArg)
  else (putMb s 0 (((s.log.filter (fun r => memNat s.mbdata 8 0 ≤ r.seq)).take n).flatMap LogRec.bytes), mbOk)

def execLogread (s : State) : Out := mbRead 2 readLog s

/-- BOOTINFO. -/
def bootInfo (s : State) : State × Nat :=
  let a := s.amb
  let sl := fun (m : Store 8) => natBytes 4 (svnOf m) ++ imgBytes m 0x50 16
  let rec_ := (if a.activeB then 1 else 0) + (if a.pend then 2 else 0) + (if a.tried then 4 else 0)
  (putMb s 0 (natBytes 8 (s.reg regBOOTSTAT) ++ natBytes 8 rec_ ++ natBytes 8 s.fuseC ++ sl a.slotA ++ sl a.slotB), mbOk)

def execBootinfo (s : State) : Out := mbRead 3 (noArg bootInfo) s

/-- A session opens on a slot, which is erased; its contents are undefined until written. -/
def openSession (s : State) (pldm b : Bool) : State :=
  setAmb s.freshen (fun a => { a.setSlot b (.undef 8 (2 ^ 40) s.fresh) with session := some (pldm, b) })

def updOpen (s : State) : State × Nat :=
  if s.amb.session.isSome then (s, mbBusy) else (openSession s false !s.amb.activeB, mbOk)

def execUpdopen (s : State) : Out := mbEvent 0x10 (noArg updOpen) s

/-- The slot of an open session of the mailbox, or of PLDM. -/
def sessionSlot (s : State) (pldm : Bool) : Option Bool := s.amb.session.bind (fun x => if x.1 = pldm then some x.2 else none)

def writeSlot (s : State) (b : Bool) (off : Nat) (bs : List (BitVec 8)) : State :=
  setAmb s (fun a => a.setSlot b (memPutBytes (a.slot b) off bs))

def updWrite (s : State) (arg : Nat) : State × Nat :=
  match sessionSlot s false with
  | none => (s, mbRefused)
  | some b => (writeSlot s b (64 * arg) (memBytes s.mbdata 4096 0), mbOk)

def execUpdwrite (s : State) : Out := mbEvent 0x11 updWrite s

/-- A session closes: the set is verified, and PEND set when it verifies. -/
def closeSession (s : State) (b : Bool) : State × Nat :=
  let r := verifySet s (s.amb.slot b)
  (firmwareLog (setAmb s (fun a => { a with session := none, pend := a.pend || r = verifyOk })) 0 1 r (svnOf (s.amb.slot b)), r)

def updClose (s : State) : State × Nat :=
  match sessionSlot s false with
  | none => (s, mbRefused)
  | some b =>
    let r := closeSession s b
    if r.2 = verifyOk then (r.1, mbOk) else (putMb r.1 0 (natBytes 4 r.2), mbVerify)

def execUpdclose (s : State) : Out := mbEvent 0x12 (noArg updClose) s

/-- ACTIVATE: the AMB restarts into the trial. -/
def activate (s : State) : State × Nat :=
  if s.amb.pend then (stopServing (firmwareLog s 0 2 0 (svnOf (s.amb.slot !s.amb.activeB))), mbOk) else (s, mbRefused)

def execActivate (s : State) : Out := mbEvent 0x13 (noArg activate) s

/-- CONFIRM: within 600 s the trial slot becomes ACTIVE. -/
def confirm (s : State) : State × Nat :=
  match s.amb.trialAt with
  | none => (s, mbRefused)
  | some t =>
    if s.amb.tried ∧ s.ambTime ≤ t + trialLimit then
      (firmwareLog (setAmb s (fun a => { a with activeB := !a.activeB, pend := false, tried := false, trialAt := none })) 0 3 0
        (svnOf (s.amb.slot !s.amb.activeB)), mbOk)
    else (s, mbRefused)

def execConfirm (s : State) : Out := mbEvent 0x14 (noArg confirm) s

/-- SVNCOMMIT (R405). -/
def svnCommit (s : State) : State × Nat :=
  let v := svnOf (s.amb.slot s.amb.activeB)
  if s.amb.pend || s.amb.tried || v ≤ s.fuseC then (s, mbRefused) else (firmwareLog { s with fuseC := min v 127 } 0 5 0 v, mbOk)

def execSvncommit (s : State) : Out := mbEvent 0x15 (noArg svnCommit) s

/-- PKGRESET (R395). -/
def execPkgreset (s : State) : Out := mbEvent 0x20 (noArg (fun s => (packageReset s, mbOk))) s

/-! ## Management paths outside the host link (R406, R410); a command comes when the AMB has finished those that arrived before -/

/-- PLDM firmware update: `ev.n` is 0 to open, 1 to write `ev.bytes` at offset `ev.m`, 2 to close. In recovery it writes slot A. -/
def pldmUpdate (s : State) : State :=
  let answer := fun (x : State × Nat) => { x.1 with reply := natBytes 1 x.2 }
  match s.ev.n with
  | 0 => answer (if s.amb.session.isSome then (s, mbBusy) else (openSession s true (if s.amb.recov then false else !s.amb.activeB), mbOk))
  | 1 => answer (match sessionSlot s true with
      | none => (s, mbRefused)
      | some b => (writeSlot s b s.ev.m s.ev.bytes, mbOk))
  | _ => answer (match sessionSlot s true with
      | none => (s, mbRefused)
      | some b => let r := closeSession s b; (r.1, if r.2 = verifyOk then mbOk else mbVerify))

def execPldmFirmwareUpdate (s : State) : Out := .next (if ambFree s then pldmUpdate s else s)

/-- PLDM monitoring: the reading of sensor `ev.n`. -/
def execPldmMonitoring (s : State) : Out :=
  .next (if ambFree s ∧ !s.amb.recov then { s with reply := natBytes 2 ((s.sensors.getD s.ev.n 0x8000).toNat) } else s)

/-- Measurement i (R410): of the firmware in effect, of each kind (R404). -/
def measure (s : State) (i : Nat) : List (BitVec 8) :=
  match i with
  | 5 => natBytes 1 s.fuseC ++ natBytes 1 ((List.range 4).foldl (fun a k => if s.revoked.contains k then a + 2 ^ k else a) 0) ++ natBytes 8 devid.toNat ++
      natBytes 6 s.pkgId.toNat
  | 6 => natBytes 8 (s.reg regBOOTSTAT) ++ (List.range 16).flatMap (fun p => natBytes 8 (s.reg (regUALPEER p)))
  | 7 => natBytes 8 (s.reg regPARTMAP) ++ (List.range 128).map (fun k => BitVec.ofNat 8 (keySlot s k).mode)
  | k => Config.sha384 (kindHeader (if k = 2 ∨ k = 3 then s.amb.pkgNow else s.amb.fwNow) k)

/-- SPDM measurements: measurement `ev.n`, signed over the transcript: what the requester sent, `ev.bytes`, and the measurement. -/
def execSpdmMeasurements (s : State) : Out :=
  let m := measure s s.ev.n
  .next (if ambFree s ∧ !s.amb.recov ∧ 1 ≤ s.ev.n ∧ s.ev.n ≤ 7 then
    { setAmb s (fun a => { a with signed := s.ev.bytes ++ m }) with reply := m ++ Config.edSign s.amb.devId (s.ev.bytes ++ m) } else s)

/-- The ML-DSA-65 signature of the transcript that the latest measurements signed. -/
def execSpdmMldsaSignature (s : State) : Out :=
  .next (if ambFree s ∧ !s.amb.recov ∧ s.amb.signed ≠ [] then { s with reply := Config.mlSign s.amb.devId s.amb.signed } else s)

/-! ## Sensors, scrubbing and coalescing (R408, R412, R413, R416) -/

/-- A sensor's reading lies outside the limits of R412. -/
def outOfLimits (i : Nat) (x : BitVec 16) : Bool :=
  if x = 0x8000 then false
  else if i < 24 then 16 * 105 < x.toInt
  else if i < 32 then 16 * 95 < x.toInt
  else if i < 64 then
    let n := Config.railNominal (i - 32)
    100 * x.toNat < 97 * n || 103 * n < 100 * x.toNat
  else false

def firstOut (l : List (BitVec 16)) : Option (Nat × BitVec 16) := (l.zipIdx.find? (fun x => outOfLimits x.2 x.1)).map (fun x => (x.2, x.1))

/-- The THERMAL records of the stacks whose reading crossed a threshold of their die (R415; log 60). -/
def stackThermal (before s : State) : State :=
  (List.range 8).foldl (fun s k => thermalLog s (0x100 + k) (siteTemp before (0x100 + k)) (siteTemp s (0x100 + k))) s

/-- The temperature of site i among the clusters and then the stacks in 1/16 °C, as a sample of the sensors gives it; none of an invalid reading
(R408). -/
def sampleTemp (l : List (BitVec 16)) (i : Nat) : Option Int :=
  let x := l.getD i 0x8000
  if x = 0x8000 then none else some x.toInt

/-- The sites that a sample shows at 110 °C or more, with what they read. -/
def hotSites (l : List (BitVec 16)) : List (Nat × Int) :=
  (List.range 32).filterMap (fun i => (sampleTemp l i).bind (fun t => if hot16 ≤ t then some (if i < 24 then i else 0x100 + (i - 24), t) else none))

/-- SENSOR_SAMPLE: the AMB takes the 96 readings in `ev.bytes`. -/
def takeSample (s : State) : State :=
  let l := (List.range 96).map (fun i => BitVec.ofNat 16 (bytesNat ((s.ev.bytes.drop (2 * i)).take 2)))
  let s1 := stackThermal s { s with sensors := l, excur := (firstOut l).isSome,
                                    stackTj := s.stackTj.zipIdx.map (fun x => (sampleTemp l (24 + x.2)).getD x.1) }
  match s.excur, firstOut l, firstOut s.sensors with
  | false, some (i, x), _ => addLog s1 2 12 i 1 (1 + x.toNat * 65536)
  | true, none, some (i, _) => addLog s1 2 12 i 1 ((l.getD i 0).toNat * 65536)
  | true, none, none => addLog s1 2 12 0 1 ((l.getD 0 0).toNat * 65536)
  | _, _, _ => s1

/-- The sample taken; a die of which it shows a sensor at 110 °C trips (R394). -/
def sampleSensors (s : State) : State :=
  let s1 := takeSample s
  (hotSites s1.sensors).foldl (fun s x => trip s x.1 x.2) s1

def execSensorSample (s : State) : Out :=
  .next (if s.amb.serving ∧ (hotSites (takeSample s).sensors = [] ∨ !stagedFull s 0) then sampleSensors s else s)

/-- Patrol scrubbing runs from stage 2 of bring-up on (R412). -/
def scrubs (s : State) : Bool := s.stage.any (fun x => 2 ≤ x.1) || 2 ≤ s.field regBOOTSTAT 0 4

/-- A unit is damaged (R420). -/
def damage (s : State) (c : Cell) : State := { s with damaged := if s.damaged.contains c then s.damaged else c :: s.damaged }

/-- The unit that PATROL_SCRUB of class n at site m finds damaged: word `ev.item.ix` of the scratchpad of a crew on core m, or of its SRAM beside
the scratchpads of crews; or the 32 bytes of slice m with that number in their space. -/
def scrubUnit (s : State) (n m : Nat) : Option Cell :=
  let r := s.ev.item
  if n = 1 then
    if ((aget s.gangs r.who.gang).bind (fun g => aget g.crews r.who.crew)).any (fun c => c.core = m) then
      some (.spad r.who.gang r.who.crew r.ix)
    else if m < 192 ∧ r.ix < 131072 then some (.sram m r.ix) else none
  else if homeSlice s (32 * r.ix) = m then some (.l2 r.ix) else none

/-- DATA of what PATROL_SCRUB records: of core SRAM 1 in bits [2:0] and a word index in bits [31:8], of L2 the line index (R415). -/
def scrubData (n : Nat) (v : BitVec 64) : Nat := if n = 1 then 1 + bitsOf v.toNat 8 24 * 2 ^ 8 else v.toNat

/-- PATROL_SCRUB finds an error of class `ev.n` (1 core SRAM, 2 L2, 0 none) at site `ev.m`, the word or line that `ev.v` gives: corrected in place, or
uncorrectable when `ev.flag` is set; then the unit is damaged, and a read of it raises ECC_UNCORR (R413, R415, R420). -/
def execPatrolScrub (s : State) : Out :=
  let data := scrubData s.ev.n s.ev.v
  .next (if scrubs s ∧ (s.ev.n = 1 ∨ s.ev.n = 2) then
    (if s.ev.flag then
      let s1 := addLog s 3 s.ev.n s.ev.m 1 data
      match scrubUnit s s.ev.n s.ev.m with
      | none => s1
      | some c => damage s1 c
    else addCorrected s s.ev.n s.ev.m 1 data)
  else s)

/-- HBM_PATROL_SCRUB finds an error in the 64-byte unit at SPACE 0 address `ev.v`, as PATROL_SCRUB; an uncorrectable one leaves the
unit damaged (R420). -/
def execHbmPatrolScrub (s : State) : Out :=
  let st := s.ev.v.toNat / (64 * gib)
  let unit := physKey 0 s.ev.v.toNat / 64
  .next (if s.ev.n ≠ 3 ∨ 8 ≤ st ∨ !scrubs s then s
    else if s.ev.flag then addLog { s with bad := if s.bad.contains unit then s.bad else unit :: s.bad } 3 3 st 1 (s.ev.v.toNat / 64 * 64)
    else addCorrected s 3 st 1 (s.ev.v.toNat / 64 * 64))

/-! ## Registers without an event of their own (R7, R411) -/

/-- Bits of a register that a write stores, as (lowest bit, count), and those that a written 1 clears. -/
structure RegMap where
  rw : List (Nat × Nat)
  w1c : List Nat
  deriving DecidableEq, Repr

def regMapMem (o : Nat) : RegMap :=
  if o = 0 then ⟨[(0, 60)], []⟩
  else if o = 0x10 then ⟨[], [32]⟩
  else if o = 0x20 ∨ o = 0x28 then ⟨[(0, 16)], []⟩
  else if o = 0x40 then ⟨[(0, 6), (16, 16)], []⟩
  else if 0x100 ≤ o ∧ o < 0x300 ∧ o % 0x40 = 0x18 then ⟨[(0, 64)], []⟩
  else if 0x100 ≤ o ∧ o < 0x300 ∧ o % 0x40 = 0x20 then ⟨[(0, 64)], []⟩
  else if 0x100 ≤ o ∧ o < 0x300 ∧ o % 0x40 = 0x28 then ⟨[], [3]⟩
  else if 0x400 ≤ o ∧ o < 0x500 ∧ o % 0x10 = 0 then ⟨[(0, 3), (16, 13), (32, 14)], []⟩
  else if 0x400 ≤ o ∧ o < 0x500 ∧ o % 0x10 = 8 then ⟨[(0, 8), (16, 32)], []⟩
  else if 0x810 ≤ o ∧ o < 0x850 then ⟨[(0, 64)], []⟩
  else ⟨[], []⟩

def regMapWork (o : Nat) : RegMap :=
  if o = 0x10 then ⟨[(0, 64)], []⟩
  else if o = 0x18 then ⟨[], [36]⟩
  else if o = 0x40 ∨ o = 0x48 then ⟨[(0, 16)], []⟩
  else if o = 0x70 ∨ o = 0x78 then ⟨[(0, 24)], [24]⟩
  else if 0x2000 ≤ o ∧ o < 0x2300 ∧ o % 0x20 = 0 then ⟨[(0, 30)], []⟩
  else if 0x2000 ≤ o ∧ o < 0x2300 ∧ o % 0x20 = 0x10 then ⟨[(0, 4)], []⟩
  else ⟨[], []⟩

/-- The map of a register whose write only stores. -/
def regMap (off : Nat) : RegMap :=
  if off = regMBSTAT then ⟨[], [37]⟩
  else if mmBase ≤ off ∧ off < mmBase + 0x1000 then regMapMem (off - mmBase)
  else if wpBase ≤ off ∧ off < wpBase + 0x3000 then regMapWork (off - wpBase)
  else if 0x300000 ≤ off ∧ off < 0x310000 then ⟨[(0, 64)], []⟩
  else ⟨[], []⟩

/-- A write by a map. -/
def writeMapped (s : State) (off v : Nat) : State :=
  let m := regMap off
  let s1 := m.rw.foldl (fun s f => s.setField off f.1 f.2 (bitsOf v f.1 f.2)) s
  m.w1c.foldl (fun s b => if bitOn v b then s.setField off b 1 0 else s) s1

/-- A write of LQBASE of queue q, ignored while the queue is enabled. -/
def writeLqbase (s : State) (q v : Nat) : State :=
  if s.field (regLQ q 8) 0 1 = 1 then s else s.setReg (regLQ q 0) (bitsOf v 6 46 * 2 ^ 6 + bitsOf v 59 2 * 2 ^ 59)

/-- A host write of 8 bytes at an offset of BAR0 that no other event stands for. -/
def writeReg (s : State) (off : Nat) (w : BitVec 64) : State :=
  let v := w.toNat
  let o := off - mmBase
  if off % 8 ≠ 0 then s
  else if 0x2000 ≤ off ∧ off < 0x3000 then putMb s (off - 0x2000) (natBytes 8 v)
  else if off = 0x1000 then
    (if mbListed (mbOp w) then s else mbCommand s w (fun s _ => (s, mbBadArg)))
  else if 0x10090 ≤ off ∧ off < 0x10200 ∧ (off - 0x10090) % 0x18 = 0 then
    (if bitOn v 0 then s else writeUalexp s ((off - 0x10090) / 0x18) v)
  else if off = mmBase + 8 then (if bitsOf v 12 2 = 3 then startTlbi s w else s)
  else if off = regHEATBASE 0 ∨ off = regHEATBASE 1 ∨ off = regHEATBASE 2 then (if heatOn s then s else s.setReg off v)
  else if mmBase + 0x100 ≤ off ∧ off < mmBase + 0x300 ∧ o % 0x40 = 8 then
    (if s.field (off - 8) 0 1 = 1 then s else s.setReg off (bitsOf v 16 36 * 65536))
  else if mmBase + 0x100 ≤ off ∧ off < mmBase + 0x300 ∧ o % 0x40 = 0x10 then
    (if (bitsOf v 0 2 = 0 ∨ bitsOf v 0 2 = 3) ∧ s.field (off + 0x18) 0 1 = 1 then s.setField (off + 0x18) 3 1 1 else s)
  else if 0x300000 ≤ off ∧ off < 0x310000 then unmaskMsi (writeMapped s off v) ((off - 0x300000) / 16)
  else if off = wpBase + 8 then
    (if 1 ≤ cmdOp w ∧ cmdOp w ≤ 10 then s else startCommand { s with ev := { s.ev with v := w } } (fun s => (s, some resBadArg)))
  else if wpBase + 0x1000 ≤ off ∧ off < wpBase + 0x2000 ∧ (off - wpBase) % 0x40 = 0 then writeLqbase s ((off - wpBase - 0x1000) / 0x40) v
  else writeMapped s off v

/-- REGISTER_WRITE of the value `ev.v` at BAR0 offset `ev.n`. -/
def execRegisterWrite (s : State) : Out := .next (onHost s (fun s => writeReg s s.ev.n s.ev.v))

/-! ## Reads by the host (R7, R411) -/

/-- A register that reads as zero whatever was written to it: TLBIA and KEYDATA (R354, R374). The other WO registers are not stored. -/
def writeOnly (off : Nat) : Bool := off = regTLBIA || (regKEYDATA 0 ≤ off && off ≤ regKEYDATA 7)

/-- What an aligned read of 8 bytes at an offset of BAR0 answers; reserved bits are never stored. -/
def readReg (s : State) (off : Nat) : Nat :=
  if off % 8 ≠ 0 ∨ 2 ^ 26 ≤ off ∨ writeOnly off then 0
  else if off = 0 then devid.toNat
  else if 0x2000 ≤ off ∧ off < 0x3000 then memNat s.mbdata 8 (off - 0x2000)
  else s.reg off

/-- The host reads n bytes at an offset of BAR0: only an aligned access of 8 bytes reads a register, every other reads as zero (R411); a read of LQGET
answers its queue's signal (R383). -/
def hostRead (s : State) (off n : Nat) : State :=
  onHost s (fun s =>
    if n ≠ 8 then { s with reply := natBytes n 0 }
    else { s with reply := natBytes 8 (readReg s off), qsig := s.qsig.filter (fun q => off ≠ regLQ q 0x18) })

end Sys2Proof.Machine
end

