-- ==== Sys2Proof/Machine/Dispatch.lean ====
section
/-! DEFINITION. The dispatch of every instruction and event to its meaning, one arm per constructor. -/
namespace Sys2Proof.Machine

def exec (i : Instr) (s : State) : Host.Outcome State Fault Refusal :=
  match i with
  | .nop nx => Sys2Proof.Machine.execNop nx s
  | .xj nx k o => Sys2Proof.Machine.execXj nx k o s
  | .xju nx k o => Sys2Proof.Machine.execXju nx k o s
  | .xcall nx o => Sys2Proof.Machine.execXcall nx o s
  | .xret nx => Sys2Proof.Machine.execXret nx s
  | .xjr nx a => Sys2Proof.Machine.execXjr nx a s
  | .xbtab nx a targets => Sys2Proof.Machine.execXbtab nx a targets s
  | .lpsImm nx imm => Sys2Proof.Machine.execLpsImm nx imm s
  | .lpsReg nx a => Sys2Proof.Machine.execLpsReg nx a s
  | .rwait nx d a => Sys2Proof.Machine.execRwait nx d a s
  | .setmode nx f imm => Sys2Proof.Machine.execSetmode nx f imm s
  | .setmodev nx a => Sys2Proof.Machine.execSetmodev nx a s
  | .getmode nx d => Sys2Proof.Machine.execGetmode nx d s
  | .trap nx c => Sys2Proof.Machine.execTrap nx c s
  | .brk nx c => Sys2Proof.Machine.execBrk nx c s
  | .yield nx => Sys2Proof.Machine.execYield nx s
  | .sadd nx d a b => Sys2Proof.Machine.execSadd nx d a b s
  | .ssub nx d a b => Sys2Proof.Machine.execSsub nx d a b s
  | .smul nx d a b => Sys2Proof.Machine.execSmul nx d a b s
  | .smulh nx d a b x => Sys2Proof.Machine.execSmulh nx d a b x s
  | .sdiv nx d a b x => Sys2Proof.Machine.execSdiv nx d a b x s
  | .srem nx d a b x => Sys2Proof.Machine.execSrem nx d a b x s
  | .sand nx d a b => Sys2Proof.Machine.execSand nx d a b s
  | .sor nx d a b => Sys2Proof.Machine.execSor nx d a b s
  | .sxor nx d a b => Sys2Proof.Machine.execSxor nx d a b s
  | .sshl nx d a b => Sys2Proof.Machine.execSshl nx d a b s
  | .sshr nx d a b => Sys2Proof.Machine.execSshr nx d a b s
  | .ssra nx d a b => Sys2Proof.Machine.execSsra nx d a b s
  | .smin nx d a b x => Sys2Proof.Machine.execSmin nx d a b x s
  | .smax nx d a b x => Sys2Proof.Machine.execSmax nx d a b x s
  | .scmp nx c k a b x => Sys2Proof.Machine.execScmp nx c k a b x s
  | .ssel nx d a b => Sys2Proof.Machine.execSsel nx d a b s
  | .saddi nx d a imm => Sys2Proof.Machine.execSaddi nx d a imm s
  | .sli nx d imm => Sys2Proof.Machine.execSli nx d imm s
  | .slih nx d imm => Sys2Proof.Machine.execSlih nx d imm s
  | .smov nx d a => Sys2Proof.Machine.execSmov nx d a s
  | .sclz nx d a => Sys2Proof.Machine.execSclz nx d a s
  | .spopc nx d a => Sys2Proof.Machine.execSpopc nx d a s
  | .srd nx d imm => Sys2Proof.Machine.execSrd nx d imm s
  | .swr nx d imm => Sys2Proof.Machine.execSwr nx d imm s
  | .sld nx d a imm => Sys2Proof.Machine.execSld nx d a imm s
  | .sst nx d a imm => Sys2Proof.Machine.execSst nx d a imm s
  | .saddr nx d a b x => Sys2Proof.Machine.execSaddr nx d a b x s
  | .ssext nx d a imm => Sys2Proof.Machine.execSsext nx d a imm s
  | .sbfx nx d a l w => Sys2Proof.Machine.execSbfx nx d a l w s
  | .sbfi nx d a l w => Sys2Proof.Machine.execSbfi nx d a l w s
  | .sshli nx d a c => Sys2Proof.Machine.execSshli nx d a c s
  | .sshri nx d a c => Sys2Proof.Machine.execSshri nx d a c s
  | .ssrai nx d a c => Sys2Proof.Machine.execSsrai nx d a c s
  | .vadd nx d a b x => Sys2Proof.Machine.execVadd nx d a b x s
  | .vsub nx d a b x => Sys2Proof.Machine.execVsub nx d a b x s
  | .vmul nx d a b x => Sys2Proof.Machine.execVmul nx d a b x s
  | .vmad nx d a b x => Sys2Proof.Machine.execVmad nx d a b x s
  | .vmsb nx d a b x => Sys2Proof.Machine.execVmsb nx d a b x s
  | .vmin nx d a b x => Sys2Proof.Machine.execVmin nx d a b x s
  | .vmax nx d a b x => Sys2Proof.Machine.execVmax nx d a b x s
  | .vabs nx d a => Sys2Proof.Machine.execVabs nx d a s
  | .vneg nx d a => Sys2Proof.Machine.execVneg nx d a s
  | .vand nx d a b x => Sys2Proof.Machine.execVand nx d a b x s
  | .vor nx d a b x => Sys2Proof.Machine.execVor nx d a b x s
  | .vxor nx d a b x => Sys2Proof.Machine.execVxor nx d a b x s
  | .vnot nx d a => Sys2Proof.Machine.execVnot nx d a s
  | .vshl nx d a b x => Sys2Proof.Machine.execVshl nx d a b x s
  | .vshr nx d a b x => Sys2Proof.Machine.execVshr nx d a b x s
  | .vsra nx d a b x => Sys2Proof.Machine.execVsra nx d a b x s
  | .vcmp nx c y k a b x => Sys2Proof.Machine.execVcmp nx c y k a b x s
  | .vsel nx d a b x => Sys2Proof.Machine.execVsel nx d a b x s
  | .vmovV nx d a => Sys2Proof.Machine.execVmovV nx d a s
  | .vmovS nx d b => Sys2Proof.Machine.execVmovS nx d b s
  | .vli nx d imm => Sys2Proof.Machine.execVli nx d imm s
  | .vbcsImm nx d a p => Sys2Proof.Machine.execVbcsImm nx d a p s
  | .vbcsReg nx d a b => Sys2Proof.Machine.execVbcsReg nx d a b s
  | .vdot4 nx d a b x => Sys2Proof.Machine.execVdot4 nx d a b x s
  | .vdot2 nx d a b x => Sys2Proof.Machine.execVdot2 nx d a b x s
  | .vsad nx d a b x => Sys2Proof.Machine.execVsad nx d a b x s
  | .vclz nx d a => Sys2Proof.Machine.execVclz nx d a s
  | .vpopc nx d a => Sys2Proof.Machine.execVpopc nx d a s
  | .vrcp nx d a => Sys2Proof.Machine.execVrcp nx d a s
  | .vrsq nx d a => Sys2Proof.Machine.execVrsq nx d a s
  | .vexp2 nx d a => Sys2Proof.Machine.execVexp2 nx d a s
  | .vlog2 nx d a => Sys2Proof.Machine.execVlog2 nx d a s
  | .vsin nx d a => Sys2Proof.Machine.execVsin nx d a s
  | .vcos nx d a => Sys2Proof.Machine.execVcos nx d a s
  | .vcvt nx d a sel t => Sys2Proof.Machine.execVcvt nx d a sel t s
  | .vpack nx d a b x => Sys2Proof.Machine.execVpack nx d a b x s
  | .vunpk nx d a => Sys2Proof.Machine.execVunpk nx d a s
  | .vrq nx d a b x => Sys2Proof.Machine.execVrq nx d a b x s
  | .vrshr nx d a b x => Sys2Proof.Machine.execVrshr nx d a b x s
  | .vscl nx d a b x => Sys2Proof.Machine.execVscl nx d a b x s
  | .vshfl nx d a b x => Sys2Proof.Machine.execVshfl nx d a b x s
  | .vshfli nx d a m c => Sys2Proof.Machine.execVshfli nx d a m c s
  | .vred nx d a o => Sys2Proof.Machine.execVred nx d a o s
  | .vscan nx d a e o => Sys2Proof.Machine.execVscan nx d a e o s
  | .vprune nx d a b x => Sys2Proof.Machine.execVprune nx d a b x s
  | .vspdot nx d a b x => Sys2Proof.Machine.execVspdot nx d a b x s
  | .vnzc nx d a => Sys2Proof.Machine.execVnzc nx d a s
  | .vnzb nx d a => Sys2Proof.Machine.execVnzb nx d a s
  | .vterm nx d a => Sys2Proof.Machine.execVterm nx d a s
  | .vlane nx d sel => Sys2Proof.Machine.execVlane nx d sel s
  | .kand nx d a b x => Sys2Proof.Machine.execKand nx d a b x s
  | .kor nx d a b x => Sys2Proof.Machine.execKor nx d a b x s
  | .kxor nx d a b x => Sys2Proof.Machine.execKxor nx d a b x s
  | .knot nx d a => Sys2Proof.Machine.execKnot nx d a s
  | .kmov nx d a => Sys2Proof.Machine.execKmov nx d a s
  | .kany nx d a => Sys2Proof.Machine.execKany nx d a s
  | .kall nx d a => Sys2Proof.Machine.execKall nx d a s
  | .kcnt nx d a => Sys2Proof.Machine.execKcnt nx d a s
  | .kbits nx d a => Sys2Proof.Machine.execKbits nx d a s
  | .kfromv nx d a => Sys2Proof.Machine.execKfromv nx d a s
  | .ktov nx d a => Sys2Proof.Machine.execKtov nx d a s
  | .ld nx d a b => Sys2Proof.Machine.execLd nx d a b s
  | .st nx d a b => Sys2Proof.Machine.execSt nx d a b s
  | .ldi nx d a imm => Sys2Proof.Machine.execLdi nx d a imm s
  | .sti nx d a imm => Sys2Proof.Machine.execSti nx d a imm s
  | .ldt nx d a b => Sys2Proof.Machine.execLdt nx d a b s
  | .stt nx d a b => Sys2Proof.Machine.execStt nx d a b s
  | .ldb nx d a b => Sys2Proof.Machine.execLdb nx d a b s
  | .ldw nx d a b => Sys2Proof.Machine.execLdw nx d a b s
  | .stw nx d a b => Sys2Proof.Machine.execStw nx d a b s
  | .aadd nx d a b => Sys2Proof.Machine.execAadd nx d a b s
  | .amin nx d a b => Sys2Proof.Machine.execAmin nx d a b s
  | .amax nx d a b => Sys2Proof.Machine.execAmax nx d a b s
  | .aand nx d a b => Sys2Proof.Machine.execAand nx d a b s
  | .aor nx d a b => Sys2Proof.Machine.execAor nx d a b s
  | .axor nx d a b => Sys2Proof.Machine.execAxor nx d a b s
  | .axch nx d a b => Sys2Proof.Machine.execAxch nx d a b s
  | .acas nx d a b => Sys2Proof.Machine.execAcas nx d a b s
  | .rdadd nx d a b => Sys2Proof.Machine.execRdadd nx d a b s
  | .rdmin nx d a b => Sys2Proof.Machine.execRdmin nx d a b s
  | .rdmax nx d a b => Sys2Proof.Machine.execRdmax nx d a b s
  | .rdand nx d a b => Sys2Proof.Machine.execRdand nx d a b s
  | .rdor nx d a b => Sys2Proof.Machine.execRdor nx d a b s
  | .rdxor nx d a b => Sys2Proof.Machine.execRdxor nx d a b s
  | .rdx nx d a b => Sys2Proof.Machine.execRdx nx d a b s
  | .fnc nx d imm => Sys2Proof.Machine.execFnc nx d imm s
  | .fwait nx a => Sys2Proof.Machine.execFwait nx a s
  | .pref nx d a b => Sys2Proof.Machine.execPref nx d a b s
  | .bara nx a => Sys2Proof.Machine.execBara nx a s
  | .barw nx a => Sys2Proof.Machine.execBarw nx a s
  | .baraw nx a => Sys2Proof.Machine.execBaraw nx a s
  | .barx nx a b => Sys2Proof.Machine.execBarx nx a b s
  | .bari nx a b => Sys2Proof.Machine.execBari nx a b s
  | .qpush nx d a => Sys2Proof.Machine.execQpush nx d a s
  | .qpop nx d a => Sys2Proof.Machine.execQpop nx d a s
  | .qpeek nx d a b => Sys2Proof.Machine.execQpeek nx d a b s
  | .qcfg nx a b => Sys2Proof.Machine.execQcfg nx a b s
  | .gset nx a => Sys2Proof.Machine.execGset nx a s
  | .gclr nx a => Sys2Proof.Machine.execGclr nx a s
  | .gclrUnres nx a => Sys2Proof.Machine.execGclrUnres nx a s
  | .estart nx a => Sys2Proof.Machine.execEstart nx a s
  | .ejoin nx d => Sys2Proof.Machine.execEjoin nx d s
  | .launch nx d a => Sys2Proof.Machine.execLaunch nx d a s
  | .sfork nx a b => Sys2Proof.Machine.execSfork nx a b s
  | .sreward nx d a => Sys2Proof.Machine.execSreward nx d a s
  | .sbar nx => Sys2Proof.Machine.execSbar nx s
  | .scancel nx d a => Sys2Proof.Machine.execScancel nx d a s
  | .sginfo nx d => Sys2Proof.Machine.execSginfo nx d s
  | .sgabs nx d => Sys2Proof.Machine.execSgabs nx d s
  | .sgadv nx a => Sys2Proof.Machine.execSgadv nx a s
  | .mxg nx sel d g => Sys2Proof.Machine.execMxg nx sel d g s
  | .mx nx c sel a b v q r => Sys2Proof.Machine.execMx nx c sel a b v q r s
  | .mxbound nx d a => Sys2Proof.Machine.execMxbound nx d a s
  | .mxz nx d => Sys2Proof.Machine.execMxz nx d s
  | .acst nx d a b => Sys2Proof.Machine.execAcst nx d a b s
  | .acld nx d a b => Sys2Proof.Machine.execAcld nx d a b s
  | .hclaim nx d x => Sys2Proof.Machine.execHclaim nx d x s
  | .hrel nx a => Sys2Proof.Machine.execHrel nx a s
  | .cpldSlot nx d a b => Sys2Proof.Machine.execCpldSlot nx d a b s
  | .cpldSp nx a b => Sys2Proof.Machine.execCpldSp nx a b s
  | .cpst nx a b => Sys2Proof.Machine.execCpst nx a b s
  | .cpss nx a b => Sys2Proof.Machine.execCpss nx a b s
  | .bseal nx d => Sys2Proof.Machine.execBseal nx d s
  | .bsealStatus nx d a => Sys2Proof.Machine.execBsealStatus nx d a s
  | .bwaitImm nx imm => Sys2Proof.Machine.execBwaitImm nx imm s
  | .bwaitReg nx a => Sys2Proof.Machine.execBwaitReg nx a s
  | .lease nx d a b => Sys2Proof.Machine.execLease nx d a b s
  | .lrel nx a => Sys2Proof.Machine.execLrel nx a s
  | .ecmd nx d a b => Sys2Proof.Machine.execEcmd nx d a b s
  | .swbind nx a b => Sys2Proof.Machine.execSwbind nx a b s
  | .swunb nx a => Sys2Proof.Machine.execSwunb nx a s
  | .eadd nx d a b => Sys2Proof.Machine.execEadd nx d a b s
  | .esub nx d a b => Sys2Proof.Machine.execEsub nx d a b s
  | .eli nx d imm => Sys2Proof.Machine.execEli nx d imm s
  | .elih nx d imm => Sys2Proof.Machine.execElih nx d imm s
  | .emov nx d a => Sys2Proof.Machine.execEmov nx d a s
  | .eshl nx d a c => Sys2Proof.Machine.execEshl nx d a c s
  | .eshr nx d a c => Sys2Proof.Machine.execEshr nx d a c s
  | .xjz nx d imm => Sys2Proof.Machine.execXjz nx d imm s
  | .xjnz nx d imm => Sys2Proof.Machine.execXjnz nx d imm s
  | .efroms nx d imm => Sys2Proof.Machine.execEfroms nx d imm s
  | .csrr nx d imm => Sys2Proof.Machine.execCsrr nx d imm s
  | .csrw nx d imm => Sys2Proof.Machine.execCsrw nx d imm s
  | .cntr nx d imm => Sys2Proof.Machine.execCntr nx d imm s
  | .clk nx d imm => Sys2Proof.Machine.execClk nx d imm s
  | .seed nx a => Sys2Proof.Machine.execSeed nx a s
  | .reservedOpcode w => Sys2Proof.Machine.execReservedOpcode w s
  | .formerBuild => Sys2Proof.Machine.execFormerBuild s
  | .rwaitTimeout => Sys2Proof.Machine.execRwaitTimeout s
  | .guardedCommandRelease => Sys2Proof.Machine.execGuardedCommandRelease s
  | .streamEnded => Sys2Proof.Machine.execStreamEnded s
  | .gangEnd => Sys2Proof.Machine.execGangEnd s
  | .packetTake => Sys2Proof.Machine.execPacketTake s
  | .gangPlace => Sys2Proof.Machine.execGangPlace s
  | .childGridStart => Sys2Proof.Machine.execChildGridStart s
  | .replayResend => Sys2Proof.Machine.execReplayResend s
  | .sramSplitReclaim => Sys2Proof.Machine.execSramSplitReclaim s
  | .latchLoadComplete => Sys2Proof.Machine.execLatchLoadComplete s
  | .mxStepStart => Sys2Proof.Machine.execMxStepStart s
  | .mxStepComplete => Sys2Proof.Machine.execMxStepComplete s
  | .cpldItemComplete => Sys2Proof.Machine.execCpldItemComplete s
  | .cpstItemComplete => Sys2Proof.Machine.execCpstItemComplete s
  | .cpssItemComplete => Sys2Proof.Machine.execCpssItemComplete s
  | .acstItemComplete => Sys2Proof.Machine.execAcstItemComplete s
  | .acldItemComplete => Sys2Proof.Machine.execAcldItemComplete s
  | .swbindItemComplete => Sys2Proof.Machine.execSwbindItemComplete s
  | .swunbItemComplete => Sys2Proof.Machine.execSwunbItemComplete s
  | .fenceComplete => Sys2Proof.Machine.execFenceComplete s
  | .logicalTimeAdvance => Sys2Proof.Machine.execLogicalTimeAdvance s
  | .holderDrain => Sys2Proof.Machine.execHolderDrain s
  | .pageTableWalk => Sys2Proof.Machine.execPageTableWalk s
  | .leaseGrant => Sys2Proof.Machine.execLeaseGrant s
  | .leaseHoldExpire => Sys2Proof.Machine.execLeaseHoldExpire s
  | .lrelTakeEffect => Sys2Proof.Machine.execLrelTakeEffect s
  | .engineLit => Sys2Proof.Machine.execEngineLit s
  | .engineDimIdle => Sys2Proof.Machine.execEngineDimIdle s
  | .engineLingerExpire => Sys2Proof.Machine.execEngineLingerExpire s
  | .engineDarkIdle => Sys2Proof.Machine.execEngineDarkIdle s
  | .xfItemComplete => Sys2Proof.Machine.execXfItemComplete s
  | .mgItemComplete => Sys2Proof.Machine.execMgItemComplete s
  | .dcItemComplete => Sys2Proof.Machine.execDcItemComplete s
  | .spItemComplete => Sys2Proof.Machine.execSpItemComplete s
  | .clItemComplete => Sys2Proof.Machine.execClItemComplete s
  | .ixItemComplete => Sys2Proof.Machine.execIxItemComplete s
  | .sgDeadline => Sys2Proof.Machine.execSgDeadline s
  | .tlbiRange => Sys2Proof.Machine.execTlbiRange s
  | .tlbiContext => Sys2Proof.Machine.execTlbiContext s
  | .tlbiAll => Sys2Proof.Machine.execTlbiAll s
  | .tlbInvalidateComplete => Sys2Proof.Machine.execTlbInvalidateComplete s
  | .fltrespReplay => Sys2Proof.Machine.execFltrespReplay s
  | .fltrespAbort => Sys2Proof.Machine.execFltrespAbort s
  | .faultRecordWrite => Sys2Proof.Machine.execFaultRecordWrite s
  | .space1BlockWrite => Sys2Proof.Machine.execSpace1BlockWrite s
  | .cmpcfgWrite => Sys2Proof.Machine.execCmpcfgWrite s
  | .reloc => Sys2Proof.Machine.execReloc s
  | .cmpcmdRead => Sys2Proof.Machine.execCmpcmdRead s
  | .relocDone => Sys2Proof.Machine.execRelocDone s
  | .decay => Sys2Proof.Machine.execDecay s
  | .seedw => Sys2Proof.Machine.execSeedw s
  | .heatDecayComplete => Sys2Proof.Machine.execHeatDecayComplete s
  | .keyLoad => Sys2Proof.Machine.execKeyLoad s
  | .keyFlush => Sys2Proof.Machine.execKeyFlush s
  | .keyClear => Sys2Proof.Machine.execKeyClear s
  | .keyCommandDone => Sys2Proof.Machine.execKeyCommandDone s
  | .partmapWrite => Sys2Proof.Machine.execPartmapWrite s
  | .create => Sys2Proof.Machine.execCreate s
  | .start => Sys2Proof.Machine.execStart s
  | .save => Sys2Proof.Machine.execSave s
  | .swap => Sys2Proof.Machine.execSwap s
  | .prestage => Sys2Proof.Machine.execPrestage s
  | .abort => Sys2Proof.Machine.execAbort s
  | .fltactEnd => Sys2Proof.Machine.execFltactEnd s
  | .fltactResume => Sys2Proof.Machine.execFltactResume s
  | .destroy => Sys2Proof.Machine.execDestroy s
  | .dieoff => Sys2Proof.Machine.execDieoff s
  | .dieon => Sys2Proof.Machine.execDieon s
  | .contextCommandComplete => Sys2Proof.Machine.execContextCommandComplete s
  | .lqctlWrite => Sys2Proof.Machine.execLqctlWrite s
  | .lqputWrite => Sys2Proof.Machine.execLqputWrite s
  | .completionRecordWrite => Sys2Proof.Machine.execCompletionRecordWrite s
  | .dfbbaseWrite => Sys2Proof.Machine.execDfbbaseWrite s
  | .carveWrite => Sys2Proof.Machine.execCarveWrite s
  | .orderlyDarkTimeout => Sys2Proof.Machine.execOrderlyDarkTimeout s
  | .dieAbruptLoss => Sys2Proof.Machine.execDieAbruptLoss s
  | .rglInterval => Sys2Proof.Machine.execRglInterval s
  | .clpwrWrite => Sys2Proof.Machine.execClpwrWrite s
  | .clusterGate => Sys2Proof.Machine.execClusterGate s
  | .clusterUngate => Sys2Proof.Machine.execClusterUngate s
  | .boostInterval => Sys2Proof.Machine.execBoostInterval s
  | .hotSpotMigration => Sys2Proof.Machine.execHotSpotMigration s
  | .thermalEmergency => Sys2Proof.Machine.execThermalEmergency s
  | .watchdog => Sys2Proof.Machine.execWatchdog s
  | .watchdogUncleared => Sys2Proof.Machine.execWatchdogUncleared s
  | .powerOn => Sys2Proof.Machine.execPowerOn s
  | .perst => Sys2Proof.Machine.execPerst s
  | .bringupStageComplete => Sys2Proof.Machine.execBringupStageComplete s
  | .stageLimitExpire => Sys2Proof.Machine.execStageLimitExpire s
  | .retrain => Sys2Proof.Machine.execRetrain s
  | .flitCrcReplay => Sys2Proof.Machine.execFlitCrcReplay s
  | .linkRetrainComplete => Sys2Proof.Machine.execLinkRetrainComplete s
  | .sensors => Sys2Proof.Machine.execSensors s
  | .logread => Sys2Proof.Machine.execLogread s
  | .bootinfo => Sys2Proof.Machine.execBootinfo s
  | .updopen => Sys2Proof.Machine.execUpdopen s
  | .updwrite => Sys2Proof.Machine.execUpdwrite s
  | .updclose => Sys2Proof.Machine.execUpdclose s
  | .activate => Sys2Proof.Machine.execActivate s
  | .confirm => Sys2Proof.Machine.execConfirm s
  | .svncommit => Sys2Proof.Machine.execSvncommit s
  | .pkgreset => Sys2Proof.Machine.execPkgreset s
  | .trialTimeout => Sys2Proof.Machine.execTrialTimeout s
  | .ambRestart => Sys2Proof.Machine.execAmbRestart s
  | .pldmFirmwareUpdate => Sys2Proof.Machine.execPldmFirmwareUpdate s
  | .pldmMonitoring => Sys2Proof.Machine.execPldmMonitoring s
  | .spdmMeasurements => Sys2Proof.Machine.execSpdmMeasurements s
  | .spdmMldsaSignature => Sys2Proof.Machine.execSpdmMldsaSignature s
  | .sensorSample => Sys2Proof.Machine.execSensorSample s
  | .logCoalesceWindow => Sys2Proof.Machine.execLogCoalesceWindow s
  | .patrolScrub => Sys2Proof.Machine.execPatrolScrub s
  | .hbmPatrolScrub => Sys2Proof.Machine.execHbmPatrolScrub s
  | .registerWrite => Sys2Proof.Machine.execRegisterWrite s
  | .compressRecord => Sys2Proof.Machine.execCompressRecord s
  | .lqgetRead => Sys2Proof.Machine.execLqgetRead s
  | .watchdogCleared => Sys2Proof.Machine.execWatchdogCleared s
  | .powerLoss => Sys2Proof.Machine.execPowerLoss s

end Sys2Proof.Machine
end

