-- ==== Sys2Proof/Machine/Turns.lean ====
section
/-! DEFINITION. What a turn of the agenda does: an issuer fetches and executes (R36, R37, R170, R171), several issue in one cycle (R263), an
event happens, time passes. -/
namespace Sys2Proof.Machine

/-! ## One issue -/

/-- A wait that the driver's abort has ended raises PROT at the issuer's turn (R359). Where it was the fetch that waited, the instruction issues with
this precise fault (R211). -/
def endWait (s : State) (f : Fx) : State :=
  let s1 := raise s f
  if s1.stalled then s1
  else if isStream s1 then setStrm s1 (fun x => { x with cap := none })
  else if f.src = 1 then account s s1 0 []
  else setSplit s1 (fun x => { x with cap := none })

/-- An instruction that issued before goes on with what it read then: it is not fetched again (R37, R38, R164). -/
def goOn (s : State) (c : Capture) : Host.Outcome State Fault Refusal :=
  match decode c.word c.rest with
  | .error e => .next (undecodable e s)
  | .ok i =>
    let s0 := resumed s c
    match exec i s0 with
    | .next s1 => .next (if s1.stalled then s1 else account s (mendRegs s0 (putBack s s1 c) i) c.word c.rest)
    | o => o

/-- A decoded instruction issues, when no register it names has a pending write (R37): a damaged source ends it (R171), or it is executed. -/
def issue (s : State) (w : BitVec 32) (rest : List (BitVec 32)) (i : Instr) : Host.Outcome State Fault Refusal :=
  if !isStream s && pendingHit s i then .next { s with stalled := true }
  else if sourceBad s i then .next (account s (takeFault s (fx .eccUncorr)) w rest)
  else match exec i s with
    | .next s1 => .next (if s1.stalled then s1 else account s (mendRegs s s1 i) w rest)
    | o => o

/-- The words at the pc are decoded, and the instruction issues. -/
def runWords (s : State) (w : BitVec 32) (rest : List (BitVec 32)) : Host.Outcome State Fault Refusal :=
  match decode w rest with
  | .ok i => issue s w rest i
  | .error e => .next (account s (undecodable e s) w rest)

/-- The words of the instruction of the loaded issuer: those that hold the stream, or those at the pc. -/
def issuerWords (s : State) : Except Fx (BitVec 32 × List (BitVec 32)) :=
  match if isStream s then s.crew.strm.cap else none with
  | some x => .ok x
  | none => fetch s

/-- The fetch of an instruction fails: a precise fault counts as an issue, a word whose page is awaited has not issued; either fetch may miss (R211). -/
def fetchFault (s : State) (f : Fx) : State :=
  let s1 := takeFault s f
  if s1.stalled then s1 else if f.cause = .page then countMisses s1 s.crew.core else account s s1 0 []

/-- The instruction at the pc of the loaded split or stream is fetched, decoded and executed (R170, R171); one that it has issued and that holds
it goes on. -/
def attempt (s : State) : Host.Outcome State Fault Refusal :=
  match holdOf s with
  | .page _ f => if f.cause = .prot then .next (endWait s f) else .next { s with stalled := true }
  | _ =>
    match if isStream s then none else s.split.cap with
    | some c => goOn s c
    | none =>
      match issuerWords s with
      | .error f => .next (fetchFault s f)
      | .ok (w, rest) => runWords s w rest

/-- The first of the candidates that can issue issues (R36). -/
def issueFirst (s : State) : List Cand → Host.Outcome State Fault Refusal
  | [] => .next s
  | c :: r =>
    match load s c with
    | none => issueFirst s r
    | some s1 =>
      match attempt s1 with
      | .next s2 => if s2.stalled then issueFirst s r else .next (unload s2)
      | o => o

/-! ## One cycle (R20, R43, R263, R271) -/

/-- The candidate that issues: the first that does not stall. -/
def pick (s : State) : List Cand → Option Cand
  | [] => none
  | c :: r =>
    match load s c with
    | none => pick s r
    | some s1 =>
      match attempt s1 with
      | .next s2 => if s2.stalled then pick s r else some c
      | _ => some c

/-- The place of a candidate in the order of a cycle: ascending %crew, in a crew ascending %group, its stream last. -/
def Cand.rank (s : State) (c : Cand) : Nat :=
  match c.split with
  | none => 65 * c.crew + 64
  | some (k, _) =>
    65 * c.crew + ((((aget s.gangs c.gang).bind (fun g => aget g.crews c.crew)).bind (fun x => aget x.groups k)).map (fun g => g.no)).getD 0

/-- The gang has a crew on one of the cores. -/
def Gang.isOn (g : Gang) (cores : List Nat) : Bool := g.crews.any (fun c => cores.contains c.2.core)

/-- The crews of the gangs on some cores as a cycle of them begins and ends: an operation may act on every crew of its gang (R256). -/
def onCoreCrews (s : State) (cores : List Nat) (f : Crew → Crew) : State :=
  { s with gangs := s.gangs.map (fun g => (g.1, if g.2.isOn cores then { g.2 with crews := g.2.crews.map (fun c => (c.1, f c.2)) } else g.2)) }

/-- The barriers that the operations of a cycle touched are tested (R263). -/
def Crew.closeCycle (c : Crew) : Crew :=
  { c.touched.foldl barComplete { c with joint := false } with touched := [] }

def issueAll (s : State) : List Cand → Host.Outcome State Fault Refusal
  | [] => .next s
  | c :: r =>
    match issueFirst s [c] with
    | .next s1 => issueAll s1 r
    | o => o

/-- The end of a cycle of some cores, after its operations: barriers complete (R263), then flush points show (R43), sample groups complete
(R271), and an engine without a next step chooses among the steps that issued (R20). -/
def endCycle (s : State) (cores : List Nat) : State :=
  let s1 := onCoreCrews s cores Crew.closeCycle
  let crews := (s1.gangs.filter (fun g => g.2.isOn cores)).flatMap (fun g => g.2.crews.map (fun c => (g.1, c.1)))
  cores.foldl chooseNext (crews.foldl (fun s x => onCrew s x.1 x.2 id) s1)

/-- The core of a crew. -/
def coreAt (s : State) (gid crew : Nat) : Option Nat := ((aget s.gangs gid).bind (fun g => aget g.crews crew)).map (fun c => c.core)

/-- Pipes of cores and streams of crews issue in one cycle. -/
def coreCycle (s : State) (pipes streams : List (Nat × Nat)) : Host.Outcome State Fault Refusal :=
  let cores := (pipes.map (·.1) ++ streams.filterMap (fun x => coreAt s x.1 x.2)).eraseDups
  let picks := pipes.filterMap (fun p => pick s (pipeCands s p.1 p.2)) ++ streams.filterMap (fun x => pick s (streamCands s x.1 x.2))
  match issueAll (onCoreCrews s cores (fun c => { c with joint := true })) (sortBy (fun c => c.rank s) picks.eraseDups) with
  | .next s1 => .next (endCycle s1 cores)
  | o => o

/-! ## Residue mismatches, damaged units, ports -/

/-- The words and the instruction that the loaded split is to execute, and the state it reads. -/
def current (s : State) : Option (BitVec 32 × List (BitVec 32) × Instr × State) :=
  match s.split.cap with
  | some c => (decode c.word c.rest).toOption.map (fun i => (c.word, c.rest, i, resumed s c))
  | none => (fetch s).toOption.bind (fun x => (decode x.1 x.2).toOption.map (fun i => (x.1, x.2, i, s)))

/-- The instruction that pipe p of a core would complete ends with a residue mismatch (R172), and the AMB records it (R415). -/
def residueTurn (s : State) (core p : Nat) : State :=
  match (pick s (pipeCands s core p)).bind (load s) with
  | none => s
  | some s1 =>
    match current s1, attempt s1 with
    | some (w, rest, i, s2), .next t =>
      if tookEffect t then
        let s3 := residueFault s2 i
        if s3.stalled then s
        else
          let s4 := match s1.split.cap with
            | some c => putBack s1 s3 c
            | none => s3
          addLog (unload (account s1 s4 w rest)) 3 4 core 1 (256 * p)
      else s
    | _, _ => s

/-- The unit is part of a resident crew, of a core, or of L2. -/
def Cell.lives (s : State) (c : Cell) : Bool :=
  let has := fun (g k : Nat) => ((aget s.gangs g).bind (fun x => aget x.crews k)).isSome
  match c with
  | .l2 _ => true
  | .l1 core _ => core < 192
  | .sram core u => core < 192 && u < 131072
  | .spawn g k _ _ => has g k
  | .spad g k _ => has g k
  | .vreg g k _ _ => has g k
  | .sreg g k _ _ => has g k
  | .ereg g k _ => has g k
  | .slot g k _ _ => has g k
  | .tile g k _ _ => has g k

/-- A word of a v register in record number `ix` of the loaded crew is damaged (R41, R420). -/
def spoilRec (s : State) (ix r : Nat) : State :=
  if r < regsOf s then
    setOwn s (fun c => { c with recs := c.recs.zipIdx.map (fun x => if x.2 = ix ∧ !x.1.bad.contains r then { x.1 with bad := r :: x.1.bad } else x.1) })
  else s

def upsetCell (s : State) (c : Cell) : State :=
  match c with
  | .spawn g k ix r => onCrew s g k (fun s1 => spoilRec s1 ix r)
  | _ => if c.lives s then damage s c else s

def upsetUnit (s : State) (u : Nat) : State := { s with bad := if s.bad.contains u then s.bad else u :: s.bad }

/-- A port of cluster cl begins or ceases to refuse entries (R58). -/
def turnPort (s : State) (sg : Bool) (cl : Nat) (shut : Bool) : State :=
  let l := s.shutPorts.filter (· ≠ (sg, cl))
  { s with shutPorts := if shut ∧ cl < 24 then (sg, cl) :: l else l }

/-! ## Turns -/

/-- An event with its operands. -/
def runEvent (s : State) (i : Instr) (ev : Ev) : Host.Outcome State Fault Refusal :=
  if i.opcode ≠ none then .next s
  else
    match exec i { s with ev := ev } with
    | .next s1 => .next { s1 with ev := .zero }
    | o => o

/-- The streams with a step that is not done, which could issue an instruction in this cycle. -/
def pressing (s : State) : List (Nat × Nat) :=
  (s.gangs.flatMap (fun g => g.2.crews.map (fun c => (g.1, c.1, c.2)))).filterMap (fun x =>
    if (streamWork x.2.2).any (fun i => i.op.isMx) ∧ (pick s (streamCands s x.1 x.2.1)).isSome then some (x.1, x.2.1) else none)

/-- The stream has issued since the latest cycle passed. -/
def wentOn (s : State) (x : Nat × Nat) : Bool := ((aget s.gangs x.1).bind (fun g => aget g.crews x.2)).any (fun c => c.strm.went)

/-- A stream with a step that is not done, which can issue and has not issued in this cycle. -/
def dueStream (s : State) : Option (Nat × Nat) := (pressing s).find? (fun x => !wentOn s x)

/-- n slate cycles pass; at the end of the present one the thermal trips of the dies are decided, and ports that went down begin to retrain. A stream
that can issue does not fall behind its own steps: while it has one that is not done, no cycle passes before it has issued, and then one (R36, R321,
R322: DEDUCED, log 99). -/
def pass (s : State) (n : Nat) : State :=
  if n ≠ 0 ∧ (dueStream s).isSome then s
  else tick (if n = 0 then s else startRetrains (tripEnd s)) (if pressing s = [] then n else min n 1)

/-- The turn of an empty agenda. -/
def idle (s : State) : Host.Outcome State Fault Refusal :=
  match dueStream s with
  | some (g, c) => issueFirst s (streamCands s g c)
  | none => .next (pass s 1)

def takeTurn (s : State) : Turn → Host.Outcome State Fault Refusal
  | .pipe core p => issueFirst s (pipeCands s core p)
  | .stream g c => issueFirst s (streamCands s g c)
  | .cycle ps ss => coreCycle s ps ss
  | .residue core p => .next (residueTurn s core p)
  | .event i ev => runEvent s i ev
  | .tick n => .next (pass s n)
  | .fill key => .next (fillLine s key)
  | .upset u => .next (upsetUnit s u)
  | .upsetCell c => .next (upsetCell s c)
  | .hostRead off len => .next (hostRead s off len)
  | .port sg cl shut => .next (turnPort s sg cl shut)
  | .mailbox => .next (mbDone s)

end Sys2Proof.Machine
end

