-- ==== Sys2Proof/Machine/Step.lean ====
section
/-! DEFINITION. One step: the turn at the head of the agenda is taken (log 1). -/
namespace Sys2Proof.Machine

/-- One step. With an empty agenda one slate cycle passes, before which the streams issue that `pass` waits for. -/
def step (s : State) : Host.Outcome State Fault Refusal :=
  match s.agenda with
  | [] => idle s
  | t :: r => takeTurn { s with agenda := r } t

/-- s with one instruction placed where the next step fetches it: a program of its own context and gang (log 12). -/
def State.withFetchWord (s : State) (nbits w : Nat) : State := placeProgram s (Sys2Proof.wordsOf nbits w)

end Sys2Proof.Machine
end

