-- ==== Sys2Proof/Safety.lean ====
section
/-! DEFINITION. What a safe run keeps: memory in its canonical form, and no MODE that R163 says is never held; and the
words in which the statements say what an instruction writes and what it leaves as it was. -/
namespace Sys2Proof.Machine

/-- The group's MODE, and those that its held instructions were issued under, are ones that may be held (R163). -/
def Group.modesLegal (g : Group) : Bool := modeLegal g.mode && g.splits.all (fun x => x.cap.all (fun c => modeLegal c.mode))

/-- So is each MODE of a crew: its stream's, its groups' and those of its spawn records. -/
def Crew.modesLegal (c : Crew) : Bool :=
  modeLegal c.strm.mode && c.groups.all (fun g => g.2.modesLegal) && c.recs.all (fun r => modeLegal r.mode) &&
    c.flush.all (fun k => modeLegal k.mode)

def Gang.modesLegal (g : Gang) : Bool := g.crews.all (fun c => c.2.modesLegal)

/-- So is each MODE of the state: of resident gangs, of those saved with a context, and of the issuer in execution. -/
def State.modesLegal (s : State) : Bool :=
  s.gangs.all (fun g => g.2.modesLegal) && s.ctxs.all (fun c => c.2.image.all (fun g => g.2.modesLegal)) &&
    s.gang.modesLegal && s.crew.modesLegal && s.grp.modesLegal && s.split.cap.all (fun c => modeLegal c.mode)

/-- The state holds its storage in canonical form and only legal modes. -/
def State.safe (s : State) : Bool := s.mem.wf && s.modesLegal

/-! ## Completion -/

/-- The state after an instruction of `len` bytes whose own effect gives `t`: the selector NX acts (R38, R161), and the
guard decision of a stream is spent (R51). -/
def after (nx : NX) (len : Nat) (t : State) : State := clearGuard (nxApply nx len t)

/-- The instruction of one word in execution is a group's, and its NX raises nothing (R161, R168). -/
def groupReady (nx : NX) (s : State) : Prop := isStream s = false ∧ nxFault nx 4 s = none

/-- The instruction of one word in execution is a stream's, and its NX raises nothing (R161, R168). -/
def streamReady (nx : NX) (s : State) : Prop := isStream s = true ∧ nxFault nx 4 s = none

/-- A stream's guarded command executes: its guard is resolved and lets it (R51); a group's command has no guard. -/
def commandRuns (s : State) : Prop := isStream s = true → guardState s = some true

/-! ## What lanes write -/

/-- The issuing group with other v registers. -/
def withV (s : State) (v : Store 32) : State := setGrp s (fun g => { g with v := v })

/-- The issuing group with other predicates. -/
def withK (s : State) (k : Store 32) : State := setGrp s (fun g => { g with k := k })

/-- `v` is the v registers of the group with the n registers from d written in the lanes of L and nowhere else: register
d + j of the lane at position p holds bits [32j+31 : 32j] of `f p` (R88, R89, R165). -/
def LanesHold (s : State) (d n : Nat) (f : Nat → Nat) (v : Store 32) : Prop :=
  ∀ r p, p < 32 → v.get (32 * r + p) =
    if p ∈ active s ∧ d ≤ r ∧ r < d + n then BitVec.ofNat 32 (f p / 2 ^ (32 * (r - d))) else vget s r p

/-- `ks` is the predicates of the group with predicate d written in the lanes of L and nowhere else (R165, R243). -/
def PredHolds (s : State) (d : Nat) (f : Nat → Bool) (ks : Store 32) : Prop :=
  ∀ r p, p < 32 → (ks.get r).getLsbD p = if p ∈ active s ∧ r = d then f p else kget s r p

/-! ## Frames -/

/-- Every byte of memory and of the scratchpads of the gang reads in t as it read in s. -/
def bytesSame (s t : State) : Prop := ∀ l, locGet t l = locGet s l

/-- The accumulators, the operand slots, the format registers, the queues and the guard slots of the crew, and the host
registers, are in t what they were in s. -/
def unitsSame (s t : State) : Prop :=
  t.crew.tiles = s.crew.tiles ∧ t.crew.slots = s.crew.slots ∧ t.crew.f = s.crew.f ∧ t.crew.queues = s.crew.queues ∧
    t.crew.guards = s.crew.guards ∧ t.regs = s.regs

/-- Where a byte is stored: in the scratchpad of a crew, or under a key of memory (R371). -/
def Loc.place (s : State) : Loc → Nat × Nat
  | .spad c o => (c + 1, o)
  | .phys key _ _ => (0, storeKey s key)

/-- The key slot and tweak under which an access at the location reads and writes (R373). -/
def Loc.sealed (s : State) : Loc → KeySlot × Nat
  | .spad _ _ => (plainSlot, 0)
  | .phys key kid _ => sealOf (keySlot s kid) (keyAddr key / 32)

/-- A byte of a scratchpad, or of memory outside the compressed aperture. -/
def Loc.plain : Loc → Prop
  | .spad _ _ => True
  | .phys key _ _ => keySpace key ≠ 1

/-- A stored byte: its place, and the seal under which it is stored. -/
abbrev Stored := (Nat × Nat) × (KeySlot × Nat)

/-- A byte that a store leaves alone: it is another byte, and in one unit of encryption it is read under the seal that the store writes
(a unit written under another key reads as its decryption, R374). -/
def Stored.spares (x : Stored) (s : State) (l : Loc) : Prop :=
  x.1 ≠ l.place s ∧ (x.1.1 = (l.place s).1 → x.1.2 / 32 = (l.place s).2 / 32 → x.2 = l.sealed s)

/-- The bytes of the leaf entry in which a write to a global address sets D (R352). -/
def leafBytes (s : State) (va : Nat) : List Stored :=
  match aget s.ctxs s.gang.ctx with
  | none => []
  | some c =>
    match leafFor s s.gang.ctx c va .write with
    | .leaf e _ (some a) => if bitsOf e 61 1 = 0 then (List.range 8).map (fun i => ((0, a + i), (plainSlot, 0))) else []
    | _ => []

/-- The bytes of the leaf entries in which a store sets D. -/
def dirtyBytes (s : State) (a : LaneAcc) : List Stored :=
  match regionOf a.va with
  | .global => leafBytes s a.va
  | .shadow _ =>
    ((List.range a.w).foldl (fun (x : State × List Stored) i => match shadowTarget x.1 (a.va + i) with
      | none => x
      | some g => (setDirty x.1 x.1.gang.ctx g, x.2 ++ leafBytes x.1 g)) (s, [])).2
  | _ => []

/-- The bytes that the stores of one instruction write: those of its accesses, and those of the leaf entries in which it sets D. -/
def storedBytes (s : State) (l : List (LaneAcc × Nat)) : List Stored :=
  (l.flatMap (fun x => (locsOr s x.1 .write).map (fun m => (m.place s, m.sealed s)))) ++
    (l.foldl (fun (y : State × List Stored) x => (dirtyAcc y.1 x.1, y.2 ++ dirtyBytes y.1 x.1)) (s, [])).2

/-! ## Items that end -/

/-- The item `ev.item` can end now: its crew loaded is s1, it is the item i, of the kind, has not ended, waits for no page, and
its acquire flag lets it begin (R127, R276). -/
def itemAtHand (kind : ItemOp → Bool) (s s1 : State) (i : Item) : Prop :=
  focusCrew s s.ev.item.who.gang s.ev.item.who.crew = some s1 ∧ itemOf s1 s.ev.item = some i ∧ kind i.op = true ∧
    i.status = none ∧ i.drained = none ∧ i.page = none ∧ acqOk s1 s.ev.item i = true

/-- What the accesses of an item see. -/
def atWork (s1 : State) (i : Item) : State := { s1 with accStamp := some i.stamp }

/-- The item of the event ends with a status in the state its work left, and its crew is put back. -/
def itemEnds (s w : State) (i : Item) (st : Status) (f : Fx) (named : Bool) (aux : Nat) : Out :=
  .next (unfocusCrew { endItem w s.ev.item i st f named aux with accStamp := none })

/-- The item of the event ends with OK. -/
def itemDone (s w : State) (i : Item) : Out := itemEnds s w i .ok (fx .stale) false 0

/-- No release and no idle timer of an engine of the cluster is due (R139, R144). -/
def noTimerDue (s : State) (cl : Nat) : Prop :=
  ∀ m < 24,
    let e := engOf (clusterOf s cl) m
    (e.lrel = true → leaseIdle s e = false) ∧
    (e.power = .lit → e.waking = false → e.lease.isSome = true → leaseIdle s e = true → dimIdleOf s cl ≠ 0 →
      s.clock.toNat < e.since + 1600 * dimIdleOf s cl) ∧
    (e.power = .lit → e.lease = none → s.clock.toNat < e.since + 1600 * lingerOf s cl) ∧
    (e.power = .dim → e.lease = none → s.clock.toNat < e.since + 160000 * darkIdleOf s cl)

/-- The engine item `ev.item` of kind k can execute now: R143's conditions hold, `y` is what its accesses see, its engine's
idle time counted from now, and `e` is the engine. -/
def engineAtHand (k : Nat) (s s1 y : State) (i : Item) (e : Engine) : Prop :=
  itemAtHand (ItemOp.isKind k) s s1 i ∧ ecmdReady (atWork s1 i) s.ev.item i = true ∧
    ∃ cl req sub row p0 p1 p2 p3, i.op = .ecmd cl req k sub row p0 p1 p2 p3 ∧ y = onEngine (atWork s1 i) cl req id ∧
      e = ((leaseEngine (atWork s1 i) cl req).map (·.2)).getD .zero

end Sys2Proof.Machine
end

