-- ==== Sys2Proof/Certificates/Slice0/Obligations.lean ====
section
/-! DEFINITION. The statements for the provers. -/
section
open Sys2Proof Sys2Proof.Machine

/-! ## Scalar instructions -/

/-- R199: the two-operand scalar instructions write sD from the old sA and sB, modulo 2^64. -/
def Claims.ScalarArithmetic : Prop :=
  ∀ (nx : NX) (d a b : BitVec 7) (x : BitVec 1) (s : State), groupReady nx s → d.toNat < 64 → a.toNat < 64 → b.toNat < 64 →
    let A := sget s a.toNat
    let B := sget s b.toNat
    let put : BitVec 64 → Out := fun v => .next (after nx 4 (sput s d.toNat v))
    exec (.sadd nx d a b) s = put (A + B) ∧
    exec (.ssub nx d a b) s = put (A - B) ∧
    exec (.smul nx d a b) s = put (A * B) ∧
    exec (.smulh nx d a b x) s = put (BitVec.ofInt 64 (xval x A * xval x B / 2 ^ 64)) ∧
    exec (.sand nx d a b) s = put (A &&& B) ∧
    exec (.sor nx d a b) s = put (A ||| B) ∧
    exec (.sxor nx d a b) s = put (A ^^^ B) ∧
    exec (.sshl nx d a b) s = put (if B.toNat < 64 then A <<< B.toNat else 0) ∧
    exec (.sshr nx d a b) s = put (if B.toNat < 64 then A >>> B.toNat else 0) ∧
    exec (.ssra nx d a b) s =
      put (if B.toNat < 64 then A.sshiftRight B.toNat else if A.msb then BitVec.allOnes 64 else 0) ∧
    exec (.smin nx d a b x) s = put (if xval x B < xval x A then B else A) ∧
    exec (.smax nx d a b x) s = put (if xval x A < xval x B then B else A) ∧
    exec (.saddr nx d a b x) s = put (addrS x A B) ∧
    exec (.ssel nx d a b) s = put (if sget s d.toNat ≠ 0 then A else B)

/-- R200: quotient and remainder truncate toward zero; a zero divisor gives 2^64 − 1 and the dividend; signed −2^63 by −1
gives −2^63 and 0. No scalar instruction raises an arithmetic fault: every one of R199 goes on with a result. -/
def Claims.ScalarDivide : Prop :=
  ∀ (nx : NX) (d a b : BitVec 7) (x : BitVec 1) (s : State), groupReady nx s → d.toNat < 64 → a.toNat < 64 → b.toNat < 64 →
    let A := sget s a.toNat
    let B := sget s b.toNat
    let put : BitVec 64 → Out := fun v => .next (after nx 4 (sput s d.toNat v))
    exec (.sdiv nx d a b x) s = put (if B = 0 then BitVec.allOnes 64 else BitVec.ofInt 64 ((xval x A).tdiv (xval x B))) ∧
    exec (.srem nx d a b x) s = put (if B = 0 then A else BitVec.ofInt 64 ((xval x A).tmod (xval x B))) ∧
    (x = 0 → A = 0x8000000000000000 → B = BitVec.allOnes 64 →
      exec (.sdiv nx d a b x) s = put 0x8000000000000000 ∧ exec (.srem nx d a b x) s = put 0) ∧
    (∀ j ∈ [Instr.sadd nx d a b, .ssub nx d a b, .smul nx d a b, .smulh nx d a b x, .sdiv nx d a b x, .srem nx d a b x,
        .sand nx d a b, .sor nx d a b, .sxor nx d a b, .sshl nx d a b, .sshr nx d a b, .ssra nx d a b, .smin nx d a b x,
        .smax nx d a b x, .ssel nx d a b, .smov nx d a, .sclz nx d a, .spopc nx d a, .saddr nx d a b x],
      ∃ v, exec j s = put v)

/-- R199, R202, R203: one-operand and immediate scalar instructions write sD; a bit field that leaves the register is
ILLEGAL_OP. -/
def Claims.ScalarImmediate : Prop :=
  ∀ (nx : NX) (d a : BitVec 7) (i8 : BitVec 8) (i15 : BitVec 15) (c : BitVec 6) (lo w : BitVec 4) (s : State),
    groupReady nx s → d.toNat < 64 → a.toNat < 64 →
    let A := sget s a.toNat
    let D := sget s d.toNat
    let put : BitVec 64 → Out := fun v => .next (after nx 4 (sput s d.toNat v))
    exec (.saddi nx d a i8) s = put (A + i8.signExtend 64) ∧
    exec (.sli nx d i15) s = put (i15.signExtend 64) ∧
    exec (.slih nx d i15) s = put (BitVec.ofNat 64 (D.toNat * 2 ^ 15 + i15.toNat)) ∧
    exec (.smov nx d a) s = put A ∧
    exec (.sclz nx d a) s = put (BitVec.ofNat 64 (if A = 0 then 64 else 63 - Nat.log2 A.toNat)) ∧
    exec (.spopc nx d a) s = put (BitVec.ofNat 64 ((List.range 64).countP (fun n => A.getLsbD n))) ∧
    exec (.sshli nx d a c) s = put (A <<< c.toNat) ∧
    exec (.sshri nx d a c) s = put (A >>> c.toNat) ∧
    exec (.ssrai nx d a c) s = put (A.sshiftRight c.toNat) ∧
    (1 ≤ i8.toNat → i8.toNat ≤ 64 →
      exec (.ssext nx d a i8) s = put (BitVec.ofInt 64 (signExt A.toNat i8.toNat))) ∧
    (4 * lo.toNat + 4 * (w.toNat + 1) ≤ 64 →
      exec (.sbfx nx d a lo w) s = put (BitVec.ofNat 64 (A.toNat / 2 ^ (4 * lo.toNat) % 2 ^ (4 * (w.toNat + 1)))) ∧
      exec (.sbfi nx d a lo w) s = put (BitVec.ofNat 64
        (setBits D.toNat (4 * lo.toNat) (4 * (w.toNat + 1)) A.toNat))) ∧
    (64 < 4 * lo.toNat + 4 * (w.toNat + 1) →
      exec (.sbfx nx d a lo w) s = .next (raise s (fx .illegalOp)) ∧
      exec (.sbfi nx d a lo w) s = .next (raise s (fx .illegalOp)))

/-- R201: SCMP writes the outcome of its condition to kD in every lane of L and to no other bit; condition codes 6 and 7
raise ILLEGAL_OP. -/
def Claims.ScalarCompare : Prop :=
  ∀ (nx : NX) (c k : BitVec 3) (a b : BitVec 7) (x : BitVec 1) (s : State), groupReady nx s → a.toNat < 64 → b.toNat < 64 →
    let u := xval x (sget s a.toNat)
    let v := xval x (sget s b.toNat)
    let put := fun (o : Bool) =>
      ∃ ks, exec (.scmp nx c k a b x) s = .next (after nx 4 (withK s ks)) ∧ PredHolds s k.toNat (fun _ => o) ks
    (c = 0 → put (decide (u = v))) ∧ (c = 1 → put (decide (u ≠ v))) ∧ (c = 2 → put (decide (u < v))) ∧
    (c = 3 → put (decide (u ≤ v))) ∧ (c = 4 → put (decide (v < u))) ∧ (c = 5 → put (decide (v ≤ u))) ∧
    (6 ≤ c.toNat → exec (.scmp nx c k a b x) s = .next (raise s (fx .illegalOp)))

/-- R205: SLD reads the 8 bytes at sA + 8 × offset, little-endian, into sD, lk, ls or lc; SST stores the selected
register there. A misaligned address raises ALIGN and nothing else happens, and so does a loaded lk or ls that is misaligned, at the address
accessed (log 68). The bounded lines of the access are drained first (R131). -/
def Claims.ScalarMemory : Prop :=
  ∀ (nx : NX) (d a : BitVec 7) (i : BitVec 8) (s : State), isStream s = false → a.toNat < 64 → d.toNat ≤ 66 →
    let va := (sget s a.toNat + BitVec.ofInt 64 (8 * signExt i.toNat 8)).toNat
    let acc : LaneAcc := ⟨0xFF, va, 8⟩
    let s1 := drainAcc s [acc] .read
    let v := BitVec.ofNat 64 (loadAcc s1 acc)
    let s2 := storeAcc (drainAcc s [acc] .write) acc
      (if d.toNat < 64 then sget s d.toNat else if d.toNat = 64 then s.split.lk else if d.toNat = 65 then s.split.ls
       else s.split.lc).toNat
    (accessFx s [acc] .read = none → (d.toNat = 64 ∨ d.toNat = 65 → v.toNat % 4 = 0) →
      nxFault nx 4 (selPut s1 d.toNat v) = none → exec (.sld nx d a i) s = .next (after nx 4 (selPut s1 d.toNat v))) ∧
    (accessFx s [acc] .write = none → nxFault nx 4 s2 = none → exec (.sst nx d a i) s = .next (after nx 4 s2)) ∧
    (va % 8 ≠ 0 → nxFault nx 4 (selPut s1 d.toNat v) = none → nxFault nx 4 s2 = none →
      exec (.sld nx d a i) s = .next (raise s ⟨.align, 0, 0xFF, va, false, 0⟩) ∧
      exec (.sst nx d a i) s = .next (raise s ⟨.align, 0, 0xFF, va, true, 0⟩)) ∧
    (d.toNat = 64 ∨ d.toNat = 65 → v.toNat % 4 ≠ 0 → accessFx s [acc] .read = none → nxFault nx 4 (selPut s1 d.toNat v) = none →
      exec (.sld nx d a i) s = .next (raise s ⟨.align, 0, 0xFF, va, false, 0⟩))

/-- R206, R207, R208: SRD reads the special register that its selector names into sD, zero-extended; SWR writes a format register of the crew, or
ls, lc or lk of the issuing split, and raises ALIGN at an ls or lk with a low bit set, with that value as ADDR (log 68). Selector 0, %lane, and
every other number raise ILLEGAL_OP, and so does an SWR to a register that is only read. -/
def Claims.SpecialRegisters : Prop :=
  ∀ (nx : NX) (d : BitVec 7) (i : BitVec 15) (s : State), isStream s = false → d.toNat < 64 →
    let D := sget s d.toNat
    let read := fun (v : BitVec 64) => exec (.srd nx d i) s = .next (after nx 4 (sput s d.toNat v))
    let write := fun (t : State) => nxFault nx 4 t = none → exec (.swr nx d i) s = .next (after nx 4 t)
    let other := i.toNat = 0 ∨ 0x00A < i.toNat ∧ i.toNat < 0x010 ∨ 0x022 < i.toNat
    (nxFault nx 4 s = none →
      (i = 0x001 → read (BitVec.ofNat 64 s.grp.no)) ∧ (i = 0x002 → read (BitVec.ofNat 64 s.crew.no)) ∧
      (i = 0x003 → read s.gang.no) ∧ (i = 0x004 → read (BitVec.ofNat 64 s.crew.core)) ∧
      (i = 0x005 → read (BitVec.ofNat 64 (s.crew.core / 8))) ∧ (i = 0x006 → read (BitVec.ofNat 64 (s.crew.core / 96))) ∧
      (i = 0x007 → read (BitVec.ofNat 64 ((s.grp.sib.map (·.2)).getD 0))) ∧ (i = 0x008 → read ((sadvOf s).setWidth 64)) ∧
      (i = 0x009 → read s.clock) ∧ (∀ c, i = 0x00A → aget s.ctxs s.gang.ctx = some c → read c.ctxtime) ∧
      (∀ n < 16, i.toNat = 0x010 + n → read ((s.crew.f.get n).setWidth 64)) ∧
      (i = 0x020 → read s.split.ls) ∧ (i = 0x021 → read s.split.lc) ∧ (i = 0x022 → read s.split.lk)) ∧
    (other → exec (.srd nx d i) s = .next (raise s (fx .illegalOp))) ∧
    (∀ n < 16, i.toNat = 0x010 + n → write { s with crew := { s.crew with f := s.crew.f.put n (D.setWidth 32) } }) ∧
    (i = 0x020 → D.toNat % 4 = 0 → write { s with split := { s.split with ls := D } }) ∧
    (i = 0x021 → write { s with split := { s.split with lc := D } }) ∧
    (i = 0x022 → D.toNat % 4 = 0 → write { s with split := { s.split with lk := D } }) ∧
    (i = 0x020 ∨ i = 0x022 → D.toNat % 4 ≠ 0 →
      exec (.swr nx d i) s = .next (raise s ⟨.align, 10, 0xFF, D.toNat, false, 0⟩)) ∧
    (i.toNat < 0x010 ∨ 0x022 < i.toNat → exec (.swr nx d i) s = .next (raise s (fx .illegalOp)))

/-- R152, R206: %sadv is the advantage of the issuing sibling once its entry is complete, and the canonical NaN before that and in a group that
is no sibling. -/
def Claims.SadvReads : Prop :=
  ∀ (s : State),
    (s.grp.sib = none → sadvOf s = 0x7FC00000) ∧
    (∀ e i x, s.grp.sib = some (e, i) → sgOf s (s.crew.core / 8) e = some x →
      sadvOf s = if x.complete then x.adv.get i else 0x7FC00000)

/-- R210, R211, R213, R214: CSRR reads the register that its number names and CSRW writes MARK; CNTR reads one of the core's counters; CLK reads
the core's arithmetic cycles, %clock or %ctxtime; SEED writes the generator of the issuing group's pipe, a zero as 1. Every other number raises
ILLEGAL_OP. -/
def Claims.CountersAndClocks : Prop :=
  ∀ (nx : NX) (d : BitVec 7) (i : BitVec 15) (s : State), groupReady nx s → d.toNat < 64 →
    let D := sget s d.toNat
    let p := s.gang.pkt
    let n := i.toNat
    let stat := s.reg (regCLSTAT (s.crew.core / 8))
    let read := fun (j : Instr) (v : BitVec 64) => exec j s = .next (after nx 4 (sput s d.toNat v))
    let csr := fun (v : Nat) => read (.csrr nx d i) (BitVec.ofNat 64 v)
    let illegal := fun (j : Instr) => exec j s = .next (raise s (fx .illegalOp))
    (n = 0 → csr (0x07 + 2 ^ 8 * (if Config.lmod then 1 else 0) + 2 ^ 12 * Config.step.toNat)) ∧
    (n = 1 → csr p.gx) ∧ (n = 2 → csr p.gy) ∧ (n = 3 → csr p.gz) ∧
    (n = 4 → csr (16 * p.regs + 2 ^ 8 * p.crew + 2 ^ 13 * p.gang + 2 ^ 17 * p.prio + 2 ^ 20 * p.accs + 2 ^ 23 * p.slots + 2 ^ 28 * p.spad +
      2 ^ 37 * p.spawn)) ∧
    (n = 5 → csr s.gang.ctx) ∧
    (∀ c, n = 6 → aget s.ctxs s.gang.ctx = some c →
      csr (3 * c.part + 2 ^ 8 * (if c.psize = 0 then 3 else if c.psize = 1 then 6 else if c.psize = 2 then 12 else 24))) ∧
    (n = 7 → csr (stat / 2 ^ 10 % 4)) ∧ (n = 8 → csr (stat % 2 ^ 10)) ∧ (n = 0x10 → read (.csrr nx d i) s.grp.mark) ∧
    (8 < n ∧ n ≠ 0x10 → illegal (.csrr nx d i)) ∧
    (n = 0x10 → exec (.csrw nx d i) s = .next (after nx 4 { s with grp := { s.grp with mark := D } })) ∧
    (n ≠ 0x10 → illegal (.csrw nx d i)) ∧
    (n < 6 ∨ 0x10 ≤ n ∧ n < 0x18 ∨ 0x20 ≤ n ∧ n < 0x24 → read (.cntr nx d i) ((coreOf s s.crew.core).cnt.get n)) ∧
    (¬(n < 6 ∨ 0x10 ≤ n ∧ n < 0x18 ∨ 0x20 ≤ n ∧ n < 0x24) → illegal (.cntr nx d i)) ∧
    (n = 0 → read (.clk nx d i) (BitVec.ofNat 64 (coreCycles s s.crew.core))) ∧ (n = 1 → read (.clk nx d i) s.clock) ∧
    (∀ c, n = 2 → aget s.ctxs s.gang.ctx = some c → read (.clk nx d i) c.ctxtime) ∧ (3 ≤ n → illegal (.clk nx d i)) ∧
    (let x := coreOf s s.crew.core
     let v : BitVec 32 := if D.setWidth 32 = 0 then 1 else D.setWidth 32
     let y := { x with gen := x.gen.set (s.grp.slot % 4) v }
     exec (.seed nx d) s = .next (after nx 4 { s with cores := aput s.crew.core y s.cores }))

/-! ## Control -/

/-- R38, R161: what NX does to the issuer. SEQ goes on behind the word; LOOP goes back to ls while lc is not zero and
counts lc down; XFER of a stream goes to the armed target, or on when it is armed as not taken, and nothing is armed
afterwards; END of a group's split ends its lanes, and END of a stream begins its ending. -/
def Claims.NextAddress : Prop :=
  ∀ (len : Nat) (t : State),
    pcOf (after .seq len t) = pcOf t + BitVec.ofNat 64 len ∧
    (lcOf t = 0 → pcOf (after .loop len t) = pcOf t + BitVec.ofNat 64 len ∧ lcOf (after .loop len t) = 0) ∧
    (lcOf t ≠ 0 → pcOf (after .loop len t) = lsOf t ∧ lcOf (after .loop len t) = lcOf t - 1) ∧
    (isStream t = true → ∀ a, armedOf t = some a →
      pcOf (after .xfer len t) = (aget a.tgts 0).getD (pcOf t + BitVec.ofNat 64 len) ∧ armedOf (after .xfer len t) = none) ∧
    (isStream t = false → (after .fin len t).split.mask = 0 ∧
      ∀ th ∈ threadsOf t.grp t.split.mask, th ∈ (after .fin len t).crew.ended) ∧
    (isStream t = true → (after .fin len t).crew.strm.st = .ending)

/-- R39, R40: an XFER whose armed transfer takes every lane of the split to one target moves the whole split there: its
lanes stay together, nothing is armed afterwards, and a call leaves the address of the next word in lk. The split merges
with no other (R38) when none stands at that address with the same ls, lc and lk. -/
def Claims.XferTogether : Prop :=
  ∀ (len : Nat) (t : State) (a : Armed) (tgt : BitVec 64), isStream t = false → armedOf t = some a → t.split.mask ≠ 0 →
    (∀ p ∈ lanesOf t.split.mask, aget a.tgts p = some tgt) → t.grp.splits.length < 4 →
    let lk := if a.call then t.split.pc + BitVec.ofNat 64 len else t.split.lk
    (∀ x ∈ t.grp.splits, mergesInto t.split ⟨tgt, lk, t.split.mask⟩ x = false) →
    (after .xfer len t).split =
      { t.split with pc := tgt, lk := lk, mask := t.split.mask, armed := none, hold := .none, cap := none } ∧
    (after .xfer len t).grp.splits = t.grp.splits ∧ (after .xfer len t).crew.recs = t.crew.recs

/-- R40, R41: at an XFER every lane of the split is afterwards in a split at its target, or has left a record there with its v registers and
MODE. Paths that merge with no split become splits while four are enough, else the paths of fewest lanes, of equal counts those of higher
targets, leave as many records as they have lanes, and four splits stand; with no room for the records XFER raises SPAWN_FULL. A path at the
address of another free split with the same ls, lc and lk joins it. -/
def Claims.XferSplits : Prop :=
  ∀ (len : Nat) (t : State) (a : Armed), isStream t = false → armedOf t = some a → t.split.mask ≠ 0 → t.grp.splits.length ≤ 3 →
    let u := after .xfer len t
    let nxt := t.split.pc + BitVec.ofNat 64 len
    let goes := fun (p : Nat) => (aget a.tgts p).getD nxt
    let ps := pathsOf t.split a nxt
    let mk := fun (q : Path) => { t.split with pc := q.pc, lk := q.lk, mask := q.mask, armed := none, hold := .none, cap := none }
    let alone := ∀ q ∈ ps, ∀ x ∈ t.grp.splits, mergesInto t.split q x = false
    (∀ p ∈ lanesOf t.split.mask, (∃ x ∈ u.split :: u.grp.splits, x.mask.getLsbD p = true ∧ x.pc = goes p) ∨
      ∃ r ∈ u.crew.recs, r.pc = goes p ∧ r.mode = t.grp.mode ∧ r.v = (List.range (regsOf t)).map (fun n => vget t n p)) ∧
    (alone → t.grp.splits.length + ps.length ≤ 4 →
      ∃ q qs, ps = q :: qs ∧ u.split = mk q ∧ u.grp.splits = t.grp.splits ++ qs.map mk ∧ u.crew.recs = t.crew.recs) ∧
    (alone → 4 < t.grp.splits.length + ps.length → u.grp.splits.length = 3 ∧
      (∃ rs, u.crew.recs = t.crew.recs ++ rs ∧ ∃ ex : List Path, (∀ q ∈ ex, q ∈ ps) ∧ ex.length + 4 = t.grp.splits.length + ps.length ∧
        rs.length = (ex.map (fun q => laneCount q.mask)).foldl (· + ·) 0 ∧
        (∀ q ∈ ps, q ∉ ex → ∀ r ∈ ex, laneCount r.mask ≤ laneCount q.mask ∧
          (laneCount r.mask = laneCount q.mask → q.pc.toNat ≤ r.pc.toNat)) ∧
        (t.gang.pkt.spawn * 1024 < (t.crew.recs.length + rs.length) * (32 + 4 * regsOf t) → nxFault .xfer len t = some (fx .spawnFull) ∧
          (len = 4 → exec (.nop .xfer) t = .next (raise t (fx .spawnFull)))))) ∧
    (∀ tgt l x r, (∀ p ∈ lanesOf t.split.mask, aget a.tgts p = some tgt) → t.grp.splits = l ++ x :: r →
      (∀ y ∈ l, mergesInto t.split ⟨tgt, if a.call then nxt else t.split.lk, 0⟩ y = false) → x ∉ r →
      x.hold = .none → x.stop = none → x.armed = none → x.pc = tgt → x.ls = t.split.ls → x.lc = t.split.lc →
      x.lk = (if a.call then nxt else t.split.lk) →
      u.split.mask = 0 ∧ u.grp.splits = l ++ { x with mask := x.mask ||| t.split.mask } :: r ∧ u.crew.recs = t.crew.recs)

/-- R39, R191 to R193: the arming instructions arm the lanes of L toward their targets, and every other lane as not
taken; XJU needs one condition in all lanes of L, XBTAB raises BTAB_RANGE for the first lane whose index is beyond its list, and XRET and XJR raise
ALIGN at a target with a low bit set, with the target as ADDR (log 68). -/
def Claims.Arming : Prop :=
  ∀ (nx : NX) (k : BitVec 4) (o : BitVec 18) (a : BitVec 7) (w : List (BitVec 32)) (s : State), isStream s = false →
    let tgt := s.split.pc + BitVec.ofInt 64 (4 * signExt o.toNat 18)
    let cond := fun (p : Nat) => kget s (k.toNat % 8) p != k.getLsbD 3
    let armed := fun (call : Bool) (l : List Nat) (f : Nat → BitVec 64) =>
      setSplit s (fun x => { x with armed := some ⟨call, l.map (fun p => (p, f p))⟩ })
    let t1 := armed false ((active s).filter cond) (fun _ => tgt)
    let t2 := armed true (active s) (fun _ => tgt)
    let t3 := armed false (active s) (fun _ => s.split.lk)
    let t4 := armed false (active s) (fun _ => sget s a.toNat)
    let t5 := armed false (active s)
      (fun p => s.split.pc + BitVec.ofInt 64 (4 * signExt (w.getD (vget s a.toNat p).toNat 0).toNat 32))
    (nxFault nx 4 t1 = none → exec (.xj nx k o) s = .next (after nx 4 t1) ∧
      ((∀ p ∈ active s, ∀ q ∈ active s, cond p = cond q) → exec (.xju nx k o) s = .next (after nx 4 t1))) ∧
    ((∃ p ∈ active s, ∃ q ∈ active s, cond p ≠ cond q) → exec (.xju nx k o) s = .next (raise s (fx .nonuniform))) ∧
    (nxFault nx 4 t2 = none → exec (.xcall nx o) s = .next (after nx 4 t2)) ∧
    (s.split.lk.toNat % 4 = 0 → nxFault nx 4 t3 = none → exec (.xret nx) s = .next (after nx 4 t3)) ∧
    (a.toNat < 64 → (sget s a.toNat).toNat % 4 = 0 → nxFault nx 4 t4 = none → exec (.xjr nx a) s = .next (after nx 4 t4)) ∧
    (a.toNat < 64 → (sget s a.toNat).toNat % 4 ≠ 0 →
      exec (.xjr nx a) s = .next (raise s ⟨.align, 10, 0xFF, (sget s a.toNat).toNat, false, 0⟩)) ∧
    (a.toNat < regsOf s → (∀ p ∈ active s, (vget s a.toNat p).toNat < w.length) → nxFault nx (4 * (w.length + 1)) t5 = none →
      exec (.xbtab nx a w) s = .next (after nx (4 * (w.length + 1)) t5)) ∧
    (∀ p, a.toNat < regsOf s → (active s).find? (fun q => decide (w.length ≤ (vget s a.toNat q).toNat)) = some p →
      exec (.xbtab nx a w) s = .next (raise s { fx .btabRange with lane := p })) ∧
    (s.split.lk.toNat % 4 ≠ 0 → exec (.xret nx) s = .next (raise s ⟨.align, 10, 0xFF, s.split.lk.toNat, false, 0⟩))

/-- R39, R171: NX = XFER with nothing armed raises XFER_UNARMED, and the instruction has no effect, memory access or wait; shown of NOP, of scalar,
vector, predicate, memory and barrier instructions of groups, and of instructions of streams. -/
def Claims.XferUnarmed : Prop :=
  ∀ (s : State) (d a b : BitVec 7) (x : BitVec 1) (i8 : BitVec 8) (i15 : BitVec 15) (c : BitVec 6), armedOf s = none →
    let unarmed := fun (j : Instr) => exec j s = .next (raise s (fx .xferUnarmed))
    unarmed (.nop .xfer) ∧
    (isStream s = false → d.toNat < 64 → a.toNat < 64 → b.toNat < 64 →
      ∀ j ∈ [Instr.sadd .xfer d a b, .ssub .xfer d a b, .smul .xfer d a b, .smulh .xfer d a b x, .sdiv .xfer d a b x, .srem .xfer d a b x,
          .sand .xfer d a b, .sor .xfer d a b, .sxor .xfer d a b, .sshl .xfer d a b, .sshr .xfer d a b, .ssra .xfer d a b,
          .smin .xfer d a b x, .smax .xfer d a b x, .saddr .xfer d a b x, .ssel .xfer d a b, .saddi .xfer d a i8, .sli .xfer d i15,
          .slih .xfer d i15, .smov .xfer d a, .sclz .xfer d a, .spopc .xfer d a, .sshli .xfer d a c, .sshri .xfer d a c, .ssrai .xfer d a c,
          .sld .xfer d a i8, .sst .xfer d a i8, .yield .xfer], unarmed j) ∧
    (isStream s = false → d.toNat < regsOf s → a.toNat < regsOf s → b.toNat < regsOf s →
      ∀ j ∈ [Instr.vand .xfer d a b 0, .vor .xfer d a b 0, .vxor .xfer d a b 0, .vnot .xfer d a, .vmovV .xfer d a, .vli .xfer d i15,
          .vshfl .xfer d a b 0], unarmed j) ∧
    (isStream s = false → d.toNat < 8 → a.toNat < 8 → b.toNat < 8 →
      ∀ j ∈ [Instr.kand .xfer d a b x, .kor .xfer d a b x, .kxor .xfer d a b x, .knot .xfer d a, .kmov .xfer d a, .kany .xfer d a,
          .kall .xfer d a, .kcnt .xfer d a, .kbits .xfer d a], unarmed j) ∧
    (a.toNat < 16 → ∀ j ∈ [Instr.bara .xfer a, .barw .xfer a, .baraw .xfer a], unarmed j) ∧
    (isStream s = true → d.toNat < 32 → a.toNat < 32 → b.toNat < 32 →
      ∀ j ∈ [Instr.emov .xfer d a, .eadd .xfer d a b, .esub .xfer d a b, .eshl .xfer d a c, .eshr .xfer d a c, .eli .xfer d i15,
          .elih .xfer d i15], unarmed j)

/-- R194, R195, R43: NOP does nothing but its NX, YIELD makes a flush point of the crew, and LPS puts the next address
into ls and the count into lc, in a group and in a stream. -/
def Claims.LoopsAndNops : Prop :=
  ∀ (nx : NX) (i : BitVec 15) (a : BitVec 6) (s : State),
    let t := fun (n : BitVec 64) => setLc (setLs s (pcOf s + 4)) n
    (nxFault nx 4 s = none → exec (.nop nx) s = .next (after nx 4 s)) ∧
    (groupReady nx s → exec (.yield nx) s = .next (after nx 4 (setOwn s flushPoint))) ∧
    (nxFault nx 4 (t (i.setWidth 64)) = none → exec (.lpsImm nx i) s = .next (after nx 4 (t (i.setWidth 64)))) ∧
    (isStream s = false → nxFault nx 4 (t (sget s a.toNat)) = none →
      exec (.lpsReg nx a) s = .next (after nx 4 (t (sget s a.toNat)))) ∧
    (isStream s = true → a.toNat < 32 → nxFault nx 4 (t (eget s a.toNat)) = none →
      exec (.lpsReg nx a) s = .next (after nx 4 (t (eget s a.toNat)))) ∧
    (isStream s = true → 32 ≤ a.toNat → exec (.lpsReg nx a) s = .next (raise s (fx .illegalOp)))

/-- R44: an RWAIT of a group from which no lane moves home completes when no member of its wait set is missing, and at once when
sA is zero; sD takes the number missing, the splits that wait there join, and a shortfall is a flush point. Otherwise the split
waits, with sA arithmetic cycles left (log 14). A launched group moves no lane. -/
def Claims.RwaitMeets : Prop :=
  ∀ (nx : NX) (d a : BitVec 7) (s : State), isStream s = false → d.toNat < 64 → a.toNat < 64 → moveLanes s = s →
    s.split.mask ≠ 0 → s.split.hold = .none →
    let n := rwaitMissing s
    let t := rwaitDone s d.toNat
    (n = 0 ∨ sget s a.toNat = 0 → nxFault nx 4 t = none → exec (.rwait nx d a) s = .next (after nx 4 t)) ∧
    (n ≠ 0 → sget s a.toNat ≠ 0 → nxFault nx 4 t = none →
      exec (.rwait nx d a) s = .next (setSplit s (fun x => { x with hold := .rwait d.toNat nx (sget s a.toNat).toNat }))) ∧
    sget t d.toNat = BitVec.ofNat 64 n ∧ t.split.mask = hereMask s ∧
    (∀ r, r ≠ d.toNat → sget t r = sget s r) ∧ (n ≠ 0 → t.crew = flushPoint s.crew) ∧ (n = 0 → t.crew = s.crew) ∧
    (∀ y : State, y.grp.formed = false → moveLanes y = y)

/-- R44: at an RWAIT of a former-built group each lane whose origin group waits in RWAIT at the same address moves to its original position there,
with its v and k, and joins the split that waits; it leaves its own group, and the lanes whose origin does not wait there stay. A split left with
no lane goes on as done; one with lanes left completes or waits as an RWAIT of a group from which no lane moves (log 14). -/
def Claims.RwaitMovesHome : Prop :=
  ∀ (nx : NX) (d a : BitVec 7) (s : State), isStream s = false → s.cur = .group → d.toNat < 64 → a.toNat < 64 →
    s.split.hold = .none → s.grp.formed = true →
    (∀ x ∈ s.crew.groups, x.2.key = x.1 ∧ (x.1 = s.grp.key → x.2.formed = true)) → (s.crew.groups.map (·.1)).Nodup →
    (∀ l ∈ lanesOf (groupMask s), ∃ th, aget s.grp.lanes l = some th ∧ th.lane < 32) →
    (∀ l l' th, aget s.grp.lanes l = some th → aget s.grp.lanes l' = some th → l = l') →
    let u := moveLanes s
    let moves := fun (l : Nat) (th : Thread) (o : Group) =>
      l ∈ lanesOf (groupMask s) ∧ aget s.grp.lanes l = some th ∧ homeOf s th s.split.pc = some o
    let arrives := fun (o : Group) (p : Nat) => ∃ l th, moves l th o ∧ th.lane = p
    (∀ l th o, moves l th o → th.sib = none ∧ o.no = th.origin ∧ o.formed = false ∧ o.splits.any (fun x => x.inRwait s.split.pc) = true) ∧
    (∃ m : BitVec 32, (∀ l, m.getLsbD l = true ↔ ∃ th o, moves l th o) ∧ u.split = { s.split with mask := s.split.mask &&& ~~~m } ∧
      u.grp = { s.grp with splits := s.grp.splits.map (fun x => { x with mask := x.mask &&& ~~~m }),
                           lanes := s.grp.lanes.filter (fun x => !m.getLsbD x.1) }) ∧
    (∀ l th o, moves l th o → ∃ h, aget u.crew.groups o.key = some h ∧
      (∀ r < regsOf s, h.v.get (32 * r + th.lane) = vget s r l) ∧ (∀ k < 8, (h.k.get k).getLsbD th.lane = kget s k l) ∧
      ∃ x y z m, o.splits = x ++ y :: z ∧ y.inRwait s.split.pc = true ∧ (∀ w ∈ x, w.inRwait s.split.pc = false) ∧
        h.splits = x ++ { y with mask := m } :: z ∧ (∀ p < 32, m.getLsbD p = true ↔ y.mask.getLsbD p = true ∨ arrives o p)) ∧
    (∀ key g, aget s.crew.groups key = some g → ∃ h, aget u.crew.groups key = some h ∧
      (∀ r p, p < 32 → ¬arrives g p ∨ regsOf s ≤ r → h.v.get (32 * r + p) = g.v.get (32 * r + p)) ∧
      (∀ k p, p < 32 → ¬arrives g p ∨ 8 ≤ k → (h.k.get k).getLsbD p = (g.k.get k).getLsbD p) ∧
      ((∀ p, ¬arrives g p) → h = g)) ∧
    (u.split.mask = 0 → nxFault nx 4 u = none → exec (.rwait nx d a) s = .next (after nx 4 u)) ∧
    (u.split.mask ≠ 0 →
      let n := rwaitMissing u
      let t := rwaitDone u d.toNat
      nxFault nx 4 t = none →
      (n = 0 ∨ sget s a.toNat = 0 → exec (.rwait nx d a) s = .next (after nx 4 t)) ∧
      (n ≠ 0 → sget s a.toNat ≠ 0 → exec (.rwait nx d a) s =
        .next (setSplit u (fun x => { x with hold := .rwait d.toNat nx (sget s a.toNat).toNat }))))

/-- R167, R198: SETMODE writes one field of MODE, or all of it from a register, and raises ILLEGAL_OP for a value that
MODE may not hold or a field that does not exist; GETMODE reads MODE, in a group and in a stream. -/
def Claims.ModeFields : Prop :=
  ∀ (nx : NX) (f d : BitVec 7) (i : BitVec 15) (s : State), nxFault nx 4 s = none →
    (f.toNat < 8 →
      let lo := (modeField f.toNat).1
      let w := (modeField f.toNat).2
      let m := BitVec.ofNat 32 (setBits (modeOf s).toNat lo w i.toNat)
      (i.toNat < 2 ^ w → modeLegal m = true → exec (.setmode nx f i) s = .next (after nx 4 (setMode s m))) ∧
      (2 ^ w ≤ i.toNat ∨ modeLegal m = false → exec (.setmode nx f i) s = .next (raise s (fx .illegalOp)))) ∧
    (f.toNat = 8 → i.toNat < iLimit s →
      let m := (iget s i.toNat).setWidth 32
      (modeLegal m = true → exec (.setmode nx f i) s = .next (after nx 4 (setMode s m))) ∧
      (modeLegal m = false → exec (.setmode nx f i) s = .next (raise s (fx .illegalOp)))) ∧
    (8 < f.toNat → exec (.setmode nx f i) s = .next (raise s (fx .illegalOp))) ∧
    (d.toNat < iLimit s → exec (.getmode nx d) s = .next (after nx 4 (iput s d.toNat ((modeOf s).setWidth 64))))

/-- R197: SETMODEV sets MODE from the one value that vA holds in every lane of L, leaves it with no lane in L, and raises
NONUNIFORM or ILLEGAL_OP. -/
def Claims.ModeFromLanes : Prop :=
  ∀ (nx : NX) (a : BitVec 7) (s : State), groupReady nx s → a.toNat < regsOf s →
    (active s = [] → exec (.setmodev nx a) s = .next (after nx 4 s)) ∧
    (∀ m, active s ≠ [] → (∀ p ∈ active s, vget s a.toNat p = m) →
      (modeLegal m = true → exec (.setmodev nx a) s = .next (after nx 4 (setGrp s (fun g => { g with mode := m })))) ∧
      (modeLegal m = false → exec (.setmodev nx a) s = .next (raise s (fx .illegalOp)))) ∧
    ((∃ p ∈ active s, ∃ q ∈ active s, vget s a.toNat p ≠ vget s a.toNat q) →
      exec (.setmodev nx a) s = .next (raise s (fx .nonuniform)))

/-! ## Exceptions -/

/-- R171, R357, R358: a precise fault stops the split or stream and stages one record for its context; the record holds
the cause, the address, the word's pc, the core, the group and the gang's number, MARK and the detail. Registers, MODE,
pc, memory and every other unit stay as they were. With the staging store of the die full the issuer only stalls. -/
def Claims.FaultEntry : Prop :=
  ∀ (s : State) (f : Fx) (c : Ctx), aget s.ctxs s.gang.ctx = some c →
    let t := raise s f
    (stagedFull s (dieOfCore s.crew.core) = true → t = { s with stalled := true }) ∧
    (stagedFull s (dieOfCore s.crew.core) = false →
      (∃ r : FRec, t.staged = s.staged ++ [r] ∧ r.dest = some s.gang.ctx ∧ r.cause = f.cause ∧ r.src = f.src ∧
        r.seq = c.recSeq ∧ r.pc = pcOf s ∧ r.core = s.crew.core ∧ r.lane = f.lane ∧ r.gang = s.gang.no ∧
        r.group = (if isStream s then 0xFF else s.grp.no) ∧ r.mark = (if isStream s then 0 else s.grp.mark) ∧
        r.detail = BitVec.ofNat 64 f.detail ∧ (f.src ≠ 10 ∨ f.addr ≠ 0 → r.addr = BitVec.ofNat 64 f.addr)) ∧
      (isStream s = true → t.crew.strm.stop = some (c.recSeq, f.cause) ∧ t.split = s.split ∧ t.crew.strm.e = s.crew.strm.e) ∧
      (isStream s = false → t.split.stop = some (c.recSeq, f.cause) ∧ t.crew = s.crew) ∧
      pcOf t = pcOf s ∧ modeOf t = modeOf s ∧ t.grp = s.grp ∧ bytesSame s t ∧ unitsSame s t ∧
      (aget t.ctxs s.gang.ctx).map (fun x => x.recSeq) = some (c.recSeq + 1))

/-- R117, R359: a PAGE fault holds the instruction at its pc under a replay identity; the first access to the page makes
the identity, the next number (log 73), and its record, a later one of the die and context joins it and stages nothing. -/
def Claims.PageSuspends : Prop :=
  ∀ (s : State) (f : Fx), f.cause = .page → f.busy = false → stagedFull s (dieOfCore s.crew.core) = false →
    let die := dieOfCore s.crew.core
    let t := takeFault s f
    pcOf t = pcOf s ∧ t.grp = s.grp ∧ bytesSame s t ∧
    (∀ w, s.pageWaits.find? (fun w => w.die = die && w.ctx = s.gang.ctx && w.page = f.addr / 4096) = some w →
      holdOf t = .page w.rid f ∧ t.staged = s.staged ∧ t.pageWaits = s.pageWaits) ∧
    (s.pageWaits.find? (fun w => w.die = die && w.ctx = s.gang.ctx && w.page = f.addr / 4096) = none →
      let rid := die * 2 ^ 31 + s.nextRid % 2 ^ 31
      holdOf t = .page rid f ∧ t.pageWaits = s.pageWaits ++ [⟨rid, die, s.gang.ctx, f.addr / 4096⟩] ∧
      t.staged.length = s.staged.length + 1)

/-- R196, R169: TRAP takes its exception with its code, BRK takes BREAK while the context's break enable is set and is a
NOP while it is clear, and a word with a reserved opcode takes ILLEGAL_OP. -/
def Claims.TrapsTaken : Prop :=
  ∀ (nx : NX) (code : BitVec 22) (w : BitVec 32) (s : State),
    exec (.trap nx code) s = .next (raise s { fx .trap with detail := code.toNat }) ∧
    (breakOn s = true → exec (.brk nx code) s = .next (raise s { fx .brk with detail := code.toNat })) ∧
    (breakOn s = false → nxFault nx 4 s = none → exec (.brk nx code) s = .next (after nx 4 s)) ∧
    exec (.reservedOpcode w) s = .next (raise s (fx .illegalOp))

/-- R168: an instruction of a class that its issuer is not of raises ILLEGAL_CONTEXT, whatever its operands. -/
def Claims.WrongIssuer : Prop :=
  ∀ (i : Instr) (op : Nat) (s : State), i.opcode = some op → (∀ w, i ≠ .reservedOpcode w) →
    (classOf op = .groups ∧ isStream s = true ∨ classOf op = .streams ∧ isStream s = false) →
    exec i s = .next (raise s (fx .illegalContext))

/-! ## Vector instructions -/

/-- R218, R220: vD := vA op B in each lane of L, element by element under MODE.ty; an integer result is wrapped or
saturated, a float result computed exactly and rounded once. The sign of
a zero product, of which R218 says nothing definite, is the model's choice (log 89). -/
def Claims.VectorArithmetic : Prop :=
  ∀ (nx : NX) (d a b : BitVec 7) (x : BitVec 1) (s : State), groupReady nx s → accIF (ty s) = true →
    vOk s (ty s) d.toNat = true → vOk s (ty s) a.toNat = true → bOk s (ty s) x b.toNat = true →
    let t := ty s
    let z := rdnOf s
    let put := fun (i : Instr) (fi : Int → Int → Int → Int) (fv : Val → Val → Val → Val) =>
      ∃ v, exec i s = .next (after nx 4 (withV s v)) ∧
        LanesHold s d.toNat (tyRegs t) (fun p =>
          pack t (map3 (arith s fi fv) (elems t (vop s t a.toNat p)) (elems t (bop s t x b.toNat p)) (elems t (vop s t d.toNat p)))) v
    put (.vadd nx d a b x) (fun u v _ => u + v) (fun u v _ => sumVals [u, v] z) ∧
    put (.vsub nx d a b x) (fun u v _ => u - v) (fun u v _ => sumVals [u, v.neg] z) ∧
    put (.vmul nx d a b x) (fun u v _ => u * v) (fun u v _ => u.mul v) ∧
    put (.vmad nx d a b x) (fun u v w => u * v + w) (fun u v w => sumVals [u.mul v, w] z) ∧
    put (.vmsb nx d a b x) (fun u v w => w - u * v) (fun u v w => sumVals [w, (u.mul v).neg] z) ∧
    put (.vmin nx d a b x) (fun u v _ => min u v) (fun u v _ => u.min v) ∧
    put (.vmax nx d a b x) (fun u v _ => max u v) (fun u v _ => u.max v)

/-- R220: under S32 and N32 without saturation, VADD, VSUB and VMUL are the operations modulo 2^32, lane by lane, and the
lanes outside L and all other registers keep their values. -/
def Claims.VectorWraps : Prop :=
  ∀ (nx : NX) (d a b : BitVec 7) (s : State), groupReady nx s → ty s ≤ 1 → satOf s.grp.mode = false →
    d.toNat < regsOf s → a.toNat < regsOf s → b.toNat < regsOf s →
    let put := fun (i : Instr) (f : BitVec 32 → BitVec 32 → BitVec 32) =>
      ∃ t, exec i s = .next (after nx 4 t) ∧ ∀ r p, p < 32 →
        vget t r p = if r = d.toNat ∧ p ∈ active s then f (vget s a.toNat p) (vget s b.toNat p) else vget s r p
    put (.vadd nx d a b 0) (· + ·) ∧ put (.vsub nx d a b 0) (· - ·) ∧ put (.vmul nx d a b 0) (· * ·)

/-- R220, R227: the one-operand element instructions, and the shifts and counts of integer types. -/
def Claims.VectorUnaryAndShifts : Prop :=
  ∀ (nx : NX) (d a b : BitVec 7) (x : BitVec 1) (s : State), groupReady nx s →
    vOk s (ty s) d.toNat = true → vOk s (ty s) a.toNat = true →
    let t := ty s
    let w := tyWidth t
    let put1 := fun (i : Instr) (f : Nat → Nat) =>
      ∃ v, exec i s = .next (after nx 4 (withV s v)) ∧
        LanesHold s d.toNat (tyRegs t) (fun p => pack t ((elems t (vop s t a.toNat p)).map f)) v
    let put2 := fun (i : Instr) (f : Nat → Nat → Nat) =>
      ∃ v, exec i s = .next (after nx 4 (withV s v)) ∧
        LanesHold s d.toNat (tyRegs t) (fun p =>
          pack t (List.zipWith f (elems t (vop s t a.toNat p)) (elems t (bop s t x b.toNat p)))) v
    (accIF t = true →
      put1 (.vabs nx d a) (fun e => arith s (fun u _ _ => u.natAbs) (fun u _ _ => u.abs) e 0 0) ∧
      put1 (.vneg nx d a) (fun e => arith s (fun u _ _ => -u) (fun u _ _ => u.neg) e 0 0)) ∧
    (isI t = true →
      put1 (.vclz nx d a) (fun e => clzN w e) ∧ put1 (.vpopc nx d a) (fun e => popN w e) ∧
      (bOk s t x b.toNat = true →
        put2 (.vshl nx d a b x) (fun e c => intRes s (tyFmt s t) (intOf (tyFmt s t) e * 2 ^ min c (w + 1))) ∧
        put2 (.vshr nx d a b x) (fun e c => e / 2 ^ min c w) ∧
        put2 (.vsra nx d a b x) (fun e c => wrapNat w (signExt e w / 2 ^ min c w))))

/-- R221, R222: VCMP writes kD from the outcomes of the elements, all of them or any of them, and refuses an unordered
compare of integers; VSEL takes A where the old element of vD is not zero, else B, with no bit above the format's width (R95). -/
def Claims.VectorCompareSelect : Prop :=
  ∀ (nx : NX) (c k : BitVec 3) (y x : BitVec 1) (d a b : BitVec 7) (s : State), groupReady nx s →
    vOk s (ty s) a.toNat = true → bOk s (ty s) x b.toNat = true →
    let t := ty s
    let o := fun (p : Nat) => ((elems t (vop s t a.toNat p)).zip (elems t (bop s t x b.toNat p))).map (fun e =>
      holds c.toNat (ordElem (ftzOf s.grp.mode) (tyFmt s t) e.1 e.2))
    (accIF t = true → c.toNat < 6 ∨ c.toNat = 6 ∧ isF t = true →
      ∃ ks, exec (.vcmp nx c y k a b x) s = .next (after nx 4 (withK s ks)) ∧
        PredHolds s k.toNat (fun p => if y = 1 then (o p).any id else (o p).all id) ks) ∧
    (accIF t = true → c.toNat = 7 ∨ c.toNat = 6 ∧ isF t = false →
      exec (.vcmp nx c y k a b x) s = .next (raise s (fx .illegalOp))) ∧
    (t ≤ 13 → qCheck s t = none → vOk s t d.toNat = true →
      ∃ v, exec (.vsel nx d a b x) s = .next (after nx 4 (withV s v)) ∧
        LanesHold s d.toNat (tyRegs t) (fun p => pack t (map3 (fun u w o => clean s t (if clean s t o ≠ 0 then u else w))
          (elems t (vop s t a.toNat p)) (elems t (bop s t x b.toNat p)) (elems t (vop s t d.toNat p)))) v)

/-- R223, R224, R225, R243: logic, moves, constants, lane identity, broadcasts and KTOV act on 32 bits of each lane of L
whatever MODE.ty holds. -/
def Claims.VectorLogicAndMoves : Prop :=
  ∀ (nx : NX) (d a b : BitVec 7) (x : BitVec 1) (i : BitVec 15) (s : State), groupReady nx s → d.toNat < regsOf s →
    let put := fun (j : Instr) (f : Nat → BitVec 32) =>
      ∃ v, exec j s = .next (after nx 4 (withV s v)) ∧ LanesHold s d.toNat 1 (fun p => (f p).toNat) v
    let B := fun (p : Nat) => if x = 0 then vget s b.toNat p else (sget s b.toNat).setWidth 32
    (a.toNat < regsOf s →
      ((if x = 0 then b.toNat < regsOf s else b.toNat < 64) →
        put (.vand nx d a b x) (fun p => vget s a.toNat p &&& B p) ∧
        put (.vor nx d a b x) (fun p => vget s a.toNat p ||| B p) ∧
        put (.vxor nx d a b x) (fun p => vget s a.toNat p ^^^ B p) ∧
        put (.vshfl nx d a b x) (fun p => vget s a.toNat ((B p).toNat % 32))) ∧
      put (.vnot nx d a) (fun p => ~~~ vget s a.toNat p) ∧ put (.vmovV nx d a) (fun p => vget s a.toNat p)) ∧
    (b.toNat < 64 → put (.vmovS nx d b) (fun _ => (sget s b.toNat).setWidth 32)) ∧
    put (.vli nx d i) (fun _ => i.signExtend 32) ∧
    (a.toNat = 0 → put (.vlane nx d a) (fun p => BitVec.ofNat 32 (((aget s.grp.lanes p).map (fun t => t.lane)).getD p))) ∧
    (a.toNat = 1 → put (.vlane nx d a) (fun p => BitVec.ofNat 32 p)) ∧
    (a.toNat = 2 → put (.vlane nx d a) (fun p => BitVec.ofNat 32 (4 * p))) ∧
    (2 < a.toNat → exec (.vlane nx d a) s = .next (raise s (fx .illegalOp))) ∧
    (a.toNat < 8 → put (.ktov nx d a) (fun p => if kget s a.toNat p then BitVec.allOnes 32 else 0))

/-- R224: VBCS writes sD with the 32 bits of vA at one position, named by the word or by the low five bits of sB, whether
that lane is active or not. -/
def Claims.VectorBroadcast : Prop :=
  ∀ (nx : NX) (d a b : BitVec 7) (q : BitVec 5) (s : State), groupReady nx s → d.toNat < 64 → a.toNat < regsOf s →
    exec (.vbcsImm nx d a q) s = .next (after nx 4 (sput s d.toNat ((vget s a.toNat q.toNat).setWidth 64))) ∧
    (b.toNat < 64 → exec (.vbcsReg nx d a b) s =
      .next (after nx 4 (sput s d.toNat ((vget s a.toNat ((sget s b.toNat).toNat % 32)).setWidth 64))))

/-- R226, R241: the dot products add the exact products of the elements to the 32-bit accumulator vD once; VSAD adds the absolute differences;
VSPDOT multiplies the kept elements with the dense elements that the bitmap in v(A+1) names. The sign of a zero product under a float type is the
model's choice (log 89). -/
def Claims.VectorDots : Prop :=
  ∀ (nx : NX) (d a b : BitVec 7) (x : BitVec 1) (s : State), groupReady nx s → d.toNat < regsOf s → a.toNat < regsOf s →
    (if x = 0 then b.toNat < regsOf s else b.toNat < 64) →
    let t := ty s
    let f := tyFmt s t
    let sg := tySigned t
    let put := fun (j : Instr) (g : Nat → Nat) =>
      ∃ v, exec j s = .next (after nx 4 (withV s v)) ∧ LanesHold s d.toNat 1 g v
    let pairs := fun (p : Nat) => (elems t (vop s t a.toNat p)).zip (elems t (bop s t x b.toNat p))
    let acc := fun (sgn : Bool) (p : Nat) (r : Int) =>
      intRes s (.int sgn 32) (intOf (.int sgn 32) (vget s d.toNat p).toNat + r)
    let prod := fun (p : Nat) => sumInts ((pairs p).map (fun c => intOf f c.1 * intOf f c.2))
    (t = 4 ∨ t = 5 ∨ t = 12 ∨ t = 13 →
      put (.vdot4 nx d a b x) (fun p => acc sg p (prod p)) ∧
      put (.vsad nx d a b x) (fun p => acc false p (sumInts ((pairs p).map (fun c => ((intOf f c.1 - intOf f c.2).natAbs : Int)))))) ∧
    (t = 2 ∨ t = 3 → put (.vdot2 nx d a b x) (fun p => acc sg p (prod p))) ∧
    (t = 7 ∨ t = 8 → put (.vdot2 nx d a b x) (fun p =>
      fltRes s (.flt fmtF32) (sumVals (inVal s (.flt fmtF32) (vget s d.toNat p).toNat ::
        (pairs p).map (fun c => (inVal s f c.1).mul (inVal s f c.2))) (rdnOf s)))) ∧
    (t = 4 ∨ t = 5 → a.toNat + 1 < regsOf s → (if x = 0 then b.toNat + 1 < regsOf s else b.toNat + 1 < 64) →
      ((∀ p ∈ active s, popN 8 (vget s (a.toNat + 1) p).toNat ≤ 4) →
        put (.vspdot nx d a b x) (fun p =>
          let dense := elems t (bRaw s x b.toNat p).toNat ++ elems t (bRaw s x (b.toNat + 1) p).toNat
          acc sg p (sumInts (((elems t (vget s a.toNat p).toNat).zip (bitPositions ((vget s (a.toNat + 1) p).toNat % 256))).map
            (fun e => intOf f e.1 * intOf f (dense.getD e.2 0)))))) ∧
      (∀ p ∈ active s, 4 < popN 8 (vget s (a.toNat + 1) p).toNat → (∀ q ∈ active s, q < p →
        popN 8 (vget s (a.toNat + 1) q).toNat ≤ 4) →
        exec (.vspdot nx d a b x) s = .next (raise s { fx .metaMalformed with lane := p })))

/-- R242: VNZC counts the elements that are not zero codes, VNZB sets a bit for each of them, VTERM sums the terms. That VNZC and VNZB take any vD
under F64, where R89 asks an even register of an F64 operand, is the model's choice (log 90). -/
def Claims.VectorCounts : Prop :=
  ∀ (nx : NX) (d a : BitVec 7) (s : State), groupReady nx s → d.toNat < regsOf s → vOk s (ty s) a.toNat = true →
    ty s ≤ 13 → qCheck s (ty s) = none →
    let t := ty s
    let f := tyFmt s t
    let put := fun (j : Instr) (g : List Nat → Nat) =>
      ∃ v, exec j s = .next (after nx 4 (withV s v)) ∧ LanesHold s d.toNat 1 (fun p => g (elems t (vop s t a.toNat p))) v
    put (.vnzc nx d a) (fun l => (l.filter (nonzeroCode f)).length) ∧
    put (.vnzb nx d a) (fun l => packN 1 (l.map (fun c => if nonzeroCode f c then 1 else 0))) ∧
    (t ≠ 11 → put (.vterm nx d a) (fun l => (l.map (termsOf s f)).foldl (· + ·) 0))

/-- R228, R229: the transcendental functions write each element of vD from the element of vA: rounded once from the exact
result under F16 and B16, an exact zero with the sign that R218 gives it, but VCOS's zero always +0, and under F32 as `transF32` gives it
(log 7). -/
def Claims.VectorTranscendental : Prop :=
  ∀ (nx : NX) (d a : BitVec 7) (s : State), groupReady nx s → ty s = 6 ∨ ty s = 7 ∨ ty s = 8 →
    d.toNat < regsOf s → a.toNat < regsOf s →
    let t := ty s
    let f := tyFmt s t
    let res := fun (op c : Nat) =>
      if t = 6 then encodeFlt (flushVal (ftzOf s.grp.mode) fmtF32 (transF32 s.grp.mode op c (inVal s f c))) fmtF32
      else fltRes s f (match inVal s f c, trans op (inVal s f c) with
        | .num _, .zero z => .zero (if op = 0x4E then z else op ≠ 0x4F && rdnOf s)
        | _, r => r)
    let put := fun (j : Instr) (op : Nat) =>
      ∃ v, exec j s = .next (after nx 4 (withV s v)) ∧
        LanesHold s d.toNat 1 (fun p => pack t ((elems t (vop s t a.toNat p)).map (res op))) v
    put (.vrcp nx d a) 0x4A ∧ put (.vrsq nx d a) 0x4B ∧ put (.vexp2 nx d a) 0x4C ∧ put (.vlog2 nx d a) 0x4D ∧
    put (.vsin nx d a) 0x4E ∧ put (.vcos nx d a) 0x4F ∧
    (∀ (c : Nat) (e : Dy) (z : Bool), inVal s f c = .num e → t ≠ 6 → Machine.trans 0x4F (Val.num e) = Val.zero z → res 0x4F c = 0)

/-- R105, R106, R230 to R235: conversion, packing, unpacking, requantisation, rounding shifts and block scales. A converting instruction advances
the generator of its pipe when it rounds stochastically. The sign of a zero product in VRQ is the model's choice (log 89). -/
def Claims.VectorConversion : Prop :=
  ∀ (nx : NX) (d a b : BitVec 7) (x : BitVec 1) (sel : BitVec 3) (st : BitVec 4) (s : State), groupReady nx s → ty s ≤ 13 →
    let t := ty s
    let put := fun (j : Instr) (n : Nat) (adv : Bool) (g : Nat → Nat) =>
      ∃ v, exec j s = .next (after nx 4 (if adv then advance (withV s v) else withV s v)) ∧ LanesHold s d.toNat n g v
    let ts := st.toNat
    let n := min (tyCount ts) (tyCount t)
    let q := if isQ ts then ts else t
    let pk := (packSrc t).getD 0
    let dOk := decide (d.toNat < regsOf s)
    let aOk := decide (a.toNat < regsOf s)
    let bOk1 := rawOk s x b.toNat
    (ts ≤ 13 → (isQ ts && isQ t) = false → vOk s t d.toNat = true → vOk s ts a.toNat = true → (isQ q = true → qCheck s q = none) →
      sel.toNat * n < max (tyCount ts) (tyCount t) →
      put (.vcvt nx d a sel st) (tyRegs t) true (fun p => vcvtLane s ts sel.toNat d.toNat a.toNat p)) ∧
    (packOk t = true → qCheck s t = none → dOk = true → aOk = true →
      (bOk1 = true → put (.vpack nx d a b x) 1 true (fun p => pack t
        (cvtList s (tyFmt s pk) (tyFmt s t) (tyCount t) p 0 (elems pk (vop s pk a.toNat p) ++ elems pk (bop s pk x b.toNat p))))) ∧
      (d.toNat + 1 < regsOf s → put (.vunpk nx d a) 2 false (fun p =>
        let wide := (elems t (vop s t a.toNat p)).map (cvt s (tyFmt s t) (tyFmt s pk) (rndOf s.grp.mode))
        pack pk (wide.take (tyCount t / 2)) % 2 ^ 32 + 2 ^ 32 * (pack pk (wide.drop (tyCount t / 2)) % 2 ^ 32)))) ∧
    (accRq t = true → qCheck s t = none → dOk = true → a.toNat + tyCount t ≤ regsOf s → bOk1 = true →
      put (.vrq nx d a b x) 1 true (fun p => vrqLane s a.toNat b.toNat x p)) ∧
    (isI t = true → vOk s t d.toNat = true → vOk s t a.toNat = true → bOk s t x b.toNat = true →
      put (.vrshr nx d a b x) 1 false (fun p => pack t (List.zipWith (fun e c => opRshr s e c 0)
        (elems t (vop s t a.toNat p)) (elems t (bop s t x b.toNat p))))) ∧
    (6 ≤ t → t ≤ 10 → qCheck s t = none → dOk = true → aOk = true → bOk1 = true →
      put (.vscl nx d a b x) 1 false (fun p => pack t
        (sclList s (tyFmt s t) (bRaw s x b.toNat p).toNat 0 (elems t (vop s t a.toNat p)))))

/-- R237 to R239: VSHFLI reads the source position of its mode; VRED puts the combination of the lanes of L into every
lane of L; VSCAN puts into each the combination of the lanes of L before it, or up to it. -/
def Claims.VectorAcrossLanes : Prop :=
  ∀ (nx : NX) (d a : BitVec 7) (m : BitVec 3) (c : BitVec 5) (e : BitVec 1) (o : BitVec 3) (s : State), groupReady nx s →
    let t := ty s
    let put := fun (j : Instr) (n : Nat) (g : Nat → Nat) =>
      ∃ v, exec j s = .next (after nx 4 (withV s v)) ∧ LanesHold s d.toNat n g v
    let src := fun (l : Nat) => if m = 0 then l ^^^ c.toNat else if m = 1 then (if l < c.toNat then l else l - c.toNat)
      else if m = 2 then (if 31 < l + c.toNat then l else l + c.toNat) else if m = 3 then (l + c.toNat) % 32 else c.toNat
    (d.toNat < regsOf s → a.toNat < regsOf s →
      (m.toNat ≤ 4 → put (.vshfli nx d a m c) 1 (fun p => (vget s a.toNat (src p)).toNat)) ∧
      (4 < m.toNat → exec (.vshfli nx d a m c) s = .next (raise s (fx .illegalOp)))) ∧
    (t ≤ 13 → vOk s t d.toNat = true → vOk s t a.toNat = true → o.toNat ≤ 5 → redAcc o.toNat t = true → (3 ≤ o.toNat → qCheck s t = none) →
      put (.vred nx d a o) (tyRegs t) (fun _ => combineLanes s o.toNat a.toNat (active s)) ∧
      put (.vscan nx d a e o) (tyRegs t) (fun p =>
        combineLanes s o.toNat a.toNat ((active s).filter (fun q => if e = 1 then q < p else q ≤ p)))) ∧
    (t ≤ 13 → vOk s t d.toNat = true → vOk s t a.toNat = true → 5 < o.toNat → (3 ≤ o.toNat → qCheck s t = none) →
      exec (.vred nx d a o) s = .next (raise s (fx .illegalOp)) ∧ exec (.vscan nx d a e o) s = .next (raise s (fx .illegalOp)))

/-- R240: VPRUNE acts on the groups of eight positions that lie whole in L: it writes the kept elements into vD and the
keep-bitmaps into v(D+1), keeping in each group as many elements as the budget says; a budget above 8 raises
META_MALFORMED. -/
def Claims.VectorPrune : Prop :=
  ∀ (nx : NX) (d a b : BitVec 7) (x : BitVec 1) (s : State), groupReady nx s → ty s ≤ 9 → qCheck s (ty s) = none →
    d.toNat + 1 < regsOf s → a.toNat < regsOf s → rawOk s x b.toNat = true →
    let t := ty s
    let k := tyCount t
    let bud := fun (j i : Nat) => (bRaw s x b.toNat (8 * j)).toNat / 2 ^ (8 * i) % 256
    ((∀ j ∈ fullGroups s, ∀ i < k, bud j i ≤ 8) →
      ∃ v, exec (.vprune nx d a b x) s = .next (after nx 4 (withV s v)) ∧
        ∀ r p, p < 32 → v.get (32 * r + p) =
          let maps := (List.range k).map (pruneMap s a.toNat b.toNat x (p / 8))
          if p / 8 ∈ fullGroups s ∧ r = d.toNat then BitVec.ofNat 32 (pack t
            (((elems t (vop s t a.toNat p)).zip maps).map (fun e => if e.2 / 2 ^ (p % 8) % 2 = 1 then clean s t e.1 else 0)))
          else if p / 8 ∈ fullGroups s ∧ r = d.toNat + 1 then BitVec.ofNat 32 (packN 8 maps)
          else vget s r p) ∧
    ((∃ j ∈ fullGroups s, ∃ i < k, 8 < bud j i) → ∃ j ∈ fullGroups s,
      exec (.vprune nx d a b x) s = .next (raise s { fx .metaMalformed with lane := 8 * j }))

/-- R240: the keep-bitmap of eight values keeps exactly as many of them as the budget says. -/
def Claims.PruneKeepsBudget : Prop :=
  ∀ (vs : List Val) (n : Nat), vs.length = 8 → n ≤ 8 → popN 8 (keepMap vs n) = n

/-- R243: the predicate instructions write kD in the lanes of L, the counting ones sD from the lanes of L. -/
def Claims.Predicates : Prop :=
  ∀ (nx : NX) (d a b : BitVec 7) (x : BitVec 1) (s : State), groupReady nx s →
    let put := fun (j : Instr) (g : Nat → Bool) =>
      ∃ ks, exec j s = .next (after nx 4 (withK s ks)) ∧ PredHolds s d.toNat g ks
    let A := kget s a.toNat
    let B := fun (p : Nat) => if x = 1 then !kget s b.toNat p else kget s b.toNat p
    let n := (active s).countP A
    let sw := fun (j : Instr) (v : BitVec 64) => exec j s = .next (after nx 4 (sput s d.toNat v))
    (d.toNat < 8 → a.toNat < 8 → b.toNat < 8 →
      put (.kand nx d a b x) (fun p => A p && B p) ∧ put (.kor nx d a b x) (fun p => A p || B p) ∧
      put (.kxor nx d a b x) (fun p => A p != B p)) ∧
    (d.toNat < 8 → a.toNat < 8 → put (.knot nx d a) (fun p => !A p) ∧ put (.kmov nx d a) A) ∧
    (d.toNat < 8 → a.toNat < regsOf s → put (.kfromv nx d a) (fun p => vget s a.toNat p ≠ 0)) ∧
    (d.toNat < 64 → a.toNat < 8 →
      sw (.kany nx d a) (if n = 0 then 0 else 1) ∧ sw (.kall nx d a) (if n = (active s).length then 1 else 0) ∧
      sw (.kcnt nx d a) (BitVec.ofNat 64 n) ∧
      (∃ v, exec (.kbits nx d a) s = .next (after nx 4 (sput s d.toNat v)) ∧
        ∀ p < 64, v.getLsbD p = (decide (p ∈ active s) && A p)))

/-! ## Memory -/

/-- R110, R246, R249: LD, LDI and LDW put into vD of each lane of L what memory holds at the lane's address, converted as
MODE says; the bounded lines of the accesses are drained first (R131), and a scratchpad's bank conflicts are counted (R326). -/
def Claims.VectorLoads : Prop :=
  ∀ (nx : NX) (d a b : BitVec 7) (i : BitVec 8) (s : State), groupReady nx s → ty s ≤ 13 → vOk s (ty s) d.toNat = true →
    a.toNat < 64 → memFmtCheck s = none →
    let w := memWidth s
    let put := fun (j : Instr) (addr : Nat → Nat) =>
      accessFx s (laneAccs s w addr) .read = none →
      let s1 := drainAcc s (laneAccs s w addr) .read
      ∃ v, exec j s = .next (after nx 4 (countBanks (allLocs s (laneAccs s w addr) .read) (withV s1 v))) ∧
        LanesHold s d.toNat (tyRegs (ty s)) (fun p => loadValue s (loadAcc s1 ⟨p, addr p, w⟩)) v
    let gather := fun (p : Nat) => (sget s a.toNat + (vget s b.toNat p).signExtend 64).toNat
    (b.toNat < regsOf s → put (.ld nx d a b) gather ∧ put (.ldw nx d a b) gather) ∧
    put (.ldi nx d a i) (fun p => (sget s a.toNat + BitVec.ofInt 64 ((w : Int) * (32 * signExt i.toNat 8 + (p : Int)))).toNat)

/-- R250, R251: LDT reads N parts per lane at sA + position × PITCH + part × w into consecutive registers; LDB reads 32
bits per lane after draining the bounded lines until they are within the tolerance. -/
def Claims.TileAndBoundedLoads : Prop :=
  ∀ (nx : NX) (d a b : BitVec 7) (s : State), groupReady nx s → ty s ≤ 13 →
    (a.toNat < 64 → b.toNat < 64 → vOk s (ty s) d.toNat = true → memFmtCheck s = none →
      let x := sget s b.toNat
      let as := (tileAccs s a.toNat x).map (·.1)
      x.toNat < 2 ^ 36 → d.toNat + tileN x * tyRegs (ty s) ≤ regsOf s → accessFx s as .read = none →
      let s1 := drainAcc s as .read
      ∃ v, exec (.ldt nx d a b) s = .next (after nx 4 (countBanks (allLocs s as .read) (withV s1 v))) ∧
        (∀ j < tileN x, ∀ r < tyRegs (ty s), ∀ p ∈ active s,
          v.get (32 * (d.toNat + j * tyRegs (ty s) + r) + p) = BitVec.ofNat 32 (loadValue s (loadAcc s1
            ⟨p, (sget s a.toNat + BitVec.ofInt 64 ((p : Int) * tilePitch x + (j * memWidth s : Nat))).toNat, memWidth s⟩)
              / 2 ^ (32 * r))) ∧
        (∀ r p, p < 32 → (p ∉ active s ∨ r < d.toNat ∨ d.toNat + tileN x * tyRegs (ty s) ≤ r) →
          v.get (32 * r + p) = vget s r p)) ∧
    (a.toNat < 63 → b.toNat < regsOf s → d.toNat < regsOf s →
      let as := laneAccs s 4 (gatherAddr s a.toNat b.toNat)
      accessFx s as .read = none →
      let s1 := (allLocs s as .read).foldl (fun s' l => match l with
        | .phys key _ (some i) => (match boundOf s' i with
          | some bd => drainWithin s' bd (lineKey key) ((sget s (a.toNat + 1)).setWidth 32)
          | none => s')
        | _ => s') s
      ∃ v, exec (.ldb nx d a b) s = .next (after nx 4 (countBanks (allLocs s as .read) (withV s1 v))) ∧
        LanesHold s d.toNat 1 (fun p => loadAcc s1 ⟨p, gatherAddr s a.toNat b.toNat p, 4⟩) v)

/-- R132: forced drains stop only when the allocated total of the line, its limit less what remains, is within the
tolerance; as many drains as the line has holders are enough. -/
def Claims.DrainsReachTolerance : Prop :=
  ∀ (s : State) (ln n : Nat) (limit tol : Dy) (x x' : Line), aget s.lines ln = some x → x.shares ≠ [] → x.shares.length ≤ n →
    aget (drainTo ln limit tol n s).lines ln = some x' → Dy.lt tol (limit.add x'.u.neg) = false

/-- R116, R249, R250: the vector stores write, in ascending lane order, the bytes that the registers give at the lanes'
addresses, and nothing else of memory: a byte that is none of the stored locations reads as it did once the bounded lines
of the accesses are drained. Under MODE.sr each part of an STT draws the same random bits (log 75). -/
def Claims.VectorStores : Prop :=
  ∀ (nx : NX) (d a b : BitVec 7) (i : BitVec 8) (s : State), groupReady nx s → ty s ≤ 13 → vOk s (ty s) d.toNat = true →
    a.toNat < 64 → memFmtCheck s = none →
    let w := memWidth s
    let put := fun (j : Instr) (as : List (LaneAcc × Nat)) =>
      accessFx s (as.map (·.1)) .write = none →
      exec j s = .next (after nx 4 (countBanks (allLocs s (as.map (·.1)) .write)
        (storeAdvance s (storeAll (drainAcc s (as.map (·.1)) .write) as))))
    let one := fun (addr : Nat → Nat) => (active s).map (fun p =>
      ((⟨p, addr p, w⟩ : LaneAcc), storeValue s p (vop s (ty s) d.toNat p)))
    let gather := fun (p : Nat) => (sget s a.toNat + (vget s b.toNat p).signExtend 64).toNat
    (b.toNat < regsOf s → put (.st nx d a b) (one gather) ∧ put (.stw nx d a b) (one gather)) ∧
    put (.sti nx d a i) (one (fun p =>
      (sget s a.toNat + BitVec.ofInt 64 ((w : Int) * (32 * signExt i.toNat 8 + (p : Int)))).toNat)) ∧
    (b.toNat < 64 →
      let x := sget s b.toNat
      x.toNat < 2 ^ 36 → d.toNat + tileN x * tyRegs (ty s) ≤ regsOf s →
      put (.stt nx d a b) ((active s).flatMap (fun p => (List.range (tileN x)).map (fun j =>
        ((⟨p, (sget s a.toNat + BitVec.ofInt 64 ((p : Int) * tilePitch x + (j * w : Nat))).toNat, w⟩ : LaneAcc),
          storeValue s p (vop s (ty s) (d.toNat + j * tyRegs (ty s)) p))))))

/-- R5, R116, R371, R373: a store at locations that are stored apart is read back by a load of the same locations, little-endian, and a byte of
memory or of a scratchpad that it spares reads as before; outside the compressed aperture, and with the bytes of one unit of encryption
written under one key. -/
def Claims.StoreThenLoad : Prop :=
  ∀ (s : State) (ls : List Loc) (v : Nat), (∀ l ∈ ls, l.plain) → (∀ c o, Loc.spad c o ∈ ls → (crewOf s c).isSome = true) →
    (ls.map (Loc.place s)).Nodup →
    (∀ l ∈ ls, ∀ m ∈ ls, (l.place s).1 = (m.place s).1 → (l.place s).2 / 32 = (m.place s).2 / 32 → l.sealed s = m.sealed s) →
    locsNat (locsPut s ls v) ls = v % 256 ^ ls.length ∧
    (∀ l : Loc, l.plain → (∀ m ∈ ls, Stored.spares (m.place s, m.sealed s) s l) → locGet (locsPut s ls v) l = locGet s l)

/-- R115, R252, R253, R254: the returning atomics translate every lane's address, then take the lanes in ascending order; each reads the old
value, stores the new one and returns the old one in vD. -/
def Claims.Atomics : Prop :=
  ∀ (nx : NX) (d a b : BitVec 7) (s : State), groupReady nx s → ty s ≤ 13 → vOk s (ty s) d.toNat = true →
    a.toNat < 64 → b.toNat < regsOf s → (isQ (ty s) = true → qCheck s (ty s) = none) →
    let t := ty s
    let as := laneAccs s (if t = 11 then 8 else 4) (fun p => (sget s a.toNat + (vget s b.toNat p).signExtend 64).toNat)
    accessRW s as = none →
    let all := as.map (fun x => (x, locsOr s x .write))
    let put := fun (j : Instr) (o : AtomOp) => o.accept t = true →
      exec j s = .next (after nx 4 (countBanks (allLocs s as .write) (all.foldl (fun s' x =>
        let s1 := drainFor s' x.2
        let old := locsNat s1 x.2
        vopPut t d.toNat x.1.lane old (locsPut (dirtyAcc s1 x.1) x.2 (o.apply t old (vop s t d.toNat x.1.lane)))) s)))
    put (.aadd nx d a b) .add ∧ put (.amin nx d a b) .min ∧ put (.amax nx d a b) .max ∧ put (.aand nx d a b) .and ∧
    put (.aor nx d a b) .or ∧ put (.axor nx d a b) .xor ∧ put (.axch nx d a b) .xch ∧
    (d.toNat + 2 * tyRegs t ≤ regsOf s → exec (.acas nx d a b) s =
      .next (after nx 4 (countBanks (allLocs s as .write) (all.foldl (fun s' x =>
        let s1 := drainFor s' x.2
        let old := locsNat s1 x.2
        vopPut t d.toNat x.1.lane old (if old = vop s t d.toNat x.1.lane then
          locsPut (dirtyAcc s1 x.1) x.2 (vop s t (d.toNat + tyRegs t) x.1.lane) else s1)) s))))

/-- R115, R252, R255, R256, R257: the reductions translate every lane's address, then take the lanes in ascending order and return nothing; on
memory without a bounded region each is the update of the atomic. RDX stores the value found at its delivery address and counts its bytes on
a barrier. -/
def Claims.Reductions : Prop :=
  ∀ (nx : NX) (d a b : BitVec 7) (s : State), groupReady nx s → ty s ≤ 13 → vOk s (ty s) d.toNat = true →
    a.toNat < 64 → b.toNat < regsOf s → (isQ (ty s) = true → qCheck s (ty s) = none) →
    let t := ty s
    let w := if t = 11 then 8 else 4
    let as := laneAccs s w (fun p => (sget s a.toNat + (vget s b.toNat p).signExtend 64).toNat)
    accessRW s as = none →
    let all := as.map (fun x => (x, locsOr s x .write))
    let put := fun (j : Instr) (o : AtomOp) => o.accept t = true →
      exec j s = .next (after nx 4 (countBanks (allLocs s as .write)
        (all.foldl (fun s' x => (reduceAcc s' o x (vop s t d.toNat x.1.lane)).1) s)))
    put (.rdadd nx d a b) .add ∧ put (.rdmin nx d a b) .min ∧ put (.rdmax nx d a b) .max ∧ put (.rdand nx d a b) .and ∧
    put (.rdor nx d a b) .or ∧ put (.rdxor nx d a b) .xor ∧
    (∀ o, rdxOp (sget s (a.toNat + 1)) = some o → (sget s (a.toNat + 1)).toNat < 256 → o.accept t = true → a.toNat < 63 →
      d.toNat + tyRegs t + 1 ≤ regsOf s →
      let off := fun (p : Nat) => (vget s (d.toNat + tyRegs t) p).toNat
      let del := fun (p : Nat) => (⟨p, gangBase + off p, w⟩ : LaneAcc)
      accessFx s ((active s).map del) .write = none →
      exec (.rdx nx d a b) s = .next (after nx 4 (countBanks (allLocs s (as ++ (active s).map del) .write) (all.foldl (fun s' x =>
        let r := reduceAcc s' o x (vop s t d.toNat x.1.lane)
        let s2 := locsPut r.1 (locsOr s (del x.1.lane) .write) r.2
        if (sget s (a.toNat + 1)).getLsbD 3 then
          subtractP s2 (off x.1.lane / 0x80000) w (bitsOf (sget s (a.toNat + 1)).toNat 4 4) else s2) s))))

/-- R131, R252: an update outside a bounded region, or by an operation that its region does not withhold, finds the old value and stores the sum,
minimum, maximum or logical combination. -/
def Claims.ReductionUpdates : Prop :=
  ∀ (s : State) (o : AtomOp) (x : LaneAcc × List Loc) (v : Nat),
    (∀ i b key kid, locsBound s x.2 = some (i, b, key, kid) → boundMatches o (ty s) b = false) →
    let s1 := drainFor s x.2
    let old := locsNat s1 x.2
    reduceAcc s o x v = (locsPut (dirtyAcc s1 x.1) x.2 (o.apply (ty s) old v), old)

/-- R123, R125, R126, R258 to R260: FNC writes a token that is complete at once when no kind bit is set, and otherwise pending until
FENCE_COMPLETE, for the issuer's open items (E) or its open add-on-stores (B), and for the weak accesses (W) and bounded accumulations (B) that other
splits of its group issued before and still hold. Every other access has performed when it issued, so that a fence which covers nothing is pending
until that event too: that reading is log 6. FWAIT goes on when its token is complete and waits when it is not; PREF has no effect. -/
def Claims.Fences : Prop :=
  ∀ (nx : NX) (d a b : BitVec 7) (i : BitVec 8) (s : State), nxFault nx 4 s = none → d.toNat < 16 →
    (i.toNat < 64 → i.toNat % 8 ≤ 4 → (tget s d.toNat).pending = false →
      exec (.fnc nx d i) s = .next (after nx 4 (tput s d.toNat
        (if i.toNat / 8 % 8 = 0 then .zero
         else ⟨true, 0, none, false, some ⟨i.getLsbD 4,
           openItemsIf (fun op => i.getLsbD 5 || (i.getLsbD 4 && op.addsOn)) (batOf s (curWho s)), fenceHeld s i⟩⟩)))) ∧
    (∀ n, n ∈ fenceHeld s i ↔ isStream s = false ∧ ∃ x ∈ s.grp.splits, x.stop = none ∧ ∃ h, x.cap = some h ∧ h.stamp = n ∧
      h.stamp < issueStamp s ∧ fenceKind i (opcodeOf h.word) = true) ∧
    (∀ op : ItemOp, op.addsOn = true ↔ ∃ addr w tile p bad, op = .acst addr w tile p bad ∧ acAos w = true) ∧
    ((tget s d.toNat).pending = true → i.toNat < 64 → i.toNat % 8 ≤ 4 → exec (.fnc nx d i) s = .next { s with stalled := true }) ∧
    ((tget s d.toNat).pending = false → exec (.fwait nx d) s = .next (after nx 4 s)) ∧
    ((tget s d.toNat).pending = true → exec (.fwait nx d) s = .next (waitAs s .wait)) ∧
    (isStream s = false → d.toNat ≤ 1 → a.toNat < 64 → b.toNat < regsOf s → exec (.pref nx d a b) s = .next (after nx 4 s))

/-- R116, R352, R374: a store changes no byte but the stored ones: every byte of memory outside the compressed aperture, and every byte of a
scratchpad, that the bytes `storedBytes` computes from the stores spare (those stored to, and the page-table entries in which they set D;
`spares` also asks that a byte of a stored unit of encryption is read under the key the store writes) reads after SST, ST, STI, STW and STT as it
read once the bounded lines of the accesses were drained. When the instruction takes a fault or waits for a page, every byte reads as before. All
registers stay as they were. -/
def Claims.StoresFrame : Prop :=
  ∀ (nx : NX) (d a b : BitVec 7) (i : BitVec 8) (s t : State), isStream s = false →
    let w := memWidth s
    let outside := fun (j : Instr) (as : List (LaneAcc × Nat)) =>
      exec j s = .next t →
      let s1 := drainAcc s (as.map (·.1)) .write
      t.grp.v = s.grp.v ∧ t.grp.k = s.grp.k ∧ t.grp.s = s.grp.s ∧ t.grp.mode = s.grp.mode ∧ t.crew.f = s.crew.f ∧
        t.crew.tiles = s.crew.tiles ∧ t.crew.slots = s.crew.slots ∧ t.regs = s.regs ∧
        ((∃ f, t = takeFault s f ∧ bytesSame s t) ∨
          (accessFx s (as.map (·.1)) .write = none ∧ ∀ l : Loc, l.plain → (∀ x ∈ storedBytes s1 as, x.spares s1 l) → locGet t l = locGet s1 l))
    let one := fun (addr : Nat → Nat) => (active s).map (fun p =>
      ((⟨p, addr p, w⟩ : LaneAcc), storeValue s p (vop s (ty s) d.toNat p)))
    outside (.sst nx d a i) [(⟨0xFF, scalarAddr s a i, 8⟩, (selGet s d.toNat).toNat)] ∧
    outside (.st nx d a b) (one (gatherAddr s a.toNat b.toNat)) ∧
    outside (.stw nx d a b) (one (gatherAddr s a.toNat b.toNat)) ∧
    outside (.sti nx d a i) (one (linearAddr s a.toNat i w)) ∧
    outside (.stt nx d a b) ((tileAccs s a.toNat (sget s b.toNat)).map (fun e =>
      (e.1, storeValue s e.1.lane (vop s (ty s) (d.toNat + e.2 * tyRegs (ty s)) e.1.lane))))

/-- R199 to R243: an instruction that writes registers only leaves every byte of memory and of the scratchpads, the accumulators, slots, queues
and guards, the host registers, MODE, tokens and handles as they were, whether it completes or takes a fault; of v, s and k it changes only the
destination: sD, or predicate D, or the registers of vD (one, two, or as many as the type takes) in the lanes of L. -/
def Claims.RegisterFrame : Prop :=
  ∀ (nx : NX) (d a b : BitVec 7) (k3 c3 : BitVec 3) (x y : BitVec 1) (i8 : BitVec 8) (i15 : BitVec 15) (c : BitVec 6) (c5 : BitVec 5)
    (lo w : BitVec 4) (s t : State), isStream s = false →
    let kept := bytesSame s t ∧ unitsSame s t ∧ t.grp.mode = s.grp.mode ∧ t.grp.t = s.grp.t ∧ t.grp.h = s.grp.h ∧
      t.grp.mark = s.grp.mark
    let vOnly := fun (n : Nat) => kept ∧ t.grp.k = s.grp.k ∧ t.grp.s = s.grp.s ∧
      ∀ r p, p < 32 → (p ∉ active s ∨ r < d.toNat ∨ d.toNat + n ≤ r) → vget t r p = vget s r p
    (∀ j ∈ [Instr.sadd nx d a b, .ssub nx d a b, .smul nx d a b, .smulh nx d a b x, .sdiv nx d a b x, .srem nx d a b x,
        .sand nx d a b, .sor nx d a b, .sxor nx d a b, .sshl nx d a b, .sshr nx d a b, .ssra nx d a b, .smin nx d a b x,
        .smax nx d a b x, .saddr nx d a b x, .ssel nx d a b, .saddi nx d a i8, .sli nx d i15, .slih nx d i15, .smov nx d a,
        .sclz nx d a, .spopc nx d a, .ssext nx d a i8, .sbfx nx d a lo w, .sbfi nx d a lo w, .sshli nx d a c, .sshri nx d a c,
        .ssrai nx d a c, .srd nx d i15, .csrr nx d i15, .clk nx d i15, .cntr nx d i15, .getmode nx d, .vbcsImm nx d a c5, .vbcsReg nx d a b,
        .kany nx d a, .kall nx d a, .kcnt nx d a, .kbits nx d a],
      exec j s = .next t → kept ∧ t.grp.v = s.grp.v ∧ t.grp.k = s.grp.k ∧ ∀ r, r ≠ d.toNat → sget t r = sget s r) ∧
    (∀ j ∈ [Instr.scmp nx c3 k3 a b x, .vcmp nx c3 y k3 a b x], exec j s = .next t → kept ∧ t.grp.v = s.grp.v ∧ t.grp.s = s.grp.s ∧
      ∀ r p, p < 32 → (p ∉ active s ∨ r ≠ k3.toNat) → kget t r p = kget s r p) ∧
    (∀ j ∈ [Instr.kand nx d a b x, .kor nx d a b x, .kxor nx d a b x, .knot nx d a, .kmov nx d a, .kfromv nx d a],
      exec j s = .next t → kept ∧ t.grp.v = s.grp.v ∧ t.grp.s = s.grp.s ∧
      ∀ r p, p < 32 → (p ∉ active s ∨ r ≠ d.toNat) → kget t r p = kget s r p) ∧
    (∀ j ∈ [Instr.vadd nx d a b x, .vsub nx d a b x, .vmul nx d a b x, .vmad nx d a b x, .vmsb nx d a b x, .vmin nx d a b x,
        .vmax nx d a b x, .vabs nx d a, .vneg nx d a, .vshl nx d a b x, .vshr nx d a b x, .vsra nx d a b x, .vsel nx d a b x,
        .vclz nx d a, .vpopc nx d a, .vrcp nx d a, .vrsq nx d a, .vexp2 nx d a, .vlog2 nx d a, .vsin nx d a, .vcos nx d a,
        .vrshr nx d a b x, .vred nx d a k3, .vscan nx d a x k3, .vcvt nx d a k3 lo],
      exec j s = .next t → vOnly (tyRegs (ty s))) ∧
    (∀ j ∈ [Instr.vand nx d a b x, .vor nx d a b x, .vxor nx d a b x, .vnot nx d a, .vmovV nx d a, .vmovS nx d b, .vli nx d i15,
        .vdot4 nx d a b x, .vdot2 nx d a b x, .vsad nx d a b x, .vscl nx d a b x, .vpack nx d a b x, .vrq nx d a b x, .vshfl nx d a b x,
        .vshfli nx d a k3 c5, .vspdot nx d a b x, .vnzc nx d a, .vnzb nx d a, .vterm nx d a, .ktov nx d a, .vlane nx d a],
      exec j s = .next t → vOnly 1) ∧
    (∀ j ∈ [Instr.vunpk nx d a, .vprune nx d a b x], exec j s = .next t → vOnly 2)

/-! ## Barriers, queues, guard slots, streams and launches -/

/-- R45, R261, R262: BARA arrives; BARAW arrives and BARW does not, and both go on when the phase differs from the one the
issuer recorded, and else wait on the barrier for that phase to end, whatever the issuer records later. -/
def Claims.BarrierInstructions : Prop :=
  ∀ (nx : NX) (a : BitVec 7) (s : State), nxFault nx 4 s = none → a.toNat < 16 →
    let n := a.toNat
    exec (.bara nx a) s = .next (after nx 4 (arrive s n)) ∧
    ((∀ p, holdOf s ≠ .bar n p) →
      ((barOf s.crew n).phase ≠ recordedPhase s n → exec (.barw nx a) s = .next (after nx 4 s)) ∧
      ((barOf s.crew n).phase = recordedPhase s n → exec (.barw nx a) s = .next (waitAs s (.bar n (recordedPhase s n)))) ∧
      ((barOf (arrive s n).crew n).phase ≠ recordedPhase (arrive s n) n → exec (.baraw nx a) s = .next (after nx 4 (arrive s n))) ∧
      ((barOf (arrive s n).crew n).phase = recordedPhase (arrive s n) n →
        exec (.baraw nx a) s = .next (waitAs (arrive s n) (.bar n (recordedPhase (arrive s n) n))))) ∧
    (∀ p, holdOf s = .bar n p → ∀ j ∈ [Instr.barw nx a, .baraw nx a],
      ((barOf s.crew n).phase ≠ p → exec j s = .next (after nx 4 s)) ∧
      ((barOf s.crew n).phase = p → exec j s = .next { s with stalled := true }))

/-- R45, R262, R263: an arrival records the phase that stood before it, and adds the live lanes of the split, whatever the
guard, or the stream's bit; the phase completes when E arrivals and ended lanes are there and P is 0, and then counts up
with nothing arrived. Among the operations of one cycle the test waits for the last of them, and a barrier that has completed a phase in a turn
completes no further one in it. No other barrier changes. -/
def Claims.BarrierPhase : Prop :=
  ∀ (s : State) (n : Nat),
    let b := barOf s.crew n
    let b' : Bar := if isStream s then { b with strm := true }
      else { b with arrived := b.arrived ++ (threadsOf s.grp s.split.mask).filter (fun t => !b.arrived.contains t) }
    let done := b'.e ≤ arrivedCount s.crew b' ∧ b'.p = 0
    let full : Bar := { b' with arrived := [], strm := false, phase := b.phase + 1 }
    let t := arrive s n
    recordedPhase t n = b.phase ∧
    (s.crew.joint = false → n ∉ s.crew.touched → (done → barOf t.crew n = full) ∧ (¬done → barOf t.crew n = b')) ∧
    (s.crew.joint = false → n ∈ s.crew.touched → barOf t.crew n = b') ∧
    (s.crew.joint = true → barOf t.crew n = b' ∧ n ∈ t.crew.touched ∧
      (s.crew.touched.Nodup → (done → barOf t.crew.closeCycle n = full) ∧ (¬done → barOf t.crew.closeCycle n = b'))) ∧
    (∀ m, m ≠ n → barOf t.crew m = barOf s.crew m)

/-- R264: BARX adds a signed value to P and BARI sets E, each followed by the completion test; what R264 forbids raises
BAR_CFG and changes nothing of the barrier. -/
def Claims.BarrierCounts : Prop :=
  ∀ (nx : NX) (a b : BitVec 7) (s : State), nxFault nx 4 s = none → a.toNat < 16 → b.toNat < iLimit s →
    let x := barOf s.crew a.toNat
    let v := iget s b.toNat
    let ok := -(2 ^ 55) ≤ v.toInt ∧ v.toInt < 2 ^ 55 ∧ -(2 ^ 55) ≤ x.p + v.toInt ∧ x.p + v.toInt < 2 ^ 55
    let okE := 1 ≤ v.toNat ∧ v.toNat ≤ 1024 ∧ x.arrived = [] ∧ x.strm = false ∧ x.p = 0
    let set := fun (f : Bar → Bar) => Host.Outcome.next (after nx 4 (setOwn s (fun c => barEvent c a.toNat f)))
    (ok → exec (.barx nx a b) s = set (fun y => { y with p := y.p + v.toInt })) ∧
    (¬ok → exec (.barx nx a b) s = .next (raise s (fx .barCfg))) ∧
    (okE → exec (.bari nx a b) s = set (fun y => { y with e := v.toNat })) ∧
    (¬okE → exec (.bari nx a b) s = .next (raise s (fx .barCfg)))

/-- R48, R49, R265 to R267: QPUSH, QPOP and QPEEK on a configured queue whose entry fits the issuer's registers, and QCFG;
a full queue or allowance makes a push wait, and so do an earlier push of its group that still waits and accesses of its pusher that
have still to perform (log 91); an empty queue makes a pop wait, and a damaged word of the head entry ends a pop or peek with
ECC_UNCORR; an unconfigured queue raises QUEUE_CFG. -/
def Claims.QueueInstructions : Prop :=
  ∀ (nx : NX) (d a b : BitVec 7) (q : Queue) (s : State), nxFault nx 4 s = none → a.toNat < 16 → b.toNat < iLimit s →
    dataOk s d.toNat = true →
    (queueOf s a = none → exec (.qpush nx d a) s = .next (raise s (fx .queueCfg)) ∧
      exec (.qpop nx d a) s = .next (raise s (fx .queueCfg)) ∧ exec (.qpeek nx d a b) s = .next (raise s (fx .queueCfg))) ∧
    (queueOf s a = some q → entryOk s d.toNat q.size = true →
      let mine := (q.pushers.filter (fun x => x = pusherId s)).length
      (q.pushers.length < q.depth → mine < q.alw → pushBehind s a = false → pushEarly s = false →
        exec (.qpush nx d a) s = .next (after nx 4 (pushDone s d a q))) ∧
      (q.depth ≤ q.pushers.length ∨ q.alw ≤ mine ∨ pushBehind s a = true ∨ pushEarly s = true →
        exec (.qpush nx d a) s = .next (waitAs s .wait)) ∧
      (∀ x, headEcc s q = some x → exec (.qpop nx d a) s = .next (takeFault s x) ∧ exec (.qpeek nx d a b) s = .next (takeFault s x)) ∧
      (q.pushers ≠ [] → headEcc s q = none →
        exec (.qpop nx d a) s = .next (after nx 4 (setQueue (entryPut s d.toNat (headBytes s q)) a
          { q with head := (q.head + 1) % q.depth, pushers := q.pushers.drop 1 })) ∧
        exec (.qpeek nx d a b) s = .next (after nx 4 (iput (entryPut s d.toNat (headBytes s q)) b.toNat 1))) ∧
      (q.pushers = [] → exec (.qpop nx d a) s = .next (waitAs s .wait) ∧
        exec (.qpeek nx d a b) s = .next (after nx 4 (iput s b.toNat 0)))) ∧
    (queueOf s a = none ∨ queueOf s a = some q ∧ q.pushers = [] →
      (iget s b.toNat = 0 →
        exec (.qcfg nx a b) s = .next (after nx 4 (setOwn s (fun c => { c with queues := adel a.toNat c.queues })))) ∧
      (∀ q', iget s b.toNat ≠ 0 → qcfgOf s (iget s b.toNat) = some q' →
        exec (.qcfg nx a b) s = .next (after nx 4 (setOwn s (fun c => { c with queues := aput a.toNat q' c.queues })))) ∧
      (iget s b.toNat ≠ 0 → qcfgOf s (iget s b.toNat) = none → exec (.qcfg nx a b) s = .next (raise s (fx .queueCfg)))) ∧
    (queueOf s a = some q → q.pushers ≠ [] → exec (.qcfg nx a b) s = .next (raise s (fx .queueCfg)))

/-- R48, R49, R266: entries leave a queue in the order in which they were pushed: the entry behind n others has the bytes
that its pusher's registers held, after any further push into a queue that is not full. -/
def Claims.QueueOrder : Prop :=
  ∀ (s : State) (d a : BitVec 7) (q : Queue), q.pushers.length < q.depth →
    let t := pushDone s d a q
    let q1 := { q with pushers := q.pushers ++ [pusherId s] }
    queueOf t a = some q1 ∧
    spadBytes t.crew (q1.slotOff q.pushers.length) q.size = entryBytes s d.toNat q.size ∧
    (∀ i < q.pushers.length, spadBytes t.crew (q1.slotOff i) q.size = spadBytes s.crew (q.slotOff i) q.size) ∧
    (∀ i, ({ q with head := (q.head + 1) % q.depth } : Queue).slotOff i = q.slotOff (i + 1))

/-- R50, R268: GSET and GCLR write a guard slot of the crew: true, false or unresolved. -/
def Claims.GuardSlots : Prop :=
  ∀ (nx : NX) (a : BitVec 7) (s : State), groupReady nx s → a.toNat < 8 →
    let put := fun (g : List (Nat × Bool)) => Host.Outcome.next (after nx 4 (setOwn s (fun c => { c with guards := g })))
    exec (.gset nx a) s = put (aput a.toNat true s.crew.guards) ∧
    exec (.gclr nx a) s = put (aput a.toNat false s.crew.guards) ∧
    exec (.gclrUnres nx a) s = put (adel a.toNat s.crew.guards)

/-- R52, R53, R420: ESTART starts the crew's stream at EADDR with e0 = sA, MODE 0, ls and lc 0 and nothing armed; every e register is whole then.
EJOIN of an ended stream takes e0 and leaves it idle, raises ECC_UNCORR where e0 is damaged, and of an idle one writes 0; both wait while the
stream runs or ends, and raise ILLEGAL_CONTEXT in a crew without a stream. -/
def Claims.StreamStartAndJoin : Prop :=
  ∀ (nx : NX) (a : BitVec 7) (s : State), groupReady nx s → a.toNat < 64 →
    let x := s.crew.strm
    let t := streamStart s (sget s a.toNat)
    (s.gang.pkt.eaddr ≠ 0 → x.st = .idle ∨ x.st = .ended →
      exec (.estart nx a) s = .next (after nx 4 t) ∧ t.crew.strm.st = .running ∧ t.crew.strm.pc = s.gang.pkt.eaddr ∧
      t.crew.strm.mode = 0 ∧ t.crew.strm.lc = 0 ∧ t.crew.strm.ls = 0 ∧ t.crew.strm.armed = none ∧
      (∀ r, eget t r = if r = 0 then sget s a.toNat else 0) ∧ t.crew.strm.t = x.t ∧ t.crew.strm.h = x.h ∧ t.crew.strm.bat = x.bat) ∧
    (∀ r, Cell.ereg s.gid s.crew.no r ∉ t.damaged) ∧
    (s.gang.pkt.eaddr ≠ 0 → x.st = .ended →
      (Cell.ereg s.gid s.crew.no 0 ∉ s.damaged → exec (.ejoin nx a) s =
        .next (after nx 4 (setStrm (sput s a.toNat (eget s 0)) (fun x => { x with st := .idle })))) ∧
      (Cell.ereg s.gid s.crew.no 0 ∈ s.damaged → exec (.ejoin nx a) s = .next (raise s (fx .eccUncorr)))) ∧
    (s.gang.pkt.eaddr ≠ 0 → x.st = .idle → exec (.ejoin nx a) s = .next (after nx 4 (sput s a.toNat 0))) ∧
    (s.gang.pkt.eaddr ≠ 0 → x.st = .running ∨ x.st = .ending →
      exec (.estart nx a) s = .next (waitAs s .wait) ∧ exec (.ejoin nx a) s = .next (waitAs s .wait)) ∧
    (s.gang.pkt.eaddr = 0 → exec (.estart nx a) s = .next (raise s (fx .illegalContext)) ∧
      exec (.ejoin nx a) s = .next (raise s (fx .illegalContext)))

/-- R56, R58, R269: LAUNCH reads the queue's number from sA and submits the packets of the lanes of L in ascending position while its sender's
window of eight has room, and goes on once every packet of its own has been accepted; else it waits with the lanes still to submit, and goes on from
there. With the window full it stalls; a queue that is not set up raises PROT, and a damaged entry of the queue table ECC_UNCORR (log 101). -/
def Claims.DeviceLaunch : Prop :=
  ∀ (nx : NX) (d a : BitVec 7) (s : State), isStream s = false → d.toNat + 16 ≤ regsOf s → a.toNat < 64 →
    let q := sget s a.toNat
    let full := flowFull s (packetMsg s q.toNat s.nextReq [])
    let goes := fun (no : Nat) (x : State) (lanes : List Nat) =>
      let r := submitLanes d.toNat q.toNat no lanes x
      nxFault nx 4 r.1 = none →
        (r.2 = [] → packetDue r.1 no = false → exec (.launch nx d a) s = .next (after nx 4 r.1)) ∧
        (r.2 ≠ [] ∨ packetDue r.1 no = true → exec (.launch nx d a) s = .next (waitAs r.1 (.launch no r.2)))
    ((∀ no l, s.split.hold ≠ .launch no l) →
      (full = false → queueCheck s q = none → goes s.nextReq { s with nextReq := s.nextReq + 1 } (active s)) ∧
      (full = true → exec (.launch nx d a) s = .next { s with stalled := true }) ∧
      (∀ f, full = false → queueCheck s q = some f → exec (.launch nx d a) s = .next (raise s f))) ∧
    (∀ c, aget s.ctxs s.gang.ctx = some c →
      (queueBad s c q.toNat = false ∨ 64 ≤ q.toNat → queueCheck s q = if queueSet s q then none else some (fx .prot)) ∧
      (queueBad s c q.toNat = true → q.toNat < 64 → (queueCheck s q).map (fun f => (f.cause, f.src)) = some (.eccUncorr, 10))) ∧
    (∀ no l, s.split.hold = .launch no l → goes no s l)

/-- R58, R382: of the packets of the lanes from p on, the first waits for room in its sender's window of eight; it is kept while an earlier one of
the sender is kept, joins its queue when that has room, and is kept when it has none. -/
def Claims.LanesSubmit : Prop :=
  ∀ (d q no p : Nat) (r : List Nat) (s : State),
    let m := packetMsg s q no (lanePacket s d p)
    submitLanes d q no [] s = (s, []) ∧
    (8 ≤ (s.naks.filter (fun n => n.msg.sameFlow m)).length → submitLanes d q no (p :: r) s = (s, p :: r)) ∧
    ((s.naks.filter (fun n => n.msg.sameFlow m)).length < 8 →
      (flowBusy s m = true → submitLanes d q no (p :: r) s = submitLanes d q no r (refuse s m)) ∧
      (flowBusy s m = false →
        (∀ t, acceptPacket s s.gang.ctx q s.gang.grid s.gang.pkt.prio (lanePacket s d p) = some t →
          submitLanes d q no (p :: r) s = submitLanes d q no r t) ∧
        (acceptPacket s s.gang.ctx q s.gang.grid s.gang.pkt.prio (lanePacket s d p) = none →
          submitLanes d q no (p :: r) s = submitLanes d q no r (refuse s m))))

/-! ## Sample groups -/

/-- R149, R150: an SFORK that passes its checks opens an entry for G siblings, with nothing arrived and the deadline of sB, makes the issuer
sibling 0 of it, and lets NX act in every sibling; the first check that fails raises its fault, and with the table's port shut the group
waits (R58). -/
def Claims.SampleFork : Prop :=
  ∀ (nx : NX) (a b : BitVec 7) (s : State), isStream s = false → a.toNat < 64 → b.toNat < 64 →
    let g := (sget s a.toNat).toNat % 2 ^ 32
    let dl := (sget s b.toNat).toNat
    let t := forkDone s a b
    (∀ e, forkCheck s a = none → freeEntry s = some e → sgWait s = none → sibXferFits nx s a = true → nxFault nx 4 t = none →
      exec (.sfork nx a b) s = .next (sibNx nx e s.split.pc (after nx 4 t)) ∧ t.grp.sib = some (e, 0) ∧
      2 ≤ g ∧ g ≤ 64 ∧ s.grp.sib = none ∧
      ∃ x, sgOf t (s.crew.core / 8) e = some x ∧ x.g = g ∧ x.gang = s.gid ∧ x.arrived = 0 ∧ x.cancelled = 0 ∧ x.complete = false ∧
        x.deadline = if dl = 0 then none else some ((ctxTime s).toNat + dl)) ∧
    (∀ f, forkCheck s a = some f → exec (.sfork nx a b) s = .next (raise s f)) ∧
    (g < 2 ∨ 64 < g → forkCheck s a = some (fx .illegalOp)) ∧
    (2 ≤ g → g ≤ 64 → s.grp.sib ≠ none → forkCheck s a = some (fx .illegalContext)) ∧
    (2 ≤ g → g ≤ 64 → s.grp.sib = none → s.grp.splits ≠ [] → forkCheck s a = some (fx .nonuniform)) ∧
    (∀ w, forkCheck s a = none → sibXferFits nx s a = true → nxFault nx 4 t = none → sgWait s = some w →
      exec (.sfork nx a b) s = .next w)

/-- R58, R151, R152, R271: SREWARD and SCANCEL act on the open entry of the issuing sibling and write 0 to sD, and of several in one cycle the
entry completes after the last; on a complete entry they write 1 and change nothing, from the cycle after its deadline on; without an entry they
raise ILLEGAL_CONTEXT, and an index at or above G ILLEGAL_OP. -/
def Claims.SampleRewards : Prop :=
  ∀ (nx : NX) (d a : BitVec 7) (s : State), groupReady nx s → d.toNat < 64 → a.toNat < 64 →
    let A := sget s a.toNat
    let cl := s.crew.core / 8
    let fin := fun (y : SgEntry) => if s.crew.joint then y else y.settle
    (∀ e i x, mySg s = some (e, i, x) → (x.complete = true → x.deadline ≠ some (ctxTime s).toNat) →
      (sgWait s = none →
        (x.complete = false →
          exec (.sreward nx d a) s = .next (after nx 4 (sput (setSg s cl e (fin { x with
            rewards := x.rewards.put i (A.setWidth 32), arrived := setBit64 x.arrived i true,
            cancelled := setBit64 x.cancelled i false })) d.toNat 0)) ∧
          (A.toNat < x.g → exec (.scancel nx d a) s = .next (after nx 4 (sput (setSg s cl e (fin { x with
            arrived := setBit64 x.arrived A.toNat false, cancelled := setBit64 x.cancelled A.toNat true })) d.toNat 0)))) ∧
        (x.complete = true → exec (.sreward nx d a) s = .next (after nx 4 (sput s d.toNat 1)) ∧
          (A.toNat < x.g → exec (.scancel nx d a) s = .next (after nx 4 (sput s d.toNat 1))))) ∧
      (x.g ≤ A.toNat → exec (.scancel nx d a) s = .next (raise s (fx .illegalOp))) ∧
      (∀ w, sgWait s = some w → exec (.sreward nx d a) s = .next w)) ∧
    (mySg s = none → exec (.sreward nx d a) s = .next (raise s (fx .illegalContext)) ∧
      exec (.scancel nx d a) s = .next (raise s (fx .illegalContext)))

/-- R151, R152: an entry is complete once each of its siblings has arrived or is cancelled, and stays open before; what is open at completion
and did not arrive is absent. -/
def Claims.SampleCompletion : Prop :=
  ∀ (x : SgEntry), x.complete = false → x.g ≤ 64 →
    let all := ∀ i < x.g, x.arrived.getLsbD i = true ∨ x.cancelled.getLsbD i = true
    (all → x.settle.complete = true ∧ x.settle.n = ((List.range x.g).filter (fun i => x.arrived.getLsbD i)).length ∧
      (∀ i < x.g, x.settle.absent.getLsbD i = !x.arrived.getLsbD i)) ∧
    (¬all → x.settle = x)

/-- R152, R270, R272, R273: SBAR and SGADV wait until the entry is complete; SGADV then stores the G advantages; SGINFO and SGABS
read the entry, SGABS 0 while it is open. Without an entry each raises ILLEGAL_CONTEXT. -/
def Claims.SampleResults : Prop :=
  ∀ (nx : NX) (d : BitVec 7) (s : State), groupReady nx s → d.toNat < 64 →
    (∀ e i x, mySg s = some (e, i, x) →
      let acc := fun (j : Nat) => (⟨0xFF, (sget s d.toNat + BitVec.ofNat 64 (4 * j)).toNat, 4⟩ : LaneAcc)
      let as := (List.range x.g).map acc
      let arrived := ((List.range x.g).filter (fun j => x.arrived.getLsbD j)).length
      let info := fun (st n : Nat) (gone : Bool) => st + 2 ^ 2 * n + 2 ^ 9 * x.g + (if x.zv then 2 ^ 16 else 0) +
        (if x.small then 2 ^ 17 else 0) + (if gone then 2 ^ 18 else 0)
      (x.complete = true → exec (.sbar nx) s = .next (after nx 4 s) ∧
        exec (.sginfo nx d) s = .next (after nx 4 (sput s d.toNat (BitVec.ofNat 64 (info 1 x.n (x.absent.getLsbD i))))) ∧
        exec (.sgabs nx d) s = .next (after nx 4 (sput s d.toNat x.absent))) ∧
      (x.complete = false → exec (.sbar nx) s = .next (waitAs s .wait) ∧
        exec (.sginfo nx d) s = .next (after nx 4 (sput s d.toNat (BitVec.ofNat 64 (info 0 arrived (x.cancelled.getLsbD i))))) ∧
        exec (.sgabs nx d) s = .next (after nx 4 (sput s d.toNat 0))) ∧
      (accessFx s as .write = none →
        (x.complete = true → exec (.sgadv nx d) s = .next (after nx 4 (storeAll (drainAcc s as .write)
          ((List.range x.g).map (fun j => (acc j, (x.adv.get j).toNat)))))) ∧
        (x.complete = false → exec (.sgadv nx d) s = .next (waitAs s .wait)))) ∧
    (mySg s = none → exec (.sbar nx) s = .next (raise s (fx .illegalContext)) ∧
      exec (.sginfo nx d) s = .next (raise s (fx .illegalContext)) ∧ exec (.sgabs nx d) s = .next (raise s (fx .illegalContext)) ∧
      exec (.sgadv nx d) s = .next (raise s (fx .illegalContext)))

/-- R152: the deadline event completes an entry that is open when its context's time has reached the deadline, and none before. -/
def Claims.SampleDeadline : Prop :=
  ∀ (s : State) (x : SgEntry) (g : Gang) (c : Ctx) (dl : Nat), sgOf s s.ev.n s.ev.m = some x → aget s.gangs x.gang = some g →
    aget s.ctxs g.ctx = some c → x.deadline = some dl → x.complete = false → x.g ≤ 64 →
    (dl ≤ c.ctxtime.toNat → exec .sgDeadline s = .next (setSg s s.ev.n s.ev.m x.complete') ∧ x.complete'.complete = true ∧
      (∀ i < x.g, x.complete'.absent.getLsbD i = !x.arrived.getLsbD i)) ∧
    (c.ctxtime.toNat < dl → exec .sgDeadline s = .next s)

/-! ## The engine stream's instructions -/

/-- R311, R313: the stream's register instructions. -/
def Claims.StreamRegisters : Prop :=
  ∀ (nx : NX) (d a b : BitVec 7) (i : BitVec 15) (c : BitVec 6) (s : State), isStream s = true → d.toNat < 32 →
    let D := eget s d.toNat
    let A := eget s a.toNat
    let put := fun (j : Instr) (v : BitVec 64) => exec j s = .next (after nx 4 (eput s d.toNat v))
    nxFault nx 4 s = none →
      (a.toNat < 32 → put (.emov nx d a) A ∧ put (.eshl nx d a c) (A <<< c.toNat) ∧ put (.eshr nx d a c) (A >>> c.toNat) ∧
        (b.toNat < 32 → put (.eadd nx d a b) (A + eget s b.toNat) ∧ put (.esub nx d a b) (A - eget s b.toNat))) ∧
      put (.eli nx d i) (i.signExtend 64) ∧ put (.elih nx d i) (BitVec.ofNat 64 (D.toNat * 2 ^ 15 + i.toNat)) ∧
      (∀ v, efromsValue s i.toNat = some v → exec (.efroms nx d i) s = .next (after nx 4 (eput s d.toNat v))) ∧
      (efromsValue s i.toNat = none → exec (.efroms nx d i) s = .next (raise s (fx .illegalOp))) ∧
      (i = 9 → efromsValue s i.toNat = some s.clock) ∧ (i = 3 → efromsValue s i.toNat = some s.gang.no)

/-- R276, R282, R287, R288, R296 to R298: a command of the block-transfer or matrix engine that passes its checks, is let by its guard and finds
its engine's queue with room joins the open batch as one item with the operands it captured. A matrix step also lets the engine choose its next
step (R20), after the last issue of a cycle of several; ACST reads the tile at issue and may zero it; ACLD clears the tile's poison. That ACST's
ZERO clears tile and poison when it issues is the model's reading (log 20). -/
def Claims.EngineCommands : Prop :=
  ∀ (nx : NX) (c : BitVec 2) (se : BitVec 5) (ha hb : BitVec 4) (v : BitVec 5) (q r : BitVec 1) (d a b : BitVec 7) (s : State),
    nxFault nx 4 s = none → commandRuns s →
    let A := fun (j : Nat) => iget s (a.toNat + j)
    let w := iget s b.toNat
    let go := fun (j : Instr) (t : State) => exec j s = .next (after nx 4 t)
    (isStream s = true → c.toNat < s.gang.pkt.accs → (dTiles (eget s se.toNat) c.toNat).any (tileLoading s.crew) = false →
      mxFault s c.toNat (eget s se.toNat) (hget s ha.toNat) (hget s hb.toNat) (q = 1) (r = 1) = none →
      let t := after nx 4 (newItem s
        (mxItem s c.toNat (eget s se.toNat) (hget s ha.toNat) (hget s hb.toNat) (eget s v.toNat)) (q = 1) (r = 1))
      exec (.mx nx c se ha hb v q r) s = .next (if t.crew.joint then t else chooseNext t s.crew.core)) ∧
    (isStream s = true → d.toNat < 32 → a.toNat < s.gang.pkt.accs → b.toNat < 32 → tilePending s.crew a.toNat = false →
      tileLoading s.crew a.toNat = false → storeFull s = false → acOk w = true → batchRoom s 1 = none →
      flagCheck s (acAcq w) (acRel w) = none →
      let t := newItem s (.acst (eget s d.toNat) w (tileOf s.crew a.toNat).acc (tileOf s.crew a.toNat).poison
        (tileBad s a.toNat w)) (acAcq w) (acRel w)
      go (.acst nx d a b) (if acZero w then zeroTile t a.toNat else t)) ∧
    (isStream s = true → d.toNat < s.gang.pkt.accs → a.toNat < 32 → b.toNat < 32 → tilePending s.crew d.toNat = false →
      tileLoading s.crew d.toNat = false → loadFull s = false → (acOk w && !acAos w && !acFt w && !acZero w) = true →
      batchRoom s 1 = none → flagCheck s (acAcq w) (acRel w) = none →
      go (.acld nx d a b) (newItem (setOwn s (fun x => setTile x d.toNat { tileOf x d.toNat with poison := false }))
        (.acld d.toNat (eget s a.toNat) w) (acAcq w) (acRel w))) ∧
    (b.toNat < iLimit s → iRun s a.toNat 2 = true → batchRoom s 1 = none → flagCheck s (ccAcq w) (ccRel w) = none →
      (loadFull s = false → ccOk w true = true →
        go (.cpldSp nx a b) (newItem s (.cpld none 0 (A 0) (A 1) w s.crew.f) (ccAcq w) (ccRel w)) ∧
        (isStream s = true → d.toNat < 16 → handleOk s.crew (hget s d.toNat) = true →
          go (.cpldSlot nx d a b) (copyItem s (hSlot (hget s d.toNat))
            (.cpld (some (hSlot (hget s d.toNat))) (hget s d.toNat) (A 0) (A 1) w s.crew.f) (ccAcq w) (ccRel w)))) ∧
      (storeFull s = false → ccOk w false = true →
        go (.cpst nx a b) (newItem s (.cpst (A 0) (A 1) w s.crew.f) (ccAcq w) (ccRel w)))) ∧
    (b.toNat < iLimit s → iRun s a.toNat 3 = true → batchRoom s 1 = none → flagCheck s (csAcq w) (csRel w) = none →
      loadFull s = false → storeFull s = false → csOk w = true →
      go (.cpss nx a b) (newItem s (.cpss (A 0) (A 1) (A 2) w) (csAcq w) (csRel w)))

/-- R276: an item that joins takes the next index of its issuer's open batch, and no other issuer's batches change. -/
def Claims.ItemJoins : Prop :=
  ∀ (s : State) (op : ItemOp) (acq rel : Bool), (isStream s = false → s.cur = .group) →
    let t := newItem s op acq rel
    let b := batOf s (curWho s)
    (batOf t (curWho s)).sealed = b.sealed ∧ (batOf t (curWho s)).no = b.no ∧
    (∃ i : Item, (batOf t (curWho s)).items = b.items ++ [i] ∧ i.op = op ∧ i.ix = b.items.length ∧ i.status = none ∧
      i.acq = acq ∧ i.rel = rel ∧ i.stamp = s.nextItem ∧ i.pc = pcOf s) ∧
    (∀ w, w ≠ curWho s → w.gang = s.gid → w.crew = s.crew.no → (w.stream = true → w.grp = 0) → batOf t w = batOf s w) ∧ bytesSame s t

/-- R51: a guarded command of a stream is discarded, its NX acting, when its guard is resolved against it, and waits while the guard slot is
unresolved; no check but those of its operands' ranges comes first. When its guard lets it, it acts: shown of MXZ, CPSS and SWUNB, and of every
other command where its effect is stated. -/
def Claims.GuardedCommands : Prop :=
  ∀ (nx : NX) (c : BitVec 2) (se : BitVec 5) (ha hb : BitVec 4) (v : BitVec 5) (q r : BitVec 1) (d a b : BitVec 7) (s : State),
    streamReady nx s →
    let accs := s.gang.pkt.accs
    let A := fun (j : Nat) => eget s (a.toNat + j)
    let w := eget s b.toNat
    let guarded := fun (j : Instr) => (guardState s = some false → exec j s = .next (after nx 4 s)) ∧
      (guardState s = none → exec j s = .next (waitAs s .wait))
    (c.toNat < accs → guarded (.mx nx c se ha hb v q r)) ∧ (d.toNat < accs → guarded (.mxz nx d)) ∧
    (d.toNat < 32 → a.toNat < accs → b.toNat < 32 → guarded (.acst nx d a b)) ∧
    (d.toNat < accs → a.toNat < 32 → b.toNat < 32 → guarded (.acld nx d a b)) ∧
    (a.toNat + 2 ≤ 32 → b.toNat < 32 → (d.toNat < 16 → guarded (.cpldSlot nx d a b)) ∧ guarded (.cpldSp nx a b) ∧ guarded (.cpst nx a b)) ∧
    (a.toNat + 3 ≤ 32 → b.toNat < 32 → guarded (.cpss nx a b)) ∧
    (d.toNat < 16 → a.toNat < 32 → b.toNat + 4 ≤ 32 → guarded (.ecmd nx d a b)) ∧
    (a.toNat < 32 → b.toNat + 3 ≤ 32 → guarded (.swbind nx a b)) ∧ (a.toNat < 32 → guarded (.swunb nx a)) ∧
    (guardState s = some true →
      (d.toNat < accs → tileLoading s.crew d.toNat = false → tilePending s.crew d.toNat = false →
        exec (.mxz nx d) s = .next (after nx 4 (zeroTile s d.toNat))) ∧
      (a.toNat + 3 ≤ 32 → b.toNat < 32 → batchRoom s 1 = none → flagCheck s (csAcq w) (csRel w) = none → loadFull s = false →
        storeFull s = false → csOk w = true →
        exec (.cpss nx a b) s = .next (after nx 4 (newItem s (.cpss (A 0) (A 1) (A 2) w) (csAcq w) (csRel w)))) ∧
      (a.toNat < 32 → batchRoom s 1 = none → (A 0).toNat < 64 →
        exec (.swunb nx a) s = .next (after nx 4 (newItem s (.swunb (A 0).toNat) false false))))

/-- R284, R285: MXBOUND computes a descriptor's bound, MXZ zeroes a tile
on which no step is pending and raises ACC_BUSY for one on which a step is. -/
def Claims.MatrixSettings : Prop :=
  ∀ (nx : NX) (d a : BitVec 7) (s : State), streamReady nx s →
    (d.toNat < 32 → a.toNat < 32 →
      let x := eget s a.toNat
      (descOk x (descA s x) (descB s x) = true →
        exec (.mxbound nx d a) s = .next (after nx 4 (eput s d.toNat (BitVec.ofNat 64 (dBound x (descA s x)))))) ∧
      (descOk x (descA s x) (descB s x) = false → exec (.mxbound nx d a) s = .next (raise s (fx .termFormat)))) ∧
    (d.toNat < s.gang.pkt.accs → commandRuns s → tileLoading s.crew d.toNat = false →
      (tilePending s.crew d.toNat = false →
        exec (.mxz nx d) s = .next (after nx 4 (zeroTile s d.toNat)) ∧
          tileOf (zeroTile s d.toNat).crew d.toNat = ⟨.empty 32, false⟩ ∧
          (∀ m, m ≠ d.toNat → tileOf (zeroTile s d.toNat).crew m = tileOf s.crew m)) ∧
      (tilePending s.crew d.toNat = true → exec (.mxz nx d) s = .next (raise s (fx .accBusy))))

/-- R80, R81, R289, R290: HCLAIM takes the lowest free slot of the reservation and puts a handle of the next generation
into hD; it waits while a deferred release is due and raises SLOT_EXHAUSTED when none is; HREL of a valid handle releases
its slot, and of a stale one raises HANDLE_STALE. -/
def Claims.OperandSlots : Prop :=
  ∀ (nx : NX) (d : BitVec 7) (x : BitVec 1) (s : State), streamReady nx s → d.toNat < 16 →
    let h := hget s d.toNat
    (∀ n, freeSlot s = some n → n < 16 →
      exec (.hclaim nx d x) s = .next (after nx 4 (claimSlot s n d.toNat (x = 1))) ∧
      (let t := claimSlot s n d.toNat (x = 1)
       (slotOf t.crew n).claimed = true ∧ (slotOf t.crew n).gen = ((slotOf s.crew n).gen + 1) % 4096 ∧
       hSlot (hget t d.toNat) = n ∧ hGen (hget t d.toNat) = (slotOf t.crew n).gen ∧ hCls (hget t d.toNat) = decide (x = 1) ∧
       handleOk t.crew (hget t d.toNat) = true ∧ (∀ m, m ≠ n → slotOf t.crew m = slotOf s.crew m))) ∧
    (freeSlot s = none → releaseDue s = true → exec (.hclaim nx d x) s = .next (waitAs s .wait)) ∧
    (freeSlot s = none → releaseDue s = false → exec (.hclaim nx d x) s = .next (raise s (fx .slotExhausted))) ∧
    (handleOk s.crew h = true → exec (.hrel nx d) s =
      .next (after nx 4 (setOwn s (fun c => setSlot c (hSlot h) { slotOf c (hSlot h) with claimed := false })))) ∧
    (handleOk s.crew h = false → exec (.hrel nx d) s = .next (raise s (fx .handleStale)))

/-- R278, R280: BSEAL seals the open batch under a token that becomes pending, waiting while 32 sealed batches are
unfinished; BWAIT goes on when at most n are, and else waits. -/
def Claims.BatchInstructions : Prop :=
  ∀ (nx : NX) (d a : BitVec 7) (i : BitVec 15) (r : BitVec 6) (s : State), nxFault nx 4 s = none → d.toNat < 16 →
    (tget s d.toNat).pending = false →
    let n := (batOf s (curWho s)).sealed.length
    let sealed := fun (vec : Option (BitVec 64)) =>
      sealBatch (tput s d.toNat ⟨true, 0, none, false, none⟩) (curWho s) (some d.toNat) vec
    (n < 32 → exec (.bseal nx d) s = .next (settleAll (after nx 4 (sealed none)) (curWho s)) ∧
      (a.toNat < iLimit s → exec (.bsealStatus nx d a) s =
        .next (settleAll (after nx 4 (sealed (some (iget s a.toNat)))) (curWho s)))) ∧
    (32 ≤ n → exec (.bseal nx d) s = .next (waitAs s .wait)) ∧
    (n ≤ i.toNat → exec (.bwaitImm nx i) s = .next (after nx 4 s)) ∧
    (i.toNat < n → exec (.bwaitImm nx i) s = .next (waitAs s .wait)) ∧
    (r.toNat < iLimit s →
      (n ≤ (iget s r.toNat).toNat → exec (.bwaitReg nx r) s = .next (after nx 4 s)) ∧
      ((iget s r.toNat).toNat < n → exec (.bwaitReg nx r) s = .next (waitAs s .wait)))

/-- R279: the token of a completed batch holds its number, its item count, how many items did not end with OK, the index
of the first of them and that item's status. -/
def Claims.BatchToken : Prop :=
  ∀ (b : Batch), b.items.length ≤ 1024 → (∀ i < b.items.length, (b.items[i]?).map (fun x => x.ix) = some i) →
    let v := (b.token none).toNat
    let bad := b.items.filter (fun i => i.status.getD .ok ≠ .ok)
    v % 2 ^ 24 = b.no % 2 ^ 24 ∧ v / 2 ^ 24 % 2 ^ 11 = b.items.length ∧ v / 2 ^ 35 % 2 ^ 11 = bad.length ∧
    v / 2 ^ 46 % 2 ^ 10 = (bad.head?.map (fun i => i.ix)).getD 0 ∧
    v / 2 ^ 56 = (bad.head?.map (fun i => (i.status.getD .ok).code)).getD 0

/-- R140, R144: LEASE sends a request of its kind, at a priority no higher than the grid's, to the cluster's queue and makes its token pending,
and stalls while eight of its requests are kept back (R58); a reserved kind raises ILLEGAL_OP; LREL marks the lease of its token as released. -/
def Claims.Leases : Prop :=
  ∀ (nx : NX) (d a b : BitVec 7) (s : State), nxFault nx 4 s = none → d.toNat < 16 → (tget s d.toNat).pending = false →
    let kind := (iget s a.toNat).toNat % 8
    let cl := s.crew.core / 8
    let x := tget s d.toNat
    let r : LeaseReq := ⟨s.nextReq, kind, min ((iget s b.toNat).toNat % 8) s.gang.pkt.prio, curWho s, d.toNat, 0⟩
    (a.toNat < iLimit s → b.toNat < iLimit s →
      ((s.naks.filter (fun n => n.msg.sameFlow (leaseMsg s r))).length < 8 →
        (kind ≤ 5 → exec (.lease nx d a b) s = .next (after nx 4 (submitLease
          { tput s d.toNat ⟨true, 0, some (s.nextReq, cl), false, none⟩ with nextReq := s.nextReq + 1 } r))) ∧
        (5 < kind → exec (.lease nx d a b) s = .next (raise s (fx .illegalOp)))) ∧
      (8 ≤ (s.naks.filter (fun n => n.msg.sameFlow (leaseMsg s r))).length →
        exec (.lease nx d a b) s = .next { s with stalled := true })) ∧
    (∀ req k, x.lease = some (req, k) →
      exec (.lrel nx d) s = .next (after nx 4 (markRelease (tput s d.toNat { x with released := true }) k req))) ∧
    (x.lease = none → exec (.lrel nx d) s = .next (raise s (fx .illegalOp)))

/-- R58, R59, R141: a request enters the queue of its kind behind those that are there while it holds fewer than 16; else its sender
keeps it, due again after BASE slate cycles, and keeps every request behind it. -/
def Claims.LeaseQueueBound : Prop :=
  ∀ (s : State) (r : LeaseReq),
    let cl := s.crew.core / 8
    let q := (aget (clusterOf s cl).queues r.kind).getD []
    let t := submitLease s r
    let q' := (aget (clusterOf t cl).queues r.kind).getD []
    let m : NakMsg := .lease s.crew.core cl r
    let x := s.reg (regBACKOFF (dieOfCore s.crew.core))
    (q.length < 16 → flowBusy s m = false → q' = q ++ [{ r with ent := s.clock.toNat }] ∧ t.naks = s.naks) ∧
    (flowBusy s m = true → q' = q ∧ t.naks = s.naks ++ [⟨m, 0, 0⟩]) ∧
    (16 ≤ q.length → flowBusy s m = false → q' = q ∧ t.naks = s.naks ++ [⟨m, 1, s.clock.toNat + max 1 (x % 2 ^ 12)⟩])

/-- R300, R301, R304: ECMD puts the items of an engine command into the open batch, ended as EVICTED where the lease was
evicted, and wakes a dim engine; SWBIND and SWUNB each put one item there, and SWBIND closes its window to later accesses. -/
def Claims.EngineAndWindowCommands : Prop :=
  ∀ (nx : NX) (d a b : BitVec 7) (s : State), nxFault nx 4 s = none → commandRuns s →
    let A := iget s a.toNat
    let P := fun (j : Nat) => iget s (b.toNat + j)
    let t := tget s d.toNat
    let kind := leaseKind t.val
    let sub := A.toNat % 2 ^ 8
    (∀ req cl, d.toNat < 16 → a.toNat < iLimit s → iRun s b.toNat 4 = true → t.pending = false → t.lease = some (req, cl) →
      t.released = false → subOk kind sub = true → A.toNat < 2 ^ 10 → argsOk kind sub (P 2) (P 3) = true →
      batchRoom s (cmdItems kind sub (P 2)) = none → flagCheck s (A.getLsbD 8) (A.getLsbD 9) = none →
      exec (.ecmd nx d a b) s = .next (after nx 4 (wakeFor ((List.range (cmdItems kind sub (P 2))).foldl (fun x row =>
        pushItem x (curWho x) (.ecmd cl req kind sub row (P 0) (P 1) (P 2) (P 3)) (A.getLsbD 8) (A.getLsbD 9) (scopeOf (modeOf x))
          (if leaseEvicted t.val then some .evicted else none)) s) cl req))) ∧
    (a.toNat < iLimit s → batchRoom s 1 = none →
      (iRun s b.toNat 3 = true → swOk A (P 2) = true → exec (.swbind nx a b) s = .next (after nx 4 (swbindDone s A (P 0) (P 1) (P 2)))) ∧
      (A.toNat < 64 → exec (.swunb nx a) s = .next (after nx 4 (newItem s (.swunb A.toNat) false false))) ∧
      (64 ≤ A.toNat → exec (.swunb nx a) s = .next (raise s (fx .illegalOp))))

/-! ## Items and steps that complete -/

/-- R86, R131, R287, R288, R325: once no earlier ACST of the issuer has the same words still to store, ACST stores the tile captured at
issue, adding to memory instead with AOS set, and a captured poisoned tile ends it with RESIDUE; ACLD loads its region into the tile; both then
end with OK and subtract their bytes from the barrier they count on. -/
def Claims.TileTransfersComplete : Prop :=
  ∀ (s s1 : State) (i : Item) (addr w : BitVec 64) (acc : Nat) (tile : Store 32) (p bad : Bool),
    let x := atWork s1 i
    let as := acAccs addr w
    let vs := (tileKeys w).map (fun k => tile.get k)
    let counted := fun (t : State) => countBar t (acBar w) (4 * acRows w * acCols w : Nat)
    (itemAtHand ItemOp.isAcst s s1 i → i.op = .acst addr w tile p bad → acstBehind x s.ev.item i as = false →
      (p = false → bad = false → acAos w = false → engFx x 4 [] as = none →
        exec .acstItemComplete s = itemDone s (counted (writeRun x (as.zip (vs.map BitVec.toNat)))) i) ∧
      (p = false → bad = false → acAos w = true → engAddr x 4 [] as = none → engData x 4 as as = none →
        exec .acstItemComplete s = itemDone s (counted (((storeOrder (as.zip vs)).map (fun q => ((q.1, locsOr x q.1 .write), q.2))).foldl
          (fun t y => addOnStore t (acFt w) y.1 y.2) x)) i) ∧
      (p = true → stagedFull x (itemDie x) = false →
        exec .acstItemComplete s = itemEnds s (counted x) i .residue ⟨.residue, 4, 0xFF, 0, false, 0⟩ false 0)) ∧
    (itemAtHand ItemOp.isAcld s s1 i → i.op = .acld acc addr w → engFx x 4 as [] = none →
      let y := drainAcc x as .read
      exec .acldItemComplete s =
        itemDone s (counted (putTile y acc ((tileKeys w).zip (as.map (fun a => BitVec.ofNat 32 (loadAcc y a)))))) i)

/-- R114, R300, R301, R361, R420: once nothing that issued before it may still use the window (log 16), SWBIND binds the window to the
indices it reads, in the lowest run of the pool that is free, where it copies them, and ends with SLOT_EXHAUSTED and the window unbound where no
run is, with ECC_UNCORR where it would write a damaged unit in part; its own reads see the window closed. SWUNB unbinds it. -/
def Claims.WindowItemsComplete : Prop :=
  ∀ (s s1 : State) (i : Item) (w z n : Nat) (base ixaddr : BitVec 64) (c : Ctx),
    let x := { s1 with accStamp := some (i.stamp + 1) }
    let as := runAcc ixaddr.toNat 4 n
    (itemAtHand ItemOp.isSwbind s s1 i → i.op = .swbind w z base ixaddr n → windowIdle x s.ev.item i w = true → engFx x 6 as [] = none →
      let y := drainAcc x as .read
      aget y.ctxs y.gang.ctx = some c →
      let runs := (c.windows.filter (fun b => b.1 ≠ w)).map (fun b => (b.2.run, bindUnits b.2.idx.length))
      let idx := as.map (fun q => BitVec.ofNat 32 (loadAcc y q))
      (∀ a, poolRun runs c.poolUnits (bindUnits n) = some a → badPart y (physKey 0 (c.pool + 4096 * a)) (4 * n) = true →
        stagedFull x (itemDie x) = false → exec .swbindItemComplete s = itemEnds s (setWindow y w i.stamp none) i .eccUncorr
          ⟨.eccUncorr, 6, 0xFF, physKey 0 (c.pool + 4096 * a) + 4, true, 0⟩ false 0) ∧
      (∀ a, poolRun runs c.poolUnits (bindUnits n) = some a → badPart y (physKey 0 (c.pool + 4096 * a)) (4 * n) = false →
        exec .swbindItemComplete s = itemDone s (setWindow
        (devPutBytes y (physKey 0 (c.pool + 4096 * a)) (idx.flatMap (fun v => natBytes 4 v.toNat))) w i.stamp (some ⟨base, z, a, idx⟩)) i) ∧
      (poolRun runs c.poolUnits (bindUnits n) = none → stagedFull x (itemDie x) = false → exec .swbindItemComplete s =
        itemEnds s (setWindow y w i.stamp none) i .slotExhausted ⟨.slotExhausted, 6, 0xFF, 0, false, 0⟩ false 0)) ∧
    (itemAtHand ItemOp.isSwunb s s1 i → i.op = .swunb w → windowIdle (atWork s1 i) s.ev.item i w = true →
      exec .swunbItemComplete s = itemDone s (setWindow (atWork s1 i) w i.stamp none) i)

/-- R95, R87, R296, R297: a CPLD whose record is readable and keeps the rules of R293 copies its region into its slot or into the
scratchpad, and a CPST stores its region from the scratchpad, once their accesses pass the checks and SOFF is a multiple of 4, those through one
window in ascending offset (R114); the wait of a CPLD that found its slot with pending readers counts in MXWAR, one cycle of it at least (log 15). -/
def Claims.CopiesComplete : Prop :=
  ∀ (s s1 : State) (i : Item) (sl : Option Nat) (h : BitVec 17) (recd org w : BitVec 64) (f : Store 32) (l : Layout),
    let x := atWork s1 i
    let r0 := orgRow org
    let c0 := orgCol org
    let bits := l.bits f
    let size := copySize x i recd w f
    let rows := denseElems l bits r0 c0 (ccRows w) (ccCols w)
    let inSpad := ccSoff w % 4 = 0 ∧ ccSoff w + ccPitch w bits * (ccRows w - 1) + (ccCols w * bits + 7) / 8 ≤ x.gang.pkt.spad * 1024
    let loaded := fun (t : State) =>
      let u := countBar t (ccBar w) size
      exec .cpldItemComplete s = itemDone s (endInterlock u i) i
    (itemAtHand ItemOp.isCpld s s1 i → i.op = .cpld sl h recd org w f →
      (∀ n, sl = some n →
        ((batOf x s.ev.item.who).before i).any (fun j => j.op.fills n || j.reads n) = false → (slotOf x.crew n).lost = false →
        readLayout x i recd org w f (some (hCls h)) (fun _ => true) = .inr l →
        let sc := if l.scaled f then scaleAccs l (hCls h) r0 c0 (ccRows w) (ccCols w) else []
        let as := elemAccs rows ++ sc.map (·.2)
        let y := drainAcc x as .read
        (l.kind ≤ 1 → ccSoff w % 4 = 0 → engFx x 2 as [] = none → (ccCols w * bits + 7) / 8 ≤ 256 →
          let data := rows.zipIdx.map (fun q => (256 * q.2, packCodes bits (codesOf y l f q.1)))
          slotPart y n data sc = false → loaded (fillSlot y n .dense data sc)) ∧
        (∀ t, l.kind = 2 → cpldTl x i n (hCls h) l w f r0 c0 = .ok t → loaded t) ∧
        (l.kind ≤ 1 → ccSoff w % 4 ≠ 0 → stagedFull x (itemDie x) = false → exec .cpldItemComplete s =
          itemEnds s (let u := countBar x (ccBar w) size; endInterlock u i) i .align
            ⟨.align, 2, 0xFF, 0, false, 0⟩ false 0) ∧
        (∀ t, l.kind = 3 → cpldSparse x i n (hCls h) l w f r0 c0 = .ok t → loaded t)) ∧
      (sl = none → readLayout x i recd org w f none (fun k => k.kind ≤ 1) = .inr l → inSpad →
        engFx x 2 (elemAccs rows) [] = none → spadPart x w bits = false →
        let y := drainAcc x (elemAccs rows) .read
        let row := fun (k : Nat) => packCodes bits (codesOf y l f (rows.getD k []))
        loaded ((List.range (ccRows w)).foldl (fun t k => (row k).zipIdx.foldl (fun t b =>
          locPut t (.spad t.crew.no (ccSoff w + ccPitch w bits * k + b.2)) b.1) t) y))) ∧
    (itemAtHand ItemOp.isCpst s s1 i → i.op = .cpst recd org w f →
      readLayout x i recd org w f none (fun k => k.kind ≤ 2 && (ccTl w = (k.kind = 2))) = .inr l → inSpad →
      spadBad x w bits = false →
      let ws := rows.zipIdx.flatMap (fun q => q.1.zipIdx.filterMap (fun e => e.1.map (fun a => (a.1, a.2, l.clean f (spadCode x w bits q.2 e.2)))))
      let as := ws.map (·.1)
      let y := drainAcc x as .write
      (l.kind ≤ 1 → engAddr x 2 [] as = none → engData x 2 (if bits = 4 then as else []) as = none → exec .cpstItemComplete s =
        itemDone s (countBar (((storeOrder ws).map (fun q => (locsOr y q.1 .write, q.2))).foldl (fun t q => putCode t bits q)
          (as.foldl dirtyAcc y)) (ccBar w) size) i) ∧
      (∀ t, l.kind = 2 → cpstTl x i l w f r0 c0 = .ok t →
        exec .cpstItemComplete s = itemDone s (countBar t (ccBar w) size) i))

/-- R114, R298: a CPSS whose ranges share no byte stores each source row at its destination row, what goes through one window in ascending
offset. -/
def Claims.ByteCopiesComplete : Prop :=
  ∀ (s s1 : State) (i : Item) (src dst pitch w : BitVec 64), itemAtHand ItemOp.isCpss s s1 i → i.op = .cpss src dst pitch w →
    let x := atWork s1 i
    let sp := signExt (bitsOf pitch.toNat 0 32) 32
    let dp := signExt (bitsOf pitch.toNat 32 32) 32
    let rs := (List.range (csRows w)).flatMap (csRow src.toNat sp (csLen w))
    let ws := (List.range (csRows w)).flatMap (csRow dst.toNat dp (csLen w))
    let y := drainAcc (drainAcc x rs .read) ws .write
    let pairs := (storeOrder (ws.zip rs)).flatMap (fun q => (locsOr y q.1 .write).zip (locsOr y q.2 .read))
    src.toNat % 4 = 0 → dst.toNat % 4 = 0 → sp % 4 = 0 → dp % 4 = 0 → engFx x 2 rs ws = none →
    (∀ p ∈ pairs, ∀ q ∈ pairs, p.2 ≠ q.1) →
    exec .cpssItemComplete s = itemDone s (countBar
      (pairs.foldl (fun t p => locPut t p.1 (locGet y p.2)) (ws.foldl dirtyAcc y)).freshen (csBar w) (csRows w * csLen w : Nat)) i

/-- R304 to R308, R310: the items of the function engine, the merge engine, the decoder, the sampler and the index engine
execute once the engine is lit and the earlier commands on its lease have ended, and end with OK with their results written
when their accesses pass the checks: NORM's rounding is log 31, the order check of a merge log 28, and the item of a decoder's command that ends
last writes its bitmap (log 29), whose address is checked first (log 80). -/
def Claims.EngineItemsComplete : Prop :=
  ∀ (s s1 y : State) (i : Item) (e : Engine) (cl req kind sub row : Nat) (p0 p1 p2 p3 : BitVec 64),
    i.op = .ecmd cl req kind sub row p0 p1 p2 p3 → engineAtHand kind s s1 y i e →
    let done := fun (j : Instr) (rs ws : List LaneAcc) (f : List Nat → State → State × List Nat) =>
      engFx y 5 rs ws = none →
      exec j s = itemDone s (let r := readRun y rs; let o := f r.2 r.1; writeRun o.1 (ws.zip o.2)) i
    let n := rowLen p2
    let src := runAcc (p0.toNat + row * bitsOf p2.toNat 32 32) 4 n
    let dst := runAcc (p1.toNat + row * bitsOf p2.toNat 32 32) 4 n
    let k := bitsOf p3.toNat 0 6 + row
    let m := e.xf.get (2 * k)
    let sm := e.xf.get (2 * k + 1)
    (kind = 0 →
      (sub = 0 → done .xfItemComplete src dst (fun v t => (t, n32 ((w32 v).map f32exp)))) ∧
      (sub = 1 → done .xfItemComplete src dst (fun v t => (t, n32 ((w32 v).map f32ln)))) ∧
      (sub = 2 → done .xfItemComplete src [] (fun v t =>
        (setSlotXf t cl req k (statRow m sm (w32 v)).1 (statRow m sm (w32 v)).2, []))) ∧
      (sub = 3 → done .xfItemComplete src dst (fun v t => (t, n32 (normRow m sm (w32 v))))) ∧
      (sub = 4 → done .xfItemComplete src dst (fun v t =>
        let q := statRow m sm (w32 v)
        (setSlotXf t cl req k q.1 q.2, n32 (normRow q.1 q.2 (w32 v))))) ∧
      (sub = 5 → done .xfItemComplete [] (runAcc p1.toNat 4 (2 * rowCount p2)) (fun _ t =>
        (t, (List.range (2 * rowCount p2)).map (fun j => (e.xf.get (2 * bitsOf p3.toNat 0 6 + j)).toNat)))) ∧
      (sub = 6 → done .xfItemComplete (runAcc p0.toNat 4 (2 * rowCount p2)) [] (fun v t => (onEngine t cl req (fun g => { g with
        xf := (w32 v).zipIdx.foldl (fun st q => st.put (2 * bitsOf p3.toNat 0 6 + q.2) q.1) e.xf }), [])))) ∧
    (kind = 1 →
      let ns := bitsOf p3.toNat 0 4
      let kt := bitsOf p3.toNat 4 2
      let kw := if kt = 3 then 8 else 4
      let vals := p3.getLsbD 8
      let da := runAcc p0.toNat 8 (4 * ns)
      let d := (readRun y da).2
      let ka := (List.range ns).map (fun j => runAcc (d.getD (4 * j) 0) kw (d.getD (4 * j + 2) 0))
      let va := (List.range ns).map (fun j => if vals then runAcc (d.getD (4 * j + 1) 0) 4 (d.getD (4 * j + 2) 0) else [])
      let t := drainAcc y (ka ++ va).flatten .read
      let xs := (ka.zip va).zipIdx.map (fun x =>
        (⟨x.2, 0, x.1.1.zipIdx.map (fun a => (loadAcc t a.1, ((x.1.2[a.2]?).map (loadAcc t)).getD 0))⟩ : MgStream))
      let total := (xs.map (fun x => x.left.length)).foldl (· + ·) 0
      let out := (mergeLoop kt (p3.getLsbD 6) (p3.getLsbD 7) (p3.getLsbD 9)
        (if sub = 1 then bitsOf p3.toNat 32 32 else total) (total + 1) xs [])
      let ws := runAcc p1.toNat kw out.1.length ++ (if vals then runAcc p2.toNat 4 out.1.length else []) ++
        runAcc (p0.toNat + 32 * ns) 8 1
      engFx y 5 da [] = none → (∀ j < ns, d.getD (4 * j + 3) 0 = 0) → engFx y 5 (ka ++ va).flatten [] = none →
      xs.find? (headBreaks kt (p3.getLsbD 6) none) = none → out.2 = none → engFx t 5 [] ws = none →
      exec .mgItemComplete s = itemDone s (writeRun t
        (ws.zip (out.1.map (·.1) ++ (if vals then out.1.map (·.2) else []) ++ [out.1.length]))) i) ∧
    (kind = 2 →
      let da := runAcc (p0.toNat + 32 * row) 8 4
      let d := (readRun y da).2
      let sa := runAcc (d.getD 0 0) 1 (bitsOf (d.getD 1 0) 0 32)
      ∀ out, engFx y 5 da [] = none → d.getD 3 0 = 0 → engFx y 5 sa [] = none →
      decodeChunk (readRun y sa).2 (bitsOf (d.getD 1 0) 32 32) = some out →
      let ws := runAcc (d.getD 2 0) 1 out.length
      let t := writeRun (drainAcc y sa .read) (ws.zip out)
      engFx y 5 [] ws = none →
      (chunkMap y i false = none → exec .dcItemComplete s = itemDone s t i) ∧
      (∀ b, chunkMap y i false = some b → engFx y 5 [] (runAcc p1.toNat 8 1) = none →
        exec .dcItemComplete s = itemDone s (writeRun t ((runAcc p1.toNat 8 1).zip [b])) i)) ∧
    (kind = 3 →
      (sub = 0 → done .spItemComplete (runAcc (p0.toNat + 4 * n * row) 4 n) (runAcc (p1.toNat + 4 * row) 4 1) (fun v t =>
        let r := sampleRow (w32 v) (BitVec.ofNat 32 (bitsOf p2.toNat 32 32)) (BitVec.ofNat 32 (bitsOf p3.toNat 32 32))
          (bitsOf p3.toNat 0 16) e.sp
        (onEngine t cl req (fun g => { g with sp := r.2 }), [r.1.toNat]))) ∧
      (sub = 1 → exec .spItemComplete s =
        itemDone s (onEngine y cl req (fun g => { g with sp := if p0 = 0 then 1 else p0 })) i) ∧
      (sub = 2 → done .spItemComplete [] (runAcc p1.toNat 8 1) (fun _ t => (t, [e.sp.toNat])))) ∧
    (kind = 5 →
      (sub = 0 → done .ixItemComplete (runAcc p0.toNat 4 p2.toNat ++ runAcc p1.toNat 4 p3.toNat) (runAcc p1.toNat 4 p3.toNat)
        (fun v t => (t, (v.drop p2.toNat).zipIdx.map (fun b => (b.1 + ((v.take p2.toNat).filter (· = b.2)).length) % 2 ^ 32)))) ∧
      (sub = 1 → engFx y 5 (runAcc p0.toNat 4 p2.toNat) [] = none →
        let out := (readRun y (runAcc p0.toNat 4 p2.toNat)).2.foldr setInsert []
        done .ixItemComplete (runAcc p0.toNat 4 p2.toNat) (runAcc p1.toNat 4 out.length ++ runAcc p3.toNat 8 1)
          (fun _ t => (t, out ++ [out.length]))) ∧
      (sub = 2 → done .ixItemComplete (runAcc p0.toNat 4 p2.toNat) (runAcc p1.toNat 4 p3.toNat) (fun v t =>
        (t, (((w32 v).zipIdx.map (fun x => (x.2, x.1))).foldr topInsert []).map (·.1) |>.take p3.toNat))))

/-- R58, R148, R309: a collective whose participants of the package are all there and agree, with no die dark and no link down among them, writes
each destination from the sources in ascending rank, those of peers as the event brings them, and ends every item with OK, all in one event (log
35); one that any item finds malformed, that the participants give different words for, or whose root is no rank ends with BAD_DESC, and so does
each participant that comes to it later. -/
def Claims.CollectiveCompletes : Prop :=
  ∀ (s : State) (r : ItemRef) (core : Nat) (i : Item) (ctx : Nat) (c : Coll) (here : List Present) (bad : Bool), s.ev.item = r →
    (clItems s (((aget s.gangs r.who.gang).map (fun g => g.ctx)).getD 0)).find? (fun x => x.1 = r) = some (r, core, i) →
    clReady s r i = some (ctx, .inr c) → clHeld s r i = none →
    let sub := (clArgs i).1
    let p3 := (clArgs i).2.2.2.2
    let at_ := coreOfRef s r
    let s0 := forgetColl s ctx c sub at_
    (collFailed s ctx c.id sub at_ = true →
      exec .clItemComplete s = .next (forgetColl (failColl s ctx c.id sub [(c.rank, r, i)]) ctx c sub 192)) ∧
    (collFailed s ctx c.id sub at_ = false → gather s0 ctx c p3 sub = (here, bad) →
      (c.ok = false → exec .clItemComplete s =
        .next (failColl s0 ctx c.id sub ((c.rank, r, i) :: here.filter (fun x => x.2.1 ≠ r)))) ∧
      (c.ok = true → bad = true ∨ (sub = 2 ∧ c.parts ≤ bitsOf p3.toNat 40 8) →
        exec .clItemComplete s = .next (failColl s0 ctx c.id sub here)) ∧
      (c.ok = true → bad = false → (sub = 2 → bitsOf p3.toNat 40 8 < c.parts) →
        (∀ e ∈ c.ents, ∀ n, partOf e = .core n → n / 96 ∉ s.dark) → (∀ e ∈ c.ents, ∀ n, partOf e = .peer n → linkUp s (6 + n) = true) →
        (∀ k n, (c.ents[k]?).map partOf = some (.core n) → ∃ x ∈ here, x.1 = k) →
        (∀ x ∈ here, seenBy s0 x.2.1 x.2.2 (fun s1 => engFx s1 5 (clSrc x.2.2 x.1) (clDst x.2.2 c.parts)) = some none) →
        ∃ srcs t, srcs.length = c.ents.length ∧
          (∀ k n, (c.ents[k]?).map partOf = some (.core n) → ∃ x ∈ here, x.1 = k ∧
            seenBy s0 x.2.1 x.2.2 (fun s1 => (readRun s1 (clSrc x.2.2 x.1)).2) = srcs[k]?) ∧
          (∀ k n, (c.ents[k]?).map partOf = some (.peer n) → srcs[k]? = some (peerWords s.ev.bytes (bitsOf p3.toNat 0 32 / 4)
            (((c.ents.map partOf).take k).countP (fun q => match q with
              | .peer _ => true
              | _ => false)))) ∧
          t = here.foldl (fun t x => onCrew t x.2.1.who.gang x.2.1.who.crew (fun t1 =>
            { writeRun { t1 with accStamp := some x.2.2.stamp } ((clDst x.2.2 c.parts).zip (clResult sub p3 srcs)) with
              accStamp := none })) s0 ∧
          exec .clItemComplete s = .next (endAll t here .ok)))

/-- R118, R276, R358: an item's failing access ends it with the failure's status and one record, as soon as the ring has room for the record, and
a PAGE leaves the item waiting under a replay identity, the next number (log 73), with nothing written; with the staging store full neither
happens yet. What its accesses miss of the TLB and L1 is free (log 15). -/
def Claims.ItemFailures : Prop :=
  ∀ (kind : ItemOp → Bool) (work : State → ItemRef → Item → ItemRes) (s s1 : State) (i : Item), itemAtHand kind s s1 i →
    let x := atWork s1 i
    let r := s.ev.item
    (∀ st f nm aux y, work x r i = .fail st f nm aux y → stagedFull x (itemDie x) = false → st ≠ .ok → st ≠ .evicted →
      (i.rel = true → i.op.src = 3 → (batOf y r.who).before i = []) →
      let z := countMisses y y.crew.core
      itemEvent kind work s = unfocusCrew { settleAll (updItem (touchEngine (stageItem (noteEcc z f nm) (itemRec z r i.pc f aux none nm)) i.op) r
        (fun j => { j with status := if ringRoom y y.gang.ctx then some st else none, drained := some st, page := none })) r.who with
          accStamp := none }) ∧
    (∀ f, work x r i = .page f → f.busy = false → stagedFull x (itemDie x) = false → x.pageWaits = [] →
      let rid := itemDie x * 2 ^ 31 + x.nextRid % 2 ^ 31
      ∃ t, itemEvent kind work s = unfocusCrew { updItem t r (fun j => { j with page := some (rid, f) }) with accStamp := none } ∧
        t.mem = x.mem ∧ t.pageWaits = [⟨rid, itemDie x, x.gang.ctx, f.addr / 4096⟩] ∧ t.staged.length = x.staged.length + 1) ∧
    (∀ f, work x r i = .page f → stagedFull x (itemDie x) = true ∨ f.busy = true → itemEvent kind work s = unfocusCrew { x with accStamp := none })

/-- R66, R68, R78, R82, R85, R420: the latches of the step chosen next take its B slot's form, data and scales 16 cycles after its window
opened, when no earlier copy into the slot is pending, and note whether a unit of it is damaged; a step begins once it is latched, the engine is
free and its A slot is filled, with the metadata it fetches and what its A slot holds (log 98); what is wrong at cycle 0 is kept for its end, in
the order metadata, slots, forms (log 78). Lines of metadata fetched are free (log 33). -/
def Claims.StepsBegin : Prop :=
  ∀ (s s1 : State) (x : Running) (i : Item), (coreOf s s.ev.n).nxt = some x →
    focusCrew s x.item.who.gang x.item.who.crew = some s1 → itemOf s1 x.item = some i →
    let b := slotOf s1.crew i.op.slotsAB.2
    let y := atWork s1 i
    let a := slotOf s1.crew i.op.slotsAB.1
    (x.latch = none → passed s s.ev.n x 16 = false → exec .latchLoadComplete s = .next s) ∧
    (x.latch = none → passed s s.ev.n x 16 = true → copied s1 x.item i i.op.slotsAB.2 = true → exec .latchLoadComplete s =
      .next (unfocusCrew (setRun (updItem s1 x.item (fun j => { j with readB := true })) s.ev.n
        (fun c => { c with nxt := some { x with latch := some (b.form, b.data, b.scales), badB := slotBad s1 i.op.slotsAB.2 (readsB i.op) } })))) ∧
    (∀ l, (coreOf s s.ev.n).run = none → x.latch = some l → copied s1 x.item i i.op.slotsAB.1 = true → i.page = none →
      acqOk s1 x.item i = true →
      let begins := fun (t : State) (fail : Option (Status × Fx × Bool)) (bs : List (Nat × List Nat)) (p : StepPlan) => exec .mxStepStart s =
        .next (unfocusCrew (chooseNext (countMeta (beginStep { t with accStamp := none } s.ev.n x i.op fail bs p) s.ev.n i.op true) s.ev.n))
      (∀ t bs dat, fetchBudgets y i.op = (t, .go bs) → prepStep t i.op l.1 x.badB bs = .go dat → begins t none bs (stepPlan i.op dat)) ∧
      (∀ t bs st f nm, fetchBudgets y i.op = (t, .go bs) → prepStep t i.op l.1 x.badB bs = .fail st f nm →
        begins t (some (st, f, nm)) bs .zero) ∧
      (∀ t st f nm, fetchBudgets y i.op = (t, .fail st f nm) → exec .mxStepStart s =
        .next (unfocusCrew (chooseNext (countMeta (beginStep s1 s.ev.n x i.op (some (st, f, nm)) [] .zero) s.ev.n i.op (st = .eccUncorr)) s.ev.n)))) ∧
    (∀ p, let u := beginStep s1 s.ev.n x i.op none [] p
      (coreOf u s.ev.n).run = some { x with fail := none, budgets := [], since := some (coreCycles s1 s.ev.n),
                                            slotA := some (a.form, a.data, a.scales), plan := p } ∧ (coreOf u s.ev.n).nxt = none)

/-- R20: an engine that has chosen no step takes the oldest step of the stream that comes first of those with one to begin, counting up from the
stream after that of the latest step and wrapping from 3 to 0; with none to begin it chooses none, and one chosen already stays. -/
def Claims.StepChosen : Prop :=
  ∀ (s : State) (n : Nat) (x : Nat × Nat × Nat × Batches) (r : Nat × Nat),
    let c := coreOf s n
    let mine := fun (y : Nat × Nat × Nat × Batches) => oldestStep y.2.2.2 (fun _ => false)
    let place := fun (y : Nat × Nat × Nat × Batches) => (y.2.2.1 + 3 - c.lastStream) % 4
    (c.nxt.isSome = true → chooseNext s n = s) ∧
    (c.nxt = none → (∀ y ∈ streamsOn s n, mine y = none) → chooseNext s n = s) ∧
    (c.nxt = none → x ∈ streamsOn s n → mine x = some r → (∀ y ∈ streamsOn s n, y ≠ x → mine y ≠ none → place x < place y) →
      chooseNext s n = setCore s n { c with nxt := some ⟨⟨⟨x.1, x.2.1, 0, true⟩, r.1, r.2⟩, none, none, false, none, .zero, none, []⟩ }) ∧
    (mine x = some r → ∃ i l l', x.2.2.2.refs = l ++ (r.1, i) :: l' ∧ i.ix = r.2 ∧
      (∀ p ∈ l, (p.2.op.isMx && !p.2.started && p.2.status = none && p.2.drained = none) = false) ∧
      (i.op.isMx && !i.started && i.status = none && i.drained = none) = true)

/-- R62, R67, R68, R70, R71, R85, R420: once its T cycles have passed, the end of a step that found nothing wrong updates its tiles from the latched
B and the A rows and ends its item with OK; one in which a residue mismatch was detected leaves its tiles poisoned and undefined, ends with RESIDUE
and is recorded by the AMB; one of whose accumulators a unit is damaged ends with ECC_UNCORR; one that failed at cycle 0 ends with that failure
after 6 cycles (log 15). The engine is free from then on. -/
def Claims.StepsEnd : Prop :=
  ∀ (s s1 : State) (x : Running) (i : Item) (acc sa sb v lgG dep : Nat) (d : BitVec 64) (sat : Bool) (fa fb : BitVec 32)
    (ha hb : BitVec 17), (coreOf s s.ev.n).run = some x → focusCrew s x.item.who.gang x.item.who.crew = some s1 →
    itemOf s1 x.item = some i → i.op = .mx acc d sa sb v lgG dep sat fa fb ha hb →
    let s0 := setRun s1 s.ev.n (fun c => { c with run := none })
    let due := passed s1 s.ev.n x x.plan.cycles
    let ends := fun (u : State) (st : Status) (f : Fx) (nm : Bool) => exec .mxStepComplete s = .next (unfocusCrew (endItem u x.item i st f nm 0))
    (due = false → exec .mxStepComplete s = .next (unfocusCrew s1)) ∧
    (∀ bf bd bsc af ad asc, due = true → x.fail = none → x.latch = some (bf, bd, bsc) → x.slotA = some (af, ad, asc) →
      (∀ dat, prepRows i.op af ad x.budgets = .go dat → tilesBad s1 i.op = false → s.ev.flag = false →
        ends (applyStep s0 i.op asc bd bsc dat) .ok (fx .stale) false) ∧
      (s.ev.flag = true → tilesBad s1 i.op = false → stagedFull s1 (itemDie s1) = false →
        ends (poisonTiles (addLog s0 3 4 s.ev.n 1 (1 + 2 ^ 8 * (s1.ev.m % 256))) true (dTiles d acc)) .residue ⟨.residue, 3, 0xFF, 0, false, 0⟩ false) ∧
      (tilesBad s1 i.op = true → stagedFull s1 (itemDie s1) = false →
        ends (poisonTiles s0 false (dTiles d acc)) .eccUncorr (eccFx 3) false)) ∧
    (∀ st f nm, x.fail = some (st, f, nm) → stagedFull s1 (itemDie s1) = false → due = true →
      ends (if st = .eccUncorr ∨ st = .linkDown then poisonTiles s0 false (dTiles d acc) else s0) st f nm) ∧
    StepPlan.zero.cycles = 6

/-- R67: the Starts, Finishes and waits of the rule's recurrence for a step's G, D and cycles t of its rows' lanes
give W, and T is W, a cycle for each skipped row and the 6 of the drain; by each cycle the terms and the waits counted are those that the
recurrence has before it. -/
def Claims.StepCycles : Prop :=
  ∀ (acc sa sb v lgG dep : Nat) (d : BitVec 64) (sat : Bool) (fa fb : BitVec 32) (ha hb : BitVec 17) (dat : StepData), lgG ≤ 4 →
    let p := stepPlan (.mx acc d sa sb v lgG dep sat fa fb ha hb) dat
    let rows := dat.grid.length
    let t := fun (m l : Nat) => (dat.grid.getD m []).getD l 0
    let all := (List.range rows).flatMap (fun m => (List.range 64).map (fun l => (m, l)))
    let total := fun (f : Nat → Nat → Nat) => (all.map (fun x => f x.1 x.2)).foldl (· + ·) 0
    ∃ start fin : Nat → Nat → Nat,
      let before := fun (m l : Nat) => if m = 0 then 0 else fin (m - 1) l
      let group := fun (m l : Nat) => if m < 1 + dep then 0 else
        ((List.range 64).filter (fun j => j / 2 ^ lgG = l / 2 ^ lgG)).foldl (fun a j => max a (fin (m - 1 - dep) j)) 0
      (∀ m l, m < rows → l < 64 → start m l = max (before m l) (group m l) ∧ fin m l = start m l + t m l) ∧
      p.width = (List.range 64).foldl (fun a l => max a (before rows l)) 0 ∧ p.skip = dM d - v ∧ p.cycles = p.width + (dM d - v) + 6 ∧
      (∀ n, ranBy p.terms n = total (fun m l => min (t m l) (n - start m l))) ∧
      (∀ n, ranBy p.waits n = total (fun m l => min (start m l - before m l) (n - before m l)))

/-- R87: in the next cycles of a core MXTERM, MXBAR and MXSKIP grow by the terms, the waits and the skipped rows that the running step has in them,
and MXLAT by those of the 16 cycles of the latch load of the chosen step in which no step runs. -/
def Claims.EngineCounts : Prop :=
  ∀ (s : State) (n cyc : Nat),
    let c := coreOf s n
    let now := coreCycles s n
    let grows := fun (k by_ : Nat) => (coreOf (countEngine s n cyc) n).cnt.get k = c.cnt.get k + BitVec.ofNat 64 by_
    (c.run = none → grows 0 0 ∧ grows 1 0 ∧ grows 2 0) ∧
    (∀ x t, c.run = some x → x.since = some t → t ≤ now →
      let by_ := fun (l : List (Nat × Nat)) => ranBy l (now + cyc - t) - ranBy l (now - t)
      grows 0 (by_ x.plan.terms) ∧ grows 1 (by_ x.plan.waits) ∧ grows 2 (by_ [(x.plan.width, x.plan.skip)])) ∧
    (c.nxt.all (fun y => y.since.isNone) = true → grows 3 0) ∧
    (∀ y w, c.nxt = some y → y.since = some w →
      (c.run = none → grows 3 ((List.range cyc).filter (fun i => w ≤ now + i ∧ now + i < w + 16)).length) ∧
      (∀ x t, c.run = some x → x.since = some t →
        grows 3 ((List.range cyc).filter (fun i => w ≤ now + i ∧ now + i < w + 16 ∧ t + x.plan.cycles ≤ now + i)).length))

/-- R62, R70, R71: a step changes the elements of its rows and columns in its tiles, each to what its old value, its
activation row and its column of B give, and no other element. -/
def Claims.StepUpdatesTiles : Prop :=
  ∀ (s : State) (acc sa sb v lgG dep : Nat) (d : BitVec 64) (sat : Bool) (fa fb : BitVec 32) (ha hb : BitVec 17)
    (asc bd bsc : Store 8) (dat : StepData),
    let op : ItemOp := .mx acc d sa sb v lgG dep sat fa fb ha hb
    let t := applyStep s op asc bd bsc dat
    (∀ n ∈ dTiles d acc, ∀ m j, j < 256 →
      (tileOf t.crew n).acc.get (256 * m + j) =
        match dat.rows[m]? with
        | some (some row) => if j < dN d - 256 * (n - acc) then
            stepElem op asc bd bsc row m (j + 256 * (n - acc)) ((tileOf s.crew n).acc.get (256 * m + j))
          else (tileOf s.crew n).acc.get (256 * m + j)
        | _ => (tileOf s.crew n).acc.get (256 * m + j)) ∧
    (∀ n, n ∉ dTiles d acc → tileOf t.crew n = tileOf s.crew n) ∧ (∀ n ∈ dTiles d acc, (tileOf t.crew n).poison = (tileOf s.crew n).poison)

/-! ## The dispatcher, the former and the stream as they move by themselves -/

/-- R42, R43, R262: the former builds a group from up to 32 records of the first class that is ready, once a slot, a number and
register space are free: the records leave spawn memory in order, and each lane takes its record's registers, its thread and
the target, and the barrier phases standing then count as recorded. -/
def Claims.GroupFormer : Prop :=
  ∀ (s s1 : State) (k : RecClass) (slot no : Nat), focusCrew s s.ev.who.gang s.ev.who.crew = some s1 →
    let s2 := if autoFlush s1.crew then { s1 with crew := flushPoint s1.crew } else s1
    let rs := (s2.crew.recs.filter (fun r => r.cls = k)).take 32
    let g := builtGroup s2 k rs no slot
    firstClass (readyClasses s2.crew) = some k → lowestFree (slotsUsed s2 s2.crew.core) 0 64 = some slot →
    lowestFree ((liveGroups s2.crew).map (fun x => x.no)) s2.gang.pkt.crew (64 - s2.gang.pkt.crew) = some no →
    regBytes s2 s2.crew.core + regsOf s2 * 128 ≤ 512 * 1024 →
    (∃ t, exec .formerBuild s = .next (unfocusCrew t) ∧ aget t.crew.groups s2.crew.nextGrp = some g ∧
      t.crew.recs.length + rs.length = s2.crew.recs.length ∧
      t.crew.recs.filter (fun r => r.cls ≠ k) = s2.crew.recs.filter (fun r => r.cls ≠ k)) ∧
    g.no = no ∧ g.slot = slot ∧ g.formed = true ∧ g.mode = k.mode ∧ g.recPhase = s2.crew.bars.map (fun b => (b.1, b.2.phase)) ∧
    (∃ x, g.splits = [x] ∧ x.pc = k.pc ∧ x.mask = BitVec.ofNat 32 (2 ^ rs.length - 1)) ∧
    (∀ j r, rs[j]? = some r → aget g.lanes j = some r.thread ∧ ∀ n v, r.v[n]? = some v → g.v.get (32 * n + j) = v)

/-- R44: when the count of an RWAIT has elapsed the splits that wait at it join, sD takes the number missing, and NX acts; before, nothing
happens, and each cycle of the core takes one from the count. That the count runs in arithmetic cycles, and what the joined split keeps, is
log 14. -/
def Claims.RwaitElapses : Prop :=
  ∀ (s s1 s2 : State) (d left n : Nat) (nx : NX) (x : Split), focusCrew s s.ev.who.gang s.ev.who.crew = some s1 →
    focusSplit s1 s1.ev.who.grp s1.ev.n = some s2 → s2.split.hold = .rwait d nx left →
    (left = 0 → nxFault nx 4 (rwaitDone s2 d) = none →
      exec .rwaitTimeout s = .next (unfocusCrew (unfocusSplit { endHold (after nx 4 (rwaitDone s2 d)) with stalled := false }))) ∧
    (left ≠ 0 → exec .rwaitTimeout s = .next (unfocusCrew (unfocusSplit { s2 with stalled := false }))) ∧
    (x.hold = .rwait d nx left → (x.age n).hold = .rwait d nx (left - n))

/-- R51, R53, R122, R126: a guarded command waiting at a stream's head is decided once its slot is resolved; an ending
stream has ended once its batches are complete, and not before; logical time advances for every issuer of a crew; a fence's
token completes, after the drains of its B bit, once every item it covers has ended and every access that it covers has performed, and not before. -/
def Claims.StreamAndFenceEvents : Prop :=
  ∀ (s s1 : State), focusCrew s s.ev.who.gang s.ev.who.crew = some s1 →
    let x := s1.crew.strm
    (∀ v, x.st = .running → x.hold = .wait → x.guard = none → guardOf x.mode ≠ 0 →
      aget s1.crew.guards (guardOf x.mode - 1) = some v → exec .guardedCommandRelease s =
        .next (unfocusCrew (setStrm s1 (fun y => { y with guard := some (v != ginvOf x.mode), hold := .none })))) ∧
    (let s2 := settleAll s1 ⟨s1.gid, s1.crew.no, 0, true⟩
     (s2.crew.strm.st = .ending → s2.crew.strm.bat.sealed = [] →
       exec .streamEnded s = .next (unfocusCrew (setStrm s2 (fun y => { y with st := .ended })))) ∧
     (s2.crew.strm.st = .ending → s2.crew.strm.bat.sealed ≠ [] → exec .streamEnded s = .next (unfocusCrew s2))) ∧
    exec .logicalTimeAdvance s = .next (unfocusCrew (setOwn s1 (fun c =>
      { c with strm := { c.strm with ltime := c.strm.ltime + 1 },
               groups := c.groups.map (fun g => (g.1, { g.2 with ltime := g.2.ltime + 1 })) }))) ∧
    (∀ t b items held, t.pending = true → t.fence = some ⟨b, items, held⟩ →
      let kept := if s.ev.who.stream then [] else ((groupOf s1 s.ev.who.grp).map (fun g => heldStamps g (fun _ => true))).getD []
      aget (if s.ev.who.stream then x.t else ((groupOf s1 s.ev.who.grp).map (fun g => g.t)).getD []) s.ev.n = some t →
      ((∀ k ∈ items, k ∉ openItems (batOf s1 s.ev.who)) → (∀ n ∈ held, n ∉ kept) → exec .fenceComplete s =
        .next (unfocusCrew (updTok (if b then fenceDrain s1 s.ev.who else s1) s.ev.who s.ev.n (fun _ => .zero)))) ∧
      ((∃ k ∈ items, k ∈ openItems (batOf s1 s.ev.who)) ∨ (∃ n ∈ held, n ∈ kept) → exec .fenceComplete s = .next (unfocusCrew s1)))

/-- R32, R33, R57, R386: the packet that the dispatcher takes leaves its queue; a well-formed one becomes a grid that waits for its launching
grid while that has not ended, at a priority no higher than its queue's cap; a malformed one with a usable CADDR becomes an ended grid of status
3, and one without leaves a BAD_PACKET record; one in a damaged unit an ECC_UNCORR record (log 101). A grid whose launching grid has ended may
start. Which packet is taken (log 38) and the context of a malformed one (log 39) are deduced. -/
def Claims.PacketsTaken : Prop :=
  ∀ (s : State) (r : PktRef),
    let takes := ctxRuns s s.ev.n = true ∧ dispStalls s = false ∧ ctxAborts s s.ev.n = false ∧ nextPacket s s.ev.n = some r ∧ pktBad s r = none
    let bs := pktBytes s r
    let p0 := packetOf bs
    let p := { p0 with prio := min p0.prio r.cap }
    let held := r.parent.bind (fun g => if (aget s.grids g).any (fun x => !x.fin) then some g else none)
    (takes → packetOk bs s.ev.n = true → ∃ t, exec .packetTake s = .next t ∧ t.visible = s.visible.filter (· ≠ r) ∧
      aget t.grids s.nextGrid = some ⟨s.ev.n, p, r.dev, r.q, r.ix, 0, 0, 0, held, 0, 0, false, none⟩ ∧ t.gangs = s.gangs) ∧
    (takes → packetOk bs s.ev.n = false → p0.canNotify = true → ∃ t, exec .packetTake s = .next t ∧
      t.visible = s.visible.filter (· ≠ r) ∧
      aget t.grids s.nextGrid = some ⟨s.ev.n, p, r.dev, r.q, r.ix, 0, 0, 0, none, 3, 0, true, none⟩) ∧
    (takes → packetOk bs s.ev.n = false → p0.canNotify = false → ∃ t q, exec .packetTake s = .next t ∧
      t.visible = s.visible.filter (· ≠ r) ∧ t.grids = s.grids ∧ t.gangs = s.gangs ∧ t.staged = s.staged ++ [q] ∧ q.cause = .badPacket ∧
      q.dest = none ∧ q.src = 9 ∧ q.aux = srcq r.dev r.q) ∧
    (∀ k m, ctxRuns s s.ev.n = true → dispStalls s = false → ctxAborts s s.ev.n = false → nextPacket s s.ev.n = some r → pktBad s r = some (k, m) →
      ∃ t q, exec .packetTake s = .next t ∧ t.visible = s.visible.filter (· ≠ r) ∧ t.grids = s.grids ∧ t.gangs = s.gangs ∧
        t.staged = s.staged ++ [q] ∧ q.cause = .eccUncorr ∧ q.dest = none ∧ q.src = 9 ∧ q.aux = srcq r.dev r.q) ∧
    (∀ g q, aget s.grids s.ev.n = some g → g.parent = some q → (aget s.grids q).all (fun x => x.fin) = true →
      exec .childGridStart s = .next { s with grids := aput s.ev.n { g with parent := none } s.grids })

/-- R13, R17, R18, R34: the next gang of the grid offered is placed on the lowest core of the partition from which it fits;
a core's SRAM split is what its crews' scratchpads and spawn memories need, in steps of 64 KiB, and goes back to none once the core has
been idle for 1,024 cycles and not before. Which gang is offered is log 38, what an idle core is log 55. -/
def Claims.GangsPlaced : Prop :=
  ∀ (s : State) (c : Ctx) (id core : Nat) (g : Grid),
    (aget s.ctxs s.ev.n = some c → c.st = .running → s.halted = false → ctxStops s s.ev.n = false → c.image = [] →
      offered s s.ev.n = some (id, g) → spotFor s (clustersOf s c.part) (wantNew g.pkt) = some core → gated s (core / 8) = false →
      let x := newGang s id (BitVec.ofNat 64 g.next) g.pkt core
      ∃ t, exec .gangPlace s = .next t ∧ aget t.gangs s.nextGang = some x ∧
        (∀ k, k ≠ s.nextGang → aget t.gangs k = aget s.gangs k) ∧ aget t.grids id = some { g with next := g.next + 1 } ∧
        x.crews.map (fun y => (y.1, y.2.core)) = (List.range g.pkt.gang).map (fun k => (k, core + k))) ∧
    (s.ev.n < 192 → crewsOn s s.ev.n = [] →
      ((coreOf s s.ev.n).idleAt + 1024 ≤ coreCycles s s.ev.n → ∃ t, exec .sramSplitReclaim s = .next t ∧ (coreOf t s.ev.n).spadKiB = 0) ∧
      (coreCycles s s.ev.n < (coreOf s s.ev.n).idleAt + 1024 → exec .sramSplitReclaim s = .next s)) ∧
    (∀ n, (coreOf (resplit s n) n).spadKiB = (sumOn s n (fun q => q.spad + q.spawn) + 63) / 64 * 64)

/-- R54, R162: a gang whose lanes, records and stream have ended counts for its grid and gives back its leases, and leaves altogether with the
last of its batches (log 37); a gang with any of the three left stays. -/
def Claims.GangsEnd : Prop :=
  ∀ (s : State) (g : Gang), aget s.gangs s.ev.n = some g →
    let ended := g.crews.all (fun c => c.2.over) = true
    let quiet := g.crews.all (fun c => c.2.quiet) = true
    let t := if g.gone then s else retireGang s s.ev.n g
    (ended → quiet → exec .gangEnd s = .next (removeGang t s.ev.n) ∧ aget (removeGang t s.ev.n).gangs s.ev.n = none ∧
      (∀ k, k ≠ s.ev.n → aget (removeGang t s.ev.n).gangs k = aget s.gangs k)) ∧
    (ended → ¬ quiet → exec .gangEnd s = .next t ∧ aget t.gangs s.ev.n = some { g with gone := true } ∧
      (∀ k, k ≠ s.ev.n → aget t.gangs k = aget s.gangs k)) ∧
    (¬ ended → exec .gangEnd s = .next s)

/-- R58, R59, R211: once its back-off has passed, the only entry of a flow that its receiver now accepts leaves the sender, and one that is
refused again stays with a NAK more and the back-off of that many; NAKREP of a core's sender counts the resend. -/
def Claims.RefusalsSentAgain : Prop :=
  ∀ (s : State) (n : Nak), s.naks[s.ev.n]? = some n → s.naks.filter (fun x => x.msg.sameFlow n.msg) = [n] →
    let s1 := match n.msg.core with
      | some c => bump s c 0x23 1
      | none => s
    (s.clock.toNat < n.due → exec .replayResend s = .next s) ∧
    (n.due ≤ s.clock.toNat →
      (∀ s2, resendOne { s1 with naks := s.naks.erase n } n.msg = some s2 → exec .replayResend s = .next s2) ∧
      (resendOne { s1 with naks := s.naks.erase n } n.msg = none → exec .replayResend s = .next { s1 with
        naks := s.naks.map (fun x => if x = n then
          { n with k := n.k + 1, due := s.clock.toNat + backoff s1 n.msg.die (n.k + 1) } else x) })) ∧
    (∀ die k, backoff s die k = max 1 (bitsOf (s.reg (regBACKOFF die)) 0 12) * 2 ^ min (k - 1) (bitsOf (s.reg (regBACKOFF die)) 12 4))

/-- R131, R135: the drain of a holder adds each contribution it holds to the element of the line at its home, in either tier of memory, by one
rounded FP32 or wrapped INT32 addition, and changes no other element; it gives the holder's share back to the line's remainder and takes it out
of the line; a line with no share left is no longer withheld. The bookkeeping of no other line changes. -/
def Claims.HoldersDrain : Prop :=
  ∀ (s : State) (x : Line) (sh : Share), aget s.lines s.ev.n = some x → aget x.shares s.ev.m = some sh →
    let fp := ((aget s.ctxs x.ctx).bind (fun c => aget c.bounds x.bidx)).any (fun b => b.fp)
    ∃ t, exec .holderDrain s = .next t ∧
      ((sh.deltas.map (·.1)).Nodup → (∀ e ∈ sh.deltas, e.1 < 32) →
        ∀ e < 32, lineWord t x.kid s.ev.n e = match aget sh.deltas e with
          | none => lineWord s x.kid s.ev.n e
          | some v => boundAdd fp (lineWord s x.kid s.ev.n e) v) ∧
      (adel s.ev.m x.shares = [] → aget t.lines s.ev.n = none) ∧
      (adel s.ev.m x.shares ≠ [] →
        aget t.lines s.ev.n = some { x with u := x.u.add (e8m8 sh.s), shares := adel s.ev.m x.shares }) ∧
      (∀ k, k ≠ s.ev.n → aget t.lines k = aget s.lines k) ∧ t.gangs = s.gangs ∧ t.regs = s.regs

/-- R137 to R142: at the end of a slate cycle, once in it, a lone waiting request is granted a lit engine of its kind, else a dim one, else a
dark one while fewer than eight are powered; one that outranks a lease held for 10 µs on the last engines of its kind takes that lease's
engine. An engine that was dim wakes before its token reads (log 32). -/
def Claims.LeasesGranted : Prop :=
  ∀ (s : State) (r : LeaseReq), s.ev.n < 24 → headsOf (clusterOf s s.ev.n) s.clock.toNat = [r] →
    let c := clusterOf s s.ev.n
    let s0 := setCluster s s.ev.n { c with roundAt := s.clock.toNat }
    (s.clock.toNat ≤ c.roundAt → exec .leaseGrant s = .next s) ∧
    (c.roundAt < s.clock.toNat → noTimerDue s s.ev.n →
      ((s.ev.n / 12) ∉ s.dark →
        (∀ m, freeEngine c r.kind .lit = some m → exec .leaseGrant s = .next (grant s0 s.ev.n r m)) ∧
        (∀ m, freeEngine c r.kind .lit = none → freeEngine c r.kind .dim = some m →
          exec .leaseGrant s = .next (grant s0 s.ev.n r m)) ∧
        (∀ m, freeEngine c r.kind .lit = none → freeEngine c r.kind .dim = none → freeEngine c r.kind .dark = some m →
          poweredCount c < 8 → exec .leaseGrant s = .next (grant s0 s.ev.n r m))) ∧
      (∀ m, r.kind ≤ 5 → (∀ p, freeEngine c r.kind p = none) →
        victim s c ((List.range 4).map (fun j => 4 * r.kind + j)) r.prio = some m →
        let s1 := evictLease s0 s.ev.n m .evicted
        exec .leaseHoldExpire s = .next (grant (updEngine s1 s.ev.n m
          (fun e => { e with power := (engOf c m).power, waking := (engOf c m).waking })) s.ev.n r m)))

/-- R140, R141: of each kind's queue only the request of highest priority, the earliest entered among equals, is served, and one cycle's
heads are served by descending priority, then earlier entry, then kind, each after the grants made for those before it; with eight engines
powered a dark one is granted for an unleased one that is darkened, dim before lit, else for the lease evicted. -/
def Claims.LeaseOrder : Prop :=
  ∀ (s : State), s.ev.n < 24 →
    let c := clusterOf s s.ev.n
    let now := s.clock.toNat
    let hs := headsOf c now
    let queue := fun (k : Nat) => ((aget c.queues k).getD []).filter (fun r => r.ent < now)
    hs.Pairwise (fun a b => b.prio < a.prio ∨ (a.prio = b.prio ∧ (a.ent < b.ent ∨ (a.ent = b.ent ∧ a.kind ≤ b.kind)))) ∧
    (∀ r, r ∈ hs ↔ ∃ k < 6, headReq (queue k) = some r) ∧
    (∀ q r, headReq q = some r → ∃ a b, q = a ++ r :: b ∧ (∀ x ∈ a, x.prio < r.prio) ∧ ∀ x ∈ b, x.prio ≤ r.prio) ∧
    (c.roundAt < now → noTimerDue s s.ev.n → (s.ev.n / 12) ∉ s.dark → exec .leaseGrant s =
      .next (hs.foldl (fun u r => serve u s.ev.n r) (setCluster s s.ev.n { c with roundAt := now }))) ∧
    (c.roundAt < now → (s.ev.n / 12) ∉ s.dark →
      let u := (List.range 24).foldl (fun v m => settleEngine v s.ev.n m) (setCluster s s.ev.n { c with roundAt := now })
      exec .leaseGrant s = .next ((headsOf (clusterOf u s.ev.n) now).foldl (fun v r => serve v s.ev.n r) u)) ∧
    (∀ m, settleEngine s s.ev.n m = darkIdle (lingerExpire (dimIdle (lrelEffect s s.ev.n m) s.ev.n m) s.ev.n m) s.ev.n m) ∧
    (∀ r m, freeEngine c r.kind .lit = none → freeEngine c r.kind .dim = none → freeEngine c r.kind .dark = some m → 8 ≤ poweredCount c →
      (∀ x, spareEngine c = some x → serve s s.ev.n r = grant (darken s s.ev.n x) s.ev.n r m ∧
        (engOf (clusterOf (darken s s.ev.n x) s.ev.n) x).power = .dark ∧ (engOf c x).lease = none ∧
        ((engOf c x).power = .dim ∨ ((engOf c x).power = .lit ∧ ∀ y < 24, (engOf c y).lease = none → (engOf c y).power ≠ .dim))) ∧
      (∀ x, spareEngine c = none → victim s c (List.range 24) r.prio = some x →
        serve s s.ev.n r = grant (evictLease s s.ev.n x .evicted) s.ev.n r m) ∧
      (spareEngine c = none → victim s c (List.range 24) r.prio = none → serve s s.ev.n r = s))

/-- R137, R140, R141: a grant gives the engine to the request with its internal state fresh, its request out of the queue and
the cluster's serial counted up. -/
def Claims.GrantedEngine : Prop :=
  ∀ (s : State) (cl n : Nat) (r : LeaseReq),
    let t := grant s cl r n
    let e := engOf (clusterOf t cl) n
    e.lease = some (r.req, r.prio, s.clock.toNat, r.who, r.tok) ∧ e.lrel = false ∧ e.power = .lit ∧ e.sp = 1 ∧
      (∀ k < 64, e.xf.get (2 * k) = 0xFF800000 ∧ e.xf.get (2 * k + 1) = 0) ∧
      (∀ q ∈ (clusterOf t cl).queues, ∀ x ∈ q.2, x.req ≠ r.req) ∧
      (clusterOf t cl).serial = (clusterOf s cl).serial + 1 ∧
      (∀ m, m ≠ n → engOf (clusterOf t cl) m = engOf (clusterOf s cl) m)

/-- R138, R139, R144: an engine's wake ends with the engine lit; a leased engine that is lit and idle for DIMIDLE dims, an
unleased lit one dims after LINGER, an unleased dim one goes dark after DARKIDLE; an LREL takes effect once no command of the
lease is left, and leaves the engine unleased in its power state, a dim one dim (log 32). Before their times nothing happens. -/
def Claims.EngineTimers : Prop :=
  ∀ (s : State),
    let cl := s.ev.n
    let n := s.ev.m
    let e := engOf (clusterOf s cl) n
    let upd := fun (f : Engine → Engine) => updEngine s cl n f
    let now := s.clock.toNat
    (e.waking = true → e.lease = none → exec .engineLit s =
      .next (upd (fun e => { e with power := .lit, waking := false, since := now }))) ∧
    (∀ req pr g w tok, e.waking = true → e.lease = some (req, pr, g, w, tok) → exec .engineLit s = .next (updLeaseTok
      (upd (fun e => { e with power := .lit, waking := false, since := now })) w tok req (fun t => { t with pending := false }))) ∧
    (e.waking = false → exec .engineLit s = .next s) ∧
    (e.power = .lit → e.waking = false → e.lease.isSome = true → leaseIdle s e = true → dimIdleOf s cl ≠ 0 →
      (e.since + 1600 * dimIdleOf s cl ≤ now → exec .engineDimIdle s = .next (upd (fun e => { e with power := .dim }))) ∧
      (now < e.since + 1600 * dimIdleOf s cl → exec .engineDimIdle s = .next s)) ∧
    (e.power = .lit → e.lease = none →
      (e.since + 1600 * lingerOf s cl ≤ now → exec .engineLingerExpire s =
        .next (upd (fun e => { e with power := .dim, waking := false, since := e.since + 1600 * lingerOf s cl }))) ∧
      (now < e.since + 1600 * lingerOf s cl → exec .engineLingerExpire s = .next s)) ∧
    (e.power = .dim → e.lease = none →
      (e.since + 160000 * darkIdleOf s cl ≤ now → exec .engineDarkIdle s = .next (darken s cl n)) ∧
      (now < e.since + 160000 * darkIdleOf s cl → exec .engineDarkIdle s = .next s)) ∧
    (e.lrel = true →
      (leaseIdle s e = true → exec .lrelTakeEffect s = .next (freeLease s cl n) ∧
        engOf (clusterOf (freeLease s cl n) cl) n = e.unlease now) ∧
      (leaseIdle s e = false → exec .lrelTakeEffect s = .next s))

/-! ## The driver's memory side -/

/-- R10, R350, R352 to R354: a walk, from the nearest pointer that the die's walk cache holds or from the root, caches the leaf that it ends in
for its core, of 256 entries at most, and the pointers on the way, and a write sets D in memory first; TLBIC queues a command with the
address that TLBIA holds, while the host link is up. -/
def Claims.TranslationEvents : Prop :=
  ∀ (s : State),
    let core := s.ev.item.ix
    let va := s.ev.v.toNat
    (∀ c e lg a l, va < globalTop → core < 192 → aget s.ctxs s.ev.n = some c →
      let start := if s.ev.flag then (4, physKey c.rootSpace c.root)
        else match ptrFind s.ptrs (dieOfCore core) s.ev.n va with
          | some p => (p.level, p.tab)
          | none => (4, physKey c.rootSpace c.root)
      let ent := fun (p : Nat) => (⟨core, s.ev.n, va / 2 ^ lg, lg, BitVec.ofNat 64 p⟩ : TlbEnt)
      walk s va (start.1 + 1) start.2 = .leaf e lg (some a) → leafLoc s c va (kindOf s.ev.m) e lg = .ok l →
      ∃ t, exec .pageTableWalk s = .next t ∧ t.ptrs = ptrsAdd s core s.ev.n va (walkPtrs s va (start.1 + 1) start.2) ∧
        (s.ev.m = 1 → bitsOf e 61 1 = 0 → t.tlb = tlbAdd s (ent (e + 2 ^ 61)) ∧ t.mem = (devPut s 8 a (e + 2 ^ 61)).mem) ∧
        (s.ev.m ≠ 1 ∨ bitsOf e 61 1 = 1 → t.tlb = tlbAdd s (ent e) ∧ t.mem = s.mem)) ∧
    (∀ t : TlbEnt, ((tlbAdd s t).filter (fun x => x.core = t.core)).length ≤ 256) ∧
    (let queued := fun (j : Instr) (kind : Nat) =>
        (linkUp s 1 = true → bitsOf s.ev.v.toNat 12 2 = kind → exec j s =
          .next { s with tlbi := s.tlbi ++ [(s.ev.v, BitVec.ofNat 64 (s.reg regTLBIA))] }) ∧
        (linkUp s 1 = false → exec j s = .next s)
     queued .tlbiRange 0 ∧ queued .tlbiContext 1 ∧ queued .tlbiAll 2)

/-- R353, R354: the oldest invalidation leaves no translation and no cached pointer that it covers and touches no other, and TLBDONE shows
its tag; one with a reserved KIND or page size invalidates nothing and sets ERR. -/
def Claims.InvalidationCompletes : Prop :=
  ∀ (s : State) (v va : BitVec 64) (r : List (BitVec 64 × BitVec 64)), s.tlbi = (v, va) :: r →
    let kind := bitsOf v.toNat 12 2
    let bad := kind = 3 ∨ (kind = 0 ∧ 5 ≤ bitsOf v.toNat 14 3)
    ∃ t, exec .tlbInvalidateComplete s = .next t ∧ t.tlbi = r ∧ t.field regTLBDONE 0 32 = bitsOf v.toNat 32 32 ∧
      (¬bad → t.tlb = s.tlb.filter (fun e => !tlbiCovers v va e) ∧ t.ptrs = s.ptrs.filter (fun p => !tlbiCoversPtr v va p)) ∧
      (bad → t.tlb = s.tlb ∧ t.ptrs = s.ptrs ∧ t.field regTLBDONE 32 1 = 1)

/-- R355, R358, R359: a response names a waiting record, which then takes no more accesses; a replay lets what waits for it be tried
again, and an abort makes each of it fail: a SIMT instruction raises PROT at its split's next turn (log 51). -/
def Claims.FaultResponses : Prop :=
  ∀ (s : State), linkUp s 1 = true → respOk s = true →
    let rid := s.ev.v.toNat % 2 ^ 32
    let u := onWaits (dropWait s rid) (fun h => h.answered rid) (fun b => b.answered rid)
    let x := onWaits (dropWait s rid) (fun h => h.aborted rid) (fun b => b.aborted rid)
    (bitsOf s.ev.v.toNat 32 1 = 0 → exec .fltrespReplay s = .next (catchUp { u with
      grids := u.grids.map (fun g => (g.1, if g.2.page = some rid then { g.2 with page := none } else g.2)) })) ∧
    (bitsOf s.ev.v.toNat 32 1 = 1 → exec .fltrespAbort s = .next (catchUp { x with
      grids := x.grids.map (fun g => (g.1, if g.2.page = some rid then { g.2 with page := some (aborted rid) } else g.2)) })) ∧
    (∀ y, y = u ∨ y = x → (∀ w ∈ y.pageWaits, w.rid ≠ rid) ∧ y.mem = s.mem ∧ y.staged = s.staged ∧
      (∀ g ∈ y.gangs, ∀ c ∈ g.2.crews, ∀ f : Fx, f.cause = .page → c.2.strm.hold ≠ .page rid f ∧
        ∀ z ∈ c.2.groups, ∀ w ∈ z.2.splits, w.hold ≠ .page rid f)) ∧
    (∀ f, f.cause = .page → Hold.aborted (.page rid f) rid = .page rid { f with cause := .prot, detail := 0 }) ∧
    (∀ f s1, isStream s1 = false → s1.split.hold = .page rid f → f.cause = .prot → s1.stalled = false →
      stagedFull s1 (dieOfCore s1.crew.core) = false → attempt s1 = .next (setSplit (raiseNow s1 f) (fun y => { y with cap := none })))

/-- R357, R358: the oldest staged record of a context is written into the slot of its buffer that its number selects, once
the buffer has room, and the buffer's PUT counts up, after which what waited for the room goes on; a record that finds no room stays, and while the
ring's header is damaged each does (log 101). -/
def Claims.FaultRecordWritten : Prop :=
  ∀ (s : State) (r : FRec) (c : Ctx), s.ev.flag = false → s.staged.find? (fun x => x.dest = some s.ev.n) = some r →
    aget s.ctxs s.ev.n = some c →
    let base := physKey c.fbufSpace c.fbuf
    let slots := 2 ^ c.fblog - 1
    (c.put < devNat s 8 (base + 8) + slots → badSpan s base 16 = false → ∃ t, exec .faultRecordWrite s = .next (catchUp t) ∧ t.staged = s.staged.erase r ∧
      t.mem = (devPut (devPutBytes s (base + 64 * (c.put % slots + 1)) { r with seq := r.seq % 2 ^ 32 }.bytes) 8 base (c.put + 1)).mem ∧
      (aget t.ctxs s.ev.n).map (fun x => x.put) = some (c.put + 1)) ∧
    (devNat s 8 (base + 8) + slots ≤ c.put ∨ badSpan s base 16 = true → exec .faultRecordWrite s = .next s)

/-- R368, R369, R373, R374: SEEDW seeds the twelve generators, DECAY runs until each counter has been halved once; a key
command flushes the slot's lines, sets the slot, empties the TLBs of it, and KEYDATA is cleared when it is done; a key command while one runs
is lost, and OP 3 does nothing. Written with DECAY, SEEDW seeds first. The moments at which a slot is set and DECAY acts are log 49. -/
def Claims.HeatAndKeyCommands : Prop :=
  ∀ (s : State),
    let v := s.ev.v.toNat
    let n := v % 128
    let seed := BitVec.ofNat 16 (bitsOf v 16 16)
    let begun := fun (k : Option KeySlot) => advanceKey ({ s with keyRun := some (n, k) }.setReg regKEYSTAT 1)
    let load := if bitsOf v 10 2 = 1 then ⟨1, []⟩ else if bitsOf v 10 2 = 2 then ⟨2, keyData s⟩ else (⟨0, []⟩ : KeySlot)
    (linkUp s 1 = true →
      (bitsOf v 1 1 = 1 → bitsOf v 0 1 = 0 → ∃ t, exec .seedw s = .next t ∧ t.mem = s.mem ∧ ∀ u < 12,
        aget t.heat u = some (0, if seed ^^^ BitVec.ofNat 16 u = 0 then 1 else seed ^^^ BitVec.ofNat 16 u)) ∧
      (bitsOf v 0 1 = 1 → bitsOf v 1 1 = 0 → exec .decay s = .next (s.setReg regHEATSTAT 1)) ∧
      (bitsOf v 0 1 = 1 → bitsOf v 1 1 = 1 → exec .seedw s = .next s ∧ ∃ t, exec .decay s = .next t ∧ t.reg regHEATSTAT = 1 ∧ t.mem = s.mem ∧
        ∀ u < 12, aget t.heat u = some (0, if seed ^^^ BitVec.ofNat 16 u = 0 then 1 else seed ^^^ BitVec.ofNat 16 u)) ∧
      (bitsOf v 8 2 = 3 → exec .keyLoad s = .next s ∧ exec .keyFlush s = .next s ∧ exec .keyClear s = .next s ∧
        (s.ev.n = mmBase + 0x800 → exec .registerWrite s = .next s)) ∧
      (s.reg regKEYSTAT % 2 = 0 →
        (bitsOf v 8 2 = 0 → exec .keyLoad s = .next (begun (some load))) ∧
        (bitsOf v 8 2 = 1 → exec .keyFlush s = .next (begun none)) ∧
        (bitsOf v 8 2 = 2 → exec .keyClear s = .next (begun (some ⟨0, []⟩)))) ∧
      (s.reg regKEYSTAT % 2 = 1 → exec .keyLoad s = .next s ∧ exec .keyFlush s = .next s ∧ exec .keyClear s = .next s)) ∧
    (slotDirty s n = false →
      (∀ k, begun (some k) = { s with keys := aput n k s.keys, tlb := s.tlb.filter (fun t => bitsOf t.pte.toNat 52 7 ≠ n),
                                      keyRun := some (n, none) }.setReg regKEYSTAT 1) ∧
      begun none = { s with keyRun := some (n, none) }.setReg regKEYSTAT 1) ∧
    (s.reg regHEATSTAT % 2 = 1 → ∃ t, exec .heatDecayComplete s = .next t ∧ t.reg regHEATSTAT = 0 ∧ t.heat = s.heat ∧
      t = ([0, 1, 2].foldl decayTable s).setReg regHEATSTAT 0 ∧ (s.sealed = [] → t.mem = halveTable (halveTable (halveTable s.mem (s.reg (regHEATBASE 0)) 8388608) (s.reg (regHEATBASE 1)) 33554432)
        (s.reg (regHEATBASE 2)) 33554432)) ∧
    (s.reg regHEATSTAT % 2 = 0 → exec .heatDecayComplete s = .next s) ∧
    (∀ m, s.reg regKEYSTAT % 2 = 1 → s.keyRun = some (m, none) → slotDirty s m = false → ∃ t, exec .keyCommandDone s = .next (catchUp t) ∧
      t.reg regKEYSTAT = 0 ∧ t.keys = s.keys ∧ t.keyRun = none ∧ ∀ i < 8, t.reg (regKEYDATA i) = 0)

/-! ## Compression -/

/-- R58, R365, R366, R373, R420: a dirty block that fits its allotment is stored there, each sector under its key, and leaves the overflow
buffer; one that does not takes the lowest free overflow entry with a COMPRESS_GROW record; with the buffer full its write-back is refused and
kept, and so are those that follow it on its slice, eight at most. An image with bytes from a damaged unit takes one sector at least. The key
under which a block of several key slots is stored is log 8 (the model's choice), and the wait for room in the staging store or in the device
fault buffer log 86. -/
def Claims.BlocksWritten : Prop :=
  ∀ (s : State), s.ev.n < 8 → backed s 1 (keyAddr (blkByte s.ev.n s.ev.m 0)) = true → hasDirty s s.ev.n s.ev.m = true →
    let st := s.ev.n
    let m : NakMsg := .grow (blockSlice s st s.ev.m) st s.ev.m
    keptMsg s m = false →
    let id := blkId st s.ev.m
    let img := newImage s st s.ev.m
    let need := needSectors s st s.ev.m img
    let kid := blockKid s st s.ev.m
    let free := lowestFree ((ovflOf s st).map (fun x => x.2.1)) 0 64
    (s.bad = [] → need = sectorsOf img) ∧
    (need ≤ allotOf s st s.ev.m → ∃ t, exec .space1BlockWrite s = .next t ∧
      t.mem = (putSectors s (blockKey s st s.ev.m) (sectorsFor s st s.ev.m kid need img)).mem ∧ aget t.forms id = some need ∧
      aget t.overflow id = none ∧ hasDirty t st s.ev.m = false ∧ t.staged = s.staged) ∧
    (allotOf s st s.ev.m < need →
      (∀ x, aget s.overflow id = some x → ∃ t, exec .space1BlockWrite s = .next t ∧ aget t.overflow id = some (x.1, kid, img) ∧
        t.mem = s.mem ∧ t.staged = s.staged ∧ hasDirty t st s.ev.m = false) ∧
      (aget s.overflow id = none → stagedFull s (st / 4) = true ∨ growStalls s st = true → exec .space1BlockWrite s = .next s) ∧
      (aget s.overflow id = none → stagedFull s (st / 4) = false → growStalls s st = false →
        (flowBusy s m = false →
          (∀ ix, free = some ix → ∃ t, exec .space1BlockWrite s = .next t ∧
            aget t.overflow id = some (ix, kid, img) ∧ t.mem = s.mem ∧ (∃ q, t.staged = s.staged ++ [q] ∧ q.cause = .compressGrow)) ∧
          (free = none → exec .space1BlockWrite s =
            .next { s with naks := s.naks ++ [⟨m, 1, s.clock.toNat + backoff s m.die 1⟩] })) ∧
        (flowBusy s m = true →
          (flowFull s m = false → exec .space1BlockWrite s = .next { s with naks := s.naks ++ [⟨m, 0, 0⟩] }) ∧
          (flowFull s m = true → exec .space1BlockWrite s = .next s))))

/-- R362: what the base die stores of a block of 256 bytes expands to the block again, and takes at most eight sectors. -/
def Claims.StoredFormExpands : Prop :=
  ∀ (img : List (BitVec 8)) (tail : List (BitVec 8)), img.length = 256 →
    sectorsOf img ≤ 8 ∧ (storedForm img).length ≤ 32 * sectorsOf img ∧
      expandForm (sectorsOf img) (storedForm img ++ tail) = img

/-- R363, R366, R367, R415: CMPCFG of a compressed stack starts from a table of zeros when it enables; RELOC and READ start while no command
runs and are lost, with LOST set, while one does; at its end the command writes its result and its effect: RELOC moves the page's sectors as they
are stored into the new run and writes the descriptor, or ends TOOSMALL or BADARG with none of it (that the effect comes at the end, and READ out of
range ends BADARG, is log 48). A descriptor in a damaged unit ends either with
BADARG (log 101). A buffer full for 1 ms is logged. -/
def Claims.CompressionCommands : Prop :=
  ∀ (s : State), s.ev.n < 8 →
    let st := s.ev.n
    let v := s.ev.v.toNat
    let stat := regCMP st 0x28
    (linkUp s 1 = true →
      (s.field (regCMP st 0) 0 1 = 0 → bitsOf v 0 1 = 1 → 1 ≤ bitsOf v 1 9 → bitsOf v 1 9 ≤ 256 → tableFits s st (bitsOf v 1 9) = true →
        stackOff s st = false → ∃ t, exec .cmpcfgWrite s = .next t ∧ t.reg (regCMP st 0) = 1 + 2 * bitsOf v 1 9 ∧
          (∀ x ∈ t.forms, stackOf x.1 ≠ st) ∧ (∀ x ∈ t.overflow, stackOf x.1 ≠ st) ∧ t.mem = s.mem) ∧
      (bitsOf v 0 1 = 0 → ∃ t, exec .cmpcfgWrite s = .next t ∧ t.field (regCMP st 0) 0 1 = 0 ∧ t.mem = s.mem) ∧
      (s.field stat 0 1 = 0 →
        let run := { s.setField stat 0 1 1 with
          cmpRun := aput st (s.ev.v, BitVec.ofNat 64 (s.reg (regCMP st 0x18)), BitVec.ofNat 64 (s.reg (regCMP st 0x20))) s.cmpRun }
        (bitsOf v 0 2 = 1 → exec .reloc s = .next run) ∧ (bitsOf v 0 2 = 2 → exec .cmpcmdRead s = .next run)) ∧
      (s.field stat 0 1 = 1 →
        (bitsOf v 0 2 = 1 → exec .reloc s = .next (s.setField stat 3 1 1)) ∧
        (bitsOf v 0 2 = 2 → exec .cmpcmdRead s = .next (s.setField stat 3 1 1)))) ∧
    (∀ cv a0 a1, aget s.cmpRun st = some (cv, a0, a1) → s.field (regCMP st 0) 1 9 * 262144 ≤ bitsOf cv.toNat 32 32 →
      exec .relocDone s =
        .next (({ s with cmpRun := adel st s.cmpRun }.setField stat 0 1 0).setField stat 1 2 2)) ∧
    (∀ cv a0 a1, aget s.cmpRun st = some (cv, a0, a1) → bitsOf cv.toNat 32 32 < s.field (regCMP st 0) 1 9 * 262144 →
      bitsOf cv.toNat 0 2 = 2 → badSpan s (descrKey s st (bitsOf cv.toNat 32 32)) 16 = false → ∃ t, exec .relocDone s = .next t ∧
        t.reg (regCMP st 0x18) = devNat s 8 (descrKey s st (bitsOf cv.toNat 32 32)) ∧
        t.reg (regCMP st 0x20) = devNat s 8 (descrKey s st (bitsOf cv.toNat 32 32) + 8) ∧ t.field stat 1 2 = 0 ∧
        aget t.cmpRun st = none ∧ t.mem = s.mem) ∧
    (∀ cv a0 a1, aget s.cmpRun st = some (cv, a0, a1) → bitsOf cv.toNat 0 2 = 1 →
      let pg := bitsOf cv.toNat 32 32
      let al := (List.range 16).map (fun b => bitsOf a1.toNat (4 * b) 4)
      let need := fun (b : Nat) => (heldSectors s st (16 * pg + b)).length
      pg < s.field (regCMP st 0) 1 9 * 262144 → (∀ b < 16, al.getD b 0 ≤ 8 ∧ need b ≤ al.getD b 0) →
      a0.toNat % 2 ^ 32 + al.foldl (· + ·) 0 ≤ 2 ^ 31 → badSpan s (descrKey s st pg) 16 = false →
      let moved := ((List.range 16).map (fun b => heldSectors s st (16 * pg + b))).zipIdx.foldl (fun (u : State) x =>
        putSectors u (physKey 0 (st * (64 * gib) + 32 * (a0.toNat % 2 ^ 32 + (al.take x.2).foldl (· + ·) 0))) x.1) s
      let d := descrKey s st pg
      ∃ t, exec .relocDone s = .next t ∧ t.field stat 1 2 = 0 ∧
        t.field stat 0 1 = 0 ∧ aget t.cmpRun st = none ∧
        t.mem = (devPut (devPut (devPut moved 4 d (a0.toNat % 2 ^ 32)) 8 (d + 4) a1.toNat) 4 (d + 12) 0).mem ∧
        ∀ b < 16, aget t.forms (blkId st (16 * pg + b)) = some (need b) ∧ aget t.overflow (blkId st (16 * pg + b)) = none) ∧
    (∀ cv a0 a1, aget s.cmpRun st = some (cv, a0, a1) → bitsOf cv.toNat 0 2 = 1 →
      let pg := bitsOf cv.toNat 32 32
      let al := (List.range 16).map (fun b => bitsOf a1.toNat (4 * b) 4)
      let fits := a0.toNat % 2 ^ 32 + al.foldl (· + ·) 0 ≤ 2 ^ 31
      let ended := fun (res : Nat) => (({ s with cmpRun := adel st s.cmpRun }.setField stat 0 1 0).setField stat 1 2 res)
      pg < s.field (regCMP st 0) 1 9 * 262144 →
      ((∃ a ∈ al, 8 < a) ∨ ¬fits → exec .relocDone s = .next (ended 2)) ∧
      ((∀ a ∈ al, a ≤ 8) → fits → badSpan s (descrKey s st pg) 16 = false → (∃ b < 16, al.getD b 0 < (heldSectors s st (16 * pg + b)).length) → exec .relocDone s = .next (ended 1))) ∧
    (∀ cv a0 a1, aget s.cmpRun st = some (cv, a0, a1) → badSpan s (descrKey s st (bitsOf cv.toNat 32 32)) 16 = true →
      bitsOf cv.toNat 0 2 = 1 ∨ bitsOf cv.toNat 0 2 = 2 → ∃ t, exec .relocDone s = .next t ∧ t.field stat 1 2 = 2 ∧ t.field stat 0 1 = 0 ∧ t.mem = s.mem) ∧
    (∀ q, aget s.fullSince st = some q →
      (q + 1600000 ≤ s.clock.toNat → exec .compressRecord s = .next (addLog { s with fullSince := aput st s.clock.toNat s.fullSince }
        2 10 st 1 (64 + s.field stat 32 32 * 2 ^ 32))) ∧
      (s.clock.toNat < q + 1600000 → exec .compressRecord s = .next s))

/-! ## The driver's work side -/

/-- R376: PARTMAP takes an ownership that gives every partition a permitted set and moves no eighth of a partition that runs,
and else keeps what it holds and sets ERR. -/
def Claims.PartitionMap : Prop :=
  ∀ (s : State), linkUp s 1 = true →
    let v := s.ev.v.toNat
    let old := s.field regPARTMAP 0 32
    let moves := (List.range 8).any (fun e => bitsOf v (4 * e) 4 ≠ bitsOf old (4 * e) 4 && (runningOn s (bitsOf old (4 * e) 4)).isSome)
    ∃ t, exec .partmapWrite s = .next t ∧
      (ownValid (v % 2 ^ 32) = true → moves = false → t.field regPARTMAP 0 32 = v % 2 ^ 32) ∧
      (ownValid (v % 2 ^ 32) = false ∨ moves = true → t.field regPARTMAP 0 32 = old ∧ t.field regPARTMAP 32 1 = 1) ∧
      t.ctxs = s.ctxs ∧ t.mem = s.mem

/-- R378: a command written while none runs starts, and one written while one runs is lost with LOST set and has no other
effect; each command of the table starts with its own OP. -/
def Claims.ContextCommandsStart : Prop :=
  ∀ (s : State), linkUp s 1 = true →
    let s0 := s.setField regCTXSTAT 32 1 1
    let op := s.ev.v.toNat % 16
    let arg := bitsOf (s.reg regCTXARG) 32 1
    let starts := fun (j : Instr) (f : State → State × Option Nat) =>
      (s.cmd = none → exec j s = .next { (f s0).1 with cmd := some (s.ev.v, (f s0).2) }) ∧
      (s.cmd ≠ none → exec j s = .next (s.setField regCTXSTAT 36 1 1))
    (op = 1 → starts .create createCtx) ∧ (op = 2 → starts .start startCtx) ∧ (op = 3 → starts .save startSave) ∧
    (op = 4 → starts .swap startSwap) ∧ (op = 5 → starts .prestage prestage) ∧ (op = 6 → starts .abort startAbort) ∧
    (op = 7 → (arg = 0 → starts .fltactEnd (fltact false)) ∧ (arg = 1 → starts .fltactResume (fltact true))) ∧
    (op = 8 → starts .destroy startDestroy) ∧ (op = 9 → starts .dieoff startDieoff) ∧ (op = 10 → starts .dieon dieon)

/-- R212, R377, R379, R380, R384, R387: what a command does when it starts: CREATE makes an idle context from its work record; START puts a
context on a free partition of its size, its records read again and the counters of the cores cleared; SAVE, SWAP, ABORT, DESTROY and DIEOFF stop
the gangs concerned and go on; PRESTAGE takes the lowest place in the carve-out; FLTACT acts on the split or stream that the record stopped; DIEON
powers a dark die, and answers BADSTATE while a sensor of its clusters or stacks is at TWARN or above. A context that is saved keeps its bounds and a
second PRESTAGE frees the first place (log 42); the place and size of the image are log 41, and of damaged records log 101. -/
def Claims.ContextCommandsAct : Prop :=
  ∀ (s : State),
    let id := cmdCtx s.ev.v
    let part := cmdPart s.ev.v
    let d := cmdDie s.ev.v
    (∀ c, aget s.ctxs id = none → readWorkRec s (s.reg regCTXARG) .fresh = some c →
      createCtx s = ({ s with ctxs := aput id c s.ctxs }, some resOk) ∧ c.st = .idle) ∧
    (∀ c, aget s.ctxs id = some c → createCtx s = (s, some resBadState)) ∧
    (aget s.ctxs id = none → readWorkRec s (s.reg regCTXARG) .fresh = none → (createCtx s).2 = some resBadDesc ∧
      (s.bad = [] → s.damaged = [] → (createCtx s).1 = s)) ∧
    (∀ c c1, aget s.ctxs id = some c → c.st ≠ .running → readRecs s c = some c1 → partCheck s part c1.psize = none →
      runningOn s part = none →
      (startCtx s).2 = some resOk ∧ aget (startCtx s).1.ctxs id = some { c1 with
        st := .running, part := part, bounds := if c.st = .idle then readBounds s c1.btab else c1.bounds, prestaged := none } ∧
      (∀ n ∈ coresOf s part, (coreOf (startCtx s).1 n).cnt = .empty 64) ∧
      (startCtx s).1.gangs = s.gangs ∧ (startCtx s).1.mem = s.mem) ∧
    (∀ c, aget s.ctxs id = some c → c.st ≠ .running → readRecs s c = none → (startCtx s).2 = some resBadDesc ∧
      (s.bad = [] → s.damaged = [] → (startCtx s).1 = s)) ∧
    (∀ c c1 r, aget s.ctxs id = some c → c.st ≠ .running → readRecs s c = some c1 → partCheck s part c1.psize = some r →
      startCtx s = (s, some r)) ∧
    (∀ c, aget s.ctxs id = some c → c.st = .running →
      startCtx s = (s, some resBadState) ∧ startSave s = (haltGangs s (gangsOf s id) .evicted, none) ∧
      startDestroy s = (s, some resBadState) ∧ prestage s = (s, some resBadState)) ∧
    (∀ c, aget s.ctxs id = some c → startAbort s = (haltGangs s (gangsOf s id) .evicted, none)) ∧
    (∀ c, aget s.ctxs id = some c → c.st ≠ .running → startSave s = (s, some resBadState) ∧ startDestroy s = (haltGangs s (gangsOf s id) .evicted, none)) ∧
    (∀ c c1 o out, aget s.ctxs id = some c → c.st ≠ .running → runningOn s part = some (out, o) → readRecs s c = some c1 →
      o.psize = c1.psize → partCheck s part c1.psize = none → startSwap s = (haltGangs s (gangsOf s out) .evicted, none)) ∧
    (∀ c a, aget s.ctxs id = some c → c.st = .saved →
      carveFit (s.ctxs.filterMap (fun x => x.2.prestaged.bind (fun p => if p.1 = d ∧ x.1 ≠ id then some (p.2, imageKiB x.2.psize) else none)))
        (min (s.field (regCARVE d) 0 4) 10 * 16384) (imageKiB c.psize) = some a →
      (prestage s).2 = some resOk ∧ aget (prestage s).1.ctxs id = some { c with prestaged := some (d, a) }) ∧
    (∀ c gid crew cause res, aget s.ctxs id = some c → c.st ≠ .idle →
      findStopped s id (bitsOf (s.reg regCTXARG) 0 32) = some (gid, crew, cause) → (res = true → cause = .trap ∨ cause = .brk) →
      fltact res s = (onAnyCrew s gid crew (actCrew (bitsOf (s.reg regCTXARG) 0 32) res), some resOk)) ∧
    (∀ c gid crew cause, aget s.ctxs id = some c → c.st ≠ .idle →
      findStopped s id (bitsOf (s.reg regCTXARG) 0 32) = some (gid, crew, cause) → cause ≠ .trap → cause ≠ .brk →
      fltact true s = (s, some resBadArg)) ∧
    (d ∉ s.dark → aget s.darkening d = none → startDieoff s = (beginDark s d none, none)) ∧
    (d ∉ s.dark → (aget s.darkening d).isSome = true → startDieoff s = (s, none)) ∧
    (d ∈ s.dark → startDieoff s = (s, some resBadState)) ∧
    (d ∈ s.dark → (∃ i < 12, therm s d 0 ≤ tjOf s (12 * d + i)) ∨ (∃ i < 4, 16 * (therm s d 0 : Int) ≤ s.stackTj.getD (4 * d + i) 0) →
      dieon s = (s, some resBadState)) ∧
    (d ∈ s.dark → (∀ i < 12, tjOf s (12 * d + i) < therm s d 0) → (∀ i < 4, s.stackTj.getD (4 * d + i) 0 < 16 * (therm s d 0 : Int)) →
      s.ev.flag = false →
      (dieon s).2 = some resOk ∧ d ∉ (dieon s).1.dark ∧ ∀ i < 12, gated (dieon s).1 (12 * d + i) = false)

/-- R378, R379, R387: a running command ends once its gangs are quiet: SAVE leaves the context saved with its gangs in its
image, none resident; the command's tag and result then stand in CTXSTAT with BUSY clear. -/
def Claims.ContextCommandsEnd : Prop :=
  ∀ (s : State) (v : BitVec 64),
    (∀ res, res < 8 → s.cmd = some (v, some res) → ∃ t, exec .contextCommandComplete s = .next t ∧ t.cmd = none ∧
      t.field regCTXSTAT 0 32 = bitsOf v.toNat 32 32 ∧ t.field regCTXSTAT 32 1 = 0 ∧ t.field regCTXSTAT 33 3 = res ∧
      t.ctxs = s.ctxs ∧ t.gangs = s.gangs) ∧
    (∀ c, s.cmd = some (v, none) → cmdOp v = 3 → aget s.ctxs (cmdCtx v) = some c → s.lines = [] →
      (gangsOf s (cmdCtx v)).all (gangQuiet s) = true → ∃ t, exec .contextCommandComplete s = .next t ∧ t.cmd = none ∧
        t.field regCTXSTAT 33 3 = resOk ∧ (aget t.ctxs (cmdCtx v)).map (fun x => x.st) = some .saved ∧
        (∀ gid g, aget s.gangs gid = some g → g.ctx = cmdCtx v → g.gone = false →
          (aget t.ctxs (cmdCtx v)).any (fun x => (aget x.image gid).isSome) = true) ∧
        ∀ g ∈ t.gangs, g.2.ctx ≠ cmdCtx v) ∧
    (s.cmd = some (v, none) → cmdOp v = 3 → (gangsOf s (cmdCtx v)).all (gangQuiet s) = false →
      exec .contextCommandComplete s = .next s) ∧
    (s.cmd = some (v, none) → cmdOp v = 6 ∨ cmdOp v = 8 → ctxQuiet s (cmdCtx v) = false → exec .contextCommandComplete s = .next s) ∧
    (s.cmd = some (v, none) → cmdOp v = 6 → ctxQuiet s (cmdCtx v) = true →
      (abortCtx s (cmdCtx v)).visible.any (pktOf (abortCtx s (cmdCtx v)) (cmdCtx v)) = false →
      ∃ t, exec .contextCommandComplete s = .next t ∧ t.cmd = none ∧ t.field regCTXSTAT 33 3 = resOk ∧
        (∀ c, aget t.ctxs (cmdCtx v) = some c → c.image = []) ∧ ∀ g ∈ t.gangs, g.2.ctx ≠ cmdCtx v) ∧
    (s.cmd = none → exec .contextCommandComplete s = .next s)

/-- R381 to R383: LQPUT makes the packets up to it visible in order, or sets QERR where it would exceed the ring (one below LQGET counts as an
overrun: log 61); a write of LQCTL that leaves the queue enabled is ignored (log 85); a read of LQGET answers the queue's signal. -/
def Claims.LaunchQueues : Prop :=
  ∀ (s : State), linkUp s 1 = true → s.ev.n < 64 →
    let q := s.ev.n
    let v := s.ev.v.toNat
    let o := regLQ q 8
    let old := s.reg (regLQ q 0x10)
    let used := (v + 2 ^ 64 - s.reg (regLQ q 0x18)) % 2 ^ 64
    (2 ^ s.field o 1 4 < used → exec .lqputWrite s = .next (s.setField o 17 1 1)) ∧
    (used ≤ 2 ^ s.field o 1 4 → old ≤ v → (∀ r ∈ s.visible, r.dev = false → r.q = q → r.ix < v) →
      let new := (List.range (v - old)).map (fun i => (⟨false, 0, q, old + i, none, 7, s.clock.toNat⟩ : PktRef))
      exec .lqputWrite s = .next ({ s with visible := s.visible ++ new }.setReg (regLQ q 0x10) v)) ∧
    (∃ t, exec .lqctlWrite s = .next t ∧
      (s.field o 0 1 = 0 ∨ bitsOf v 0 1 = 0 → t.field o 0 17 = bitsOf v 0 17 ∧ t.field o 32 16 = bitsOf v 32 16 ∧
        t.field o 17 1 = if bitsOf v 17 1 = 1 then 0 else s.field o 17 1) ∧
      (s.field o 0 1 = 1 → bitsOf v 0 1 = 1 → t = s)) ∧
    exec .lqgetRead s = .next { s with qsig := s.qsig.filter (· ≠ q) }

/-- R383, R420: an ended grid's 32-byte record is stored at its CADDR, after which the grid leaves nothing behind and its host queue
signals once; it waits while an item that the grid issued is open or an access is busy; a page that is not there suspends it, and any other
failure leaves a record of its cause in its place (that it may be ECC_UNCORR or LINK_DOWN is log 52). -/
def Claims.CompletionRecords : Prop :=
  ∀ (s : State) (g : Grid), aget s.grids s.ev.n = some g → g.fin = true → g.page = none → dispStalls s = false →
    (gridDone s s.ev.n = false → exec .completionRecordWrite s = .next s) ∧
    (gridDone s s.ev.n = true →
    let va := g.pkt.caddr.toNat
    let locs := (List.range 32).mapM (fun i => translate s g.ctx (va + i) .write)
    (∀ ls, regionOf va = .global → locs = .ok ls → readsBad s ls .write = false → s.lines = [] → ∃ t, exec .completionRecordWrite s = .next t ∧
      aget t.grids s.ev.n = none ∧ t.staged = s.staged ∧
      t.mem = (locsPut (setDirty s g.ctx va) ls (bytesNat (gridRecord s g))).mem ∧
      (g.dev = false → g.q ∉ s.qsig → s.field (regLQ g.q 8) 32 16 ≠ 0xFFFF → msiMasked s (s.field (regLQ g.q 8) 32 16) = false →
        t.msi = s.msi ++ [s.field (regLQ g.q 8) 32 16] ∧ g.q ∈ t.qsig)) ∧
    (regionOf va = .global → locs = .error .page → s.pageWaits = [] → ∃ t, exec .completionRecordWrite s = .next t ∧
      t.mem = s.mem ∧ (∃ g' rid, aget t.grids s.ev.n = some g' ∧ g'.page = some rid ∧ ∃ w ∈ t.pageWaits, w.rid = rid)) ∧
    (∀ c, (regionOf va ≠ .global ∧ c = .prot) ∨ (regionOf va = .global ∧
        ((∃ e, locs = .error e ∧ e ≠ .page ∧ e ≠ .busy ∧ c = (if e = .ecc then .eccUncorr else if e = .link then .linkDown else .prot)) ∨
          (∃ ls, locs = .ok ls ∧ readsBad s ls .write = true ∧ c = .eccUncorr))) →
      ∃ t, exec .completionRecordWrite s = .next t ∧ t.mem = s.mem ∧ aget t.grids s.ev.n = none ∧
        ∃ q, t.staged = s.staged ++ [q] ∧ q.cause = c ∧ q.src = 9 ∧ q.detail = BitVec.ofNat 64 g.pos) ∧
    (regionOf va = .global → locs = .error .busy → exec .completionRecordWrite s = .next s))

/-- R386, R387: DFBBASE keeps its LOG, BASE and EN fields and nothing else; CARVE takes SIZE while the carve-out is empty, and
growing it writes the die's dirty lines back (log 41). -/
def Claims.BufferRegisters : Prop :=
  ∀ (s : State), linkUp s 1 = true →
    let v := s.ev.v.toNat
    (∃ t, exec .dfbbaseWrite s = .next t ∧
      t.reg regDFBBASE = bitsOf v 0 4 + bitsOf v 12 40 * 2 ^ 12 + bitsOf v 54 1 * 2 ^ 54 ∧ t.mem = s.mem) ∧
    (s.ev.n < 2 →
      (s.field (regCARVE s.ev.n) 16 12 = 0 →
        let s1 := if min (s.field (regCARVE s.ev.n) 0 4) 10 < min (bitsOf v 0 4) 10 then
          writeBack s (fun key _ => homeSlice s key / 48 = s.ev.n) else s
        ∃ t, exec .carveWrite s = .next t ∧ t = s1.setField (regCARVE s.ev.n) 0 4 (bitsOf v 0 4) ∧
          t.field (regCARVE s.ev.n) 0 4 = bitsOf v 0 4 ∧ t.field (regCARVE s.ev.n) 16 12 = 0) ∧
      (s.field (regCARVE s.ev.n) 16 12 ≠ 0 → exec .carveWrite s = .next s))

/-- R136, R358, R389, R390: a die whose gangs have not settled 200 µs after the stop goes dark with their items ended for a lost die, once the
records it leaves have room; an abrupt loss discards what the die's holders withhold, each line with a record that waits for room in the staging
store (log 86), and ends its gangs; the clusters of a die without power hold nothing. The event log has the loss with severity 4 (log 46). -/
def Claims.DiesGoDark : Prop :=
  ∀ (s : State),
    (∀ t0 th, aget s.darkening s.ev.n = some (t0, th) →
      (t0 + 320000 ≤ s.clock.toNat → darkRoom s s.ev.n = true →
        exec .orderlyDarkTimeout s = .next (goDark ((gangsOnDie s s.ev.n).foldl loseItems s) s.ev.n th.isSome)) ∧
      (s.clock.toNat < t0 + 320000 ∨ darkRoom s s.ev.n = false → exec .orderlyDarkTimeout s = .next s)) ∧
    (s.ev.n < 2 → s.ev.n ∉ s.dark → exec .dieAbruptLoss s = .next (addLog (losePartners (powerDown
      ((gangsOnDie s s.ev.n).foldl loseGang (discardDie s s.ev.n)) s.ev.n) s.ev.n) 4 9 s.ev.n 1 2)) ∧
    (s.ev.n ∈ s.dark → exec .dieAbruptLoss s = .next s) ∧
    (∀ d, let u := powerDown s d
      d ∈ u.dark ∧ aget u.darkening d = none ∧ u.gangs = s.gangs ∧ (∀ i < 12, gated u (12 * d + i) = true) ∧
        (∀ c ∈ u.clusters, c.1 / 12 = d → c.2.engines = [] ∧ c.2.queues = [] ∧ c.2.sg = []) ∧ (∀ c ∈ u.cores, c.1 / 96 ≠ d)) ∧
    (∀ d k x, s.lines = [(k, x)] → s.owed = [] →
      ((∃ h ∈ x.shares, holderDie h.1 = d) →
        (stagedFull s 0 = false → ∃ q, (discardDie s d).staged = s.staged ++ [q] ∧ q.cause = .dieLost ∧ q.aux = x.bidx) ∧
        (stagedFull s 0 = true → (discardDie s d).staged = s.staged ∧
          ∃ q, (discardDie s d).owed = [(x.ctx, q)] ∧ q.cause = .dieLost ∧ q.aux = x.bidx) ∧
        ∀ l ∈ (discardDie s d).lines, ∀ h ∈ l.2.shares, holderDie h.1 ≠ d) ∧
      ((∀ h ∈ x.shares, holderDie h.1 ≠ d) → discardDie s d = s) ∧ (discardDie s d).mem = s.mem)

/-! ## Power -/

/-- R391: once in each interval of 10 µs the cluster's residency limit falls by STEP, to no less than RGLMIN, when it is hot or above its budget,
rises by STEP, to no more than RGLMAX, when it is below seven eighths of the budget, and else stays. RGLMAX above 512 acts as 512 (log 53). The
temperature is an operand of the event (log 54). A cluster that reads 110 °C or more trips its die (R394), as soon as the staging store has room
(log 86). -/
def Claims.ResidencyControl : Prop :=
  ∀ (s : State),
    let cl := s.ev.n
    let o := regCLPWR cl
    let hi := min (s.field o 0 10) 512
    let lo := min (s.field o 10 10) hi
    let step := s.field o 20 6
    let budget := 1000 * s.field o 26 12
    let rgl := s.field (regCLSTAT cl) 0 10
    let p := s.ev.v.toNat
    let hot := therm s (cl / 12) 8 ≤ s.ev.m
    cl < 24 →
    ((clusterOf s cl).rglAt < s.clock.toNat / 16000 → 110 ≤ s.ev.m → stagedFull s 0 = true → exec .rglInterval s = .next s) ∧
    ((clusterOf s cl).rglAt < s.clock.toNat / 16000 → s.ev.m < 256 → s.ev.m < 110 ∨ stagedFull s 0 = false →
      ∃ t, exec .rglInterval s = .next (if s.ev.m < 110 then t else trip t cl (16 * s.ev.m)) ∧
      t.field (regCLSTAT cl) 13 8 = s.ev.m ∧ (clusterOf t cl).rglAt = s.clock.toNat / 16000 ∧
      (hot ∨ budget < p → t.field (regCLSTAT cl) 0 10 = max lo (rgl - step)) ∧
      (¬hot → 8 * p < 7 * budget → t.field (regCLSTAT cl) 0 10 = min hi (rgl + step)) ∧
      (¬hot → p ≤ budget → 7 * budget ≤ 8 * p → t.field (regCLSTAT cl) 0 10 = rgl)) ∧
    (s.clock.toNat / 16000 ≤ (clusterOf s cl).rglAt → exec .rglInterval s = .next s) ∧
    (linkUp s 1 = true → ∃ t, exec .clpwrWrite s = .next t ∧ t.reg o = s.ev.v.toNat % 2 ^ 48 ∧
      t.field (regCLSTAT cl) 0 10 = min (s.ev.v.toNat % 2 ^ 10) 512)

/-- R392: a cluster that has been idle for GATEIDLE is gated, and loses what its engines held; one that a placement waits for
is ungated 4 µs later. Before their times nothing happens. -/
def Claims.ClusterGates : Prop :=
  ∀ (s : State), s.ev.n < 24 →
    let cl := s.ev.n
    let c := clusterOf s cl
    let g := s.field (regCLPWR cl) 38 10
    (g ≠ 0 → gated s cl = false → clusterIdle s cl = true → c.placing = none →
      (c.busyAt + 1600 * g ≤ s.clock.toNat → ∃ t, exec .clusterGate s = .next t ∧ gated t cl = true ∧
        (clusterOf t cl).engines = []) ∧
      (s.clock.toNat < c.busyAt + 1600 * g → exec .clusterGate s = .next s)) ∧
    (∀ q, c.placing = some q →
      (q + 6400 ≤ s.clock.toNat → ∃ t, exec .clusterUngate s = .next t ∧ gated t cl = false ∧ (clusterOf t cl).placing = none) ∧
      (s.clock.toNat < q + 6400 → exec .clusterUngate s = .next s))

/-- R393: at a boundary the die hands out at most as many permits as it holds, one more than before when none was used, to
claiming clusters only, by descending BPRIO; the last place among equals goes to the lowest index at or above PTR, wrapping, and PTR moves past
the winner, and it stays where no tie is settled; a cluster that boosted and is not granted runs its cool-down interval. -/
def Claims.BoostPermits : Prop :=
  ∀ (s : State),
    let d := s.ev.n
    let p0 := s.field (regPERMIT d) 0 7
    let p := if boosted s d then p0 else min 64 (p0 + 1)
    let rat := fun (x : State) (i : Nat) => x.field (regCLSTAT (12 * d + i)) 10 2
    d < 2 → (aget s.boostAt d).all (fun t => t < s.clock.toNat / 16000) = true → p0 ≤ 64 → ∃ t, exec .boostInterval s = .next t ∧
      ((List.range 12).filter (fun i => rat t i = 2)).length + t.field (regPERMIT d) 0 7 = p ∧
      (∀ i < 12, rat t i = 2 → i ∈ claims s d) ∧ (∀ i < 12, rat t i = 1 → rat s i = 2) ∧
      (∀ i < 12, rat s i = 2 → rat t i ≠ 0) ∧ ((claims s d).length ≤ p → (∀ i ∈ claims s d, rat t i = 2) ∧ t.field (regPERMIT d) 7 5 = s.field (regPERMIT d) 7 5) ∧
      (∀ i ∈ claims s d, ∀ j ∈ claims s d, bprio s (12 * d + j) < bprio s (12 * d + i) → rat t j = 2 → rat t i = 2) ∧
      (∀ lv < 8,
        let higher := (claims s d).filter (fun i => lv < bprio s (12 * d + i))
        let tied := (claims s d).filter (fun i => bprio s (12 * d + i) = lv)
        let ptr := s.field (regPERMIT d) 7 5
        (higher.length = p → t.field (regPERMIT d) 7 5 = ptr) ∧
        (higher.length + 1 = p → 1 < tied.length → ∃ w ∈ tied, rat t w = 2 ∧ t.field (regPERMIT d) 7 5 = w + 1 ∧
          (∀ j ∈ tied, j ≠ w → rat t j ≠ 2) ∧
          ((∃ j ∈ tied, ptr ≤ j) → ptr ≤ w ∧ ∀ j ∈ tied, ptr ≤ j → w ≤ j) ∧ ((∀ j ∈ tied, j < ptr) → ∀ j ∈ tied, w ≤ j)))

/-- R61, R394, R404: a gang of a cluster that has been hot for 100 µs moves to the coolest cluster with room once it is quiet; a
sensor of a cluster or stack at 110 °C takes its die down with a record, and one below does not, of which a stack's reading still counts, AMB
serving or not (in 1/16 °C: log 65); a die that DIEOFF has stopped is on its way already. Die 1 goes dark at its event, and die 0 at the end of the
cycle, and after a die 1 that tripped in it: that moment is log 65's. A restart of the AMB leaves what
the trip read. Operands and waits are as R391's (log 54, 86). -/
def Claims.HotSpots : Prop :=
  ∀ (s : State),
    (s.ev.n < 24 → ∀ g gid core, migrating s s.ev.n = some (gid, g) → coolSpot s s.ev.n gid g = some core → gated s (core / 8) = false →
      gangQuiet s gid = true → aget s.gangs gid = some g → s.lines = [] → ∃ t, exec .hotSpotMigration s = .next t ∧
        ∃ g', aget t.gangs gid = some g' ∧ g'.halt = false ∧
          g'.crews.map (fun c => (c.1, c.2.core)) = g.crews.map (fun c => (c.1, core + c.1))) ∧
    (s.ev.n < 24 → ∀ g gid t0, migrating s s.ev.n = none → (clusterOf s s.ev.n).hotSince = some t0 → migrant s s.ev.n = some (gid, g) →
      s.clock.toNat < t0 + 160000 → exec .hotSpotMigration s = .next s) ∧
    (∀ d, s.ev.n < 24 ∨ (0x100 ≤ s.ev.n ∧ s.ev.n < 0x108) → d = siteDie s.ev.n → stagedFull s 0 = false → tripping s d = false → d ∉ s.dark →
      let hot := readSite s s.ev.n s.ev.m
      (s.ev.m < 16 * 110 → aget s.darkening d = none → exec .thermalEmergency s = .next (if s.ev.n < 24 then s else
        readSite (thermalLog s s.ev.n (siteTemp s s.ev.n) s.ev.m) s.ev.n s.ev.m)) ∧
      (16 * 110 ≤ s.ev.m → d = 1 → exec .thermalEmergency s = .next (tripDark hot s.ev.n)) ∧
      (16 * 110 ≤ s.ev.m → d = 0 → s.trip0 = none → exec .thermalEmergency s = .next { hot with trip0 := some (s.ev.n, false) })) ∧
    (∀ cl, s.trip0 = some (cl, false) → stagedFull s 0 = false → 0 ∉ s.dark → tripping s 0 = false → 16 * 110 ≤ siteTemp s cl →
      ((∀ q, aget s.darkening 1 = some q → q.2 ≠ some s.clock.toNat) → tripEnd s = tripDark { s with trip0 := none } cl) ∧
      (∀ q, aget s.darkening 1 = some q → q.2 = some s.clock.toNat → tripEnd s = { s with trip0 := some (cl, true) })) ∧
    (∀ cl, ∃ u q, u.staged = s.staged ++ [q] ∧ q.cause = .dieLost ∧ (siteDie cl < 2 → u.field (regTHERM (siteDie cl)) 24 1 = 1) ∧
      (aget s.darkening (siteDie cl) = none → tripDark s cl = settleDark (beginDark u (siteDie cl) (some s.clock.toNat)) (siteDie cl)) ∧
      (∀ t0 th, aget s.darkening (siteDie cl) = some (t0, th) → tripDark s cl =
        settleDark { u with darkening := aput (siteDie cl) (t0, some s.clock.toNat) u.darkening } (siteDie cl))) ∧
    (∀ d q, aget s.darkening d = some q → dieQuiet s d = true → darkRoom s d = true → settleDark s d = goDark s d q.2.isSome) ∧
    (0x100 ≤ s.ev.n → s.ev.n < 0x108 → s.stackTj.length = 8 → siteTemp (readSite s s.ev.n s.ev.m) s.ev.n = s.ev.m ∧
      ∀ site, siteTemp (stopServing s) site = siteTemp s site)

/-- R413, R418: a watchdog leaves a WATCHDOG record; cleared within 1 ms it is logged as a warning, and uncleared for 1 ms it
takes down the die of its cluster, or, outside the clusters, ends the work of every running context. SRC 9 is log 47's, the wait
for staging room log 86's; that every running context ends and the package takes no packet afterwards is log 63. -/
def Claims.Watchdogs : Prop :=
  ∀ (s : State),
    (stagedFull s 0 = false → ∃ t, exec .watchdog s = .next t ∧ aget t.dogs (s.ev.n % 65536) = some s.clock.toNat ∧
      ∃ q, t.staged = s.staged ++ [q] ∧ q.cause = .watchdog ∧ q.src = 9) ∧
    (∀ t0, aget s.dogs s.ev.n = some t0 →
      let gone := { s with dogs := adel s.ev.n s.dogs }
      (s.clock.toNat < t0 + 1600000 → exec .watchdogCleared s = .next (addLog gone 2 7 s.ev.n 1 1) ∧
        exec .watchdogUncleared s = .next s) ∧
      (t0 + 1600000 ≤ s.clock.toNat → exec .watchdogCleared s = .next s ∧
        (s.ev.n % 256 < 24 → exec .watchdogUncleared s = .next (abruptLoss (addLog gone 4 7 s.ev.n 1 0) (s.ev.n % 256 / 12))) ∧
        (24 ≤ s.ev.n % 256 → ∃ t, exec .watchdogUncleared s = .next t ∧ t.halted = true ∧
          ∀ g ∈ t.grids, ∀ c, aget s.ctxs g.2.ctx = some c → c.st = .running → g.2.fin = true)))

/-! ## The AMB and the host -/

/-- R395, R401, R403 to R405, R409, R414: power-on starts stage 1 of a package without power; the loss of power leaves the boot slots, one that
was being written unusable, the boot record, the event log and the fuses, and nothing that is volatile; PERST# and PKGRESET run stages 2 to 7
again while the AMB keeps running, whose slate microcode then takes effect; the contents of HBM4E are undefined afterwards, and the second tier
and the host keep theirs (log 2). Each bring-up counts BOOT of the event log up; the AMB and its time go on through PERST# and PKGRESET (log 56).
PKGRESET acts when its command starts, with BUSY still set, by the model's reading (log 58). -/
def Claims.PackageResets : Prop :=
  ∀ (s : State),
    let kept := fun (t : State) => t.fuseC = s.fuseC ∧ t.revoked = s.revoked ∧ t.keyDigests = s.keyDigests ∧ t.uds = s.uds ∧
      t.pkgId = s.pkgId ∧ t.amb.activeB = s.amb.activeB ∧ t.amb.pend = s.amb.pend ∧ t.amb.tried = s.amb.tried ∧
      (s.amb.session = none → t.amb.slotA = s.amb.slotA ∧ t.amb.slotB = s.amb.slotB) ∧ t.log = s.log
    let gone := fun (t : State) => t.ctxs = [] ∧ t.gangs = [] ∧ t.grids = [] ∧ t.tlb = [] ∧ t.ptrs = [] ∧ t.keys = [(0, plainSlot)] ∧
      t.staged = [] ∧ (∀ k, physKey 2 0 ≤ k → t.mem.get k = s.mem.get k) ∧
      (s.fresh < 2 ^ 64 → ∀ k, k < physKey 2 0 → t.mem.get k = Config.freeBits 8 s.fresh k)
    (powered s = false → ∃ t, exec .powerOn s = .next t ∧ kept t ∧ gone t ∧ t.regs = [] ∧ t.stage = some (1, 0) ∧ t.amb.serving = false ∧
      t.bootNo = s.bootNo + 1) ∧
    (powered s = true → exec .powerOn s = .next s) ∧
    (∃ t, exec .powerLoss s = .next t ∧ kept t ∧ gone t ∧ t.regs = [] ∧ t.stage = none ∧ t.amb.serving = false ∧ t.amb.booted = none ∧ t.bootNo = s.bootNo ∧
      (∀ p b, s.amb.session = some (p, b) → memNat (t.amb.slot b) 4 0 = 0 ∧ t.amb.slot (!b) = s.amb.slot (!b))) ∧
    (s.amb.booted.isSome = true → ∃ t, exec .perst s = .next t ∧ kept t ∧ gone t ∧ t.stage = some (2, s.ambTime) ∧
      t.amb = { s.amb with pkgNow := s.amb.fwNow } ∧ t.ambTime = s.ambTime ∧ t.bootNo = s.bootNo + 1 ∧ t.corrected = s.corrected) ∧
    (linkUp s 1 = true → s.ev.v.toNat % 2 ^ 8 = 0x20 → bitsOf s.ev.v.toNat 8 24 = 0 → s.amb.serving = true → s.amb.recov = false →
      s.amb.mbox = none →
      ∃ t, exec .pkgreset s = .next t ∧ kept t ∧ gone t ∧ t.stage = some (2, s.ambTime) ∧ t.amb.pkgNow = s.amb.fwNow ∧
        t.amb.mbox = some (bitsOf s.ev.v.toNat 32 32, mbOk) ∧ t.field regMBSTAT 32 1 = 1 ∧
        t.bootNo = s.bootNo + 1 ∧ t.corrected = s.corrected) ∧
    (∀ (u : State) (sev cls site n d : Nat), u.amb.serving = true →
      ((addLog u sev cls site n d).log.getLast?).map (fun r => r.boot) = some (u.bootNo % 2 ^ 16))

/-- R395, R396, R403: stage 1 starts the slot that is selected and stage 2, or ends in recovery; a stage of 2 or 3 that fails halts the bring-up
with its number; the later stages note the units that failed in BOOTSTAT and go on, and stage 5 powers the dies that do not fail, their cores
fresh from core reset; a stage whose limit has passed ends with its unfinished units failed and no other way, and before its limit no unit fails
for it. -/
def Claims.BringUp : Prop :=
  ∀ (s : State) (n t0 : Nat), s.stage = some (n, t0) →
    let v := s.ev.v.toNat
    let boot := fun (t : State) (lo w : Nat) => t.field regBOOTSTAT lo w
    (t0 + stageLimit n < s.ambTime → exec .bringupStageComplete s = .next s) ∧
    (s.ambTime ≤ t0 + stageLimit n →
    (n = 1 → (bootSelect s).amb.recov = true → ∃ t, exec .bringupStageComplete s = .next t ∧ t.stage = none ∧ t.amb.serving = true ∧
      t.amb.recov = true) ∧
    (n = 1 → (bootSelect s).amb.recov = false → ∃ t, exec .bringupStageComplete s = .next t ∧
      t.stage = some (2, s.ambTime) ∧ boot t 0 4 = 1 ∧ t.amb.serving = true ∧ t.amb.booted = (bootSelect s).amb.booted) ∧
    (n = 2 ∨ n = 3 → v % 2 = 1 → ∃ t, exec .bringupStageComplete s = .next t ∧ t.stage = none ∧ boot t 4 1 = 1 ∧ boot t 5 3 = n) ∧
    (n = 2 ∨ n = 3 → v % 2 = 0 → ∃ t, exec .bringupStageComplete s = .next t ∧ t.stage = some (n + 1, s.ambTime) ∧ boot t 0 4 = n) ∧
    (n = 4 → v < 2 ^ 8 → ∃ t, exec .bringupStageComplete s = .next t ∧ t.stage = some (5, s.ambTime) ∧ boot t 8 8 = v ∧ boot t 0 4 = 4) ∧
    (n = 5 → v < 4 → ∃ t, exec .bringupStageComplete s = .next t ∧ t.stage = some (6, s.ambTime) ∧ boot t 16 2 = v ∧
      (∀ d < 2, d ∈ t.dark ↔ v.testBit d = true) ∧
      ∀ c < 192, v.testBit (c / 96) = false → coreOf t c = { Core.zero with cycAt := s.clock.toNat }) ∧
    (n = 6 → ∃ t, exec .bringupStageComplete s = .next t ∧ t.stage = some (7, s.ambTime) ∧
      ∀ p < 16, (boot t (18 + p) 1 = 1 ↔ linkUp t (6 + p) = false)) ∧
    (n = 7 → ∃ t, exec .bringupStageComplete s = .next t ∧ t.stage = none ∧ boot t 0 4 = 7)) ∧
    (v ≠ 0 → t0 + stageLimit n ≤ s.ambTime → exec .stageLimitExpire s =
      .next (endStage s n (if n ≤ 3 then 1 else v) s.ev.m s.ev.bytes)) ∧
    (s.ambTime < t0 + stageLimit n → exec .stageLimitExpire s = .next s)

/-- R403 to R405: a pending set that verifies is tried once and booted; after its trial, or when it fails, the ACTIVE slot is
booted, and the other when that fails; with neither valid the AMB is in recovery. A trial not confirmed in 600 s restarts the
AMB, and CONFIRM within them makes the trial slot ACTIVE. -/
def Claims.BootSlots : Prop :=
  ∀ (s : State),
    let a := s.amb
    let ok := fun (b : Bool) => decide (verifySet s (a.slot b) = verifyOk)
    let sel := fun (b : Bool) => (bootSelect s).amb.booted = some b ∧ (bootSelect s).amb.recov = false
    (a.pend = true → a.tried = false → ok (!a.activeB) = true → sel (!a.activeB) ∧ (bootSelect s).amb.tried = true) ∧
    ((a.pend = false ∨ a.tried = true ∨ ok (!a.activeB) = false) → ok a.activeB = true → sel a.activeB) ∧
    (a.pend = false → a.tried = false → ok a.activeB = false → ok (!a.activeB) = true → sel (!a.activeB)) ∧
    (ok a.activeB = false → ok (!a.activeB) = false → (bootSelect s).amb.recov = true ∧ (bootSelect s).amb.booted = none ∧
      (bootSelect s).field regBOOTSTAT 39 1 = 1) ∧
    (a.serving = false → a.booted.isSome = true ∨ a.recov = true →
      let x := setAmb s (fun a => { a with serving := true, waiting := [], lost := 0 })
      let s1 := a.waiting.foldl logPut (bootLog (bootSelect x))
      exec .ambRestart s = .next (if a.lost = 0 then s1 else addLog s1 2 14 0 a.lost a.lost)) ∧
    (a.serving = true → exec .ambRestart s = .next s) ∧
    (∀ t0, a.trialAt = some t0 → a.tried = true → a.serving = true →
      (t0 + 960000000000 < s.ambTime → exec .trialTimeout s = .next (stopServing s)) ∧
      (s.ambTime ≤ t0 + 960000000000 → exec .trialTimeout s = .next s) ∧
      (s.ambTime ≤ t0 + 960000000000 → (confirm s).2 = mbOk ∧ (confirm s).1.amb.activeB = !a.activeB ∧
        (confirm s).1.amb.pend = false ∧ (confirm s).1.amb.tried = false))

/-- R405 to R407: a mailbox command executes while the AMB serves, and runs with BUSY set until it completes with its tag, its result and vector
1: BUSY while the AMB does not serve, NOTREADY for one that recovery does not serve, BADARG where an argument must be 0 and is not; one written
while another runs is lost with LOST set. While the host link is not up the read-only ones answer by another path once no command runs, and a
command acts when it starts (log 58). That vector 1 becomes pending while it is masked is the model's choice (log 83). -/
def Claims.MailboxCommands : Prop :=
  ∀ (s : State),
    let op := s.ev.v.toNat % 2 ^ 8
    let arg := bitsOf s.ev.v.toNat 8 24
    let seq := bitsOf s.ev.v.toNat 32 32
    let runs := fun (j : Instr) (f : State → Nat → State × Nat) => linkUp s 1 = true →
      (s.amb.mbox = none →
        (s.amb.serving = true → s.amb.recov = false ∨ op ≤ 3 → exec j s = .next (mbRun (f s arg).1 s.ev.v (f s arg).2)) ∧
        (s.amb.serving = false → exec j s = .next (mbRun s s.ev.v mbBusy)) ∧
        (s.amb.serving = true → s.amb.recov = true → 3 < op → exec j s = .next (mbRun s s.ev.v mbNotReady))) ∧
      (s.amb.mbox ≠ none → exec j s = .next (s.setField regMBSTAT 37 1 1))
    let reads := fun (j : Instr) (f : State → Nat → State × Nat) => runs j f ∧ (linkUp s 1 = false →
      let r := f (putMb s 0 s.ev.bytes) arg
      (s.amb.serving = true → s.amb.mbox = none → exec j s = .next { r.1 with reply := natBytes 1 r.2 ++ memBytes r.1.mbdata 4096 0 }) ∧
      (s.amb.mbox ≠ none → exec j s = .next s))
    (op = 1 → reads .sensors (noArg (fun t => (putMb t 0 (sensorBytes t), mbOk)))) ∧ (op = 2 → reads .logread readLog) ∧
    (op = 3 → reads .bootinfo (noArg bootInfo)) ∧ (op = 0x10 → runs .updopen (noArg updOpen)) ∧
    (op = 0x11 → runs .updwrite updWrite) ∧ (op = 0x12 → runs .updclose (noArg updClose)) ∧
    (op = 0x13 → runs .activate (noArg activate)) ∧ (op = 0x14 → runs .confirm (noArg confirm)) ∧
    (op = 0x15 → runs .svncommit (noArg svnCommit)) ∧
    (∀ f, arg ≠ 0 → noArg f s arg = (s, mbBadArg)) ∧
    (∀ t res, (mbRun t s.ev.v res).amb.mbox = some (seq, res) ∧ (mbRun t s.ev.v res).field regMBSTAT 32 1 = 1) ∧
    (∀ q res, q < 2 ^ 32 → res < 16 → s.amb.mbox = some (q, res) → takeTurn s .mailbox = .next (mbDone s) ∧ (mbDone s).amb.mbox = none ∧
      (mbDone s).field regMBSTAT 33 4 = res ∧ (mbDone s).field regMBSTAT 32 1 = 0 ∧ (mbDone s).field regMBSTAT 0 32 = q ∧
      (msiMasked s 1 = false → (mbDone s).msi = s.msi ++ [1]) ∧ (msiMasked s 1 = true → msiPending (mbDone s) 1 = true))

/-- R403, R405, R407, R409, R414: what the mailbox commands do: UPDOPEN opens a session on the slot that is not ACTIVE, UPDWRITE writes 4 KiB of
it, UPDCLOSE verifies it and makes it pending; ACTIVATE needs a pending set; SVNCOMMIT raises the fuses to the ACTIVE set's number and never
lowers them, and is refused while a trial is pending or where that number is not above C; LOGREAD answers up to 128 records of 32 bytes from the
sequence asked on, which the log holds in ascending order. UPDOPEN while its own session is open answers BUSY (log 58). -/
def Claims.MailboxEffects : Prop :=
  ∀ (s : State) (arg : Nat),
    let b := !s.amb.activeB
    (s.amb.session = none → (updOpen s).2 = mbOk ∧ (updOpen s).1.amb.session = some (false, b) ∧
      ((updOpen s).1.amb.slot (!b)) = s.amb.slot (!b)) ∧
    (s.amb.session.isSome = true → updOpen s = (s, mbBusy)) ∧
    (s.amb.session = some (false, b) →
      (updWrite s arg).2 = mbOk ∧ (∀ i < 4096, ((updWrite s arg).1.amb.slot b).get (64 * arg + i) = s.mbdata.get i) ∧
      (∀ k, k < 64 * arg ∨ 64 * arg + 4096 ≤ k → ((updWrite s arg).1.amb.slot b).get k = (s.amb.slot b).get k) ∧
      (verifySet s (s.amb.slot b) = verifyOk → (updClose s).2 = mbOk ∧ (updClose s).1.amb.pend = true ∧
        (updClose s).1.amb.session = none) ∧
      (verifySet s (s.amb.slot b) ≠ verifyOk → (updClose s).2 = mbVerify ∧ (updClose s).1.amb.pend = s.amb.pend)) ∧
    (s.amb.session = none → (updWrite s arg).2 = mbRefused ∧ (updClose s).2 = mbRefused) ∧
    (s.amb.pend = true → (activate s).2 = mbOk ∧ (activate s).1.amb.serving = false) ∧
    (s.amb.pend = false → activate s = (s, mbRefused)) ∧
    ((svnCommit s).1.fuseC = s.fuseC ∨ s.fuseC < svnOf (s.amb.slot s.amb.activeB)) ∧
    (s.amb.pend = false → s.amb.tried = false → s.fuseC < svnOf (s.amb.slot s.amb.activeB) →
      (svnCommit s).2 = mbOk ∧ (svnCommit s).1.fuseC = min (svnOf (s.amb.slot s.amb.activeB)) 127) ∧
    (s.amb.pend = true ∨ s.amb.tried = true ∨ svnOf (s.amb.slot s.amb.activeB) ≤ s.fuseC → svnCommit s = (s, mbRefused)) ∧
    (1 ≤ arg → arg ≤ 128 →
      let t := (readLog s arg).1
      let rs := (s.log.filter (fun r => memNat s.mbdata 8 0 ≤ r.seq)).take arg
      (readLog s arg).2 = mbOk ∧ (∀ k, 32 * rs.length ≤ k → t.mbdata.get k = s.mbdata.get k) ∧
      ∀ i r, rs[i]? = some r →
        memNat t.mbdata 8 (32 * i) = r.seq % 2 ^ 64 ∧ memNat t.mbdata 8 (32 * i + 8) = r.clock.toNat ∧
        memNat t.mbdata 2 (32 * i + 16) = r.boot % 2 ^ 16 ∧ memNat t.mbdata 1 (32 * i + 18) = r.sev % 2 ^ 8 ∧
        memNat t.mbdata 1 (32 * i + 19) = r.cls % 2 ^ 8 ∧ memNat t.mbdata 2 (32 * i + 20) = r.site % 2 ^ 16 ∧
        memNat t.mbdata 2 (32 * i + 22) = r.count % 2 ^ 16 ∧ memNat t.mbdata 8 (32 * i + 24) = r.data.toNat) ∧ (arg = 0 ∨ 128 < arg → readLog s arg = (s, mbBadArg))

/-- R404 to R406, R410: the management paths outside the host link answer while the AMB serves: PLDM opens, writes and closes an update
session, on slot A in recovery; out of recovery it reads sensors, and SPDM answers with measurements signed, with all that was sent, under the
device's key of this boot, and with a second signature of the same transcript; none of them while a mailbox command runs. The bytes of replies are
the model's (log 62). -/
def Claims.ManagementPaths : Prop :=
  ∀ (s : State),
    (s.amb.mbox ≠ none → exec .pldmFirmwareUpdate s = .next s ∧ exec .pldmMonitoring s = .next s ∧ exec .spdmMeasurements s = .next s ∧
      exec .spdmMldsaSignature s = .next s) ∧
    (s.amb.serving = true → s.amb.mbox = none →
    (s.ev.n = 0 → s.amb.session = none → ∃ t, exec .pldmFirmwareUpdate s = .next t ∧
      t.amb.session = some (true, if s.amb.recov then false else !s.amb.activeB) ∧ t.reply = [0]) ∧
    (∀ b, s.ev.n = 1 → s.amb.session = some (true, b) → ∃ t, exec .pldmFirmwareUpdate s = .next t ∧
      (∀ i < s.ev.bytes.length, some ((t.amb.slot b).get (s.ev.m + i)) = s.ev.bytes[i]?) ∧ t.reply = [0]) ∧
    (∀ b, s.ev.n = 2 → s.amb.session = some (true, b) → verifySet s (s.amb.slot b) = verifyOk →
      ∃ t, exec .pldmFirmwareUpdate s = .next t ∧ t.amb.session = none ∧ t.amb.pend = true ∧ t.reply = [0]) ∧
    (s.amb.recov = false →
      exec .pldmMonitoring s = .next { s with reply := natBytes 2 ((s.sensors.getD s.ev.n 0x8000).toNat) } ∧
      (1 ≤ s.ev.n → s.ev.n ≤ 7 → ∃ t, exec .spdmMeasurements s = .next t ∧ t.amb.signed = s.ev.bytes ++ measure s s.ev.n ∧
        t.reply = measure s s.ev.n ++ Config.edSign s.amb.devId (s.ev.bytes ++ measure s s.ev.n)) ∧
      (s.amb.signed ≠ [] → exec .spdmMldsaSignature s = .next { s with reply := Config.mlSign s.amb.devId s.amb.signed })) ∧
    (s.amb.recov = true → exec .pldmMonitoring s = .next s ∧ exec .spdmMeasurements s = .next s ∧ exec .spdmMldsaSignature s = .next s)) ∧
    (∀ b, (bootSet s b).amb.devId =
      Config.hmacSha384 s.uds (Config.sha384 (kindHeader (headersOf (s.amb.slot b)) 1)) ∧ (bootSet s b).amb.signed = [])

/-- R395, R397, R399, R417: a link's failed flits are replayed; the eighth failure in a row takes it down, and the items of a UALink port with
LINK_DOWN. A retrain brings it up, the girth bridge at its full rate alone with GDEG where it uses spares, or leaves it failed, as do three automatic
ones that fail in a second (log 59); a link's first training ends with its stage; a port whose partner is not the one that UALEXP expected when
the training began stays in STATE 5, and a write of UALEXP without RETRAIN changes nothing of a training; RETRAIN forces a port to train; a link that
retrains by itself trains from the next cycle on (log 84). -/
def Claims.Links : Prop :=
  ∀ (s : State), s.ev.n < 22 →
    let k := s.ev.n
    let x := linkOf s k
    let st := fun (t : State) => t.field (regLSTAT k) 0 3
    (linkUp s k = true →
      (s.ev.flag = false → ∃ t, exec .flitCrcReplay s = .next t ∧ (linkOf t k).replays = 0 ∧ st t = st s) ∧
      (s.ev.flag = true → x.replays < 7 → exec .flitCrcReplay s = .next (setLink s k { x with replays := x.replays + 1 })) ∧
      (s.ev.flag = true → 7 ≤ x.replays → 0 < k → ∃ t, exec .flitCrcReplay s = .next t ∧ st t = 0 ∧ (linkOf t k).auto = true ∧
        let down := setLink (setLinkState s k 0) k { x with replays := 0, auto := true }
        let u := if k < 6 then down else endAll down (portItems s (k - 6)) .linkDown
        t = addLog u 2 6 k 1 (u.reg (regLSTAT k)))) ∧
    (∀ (u s1 : State) (y : Present), focusCrew u y.2.1.who.gang y.2.1.who.crew = some s1 → stagedFull s1 (itemDie s1) = false →
      endAll u [y] .linkDown = unfocusCrew (endItem s1 y.2.1 y.2.2 .linkDown ⟨.linkDown, 5, 0xFF, 0, false, 0⟩ false 0)) ∧
    (linkUp s k = false → exec .flitCrcReplay s = .next s) ∧
    (st s ≠ 1 ∨ (∃ t0, s.stage = some (linkStage k, t0)) → exec .linkRetrainComplete s = .next s) ∧
    (st s = 1 → (∀ t0, s.stage ≠ some (linkStage k, t0)) →
      (s.ev.flag = true → k < 6 → ∃ t, exec .linkRetrainComplete s = .next t ∧ linkOf t k = ⟨0, false, recentFails s x.fails, x.want⟩ ∧
        st t = (if k ≠ 0 ∧ s.ev.m % 2 = 1 then 3 else 2) ∧
        (k = 0 → t.field regBOOTSTAT 38 1 = s.ev.m % 2) ∧ t.field (regLSTAT k) 48 16 = min (s.field (regLSTAT k) 48 16 + 1) 0xFFFF) ∧
      (s.ev.flag = true → 6 ≤ k → ∃ t, exec .linkRetrainComplete s = .next t ∧ linkOf t k = ⟨0, false, recentFails s x.fails, x.want⟩ ∧
        let peer := unitId s.ev.bytes 0
        let want := x.want
        st t = (if want ≠ 0 ∧ want ≠ peer then 5 else if s.ev.m % 2 = 1 then 3 else 2) ∧ t.field (regUALPEER (k - 6)) 16 48 = peer ∧
        (linkUp t k = true ↔ want = 0 ∨ want = peer)) ∧
      (s.ev.flag = false → x.auto = false → ∃ t, exec .linkRetrainComplete s = .next t ∧ st t = 4) ∧
      (s.ev.flag = false → x.auto = true → 2 ≤ (recentFails s x.fails).length → ∃ t, exec .linkRetrainComplete s = .next t ∧
        st t = 4 ∧ linkOf t k = ⟨0, false, [], x.want⟩) ∧
      (s.ev.flag = false → x.auto = true → (recentFails s x.fails).length < 2 → ∃ t, exec .linkRetrainComplete s = .next t ∧
        st t = 0 ∧ linkOf t k = ⟨0, true, s.ambTime :: recentFails s x.fails, x.want⟩)) ∧
    (∀ y : Link, (k, y) ∈ s.links → y.auto = true → st s = 0 → st (startRetrains s) = 1) ∧
    (st (beginTraining s k) = 1 ∧ (6 ≤ k → (linkOf (beginTraining s k) k).want = s.field (regUALEXP (k - 6)) 16 48)) ∧
    (∀ p v, p < 16 → v % 2 = 0 → (writeUalexp s p v).links = s.links ∧ ∀ j < 22, (writeUalexp s p v).reg (regLSTAT j) = s.reg (regLSTAT j)) ∧
    (k < 16 → s.ev.v.toNat % 2 = 1 → linkUp s 1 = true → linkUp s (6 + k) = false → ∃ t, exec .retrain s = .next t ∧
      t.field (regLSTAT (6 + k)) 0 3 = 1 ∧ linkOf t (6 + k) = ⟨0, false, [], bitsOf s.ev.v.toNat 16 48⟩ ∧
      t.field (regUALEXP k) 16 48 = bitsOf s.ev.v.toNat 16 48)

/-- R408, R409, R412, R413, R416: the AMB's sampling, scrubs and log: a sample that shows a sensor at 110 °C trips its die (R394), and waits
while the staging store is full (log 86); an excursion is recorded at its start and end, a corrected error is counted, an uncorrectable one
recorded and its unit damaged; no scrub runs before stage 2; at the end of a window of 1 s there is one record for each class and site, at its
first event, for a link with its failed flits; a stack that crosses a thermal limit is recorded with its reading; the log keeps the newest 8,192
records with rising numbers. The unit a scrub damages and the site of an excursion's end are log 60. -/
def Claims.SensorsAndLog : Prop :=
  ∀ (s : State), s.amb.serving = true →
    let l := (List.range 96).map (fun i => BitVec.ofNat 16 (bytesNat ((s.ev.bytes.drop (2 * i)).take 2)))
    let crossed := stackThermal s { s with sensors := l, excur := (firstOut l).isSome,
                                           stackTj := s.stackTj.zipIdx.map (fun x => (sampleTemp l (24 + x.2)).getD x.1) }
    (hotSites l ≠ [] → exec .sensorSample s = .next (if stagedFull s 0 then s
      else (hotSites l).foldl (fun u x => trip u x.1 x.2) (takeSample s))) ∧
    (∃ t, takeSample s = t ∧ (hotSites l = [] → exec .sensorSample s = .next t) ∧ t.sensors = l ∧ t.excur = (firstOut l).isSome ∧
      (s.excur = (firstOut l).isSome → t = crossed) ∧ (s.excur ≠ (firstOut l).isSome → t.logSeq = crossed.logSeq + 1 ∧
        (t.log.getLast?).map (fun r => (r.sev, r.cls)) = some (2, 12))) ∧
    (∀ (u : State) (site : Nat) (old new : Int), u.amb.serving = true →
      let w := fun (lo : Nat) => 16 * (therm u (siteDie site) lo : Int)
      ((∀ lo ∈ [0, 8, 16], ¬(old < w lo ∧ w lo ≤ new)) → thermalLog u site old new = u) ∧
      ((∃ lo ∈ [0, 8, 16], old < w lo ∧ w lo ≤ new) → ∃ r, (thermalLog u site old new).log.getLast? = some r ∧ r.cls = 8 ∧ r.site = site ∧
        r.data.toNat % 2 ^ 16 = (BitVec.ofInt 16 new).toNat)) ∧
    (s.ev.n = 1 ∨ s.ev.n = 2 → scrubs s = true →
      let data := if s.ev.n = 1 then 1 + bitsOf s.ev.v.toNat 8 24 * 2 ^ 8 else s.ev.v.toNat
      (s.ev.flag = true →
        let s1 := addLog s 3 s.ev.n s.ev.m 1 data
        (scrubUnit s s.ev.n s.ev.m = none → exec .patrolScrub s = .next s1) ∧
        (∀ c, scrubUnit s s.ev.n s.ev.m = some c → ∃ t, exec .patrolScrub s = .next t ∧ c ∈ t.damaged ∧ t.log = s1.log)) ∧
      (s.ev.flag = false → exec .patrolScrub s = .next (addCorrected s s.ev.n s.ev.m 1 data))) ∧
    (scrubs s = false → exec .patrolScrub s = .next s ∧ exec .hbmPatrolScrub s = .next s) ∧
    (s.ev.n = 3 → scrubs s = true → s.ev.v.toNat / (64 * gib) < 8 →
      (s.ev.flag = true → ∃ t, exec .hbmPatrolScrub s = .next t ∧ physKey 0 s.ev.v.toNat / 64 ∈ t.bad ∧ t.logSeq = s.logSeq + 1) ∧
      (s.ev.flag = false → ∃ t, exec .hbmPatrolScrub s = .next t ∧ t.bad = s.bad ∧ t.mem = s.mem ∧ t.log = (closeWindow s).log)) ∧
    (∃ t, exec .logCoalesceWindow s = .next t ∧ t.corrected = s.corrected.filter (fun x => !windowEnded s x) ∧
      t.logSeq = s.logSeq + (s.corrected.filter (windowEnded s)).length ∧ t.clock = s.clock) ∧
    (∀ (k : Nat) (x : Corrected), s.corrected = [(k, x)] → windowEnded s (k, x) = true → ∃ r,
      (closeWindow s).log.getLast? = some r ∧ r.seq = s.logSeq ∧ r.clock = x.clock ∧ r.boot = x.boot % 2 ^ 16 ∧ r.sev = 1 ∧
        r.cls = k / 65536 ∧ r.site = k % 65536 ∧ r.count = min x.n 0xFFFF ∧ r.data = (if k / 65536 = 5 then BitVec.ofNat 64 x.n else x.data)) ∧
    (∀ sev cls site n d, s.log.length ≤ 8192 → (addLog s sev cls site n d).log.length ≤ 8192 ∧
      ∃ r, (addLog s sev cls site n d).log.getLast? = some r ∧ r.seq = s.logSeq ∧ r.sev = sev ∧ r.cls = cls ∧ r.site = site)

/-- R7, R411: a register write stores the fields of its register, named here register by register, clears the bits that a written 1 clears, and
keeps its other bits and every other register; LQBASE keeps its value while its queue is enabled, and a register of read-only fields always; a
write of the MSI-X table signals a pending vector that is no longer masked (log 83); nothing reaches the package while the host link is down; a
read of 8 bytes answers what the register holds, and zero where it is written only or does not exist, and a read of another size zeros; a command
of no OP of the table ends with BADARG. -/
def Claims.RegisterWrites : Prop :=
  ∀ (s : State),
    let v := s.ev.v.toNat
    let o := s.ev.n
    let others := fun (t : State) (p : Nat → Prop) => ∀ q, q ≠ o → ¬p q → t.reg q = s.reg q
    let stores := fun (fs : List (Nat × Nat)) (cs : List Nat) => ∃ t, exec .registerWrite s = .next t ∧ others t (fun _ => False) ∧
      (∀ f ∈ fs, t.field o f.1 f.2 = bitsOf v f.1 f.2) ∧ (∀ b ∈ cs, t.field o b 1 = if bitsOf v b 1 = 1 then 0 else s.field o b 1) ∧
      (∀ b < 64, b ∉ cs → (∀ f ∈ fs, b < f.1 ∨ f.1 + f.2 ≤ b) → t.field o b 1 = s.field o b 1)
    let keeps := exec .registerWrite s = .next s
    (linkUp s 1 = false → keeps) ∧
    (linkUp s 1 = true →
      (o = regHEATCFG → stores [(0, 1), (1, 5), (16, 16)] []) ∧ (∀ st < 8, (o = regCMP st 0x18 ∨ o = regCMP st 0x20 → stores [(0, 64)] []) ∧
        (o = regCMP st 0x28 → stores [] [3])) ∧
      (∀ w < 16, (o = regWCTL w → stores [(0, 1), (1, 2), (16, 13), (32, 14)] []) ∧ (o = regWTGT w → stores [(0, 8), (16, 32)] [])) ∧
      (∀ i < 8, o = regKEYDATA i → stores [(0, 64)] []) ∧ (o = regTLBDONE → stores [] [32]) ∧ (o = regMBSTAT → stores [] [37]) ∧
      (o = regCTXARG → stores [(0, 64)] []) ∧ (o = regCTXSTAT → stores [] [36]) ∧
      (∀ d < 2, (o = regBACKOFF d → stores [(0, 12), (12, 4)] []) ∧ (o = regTHERM d → stores [(0, 8), (8, 8), (16, 8)] [24])) ∧
      (∀ c < 24, (o = regHALTCFG c → stores [(0, 10), (10, 10), (20, 10)] []) ∧ (o = regBOOSTCTL c → stores [(0, 1), (1, 3)] [])) ∧
      (∀ p < 16, o = regUALEXP p → v % 2 = 0 → stores [(16, 48)] []) ∧
      (∀ q < 64, o = regLQ q 0 → (s.field (regLQ q 8) 0 1 = 1 → keeps) ∧ (s.field (regLQ q 8) 0 1 = 0 → ∃ t, exec .registerWrite s = .next t ∧
        t.reg o = bitsOf v 6 46 * 2 ^ 6 + bitsOf v 59 2 * 2 ^ 59 ∧ others t (fun _ => False))) ∧
      (∀ n < 4096, o = 0x300000 + 16 * n ∨ o = 0x300008 + 16 * n → ∃ t, exec .registerWrite s = .next t ∧ t.reg o = v ∧
        let pend := 0x310000 + 8 * (n / 64)
        others t (fun q => q = pend) ∧ (∀ b < 64, b ≠ n % 64 → t.field pend b 1 = s.field pend b 1) ∧
        (msiPending s n = true → msiMasked t n = false → t.msi = s.msi ++ [n] ∧ msiPending t n = false) ∧
        (msiPending s n = false ∨ msiMasked t n = true → t.msi = s.msi ∧ msiPending t n = msiPending s n)) ∧
      (o = 0 ∨ (∃ q < 64, o = regLQ q 0x18) ∨ (∃ c < 24, o = regCLSTAT c) ∨ (∃ k < 22, o = regLSTAT k) ∨ (∃ p < 16, o = regUALPEER p) → keeps) ∧
      (∀ i < 512, o = 0x2000 + 8 * i → ∃ t, exec .registerWrite s = .next t ∧ t.regs = s.regs ∧
        (∀ k < 8, t.mbdata.get (8 * i + k) = BitVec.ofNat 8 (v / 2 ^ (8 * k))) ∧ ∀ k, k < 8 * i ∨ 8 * i + 8 ≤ k → t.mbdata.get k = s.mbdata.get k) ∧
      (o % 8 ≠ 0 → keeps) ∧ (∀ n, n ≠ 8 → takeTurn s (.hostRead o n) = .next { s with reply := natBytes n 0 }) ∧
      takeTurn s (.hostRead o 8) = .next { s with reply := natBytes 8 (readReg s o), qsig := s.qsig.filter (fun q => o ≠ regLQ q 0x18) }) ∧
    readReg s 0 = devid.toNat ∧ readReg s regTLBIA = 0 ∧ (∀ i < 8, readReg s (regKEYDATA i) = 0) ∧
    (∀ off, off % 8 ≠ 0 ∨ 2 ^ 26 ≤ off → readReg s off = 0) ∧
    (∀ i < 512, readReg s (0x2000 + 8 * i) = memNat s.mbdata 8 (8 * i)) ∧
    (∀ q < 64, readReg s (regLQ q 8) = s.reg (regLQ q 8)) ∧
    (linkUp s 1 = true → s.ev.n = wpBase + 8 → s.cmd = none → s.ev.v.toNat % 16 = 0 ∨ 10 < s.ev.v.toNat % 16 →
      ∃ t, exec .registerWrite s = .next t ∧ t.cmd = some (s.ev.v, some resBadArg))

/-! ## The machine as a whole -/

/-- R5, R36, R59, R106, R139, R356, R368, R373, R381, R391, R393, R394: the package right after reset. Memory that reads as
zero and every field without a rule are the model's choice (logs 2, 4 and 9). -/
def Claims.PackageAtReset : Prop :=
  let s := State.reset
  s.mem.wf = true ∧ (∀ k, s.mem.get k = 0) ∧ s.clock = 0 ∧ s.ctxs = [] ∧ s.gangs = [] ∧ s.grids = [] ∧ s.clusters = [] ∧
    s.halted = false ∧ s.agenda = [] ∧
    (∀ c, (coreOf s c).gen = [1, 1, 1, 1] ∧ (coreOf s c).last = [63, 63, 63, 63]) ∧
    (∀ u < 12, aget s.heat u = some (0, 0xACE1 ^^^ BitVec.ofNat 16 u)) ∧
    keySlot s 0 = plainSlot ∧ (∀ k, k ≠ 0 → (keySlot s k).mode = 0) ∧
    (∀ d < 2, s.reg (regBACKOFF d) = 0x4040) ∧ (∀ d < 2, s.reg (mmBase + 0x20 + 8 * d) = 0x0100) ∧
    (∀ d < 2, s.reg (regPERMIT d) = 64) ∧ (∀ d < 2, s.reg (regTHERM d) = 0x69645F) ∧
    (∀ q < 64, s.reg (regLQ q 8) = 0xFFFF00000000) ∧
    (∀ c < 24, s.reg (regHALTCFG c) = 0xA05002 ∧ s.reg (regCLPWR c) = 0xC8191000200 ∧ s.reg (regCLSTAT c) = 0x200)

/-- R35: the state in which a launched group starts. -/
def Claims.GroupAtLaunch : Prop :=
  ∀ (p : Packet) (no slot : Nat),
    let g := launchGroup p no slot
    g.splits = [⟨BitVec.allOnes 32, p.kaddr, 0, 0, 0, none, .none, none, none⟩] ∧ (∀ i, g.v.get i = 0) ∧ (∀ i, g.k.get i = 0) ∧
    (∀ i, g.s.get i = if i = 0 then p.param else 0) ∧ (∀ i, (aget g.t i).getD .zero = ⟨false, 0, none, false, none⟩) ∧
    (∀ i, g.h.get i = 0) ∧ g.mode = 0 ∧ g.no = no ∧ (∀ l < 32, aget g.lanes l = some ⟨no, l, none⟩)

/-- R35: the state in which a crew starts; a handle of value 0 is then stale (R81). -/
def Claims.CrewAtLaunch : Prop :=
  ∀ (p : Packet) (no core strm tag : Nat) (used : List Nat),
    let c := newCrew p no core strm tag used
    (∀ b < 16, barOf c b = ⟨32 * p.crew, [], false, 0, 0⟩) ∧ c.queues = [] ∧ (∀ n, aget c.guards n = none) ∧
    (∀ i, c.f.get i = 0) ∧ c.strm.st = .idle ∧ (∀ i, (aget c.strm.t i).getD .zero = ⟨false, 0, none, false, none⟩) ∧
    (∀ i, c.strm.h.get i = 0) ∧ (∀ i, c.strm.e.get i = 0) ∧ c.strm.bat.no = 1 ∧ c.recs = [] ∧ handleOk c 0 = false

/-- R36, R37, R164, R170, R171, R263: a step takes the turn at the head of the agenda. The first candidate of a pipe or stream has the word at
its pc fetched, decoded and, when no register it names has a pending write and no source is damaged, executed; `unload` puts it back, `mendRegs`
takes the registers written whole out of those that are damaged and `account` counts its issue. One that has issued and is held goes on with what
it read then, and a stream's waiting command with the word it fetched. An instruction that stalls lets the next candidate try. A fetch that fails
and a word that decodes to nothing take their faults; a fetch that ends with a precise fault counts as issued (R211), one that raises PAGE counts
its misses alone (log 17). A cycle of the agenda brings one issue of each pipe and stream it names. An event takes its effect with its operands,
time passes, and with an empty agenda a stream that would fall behind its steps takes its turn (log 99), else one slate cycle passes. The agenda
(log 1), the order among candidates of equal pcs (log 81) and that words are fetched at the turn (log 87) are the model's choice. -/
def Claims.StepRunsDecoded : Prop :=
  ∀ (s : State) (r : List Turn),
    let s0 := { s with agenda := r }
    (s.agenda = [] → dueStream s = none → step s = .next (pass s 1)) ∧
    (∀ g c, s.agenda = [] → dueStream s = some (g, c) → step s = issueFirst s (streamCands s g c)) ∧
    (∀ n, s.agenda = .tick n :: r → step s = .next (pass s0 n)) ∧
    (∀ key, s.agenda = .fill key :: r → step s = .next (fillLine s0 key)) ∧
    (∀ ps ss, s.agenda = .cycle ps ss :: r → step s = coreCycle s0 ps ss) ∧
    (∀ core p, s.agenda = .residue core p :: r → step s = .next (residueTurn s0 core p)) ∧
    (∀ i ev t, s.agenda = .event i ev :: r → i.opcode = none → exec i { s0 with ev := ev } = .next t →
      step s = .next { t with ev := .zero }) ∧
    (∀ turn cs, s.agenda = turn :: r →
      ((∃ core p, turn = .pipe core p ∧ cs = pipeCands s0 core p) ∨ (∃ g c, turn = .stream g c ∧ cs = streamCands s0 g c)) →
      (cs = [] → step s = .next s0) ∧
      (∀ c others s1, cs = c :: others → load s0 c = some s1 → (∀ rid f, holdOf s1 ≠ .page rid f) →
        let takes := fun (t : State) => t.stalled = false → step s = .next (unload t)
        (isStream s1 = false → issuerWords s1 = fetch s1) ∧
        (isStream s1 = true → issuerWords s1 = match s1.crew.strm.cap with | some x => .ok x | none => fetch s1) ∧
        (isStream s1 = true ∨ s1.split.cap = none →
          (∀ w ws i, issuerWords s1 = .ok (w, ws) → decode w ws = .ok i →
            (isStream s1 = false → pendingHit s1 i = true → step s = issueFirst s0 others) ∧
            (isStream s1 = true ∨ pendingHit s1 i = false →
              (sourceBad s1 i = true → takes (account s1 (takeFault s1 (fx .eccUncorr)) w ws)) ∧
              (∀ t, sourceBad s1 i = false → exec i s1 = .next t →
                (t.stalled = false → step s = .next (unload (account s1 (mendRegs s1 t i) w ws))) ∧
                (t.stalled = true → step s = issueFirst s0 others)))) ∧
          (∀ f, issuerWords s1 = .error f → f.cause = .page → takes (countMisses (takeFault s1 f) s1.crew.core)) ∧
          (∀ f, issuerWords s1 = .error f → f.cause ≠ .page → (takeFault s1 f).stalled = false → takes (account s1 (takeFault s1 f) 0 [])) ∧
          (∀ w ws e, issuerWords s1 = .ok (w, ws) → decode w ws = .error e → takes (account s1 (undecodable e s1) w ws))) ∧
        (∀ cap i t, isStream s1 = false → s1.split.cap = some cap → decode cap.word cap.rest = .ok i →
          exec i (resumed s1 cap) = .next t →
          (t.stalled = false → step s = .next (unload (account s1 (mendRegs (resumed s1 cap) (putBack s1 t cap) i) cap.word cap.rest))) ∧
          (t.stalled = true → step s = issueFirst s0 others))))

/-- R155 to R168: words that the manual writes out, and the instructions they stand for. -/
def Claims.DecodeWords : Prop :=
  decode 0x8C048418 [] = .ok (.vadd .xfer 9 4 12 0) ∧
  decode 0x00ABFFF4 [] = .ok (.xj .seq 10 0x3FFF4) ∧
  decode 0x80ABFFF4 [] = .ok (.xj .xfer 10 0x3FFF4) ∧
  decode 0x2C519292 [] = .ok (.mx .seq 1 3 2 5 4 1 0) ∧
  decode 0x2C00000A [] = .ok (.mxg .seq 0 1 2) ∧
  decode 0x2D810000 [] = .ok (.hclaim .seq 2 0) ∧
  decode 0x2D828001 [] = .ok (.hclaim .seq 5 1) ∧
  decode 0xEF000000 [] = .ok (.bwaitImm .fin 0) ∧
  decode 0x30C10202 [] = .ok (.esub .seq 2 2 1) ∧
  decode 0xB2417FFC [] = .ok (.xjnz .xfer 2 0x7FFC) ∧
  decode 0x0B038312 [] = .ok (.sbfx .seq 7 3 1 2) ∧
  decode 0x0790840A [] = .ok (.scmp .seq 2 1 4 5 0) ∧
  decode 0x20030404 [] = .ok (.acas .seq 6 4 2) ∧
  decode 0x00000000 [] = .ok (.reservedOpcode 0) ∧
  decode 0x00400001 [] = .error (.mustBeZero 0x01)

/-- R155 to R168: encoding and decoding agree. Every well-formed instruction, with every operand its encoding admits, decodes
back from its own words, whatever words follow; and words that decode to an instruction are that instruction's encoding, so
that no bit of a word is ignored. -/
def Claims.DecodeEncode : Prop :=
  (∀ (i : Instr) (tail : List Word), wellFormed i = true → i.opcode ≠ none →
    ∃ w r, encode i = w :: r ∧ decode w (r ++ tail) = .ok i ∧ i.opcode = some (opcodeOf w)) ∧
  (∀ (w : Word) (rest : List Word) (i : Instr), decode w rest = .ok i → ∃ tail, w :: rest = encode i ++ tail)

/-- Every step keeps memory in its canonical form, keys rising and no entry that equals what an unlisted byte reads as (the form is the model's
own: log 64; what an unlisted byte reads as is log 2). -/
def Claims.StepKeepsMemoryForm : Prop :=
  ∀ (s t : State), s.mem.wf = true → step s = .next t → t.mem.wf = true

/-- R163: bits 31:21 of a MODE are never nonzero and its guard field is never 9 to 15: every step keeps each MODE so, of groups, streams, spawn
records and saved contexts, and so it is after reset. -/
def Claims.StepKeepsModesLegal : Prop :=
  (∀ m : BitVec 32, modeLegal m = true ↔ m.toNat / 2 ^ 21 = 0 ∧ m.toNat / 2 ^ 13 % 2 ^ 4 ≤ 8) ∧
  State.reset.modesLegal = true ∧
  ∀ (s t : State), s.modesLegal = true → step s = .next t → t.modesLegal = true

/-- R172, R413, R415, R420: an instruction that ends with a residue mismatch raises RESIDUE: its split issues nothing more, one record is
staged, and every register that it does not write, and memory if it stores nothing, stays as it was; what it writes is undefined. An
uncorrectable error that the agenda brings damages the unit it names, once, and nothing else (that the agenda brings both is the model's own:
log 34). -/
def Claims.ResidueAndDamage : Prop :=
  ∀ (s : State) (i : Instr), s.stalled = false → stagedFull s (dieOfCore s.crew.core) = false →
    let t := residueFault s i
    (storeAccs s i = [] → t.mem = s.mem) ∧ (∃ q, t.staged = s.staged ++ [q] ∧ q.cause = .residue) ∧
    (isStream s = false → t.split.stop = some (nextSeq s s.gang.ctx, .residue) ∧ t.split.hold = .none ∧
      (∀ r, .s r ∉ (uses s i).writes → sget t r = sget s r) ∧
      (∀ r p, p < 32 → (∀ q ps, .v q ps ∈ (uses s i).writes → p ∈ ps → q ≠ r) → (∀ q ps, .v q ps ∈ (uses s i).writes → ∀ x ∈ ps, x < 32) →
        vget t r p = vget s r p)) ∧
    (∀ c : Cell, (∀ g k ix q, c ≠ .spawn g k ix q) → c.lives s = true → ∃ u, takeTurn s (.upsetCell c) = .next u ∧ c ∈ u.damaged ∧ u.mem = s.mem ∧ u.gangs = s.gangs) ∧
    (∀ k, takeTurn s (.upset k) = .next { s with bad := if s.bad.contains k then s.bad else k :: s.bad })

/-- R281: MXG sets the configuration that later steps capture, whatever the guard, and joins no batch; a log2 G of 5 to 7
or a nonzero I15[14:6] raises ILLEGAL_OP, and so does a nonzero D. -/
def Claims.MxgSettings : Prop :=
  ∀ (nx : NX) (sat : BitVec 1) (dep : BitVec 2) (g : BitVec 3) (s : State), isStream s = true →
    let t := setStrm s (fun x => { x with lgG := g.toNat, depth := dep.toNat, sat := sat = 1 })
    (nxFault nx 4 s = none → g.toNat ≤ 4 → exec (.mxg nx sat dep g) s = .next (after nx 4 t) ∧ batOf t (curWho t) = batOf s (curWho s) ∧
      (∀ acc d ha hb v, mxItem t acc d ha hb v =
        .mx acc d (hSlot ha) (hSlot hb) (min v.toNat (dM d)) g.toNat dep.toNat (decide (sat = 1)) (descA s d) (descB s d) ha hb)) ∧
    (4 < g.toNat → exec (.mxg nx sat dep g) s = .next (raise s (fx .illegalOp))) ∧
    (∀ (w : Word) (rest : List Word), opcodeOf w = 0xB0 →
      (fldN w 15 7 = 0 ∧ fldN w 6 9 = 0 → decode w rest = .ok (.mxg (nxOf w) (fld w 5 1) (fld w 3 2) (fld w 0 3))) ∧
      (¬ (fldN w 15 7 = 0 ∧ fldN w 6 9 = 0) → decode w rest = .error (.mustBeZero 0xB0))) ∧
    undecodable (.mustBeZero 0xB0) s = raise s (fx .illegalOp) ∧ decode 0x2C00000A [] = .ok (.mxg .seq 0 1 2)

/-- R312: XJZ and XJNZ arm the stream's transfer toward the word's address plus 4 × SignExt(I15, 15), as taken when eD = 0
or eD ≠ 0 and as not taken otherwise; the transfer takes effect at XFER. The manual's loop closes with 0xB2417FFC, an XJNZ of
e2 four words back. -/
def Claims.StreamJumps : Prop :=
  ∀ (nx : NX) (d : BitVec 7) (i : BitVec 15) (s : State), isStream s = true → d.toNat < 32 →
    let D := eget s d.toNat
    let tgt := s.crew.strm.pc + BitVec.ofInt 64 (4 * signExt i.toNat 15)
    let armed := fun (taken : Bool) => setStrm s (fun x => { x with armed := some ⟨false, if taken then [(0, tgt)] else []⟩ })
    exec (.xjz nx d i) s = .next (after nx 4 (armed (decide (D = 0)))) ∧
    exec (.xjnz nx d i) s = .next (after nx 4 (armed (decide (D ≠ 0)))) ∧
    (∀ taken, (nxApply .xfer 4 (armed taken)).crew.strm.pc = if taken then tgt else s.crew.strm.pc + 4) ∧
    (∀ taken, (nxApply .xfer 4 (armed taken)).crew.strm.armed = none) ∧
    (∀ (w : Word) (rest : List Word),
      (opcodeOf w = 0xC8 → decode w rest = .ok (.xjz (nxOf w) (fld w 15 7) (fld w 0 15))) ∧
      (opcodeOf w = 0xC9 → decode w rest = .ok (.xjnz (nxOf w) (fld w 15 7) (fld w 0 15)))) ∧
    decode 0x30C10202 [] = .ok (.esub .seq 2 2 1) ∧ decode 0xB2417FFC [] = .ok (.xjnz .xfer 2 0x7FFC) ∧
    signExt (0x7FFC : BitVec 15).toNat 15 = -4

/-! ## The obligations -/

/-- Scalar arithmetic, immediates, bit fields and compares write the values the manual gives -/
def Obligations.ScalarResults : Prop :=
  Claims.ScalarArithmetic ∧ Claims.ScalarImmediate ∧ Claims.ScalarCompare

/-- Scalar division and remainder truncate toward zero, and no scalar instruction raises an arithmetic fault -/
def Obligations.ScalarDivision : Prop :=
  Claims.ScalarDivide

/-- SLD reads and SST writes the eight bytes at their address, and a misaligned one raises ALIGN -/
def Obligations.ScalarLoadsAndStores : Prop :=
  Claims.ScalarMemory

/-- SRD reads and SWR writes the special register its selector names, and other selectors raise ILLEGAL_OP -/
def Obligations.SpecialRegisterAccess : Prop :=
  Claims.SpecialRegisters ∧ Claims.SadvReads

/-- CSRR, CSRW, CNTR, CLK and SEED read and write the registers, counters, clocks and generator they name -/
def Obligations.ControlRegistersAndClocks : Prop :=
  Claims.CountersAndClocks

/-- Every selector moves the pc as R161 says, transfers arm their lanes and move the split, and an unarmed XFER faults -/
def Obligations.NextAddressSelector : Prop :=
  Claims.NextAddress ∧ Claims.Arming ∧ Claims.XferTogether ∧ Claims.XferSplits ∧ Claims.XferUnarmed ∧
    Claims.LoopsAndNops

/-- RWAIT waits for the splits of its group and ends with the mask that arrived or when it elapses -/
def Obligations.RwaitMeetsSplits : Prop :=
  Claims.RwaitMeets ∧ Claims.RwaitMovesHome ∧ Claims.RwaitElapses

/-- MODE writes, traps, instructions of the wrong issuer, and what taking a precise fault records -/
def Obligations.ModeTrapsAndFaultEntry : Prop :=
  Claims.ModeFields ∧ Claims.ModeFromLanes ∧ Claims.TrapsTaken ∧ Claims.WrongIssuer ∧ Claims.FaultEntry ∧
    Claims.ResidueAndDamage

/-- A PAGE fault leaves its instruction at the head of its split with one record per page -/
def Obligations.PageFaultSuspends : Prop :=
  Claims.PageSuspends

/-- Vector arithmetic writes each element's rounded or wrapped result in the active lanes only -/
def Obligations.VectorArithmeticResults : Prop :=
  Claims.VectorArithmetic ∧ Claims.VectorWraps

/-- Vector unary operations, shifts, compares and selects write each element of the active lanes -/
def Obligations.VectorUnaryCompareSelect : Prop :=
  Claims.VectorUnaryAndShifts ∧ Claims.VectorCompareSelect

/-- Vector logic, moves, broadcasts and predicate instructions -/
def Obligations.VectorLogicMovesPredicates : Prop :=
  Claims.VectorLogicAndMoves ∧ Claims.VectorBroadcast ∧ Claims.Predicates

/-- Dot products and bit counts of packed elements -/
def Obligations.VectorDotsAndCounts : Prop :=
  Claims.VectorDots ∧ Claims.VectorCounts

/-- Conversions between formats, and transcendental results, rounded once under F16 and B16 and as the model computes them under F32 -/
def Obligations.VectorConversionsAndApproximations : Prop :=
  Claims.VectorTranscendental ∧ Claims.VectorConversion

/-- Shuffles, reductions and scans read the lanes the manual names, and VPRUNE keeps its budget of elements -/
def Obligations.VectorAcrossLanesResults : Prop :=
  Claims.VectorAcrossLanes ∧ Claims.VectorPrune ∧ Claims.PruneKeepsBudget

/-- Vector, tile and bounded loads fill their registers from memory in the active lanes -/
def Obligations.VectorAndTileLoads : Prop :=
  Claims.VectorLoads ∧ Claims.TileAndBoundedLoads

/-- Vector stores write their bytes lane by lane, and a load of what a store wrote gives it back -/
def Obligations.VectorStoresAndReadBack : Prop :=
  Claims.VectorStores ∧ Claims.StoreThenLoad

/-- Atomics and reductions update memory by their operation and atomics return the old value -/
def Obligations.AtomicsAndReductions : Prop :=
  Claims.Atomics ∧ Claims.Reductions ∧ Claims.ReductionUpdates

/-- Drains bring a bounded line within its tolerance and give holders' shares back -/
def Obligations.BoundedLinesDrain : Prop :=
  Claims.DrainsReachTolerance ∧ Claims.HoldersDrain

/-- Fences write pending tokens that complete when the covered work is done -/
def Obligations.FencesComplete : Prop :=
  Claims.Fences ∧ Claims.StreamAndFenceEvents

/-- A storing instruction changes no byte outside the locations its addresses name -/
def Obligations.StoresChangeOnlyTheirBytes : Prop :=
  Claims.StoresFrame

/-- Register-only instructions change their destination and no other register, memory, unit or host register -/
def Obligations.RegisterFormsFrame : Prop :=
  Claims.RegisterFrame

/-- Barrier instructions count arrivals and bytes, and a complete phase starts the next -/
def Obligations.BarriersComplete : Prop :=
  Claims.BarrierInstructions ∧ Claims.BarrierPhase ∧ Claims.BarrierCounts

/-- Queues hand entries out in order within their allowance, and GSET and GCLR write guard slots -/
def Obligations.QueuesAndGuardSlots : Prop :=
  Claims.QueueInstructions ∧ Claims.QueueOrder ∧ Claims.GuardSlots

/-- Starting and joining an engine stream, and the stream's own register instructions -/
def Obligations.StreamStartAndRegisters : Prop :=
  Claims.StreamStartAndJoin ∧ Claims.StreamRegisters

/-- LAUNCH submits one packet per active lane, and the dispatcher takes or refuses packets -/
def Obligations.LaunchesReachTheDispatcher : Prop :=
  Claims.DeviceLaunch ∧ Claims.LanesSubmit ∧ Claims.PacketsTaken

/-- SFORK opens an entry for its siblings, and the deadline completes one that is open -/
def Obligations.SampleGroupsFork : Prop :=
  Claims.SampleFork ∧ Claims.SampleDeadline

/-- Rewards and cancellations act on the open entry, and its results are read once it is complete -/
def Obligations.SampleRewardsAndResults : Prop :=
  Claims.SampleRewards ∧ Claims.SampleCompletion ∧ Claims.SampleResults

/-- Commands of the engines join the open batch with the operands they captured -/
def Obligations.EngineCommandsJoinBatches : Prop :=
  Claims.EngineCommands ∧ Claims.ItemJoins

/-- A stream's guard lets a command act, discards it, or makes it wait -/
def Obligations.GuardsDiscardCommands : Prop :=
  Claims.GuardedCommands

/-- MXG sets the term-group configuration that later steps capture -/
def Obligations.MatrixGatherSettings : Prop :=
  Claims.MxgSettings

/-- XJZ and XJNZ arm the stream's transfer when their register is zero or is not -/
def Obligations.StreamCountdownJumps : Prop :=
  Claims.StreamJumps

/-- MXBOUND, MXZ, HCLAIM and HREL act on bounds, tiles and operand slots -/
def Obligations.TilesAndOperandSlots : Prop :=
  Claims.MatrixSettings ∧ Claims.OperandSlots

/-- BSEAL and BWAIT count sealed batches, and a batch's token reports its items -/
def Obligations.BatchesSealAndReport : Prop :=
  Claims.BatchInstructions ∧ Claims.BatchToken

/-- Lease requests queue within their bound, and engine and window commands join the batch -/
def Obligations.LeasesAndEngineCommands : Prop :=
  Claims.Leases ∧ Claims.LeaseQueueBound ∧ Claims.EngineAndWindowCommands

/-- Accumulator transfers and shadow-window items move their tiles and bindings when they complete -/
def Obligations.TileAndWindowItemsComplete : Prop :=
  Claims.TileTransfersComplete ∧ Claims.WindowItemsComplete

/-- Copies write the elements or bytes they read to their destination when they complete -/
def Obligations.CopyItemsComplete : Prop :=
  Claims.CopiesComplete ∧ Claims.ByteCopiesComplete

/-- Items of the leased engines perform their commands when they complete -/
def Obligations.EngineItemsAct : Prop :=
  Claims.EngineItemsComplete

/-- A collective combines its participants' elements in the order the manual fixes -/
def Obligations.CollectivesComplete : Prop :=
  Claims.CollectiveCompletes

/-- An item whose check fails ends with the status and record of that check -/
def Obligations.FailedItemsReport : Prop :=
  Claims.ItemFailures

/-- The matrix engine takes its streams in turn, begins the oldest step of the one chosen and ends a step with the tiles its terms give -/
def Obligations.MatrixStepsAct : Prop :=
  Claims.StepChosen ∧ Claims.StepsBegin ∧ Claims.StepsEnd ∧ Claims.StepUpdatesTiles ∧ Claims.StepCycles ∧
    Claims.EngineCounts

/-- The former builds a group from records of one class in the order they came -/
def Obligations.FormerBuildsGroups : Prop :=
  Claims.GroupFormer

/-- Gangs are placed on free cores, end with their grid's account, and refused messages are sent again -/
def Obligations.GangsComeAndGo : Prop :=
  Claims.GangsPlaced ∧ Claims.GangsEnd ∧ Claims.RefusalsSentAgain

/-- Leases are granted in order, a granted engine starts fresh, and idle timers dim and darken engines -/
def Obligations.LeaseLifecycle : Prop :=
  Claims.LeasesGranted ∧ Claims.LeaseOrder ∧ Claims.GrantedEngine ∧ Claims.EngineTimers

/-- Translations are cached and dropped, and an invalidation completes with none of its context left -/
def Obligations.TranslationsAndInvalidation : Prop :=
  Claims.TranslationEvents ∧ Claims.InvalidationCompletes

/-- Fault records are written to their buffer, and the driver's responses replay or abort -/
def Obligations.FaultBuffers : Prop :=
  Claims.FaultResponses ∧ Claims.FaultRecordWritten

/-- Heat-map and key-slot commands act on the memory system's own state -/
def Obligations.HeatAndKeyCommandsAct : Prop :=
  Claims.HeatAndKeyCommands

/-- A compressed block is stored, moved and copied as the manual says, and its stored form expands to the block -/
def Obligations.CompressedMemory : Prop :=
  Claims.BlocksWritten ∧ Claims.CompressionCommands ∧ Claims.StoredFormExpands

/-- Context commands of the driver start and act as the manual says -/
def Obligations.ContextCommands : Prop :=
  Claims.PartitionMap ∧ Claims.ContextCommandsStart ∧ Claims.ContextCommandsAct

/-- Context commands end, and a die that goes dark takes its work with it -/
def Obligations.ContextsEndAndDiesGoDark : Prop :=
  Claims.ContextCommandsEnd ∧ Claims.DiesGoDark

/-- Launch queues hand packets over, and grids' completion records are written -/
def Obligations.LaunchQueuesAndRecords : Prop :=
  Claims.LaunchQueues ∧ Claims.BufferRegisters ∧ Claims.CompletionRecords

/-- Residency, cluster gates, boost permits, hot spots and watchdogs -/
def Obligations.PowerAndWatchdogs : Prop :=
  Claims.ResidencyControl ∧ Claims.ClusterGates ∧ Claims.BoostPermits ∧ Claims.HotSpots ∧ Claims.Watchdogs

/-- Package resets, the stages of bring-up, and the boot slots -/
def Obligations.ResetsAndBringUp : Prop :=
  Claims.PackageResets ∧ Claims.BringUp ∧ Claims.BootSlots

/-- Mailbox and management commands answer and act as their entries say -/
def Obligations.ManagementMailbox : Prop :=
  Claims.MailboxCommands ∧ Claims.MailboxEffects ∧ Claims.ManagementPaths

/-- Links, sensors and the event log, and writes of host registers -/
def Obligations.LinksSensorsAndRegisters : Prop :=
  Claims.Links ∧ Claims.SensorsAndLog ∧ Claims.RegisterWrites

/-- The state after reset, and the state in which groups and crews start (log 2, 4, 9 name the model's own values) -/
def Obligations.ResetAndLaunchState : Prop :=
  Claims.PackageAtReset ∧ Claims.GroupAtLaunch ∧ Claims.CrewAtLaunch

/-- A step runs the decoded instruction of the first candidate, or takes the event of its turn -/
def Obligations.StepRunsTheDecodedInstruction : Prop :=
  Claims.StepRunsDecoded

/-- Words that the manual writes out decode to the instructions they stand for -/
def Obligations.ManualWordsDecode : Prop :=
  Claims.DecodeWords

/-- Decoding and encoding agree on every well-formed instruction and on every word that decodes -/
def Obligations.DecodingInvertsEncoding : Prop :=
  Claims.DecodeEncode

/-- Every step keeps memory in its canonical form (the model's own: log 64) and each MODE legal (R163) -/
def Obligations.MemoryStaysCanonical : Prop :=
  Claims.StepKeepsMemoryForm ∧ Claims.StepKeepsModesLegal

end
end

