-- ==== Sys2Proof/Laws/Store.lean ====
section
/-! SUPPORT. Storage: what a read gives after a write, entries by number, and the canonical form that every memory
operation keeps. -/
namespace Sys2Proof.Machine

/-! ## Entries by number -/

@[simp] theorem aget_aput_self {α : Type} (l : List (Nat × α)) (k : Nat) (v : α) : aget (aput k v l) k = some v := by
  induction l with
  | nil => simp [aput, aget]
  | cons c r ih =>
    obtain ⟨k', v'⟩ := c
    simp only [aput]
    split
    · simp [aget]
    · split <;> simp_all [aget]

theorem aget_aput_ne {α : Type} (l : List (Nat × α)) {k j : Nat} (v : α) (h : j ≠ k) : aget (aput k v l) j = aget l j := by
  induction l with
  | nil => simp [aput, aget, h]
  | cons c r ih =>
    obtain ⟨k', v'⟩ := c
    simp only [aput]
    split
    · subst_vars; simp [aget, h]
    · split <;> simp_all [aget]

theorem aget_aput {α : Type} (l : List (Nat × α)) (k j : Nat) (v : α) :
    aget (aput k v l) j = if j = k then some v else aget l j := by
  split
  · subst_vars; simp
  · exact aget_aput_ne l v ‹_›

@[simp] theorem aget_adel_self {α : Type} (l : List (Nat × α)) (k : Nat) : aget (adel k l) k = none := by
  induction l with
  | nil => rfl
  | cons c r ih =>
    obtain ⟨k', v'⟩ := c
    simp only [adel]
    split <;> simp_all [aget]

theorem aget_adel_ne {α : Type} (l : List (Nat × α)) {k j : Nat} (h : j ≠ k) : aget (adel k l) j = aget l j := by
  induction l with
  | nil => rfl
  | cons c r ih =>
    obtain ⟨k', v'⟩ := c
    simp only [adel]
    split
    · subst_vars; simp [aget, ih, h]
    · simp [aget, ih]

/-! ## Cells -/

theorem cellGet_cellPut {w : Nat} (l : List (Nat × BitVec w)) (k j : Nat) (v : BitVec w) :
    cellGet (cellPut k v l) j = if j = k then some v else cellGet l j := by
  induction l with
  | nil => simp [cellPut, cellGet]
  | cons c r ih =>
    obtain ⟨k', v'⟩ := c
    simp only [cellPut]
    split
    · subst_vars; simp only [cellGet]; split <;> rfl
    · split <;> simp only [cellGet, ih] <;> split <;> grind

theorem cellGet_cellDel {w : Nat} (l : List (Nat × BitVec w)) (k j : Nat) :
    cellGet (cellDel k l) j = if j = k then none else cellGet l j := by
  induction l with
  | nil => simp [cellDel, cellGet]
  | cons c r ih =>
    obtain ⟨k', v'⟩ := c
    simp only [cellDel]
    split
    · subst_vars; rw [ih]; simp only [cellGet]; split <;> simp_all
    · simp only [cellGet, ih]; split <;> grind

/-- A read after a write: the value at the key written, and what it was at every other key. -/
theorem Store.get_put {w : Nat} (s : Store w) (k j : Nat) (v : BitVec w) :
    (s.put k v).get j = if j = k then v else s.get j := by
  unfold Store.put
  split
  · rename_i h
    simp only [Store.get, Store.dflt, cellGet_cellDel]
    split
    · subst_vars; simp [h]
    · rfl
  · simp only [Store.get, Store.dflt, cellGet_cellPut]
    split <;> simp

@[simp] theorem Store.get_put_self {w : Nat} (s : Store w) (k : Nat) (v : BitVec w) : (s.put k v).get k = v := by
  simp [Store.get_put]

theorem Store.get_put_ne {w : Nat} (s : Store w) {k j : Nat} (v : BitVec w) (h : j ≠ k) : (s.put k v).get j = s.get j := by
  simp [Store.get_put, h]

@[simp] theorem Store.get_empty (w k : Nat) : (Store.empty w).get k = 0 := rfl

@[simp] theorem Store.put_zones {w : Nat} (s : Store w) (k : Nat) (v : BitVec w) : (s.put k v).zones = s.zones := by
  unfold Store.put; split <;> rfl

/-! ## The canonical form -/

theorem cellsRise_mono {w : Nat} (l : List (Nat × BitVec w)) {lo lo' : Nat} (h : lo' ≤ lo) (hr : cellsRise lo l = true) :
    cellsRise lo' l = true := by
  cases l with
  | nil => rfl
  | cons c r => simp only [cellsRise, Bool.and_eq_true, decide_eq_true_eq] at *; exact ⟨by omega, hr.2⟩

theorem cellsRise_cellPut {w : Nat} (l : List (Nat × BitVec w)) (k lo : Nat) (v : BitVec w) (hk : lo ≤ k)
    (hr : cellsRise lo l = true) : cellsRise lo (cellPut k v l) = true := by
  induction l generalizing lo with
  | nil => simp [cellPut, cellsRise, hk]
  | cons c r ih =>
    obtain ⟨k', v'⟩ := c
    simp only [cellsRise, Bool.and_eq_true, decide_eq_true_eq] at hr
    simp only [cellPut]
    split
    · subst_vars; simp [cellsRise, hr.1, hr.2]
    · split
      · simp only [cellsRise, Bool.and_eq_true, decide_eq_true_eq]; exact ⟨hk, by omega, hr.2⟩
      · simp only [cellsRise, Bool.and_eq_true, decide_eq_true_eq]; exact ⟨hr.1, ih (k' + 1) (by omega) hr.2⟩

theorem cellsRise_cellDel {w : Nat} (l : List (Nat × BitVec w)) (k lo : Nat) (hr : cellsRise lo l = true) :
    cellsRise lo (cellDel k l) = true := by
  induction l generalizing lo with
  | nil => rfl
  | cons c r ih =>
    obtain ⟨k', v'⟩ := c
    simp only [cellsRise, Bool.and_eq_true, decide_eq_true_eq] at hr
    simp only [cellDel]
    split
    · exact ih lo (cellsRise_mono r (by omega) hr.2)
    · simp only [cellsRise, Bool.and_eq_true, decide_eq_true_eq]; exact ⟨hr.1, ih _ hr.2⟩

theorem mem_cellPut {w : Nat} (l : List (Nat × BitVec w)) (k : Nat) (v : BitVec w) (c : Nat × BitVec w)
    (h : c ∈ cellPut k v l) : c = (k, v) ∨ c ∈ l := by
  induction l with
  | nil => simpa [cellPut] using h
  | cons d r ih =>
    obtain ⟨k', v'⟩ := d
    simp only [cellPut] at h
    split at h
    · simp only [List.mem_cons] at h ⊢; grind
    · split at h <;> simp only [List.mem_cons] at h ⊢ <;> grind

theorem mem_cellDel {w : Nat} (l : List (Nat × BitVec w)) (k : Nat) (c : Nat × BitVec w) (h : c ∈ cellDel k l) : c ∈ l := by
  induction l with
  | nil => simp [cellDel] at h
  | cons d r ih =>
    obtain ⟨k', v'⟩ := d
    simp only [cellDel] at h
    split at h <;> simp only [List.mem_cons] at h ⊢ <;> grind

theorem Store.wf_iff {w : Nat} (s : Store w) :
    s.wf = true ↔ cellsRise 0 s.cells = true ∧ ∀ c ∈ s.cells, zoneTag s.zones c.1 = none → c.2 ≠ 0 := by
  simp only [Store.wf, Bool.and_eq_true, List.all_eq_true, Bool.or_eq_true, decide_eq_true_eq]
  refine and_congr_right fun _ => forall_congr' fun c => imp_congr_right fun _ => ?_
  cases zoneTag s.zones c.1 <;> simp

/-- A write keeps the canonical form. -/
theorem Store.put_wf {w : Nat} (s : Store w) (k : Nat) (v : BitVec w) (h : s.wf = true) : (s.put k v).wf = true := by
  obtain ⟨hr, hz⟩ := s.wf_iff.mp h
  rw [Store.wf_iff, Store.put_zones]
  unfold Store.put
  split
  · exact ⟨cellsRise_cellDel _ _ _ hr, fun c hc => hz c (mem_cellDel _ _ _ hc)⟩
  · rename_i hv
    refine ⟨cellsRise_cellPut _ _ _ _ (Nat.zero_le _) hr, fun c hc ht h0 => ?_⟩
    rcases mem_cellPut _ _ _ _ hc with rfl | hc
    · exact hv ⟨h0, ht⟩
    · exact hz c hc ht h0

theorem cellsRise_filter {w : Nat} (l : List (Nat × BitVec w)) (p : Nat × BitVec w → Bool) (lo : Nat) (h : cellsRise lo l = true) :
    cellsRise lo (l.filter p) = true := by
  induction l generalizing lo with
  | nil => rfl
  | cons c r ih =>
    simp only [cellsRise, Bool.and_eq_true, decide_eq_true_eq] at h
    rw [List.filter_cons]
    split
    · simp only [cellsRise, Bool.and_eq_true, decide_eq_true_eq]; exact ⟨h.1, ih _ h.2⟩
    · exact cellsRise_mono _ (by omega) (ih _ h.2)

/-- Where an added zone hides other zones whole, a key without undefined contents had none before. -/
theorem zoneTag_spoil (zs : List (Nat × Nat × Nat)) (lo hi t k : Nat)
    (h : zoneTag ((lo, hi, t) :: zs.filter (fun z => !(lo ≤ z.1 && z.2.1 ≤ hi))) k = none) : zoneTag zs k = none := by
  simp only [zoneTag, ite_eq_right_iff, reduceCtorEq, imp_false] at h
  split at h
  · simp at h
  · rename_i hk
    induction zs with
    | nil => rfl
    | cons z r ih =>
      obtain ⟨a, b, c⟩ := z
      rw [List.filter_cons] at h
      split at h
      · simp only [zoneTag] at h ⊢
        split at h
        · simp at h
        · rename_i h2; rw [if_neg h2]; exact ih h
      · rename_i h2
        simp only [Bool.not_eq_true', Bool.and_eq_false_imp, decide_eq_true_eq, decide_eq_false_iff_not, Classical.not_imp,
          Decidable.not_not] at h2
        simp only [zoneTag]
        rw [if_neg (by omega)]
        exact ih h

/-- Making contents undefined keeps the canonical form. -/
theorem Store.spoil_wf {w : Nat} (s : Store w) (lo hi t : Nat) (h : s.wf = true) : (s.spoil lo hi t).wf = true := by
  obtain ⟨hr, hz⟩ := s.wf_iff.mp h
  rw [Store.wf_iff]
  exact ⟨cellsRise_filter _ _ _ hr, fun c hc ht => hz c (List.mem_filter.mp hc).1 (zoneTag_spoil _ _ _ _ _ ht)⟩

theorem Store.empty_wf (w : Nat) : (Store.empty w).wf = true := rfl

theorem memPut_wf (n k v : Nat) (m : Store 8) (h : m.wf = true) : (memPut m n k v).wf = true := by
  induction n generalizing m k v with
  | zero => exact h
  | succ n ih => exact ih _ _ _ (m.put_wf _ _ h)

theorem foldl_put_wf {α : Type} (l : List α) (f : α → Nat) (g : α → BitVec 8) (m : Store 8) (h : m.wf = true) :
    (l.foldl (fun m b => m.put (f b) (g b)) m).wf = true := by
  induction l generalizing m with
  | nil => exact h
  | cons c r ih => exact ih _ (m.put_wf _ _ h)

theorem memPutBytes_wf (k : Nat) (bs : List (BitVec 8)) (m : Store 8) (h : m.wf = true) : (memPutBytes m k bs).wf = true :=
  foldl_put_wf bs.zipIdx (fun (b : BitVec 8 × Nat) => k + b.2) (fun b => b.1) m h

/-- The n bytes of a value, lowest first, are what memory reads after it was put there; other bytes are as they were. -/
theorem get_memPut (n k v j : Nat) (m : Store 8) :
    (memPut m n k v).get j = if k ≤ j ∧ j < k + n then BitVec.ofNat 8 (v / 256 ^ (j - k)) else m.get j := by
  induction n generalizing m k v with
  | zero => simp [memPut]
  | succ n ih =>
    simp only [memPut, ih, Store.get_put]
    by_cases h1 : j = k
    · subst h1; simp
    · by_cases h2 : k + 1 ≤ j ∧ j < k + 1 + n
      · rw [if_pos h2, if_pos (by omega), Nat.div_div_eq_div_mul, ← pow_succ']
        congr 3; omega
      · rw [if_neg h2, if_neg h1, if_neg (by omega)]

end Sys2Proof.Machine
end

