-- ==== Sys2Proof/Laws/State.lean ====
section
/-! SUPPORT. What each update of the state writes, field by field: the field it writes holds the new value, every other
field is as it was. -/
namespace Sys2Proof.Machine

@[simp] theorem setGrp_clock (s : State) (f : Group → Group) : (setGrp s f).clock = s.clock := rfl
@[simp] theorem setGrp_mem (s : State) (f : Group → Group) : (setGrp s f).mem = s.mem := rfl
@[simp] theorem setGrp_dirty (s : State) (f : Group → Group) : (setGrp s f).dirty = s.dirty := rfl
@[simp] theorem setGrp_bad (s : State) (f : Group → Group) : (setGrp s f).bad = s.bad := rfl
@[simp] theorem setGrp_damaged (s : State) (f : Group → Group) : (setGrp s f).damaged = s.damaged := rfl
@[simp] theorem setGrp_sealed (s : State) (f : Group → Group) : (setGrp s f).sealed = s.sealed := rfl
@[simp] theorem setGrp_regs (s : State) (f : Group → Group) : (setGrp s f).regs = s.regs := rfl
@[simp] theorem setGrp_ctxs (s : State) (f : Group → Group) : (setGrp s f).ctxs = s.ctxs := rfl
@[simp] theorem setGrp_cmd (s : State) (f : Group → Group) : (setGrp s f).cmd = s.cmd := rfl
@[simp] theorem setGrp_grids (s : State) (f : Group → Group) : (setGrp s f).grids = s.grids := rfl
@[simp] theorem setGrp_nextGrid (s : State) (f : Group → Group) : (setGrp s f).nextGrid = s.nextGrid := rfl
@[simp] theorem setGrp_gangs (s : State) (f : Group → Group) : (setGrp s f).gangs = s.gangs := rfl
@[simp] theorem setGrp_nextGang (s : State) (f : Group → Group) : (setGrp s f).nextGang = s.nextGang := rfl
@[simp] theorem setGrp_cores (s : State) (f : Group → Group) : (setGrp s f).cores = s.cores := rfl
@[simp] theorem setGrp_clusters (s : State) (f : Group → Group) : (setGrp s f).clusters = s.clusters := rfl
@[simp] theorem setGrp_lines (s : State) (f : Group → Group) : (setGrp s f).lines = s.lines := rfl
@[simp] theorem setGrp_tlb (s : State) (f : Group → Group) : (setGrp s f).tlb = s.tlb := rfl
@[simp] theorem setGrp_ptrs (s : State) (f : Group → Group) : (setGrp s f).ptrs = s.ptrs := rfl
@[simp] theorem setGrp_tlbi (s : State) (f : Group → Group) : (setGrp s f).tlbi = s.tlbi := rfl
@[simp] theorem setGrp_staged (s : State) (f : Group → Group) : (setGrp s f).staged = s.staged := rfl
@[simp] theorem setGrp_owed (s : State) (f : Group → Group) : (setGrp s f).owed = s.owed := rfl
@[simp] theorem setGrp_pageWaits (s : State) (f : Group → Group) : (setGrp s f).pageWaits = s.pageWaits := rfl
@[simp] theorem setGrp_nextRid (s : State) (f : Group → Group) : (setGrp s f).nextRid = s.nextRid := rfl
@[simp] theorem setGrp_devSeq (s : State) (f : Group → Group) : (setGrp s f).devSeq = s.devSeq := rfl
@[simp] theorem setGrp_devPut (s : State) (f : Group → Group) : (setGrp s f).devPut = s.devPut := rfl
@[simp] theorem setGrp_devSig (s : State) (f : Group → Group) : (setGrp s f).devSig = s.devSig := rfl
@[simp] theorem setGrp_qsig (s : State) (f : Group → Group) : (setGrp s f).qsig = s.qsig := rfl
@[simp] theorem setGrp_msi (s : State) (f : Group → Group) : (setGrp s f).msi = s.msi := rfl
@[simp] theorem setGrp_overflow (s : State) (f : Group → Group) : (setGrp s f).overflow = s.overflow := rfl
@[simp] theorem setGrp_forms (s : State) (f : Group → Group) : (setGrp s f).forms = s.forms := rfl
@[simp] theorem setGrp_heat (s : State) (f : Group → Group) : (setGrp s f).heat = s.heat := rfl
@[simp] theorem setGrp_cmpRun (s : State) (f : Group → Group) : (setGrp s f).cmpRun = s.cmpRun := rfl
@[simp] theorem setGrp_fullSince (s : State) (f : Group → Group) : (setGrp s f).fullSince = s.fullSince := rfl
@[simp] theorem setGrp_keys (s : State) (f : Group → Group) : (setGrp s f).keys = s.keys := rfl
@[simp] theorem setGrp_keyRun (s : State) (f : Group → Group) : (setGrp s f).keyRun = s.keyRun := rfl
@[simp] theorem setGrp_dark (s : State) (f : Group → Group) : (setGrp s f).dark = s.dark := rfl
@[simp] theorem setGrp_darkening (s : State) (f : Group → Group) : (setGrp s f).darkening = s.darkening := rfl
@[simp] theorem setGrp_trip0 (s : State) (f : Group → Group) : (setGrp s f).trip0 = s.trip0 := rfl
@[simp] theorem setGrp_stackTj (s : State) (f : Group → Group) : (setGrp s f).stackTj = s.stackTj := rfl
@[simp] theorem setGrp_boostAt (s : State) (f : Group → Group) : (setGrp s f).boostAt = s.boostAt := rfl
@[simp] theorem setGrp_ambTime (s : State) (f : Group → Group) : (setGrp s f).ambTime = s.ambTime := rfl
@[simp] theorem setGrp_stage (s : State) (f : Group → Group) : (setGrp s f).stage = s.stage := rfl
@[simp] theorem setGrp_links (s : State) (f : Group → Group) : (setGrp s f).links = s.links := rfl
@[simp] theorem setGrp_amb (s : State) (f : Group → Group) : (setGrp s f).amb = s.amb := rfl
@[simp] theorem setGrp_log (s : State) (f : Group → Group) : (setGrp s f).log = s.log := rfl
@[simp] theorem setGrp_logSeq (s : State) (f : Group → Group) : (setGrp s f).logSeq = s.logSeq := rfl
@[simp] theorem setGrp_corrected (s : State) (f : Group → Group) : (setGrp s f).corrected = s.corrected := rfl
@[simp] theorem setGrp_bootNo (s : State) (f : Group → Group) : (setGrp s f).bootNo = s.bootNo := rfl
@[simp] theorem setGrp_fuseC (s : State) (f : Group → Group) : (setGrp s f).fuseC = s.fuseC := rfl
@[simp] theorem setGrp_revoked (s : State) (f : Group → Group) : (setGrp s f).revoked = s.revoked := rfl
@[simp] theorem setGrp_keyDigests (s : State) (f : Group → Group) : (setGrp s f).keyDigests = s.keyDigests := rfl
@[simp] theorem setGrp_pkgId (s : State) (f : Group → Group) : (setGrp s f).pkgId = s.pkgId := rfl
@[simp] theorem setGrp_uds (s : State) (f : Group → Group) : (setGrp s f).uds = s.uds := rfl
@[simp] theorem setGrp_sensors (s : State) (f : Group → Group) : (setGrp s f).sensors = s.sensors := rfl
@[simp] theorem setGrp_excur (s : State) (f : Group → Group) : (setGrp s f).excur = s.excur := rfl
@[simp] theorem setGrp_reply (s : State) (f : Group → Group) : (setGrp s f).reply = s.reply := rfl
@[simp] theorem setGrp_mbdata (s : State) (f : Group → Group) : (setGrp s f).mbdata = s.mbdata := rfl
@[simp] theorem setGrp_naks (s : State) (f : Group → Group) : (setGrp s f).naks = s.naks := rfl
@[simp] theorem setGrp_failedCl (s : State) (f : Group → Group) : (setGrp s f).failedCl = s.failedCl := rfl
@[simp] theorem setGrp_shutPorts (s : State) (f : Group → Group) : (setGrp s f).shutPorts = s.shutPorts := rfl
@[simp] theorem setGrp_visible (s : State) (f : Group → Group) : (setGrp s f).visible = s.visible := rfl
@[simp] theorem setGrp_dogs (s : State) (f : Group → Group) : (setGrp s f).dogs = s.dogs := rfl
@[simp] theorem setGrp_stalled (s : State) (f : Group → Group) : (setGrp s f).stalled = s.stalled := rfl
@[simp] theorem setGrp_halted (s : State) (f : Group → Group) : (setGrp s f).halted = s.halted := rfl
@[simp] theorem setGrp_nextReq (s : State) (f : Group → Group) : (setGrp s f).nextReq = s.nextReq := rfl
@[simp] theorem setGrp_nextItem (s : State) (f : Group → Group) : (setGrp s f).nextItem = s.nextItem := rfl
@[simp] theorem setGrp_accStamp (s : State) (f : Group → Group) : (setGrp s f).accStamp = s.accStamp := rfl
@[simp] theorem setGrp_fresh (s : State) (f : Group → Group) : (setGrp s f).fresh = s.fresh := rfl
@[simp] theorem setGrp_agenda (s : State) (f : Group → Group) : (setGrp s f).agenda = s.agenda := rfl
@[simp] theorem setGrp_ev (s : State) (f : Group → Group) : (setGrp s f).ev = s.ev := rfl
@[simp] theorem setGrp_cur (s : State) (f : Group → Group) : (setGrp s f).cur = s.cur := rfl
@[simp] theorem setGrp_gid (s : State) (f : Group → Group) : (setGrp s f).gid = s.gid := rfl
@[simp] theorem setGrp_gang (s : State) (f : Group → Group) : (setGrp s f).gang = s.gang := rfl
@[simp] theorem setGrp_crew (s : State) (f : Group → Group) : (setGrp s f).crew = s.crew := rfl
@[simp] theorem setGrp_grp (s : State) (f : Group → Group) : (setGrp s f).grp = f s.grp := rfl
@[simp] theorem setGrp_split (s : State) (f : Group → Group) : (setGrp s f).split = s.split := rfl

@[simp] theorem setSplit_clock (s : State) (f : Split → Split) : (setSplit s f).clock = s.clock := rfl
@[simp] theorem setSplit_mem (s : State) (f : Split → Split) : (setSplit s f).mem = s.mem := rfl
@[simp] theorem setSplit_dirty (s : State) (f : Split → Split) : (setSplit s f).dirty = s.dirty := rfl
@[simp] theorem setSplit_bad (s : State) (f : Split → Split) : (setSplit s f).bad = s.bad := rfl
@[simp] theorem setSplit_damaged (s : State) (f : Split → Split) : (setSplit s f).damaged = s.damaged := rfl
@[simp] theorem setSplit_sealed (s : State) (f : Split → Split) : (setSplit s f).sealed = s.sealed := rfl
@[simp] theorem setSplit_regs (s : State) (f : Split → Split) : (setSplit s f).regs = s.regs := rfl
@[simp] theorem setSplit_ctxs (s : State) (f : Split → Split) : (setSplit s f).ctxs = s.ctxs := rfl
@[simp] theorem setSplit_cmd (s : State) (f : Split → Split) : (setSplit s f).cmd = s.cmd := rfl
@[simp] theorem setSplit_grids (s : State) (f : Split → Split) : (setSplit s f).grids = s.grids := rfl
@[simp] theorem setSplit_nextGrid (s : State) (f : Split → Split) : (setSplit s f).nextGrid = s.nextGrid := rfl
@[simp] theorem setSplit_gangs (s : State) (f : Split → Split) : (setSplit s f).gangs = s.gangs := rfl
@[simp] theorem setSplit_nextGang (s : State) (f : Split → Split) : (setSplit s f).nextGang = s.nextGang := rfl
@[simp] theorem setSplit_cores (s : State) (f : Split → Split) : (setSplit s f).cores = s.cores := rfl
@[simp] theorem setSplit_clusters (s : State) (f : Split → Split) : (setSplit s f).clusters = s.clusters := rfl
@[simp] theorem setSplit_lines (s : State) (f : Split → Split) : (setSplit s f).lines = s.lines := rfl
@[simp] theorem setSplit_tlb (s : State) (f : Split → Split) : (setSplit s f).tlb = s.tlb := rfl
@[simp] theorem setSplit_ptrs (s : State) (f : Split → Split) : (setSplit s f).ptrs = s.ptrs := rfl
@[simp] theorem setSplit_tlbi (s : State) (f : Split → Split) : (setSplit s f).tlbi = s.tlbi := rfl
@[simp] theorem setSplit_staged (s : State) (f : Split → Split) : (setSplit s f).staged = s.staged := rfl
@[simp] theorem setSplit_owed (s : State) (f : Split → Split) : (setSplit s f).owed = s.owed := rfl
@[simp] theorem setSplit_pageWaits (s : State) (f : Split → Split) : (setSplit s f).pageWaits = s.pageWaits := rfl
@[simp] theorem setSplit_nextRid (s : State) (f : Split → Split) : (setSplit s f).nextRid = s.nextRid := rfl
@[simp] theorem setSplit_devSeq (s : State) (f : Split → Split) : (setSplit s f).devSeq = s.devSeq := rfl
@[simp] theorem setSplit_devPut (s : State) (f : Split → Split) : (setSplit s f).devPut = s.devPut := rfl
@[simp] theorem setSplit_devSig (s : State) (f : Split → Split) : (setSplit s f).devSig = s.devSig := rfl
@[simp] theorem setSplit_qsig (s : State) (f : Split → Split) : (setSplit s f).qsig = s.qsig := rfl
@[simp] theorem setSplit_msi (s : State) (f : Split → Split) : (setSplit s f).msi = s.msi := rfl
@[simp] theorem setSplit_overflow (s : State) (f : Split → Split) : (setSplit s f).overflow = s.overflow := rfl
@[simp] theorem setSplit_forms (s : State) (f : Split → Split) : (setSplit s f).forms = s.forms := rfl
@[simp] theorem setSplit_heat (s : State) (f : Split → Split) : (setSplit s f).heat = s.heat := rfl
@[simp] theorem setSplit_cmpRun (s : State) (f : Split → Split) : (setSplit s f).cmpRun = s.cmpRun := rfl
@[simp] theorem setSplit_fullSince (s : State) (f : Split → Split) : (setSplit s f).fullSince = s.fullSince := rfl
@[simp] theorem setSplit_keys (s : State) (f : Split → Split) : (setSplit s f).keys = s.keys := rfl
@[simp] theorem setSplit_keyRun (s : State) (f : Split → Split) : (setSplit s f).keyRun = s.keyRun := rfl
@[simp] theorem setSplit_dark (s : State) (f : Split → Split) : (setSplit s f).dark = s.dark := rfl
@[simp] theorem setSplit_darkening (s : State) (f : Split → Split) : (setSplit s f).darkening = s.darkening := rfl
@[simp] theorem setSplit_trip0 (s : State) (f : Split → Split) : (setSplit s f).trip0 = s.trip0 := rfl
@[simp] theorem setSplit_stackTj (s : State) (f : Split → Split) : (setSplit s f).stackTj = s.stackTj := rfl
@[simp] theorem setSplit_boostAt (s : State) (f : Split → Split) : (setSplit s f).boostAt = s.boostAt := rfl
@[simp] theorem setSplit_ambTime (s : State) (f : Split → Split) : (setSplit s f).ambTime = s.ambTime := rfl
@[simp] theorem setSplit_stage (s : State) (f : Split → Split) : (setSplit s f).stage = s.stage := rfl
@[simp] theorem setSplit_links (s : State) (f : Split → Split) : (setSplit s f).links = s.links := rfl
@[simp] theorem setSplit_amb (s : State) (f : Split → Split) : (setSplit s f).amb = s.amb := rfl
@[simp] theorem setSplit_log (s : State) (f : Split → Split) : (setSplit s f).log = s.log := rfl
@[simp] theorem setSplit_logSeq (s : State) (f : Split → Split) : (setSplit s f).logSeq = s.logSeq := rfl
@[simp] theorem setSplit_corrected (s : State) (f : Split → Split) : (setSplit s f).corrected = s.corrected := rfl
@[simp] theorem setSplit_bootNo (s : State) (f : Split → Split) : (setSplit s f).bootNo = s.bootNo := rfl
@[simp] theorem setSplit_fuseC (s : State) (f : Split → Split) : (setSplit s f).fuseC = s.fuseC := rfl
@[simp] theorem setSplit_revoked (s : State) (f : Split → Split) : (setSplit s f).revoked = s.revoked := rfl
@[simp] theorem setSplit_keyDigests (s : State) (f : Split → Split) : (setSplit s f).keyDigests = s.keyDigests := rfl
@[simp] theorem setSplit_pkgId (s : State) (f : Split → Split) : (setSplit s f).pkgId = s.pkgId := rfl
@[simp] theorem setSplit_uds (s : State) (f : Split → Split) : (setSplit s f).uds = s.uds := rfl
@[simp] theorem setSplit_sensors (s : State) (f : Split → Split) : (setSplit s f).sensors = s.sensors := rfl
@[simp] theorem setSplit_excur (s : State) (f : Split → Split) : (setSplit s f).excur = s.excur := rfl
@[simp] theorem setSplit_reply (s : State) (f : Split → Split) : (setSplit s f).reply = s.reply := rfl
@[simp] theorem setSplit_mbdata (s : State) (f : Split → Split) : (setSplit s f).mbdata = s.mbdata := rfl
@[simp] theorem setSplit_naks (s : State) (f : Split → Split) : (setSplit s f).naks = s.naks := rfl
@[simp] theorem setSplit_failedCl (s : State) (f : Split → Split) : (setSplit s f).failedCl = s.failedCl := rfl
@[simp] theorem setSplit_shutPorts (s : State) (f : Split → Split) : (setSplit s f).shutPorts = s.shutPorts := rfl
@[simp] theorem setSplit_visible (s : State) (f : Split → Split) : (setSplit s f).visible = s.visible := rfl
@[simp] theorem setSplit_dogs (s : State) (f : Split → Split) : (setSplit s f).dogs = s.dogs := rfl
@[simp] theorem setSplit_stalled (s : State) (f : Split → Split) : (setSplit s f).stalled = s.stalled := rfl
@[simp] theorem setSplit_halted (s : State) (f : Split → Split) : (setSplit s f).halted = s.halted := rfl
@[simp] theorem setSplit_nextReq (s : State) (f : Split → Split) : (setSplit s f).nextReq = s.nextReq := rfl
@[simp] theorem setSplit_nextItem (s : State) (f : Split → Split) : (setSplit s f).nextItem = s.nextItem := rfl
@[simp] theorem setSplit_accStamp (s : State) (f : Split → Split) : (setSplit s f).accStamp = s.accStamp := rfl
@[simp] theorem setSplit_fresh (s : State) (f : Split → Split) : (setSplit s f).fresh = s.fresh := rfl
@[simp] theorem setSplit_agenda (s : State) (f : Split → Split) : (setSplit s f).agenda = s.agenda := rfl
@[simp] theorem setSplit_ev (s : State) (f : Split → Split) : (setSplit s f).ev = s.ev := rfl
@[simp] theorem setSplit_cur (s : State) (f : Split → Split) : (setSplit s f).cur = s.cur := rfl
@[simp] theorem setSplit_gid (s : State) (f : Split → Split) : (setSplit s f).gid = s.gid := rfl
@[simp] theorem setSplit_gang (s : State) (f : Split → Split) : (setSplit s f).gang = s.gang := rfl
@[simp] theorem setSplit_crew (s : State) (f : Split → Split) : (setSplit s f).crew = s.crew := rfl
@[simp] theorem setSplit_grp (s : State) (f : Split → Split) : (setSplit s f).grp = s.grp := rfl
@[simp] theorem setSplit_split (s : State) (f : Split → Split) : (setSplit s f).split = f s.split := rfl

@[simp] theorem setOwn_clock (s : State) (f : Crew → Crew) : (setOwn s f).clock = s.clock := rfl
@[simp] theorem setOwn_mem (s : State) (f : Crew → Crew) : (setOwn s f).mem = s.mem := rfl
@[simp] theorem setOwn_dirty (s : State) (f : Crew → Crew) : (setOwn s f).dirty = s.dirty := rfl
@[simp] theorem setOwn_bad (s : State) (f : Crew → Crew) : (setOwn s f).bad = s.bad := rfl
@[simp] theorem setOwn_damaged (s : State) (f : Crew → Crew) : (setOwn s f).damaged = s.damaged := rfl
@[simp] theorem setOwn_sealed (s : State) (f : Crew → Crew) : (setOwn s f).sealed = s.sealed := rfl
@[simp] theorem setOwn_regs (s : State) (f : Crew → Crew) : (setOwn s f).regs = s.regs := rfl
@[simp] theorem setOwn_ctxs (s : State) (f : Crew → Crew) : (setOwn s f).ctxs = s.ctxs := rfl
@[simp] theorem setOwn_cmd (s : State) (f : Crew → Crew) : (setOwn s f).cmd = s.cmd := rfl
@[simp] theorem setOwn_grids (s : State) (f : Crew → Crew) : (setOwn s f).grids = s.grids := rfl
@[simp] theorem setOwn_nextGrid (s : State) (f : Crew → Crew) : (setOwn s f).nextGrid = s.nextGrid := rfl
@[simp] theorem setOwn_gangs (s : State) (f : Crew → Crew) : (setOwn s f).gangs = s.gangs := rfl
@[simp] theorem setOwn_nextGang (s : State) (f : Crew → Crew) : (setOwn s f).nextGang = s.nextGang := rfl
@[simp] theorem setOwn_cores (s : State) (f : Crew → Crew) : (setOwn s f).cores = s.cores := rfl
@[simp] theorem setOwn_clusters (s : State) (f : Crew → Crew) : (setOwn s f).clusters = s.clusters := rfl
@[simp] theorem setOwn_lines (s : State) (f : Crew → Crew) : (setOwn s f).lines = s.lines := rfl
@[simp] theorem setOwn_tlb (s : State) (f : Crew → Crew) : (setOwn s f).tlb = s.tlb := rfl
@[simp] theorem setOwn_ptrs (s : State) (f : Crew → Crew) : (setOwn s f).ptrs = s.ptrs := rfl
@[simp] theorem setOwn_tlbi (s : State) (f : Crew → Crew) : (setOwn s f).tlbi = s.tlbi := rfl
@[simp] theorem setOwn_staged (s : State) (f : Crew → Crew) : (setOwn s f).staged = s.staged := rfl
@[simp] theorem setOwn_owed (s : State) (f : Crew → Crew) : (setOwn s f).owed = s.owed := rfl
@[simp] theorem setOwn_pageWaits (s : State) (f : Crew → Crew) : (setOwn s f).pageWaits = s.pageWaits := rfl
@[simp] theorem setOwn_nextRid (s : State) (f : Crew → Crew) : (setOwn s f).nextRid = s.nextRid := rfl
@[simp] theorem setOwn_devSeq (s : State) (f : Crew → Crew) : (setOwn s f).devSeq = s.devSeq := rfl
@[simp] theorem setOwn_devPut (s : State) (f : Crew → Crew) : (setOwn s f).devPut = s.devPut := rfl
@[simp] theorem setOwn_devSig (s : State) (f : Crew → Crew) : (setOwn s f).devSig = s.devSig := rfl
@[simp] theorem setOwn_qsig (s : State) (f : Crew → Crew) : (setOwn s f).qsig = s.qsig := rfl
@[simp] theorem setOwn_msi (s : State) (f : Crew → Crew) : (setOwn s f).msi = s.msi := rfl
@[simp] theorem setOwn_overflow (s : State) (f : Crew → Crew) : (setOwn s f).overflow = s.overflow := rfl
@[simp] theorem setOwn_forms (s : State) (f : Crew → Crew) : (setOwn s f).forms = s.forms := rfl
@[simp] theorem setOwn_heat (s : State) (f : Crew → Crew) : (setOwn s f).heat = s.heat := rfl
@[simp] theorem setOwn_cmpRun (s : State) (f : Crew → Crew) : (setOwn s f).cmpRun = s.cmpRun := rfl
@[simp] theorem setOwn_fullSince (s : State) (f : Crew → Crew) : (setOwn s f).fullSince = s.fullSince := rfl
@[simp] theorem setOwn_keys (s : State) (f : Crew → Crew) : (setOwn s f).keys = s.keys := rfl
@[simp] theorem setOwn_keyRun (s : State) (f : Crew → Crew) : (setOwn s f).keyRun = s.keyRun := rfl
@[simp] theorem setOwn_dark (s : State) (f : Crew → Crew) : (setOwn s f).dark = s.dark := rfl
@[simp] theorem setOwn_darkening (s : State) (f : Crew → Crew) : (setOwn s f).darkening = s.darkening := rfl
@[simp] theorem setOwn_trip0 (s : State) (f : Crew → Crew) : (setOwn s f).trip0 = s.trip0 := rfl
@[simp] theorem setOwn_stackTj (s : State) (f : Crew → Crew) : (setOwn s f).stackTj = s.stackTj := rfl
@[simp] theorem setOwn_boostAt (s : State) (f : Crew → Crew) : (setOwn s f).boostAt = s.boostAt := rfl
@[simp] theorem setOwn_ambTime (s : State) (f : Crew → Crew) : (setOwn s f).ambTime = s.ambTime := rfl
@[simp] theorem setOwn_stage (s : State) (f : Crew → Crew) : (setOwn s f).stage = s.stage := rfl
@[simp] theorem setOwn_links (s : State) (f : Crew → Crew) : (setOwn s f).links = s.links := rfl
@[simp] theorem setOwn_amb (s : State) (f : Crew → Crew) : (setOwn s f).amb = s.amb := rfl
@[simp] theorem setOwn_log (s : State) (f : Crew → Crew) : (setOwn s f).log = s.log := rfl
@[simp] theorem setOwn_logSeq (s : State) (f : Crew → Crew) : (setOwn s f).logSeq = s.logSeq := rfl
@[simp] theorem setOwn_corrected (s : State) (f : Crew → Crew) : (setOwn s f).corrected = s.corrected := rfl
@[simp] theorem setOwn_bootNo (s : State) (f : Crew → Crew) : (setOwn s f).bootNo = s.bootNo := rfl
@[simp] theorem setOwn_fuseC (s : State) (f : Crew → Crew) : (setOwn s f).fuseC = s.fuseC := rfl
@[simp] theorem setOwn_revoked (s : State) (f : Crew → Crew) : (setOwn s f).revoked = s.revoked := rfl
@[simp] theorem setOwn_keyDigests (s : State) (f : Crew → Crew) : (setOwn s f).keyDigests = s.keyDigests := rfl
@[simp] theorem setOwn_pkgId (s : State) (f : Crew → Crew) : (setOwn s f).pkgId = s.pkgId := rfl
@[simp] theorem setOwn_uds (s : State) (f : Crew → Crew) : (setOwn s f).uds = s.uds := rfl
@[simp] theorem setOwn_sensors (s : State) (f : Crew → Crew) : (setOwn s f).sensors = s.sensors := rfl
@[simp] theorem setOwn_excur (s : State) (f : Crew → Crew) : (setOwn s f).excur = s.excur := rfl
@[simp] theorem setOwn_reply (s : State) (f : Crew → Crew) : (setOwn s f).reply = s.reply := rfl
@[simp] theorem setOwn_mbdata (s : State) (f : Crew → Crew) : (setOwn s f).mbdata = s.mbdata := rfl
@[simp] theorem setOwn_naks (s : State) (f : Crew → Crew) : (setOwn s f).naks = s.naks := rfl
@[simp] theorem setOwn_failedCl (s : State) (f : Crew → Crew) : (setOwn s f).failedCl = s.failedCl := rfl
@[simp] theorem setOwn_shutPorts (s : State) (f : Crew → Crew) : (setOwn s f).shutPorts = s.shutPorts := rfl
@[simp] theorem setOwn_visible (s : State) (f : Crew → Crew) : (setOwn s f).visible = s.visible := rfl
@[simp] theorem setOwn_dogs (s : State) (f : Crew → Crew) : (setOwn s f).dogs = s.dogs := rfl
@[simp] theorem setOwn_stalled (s : State) (f : Crew → Crew) : (setOwn s f).stalled = s.stalled := rfl
@[simp] theorem setOwn_halted (s : State) (f : Crew → Crew) : (setOwn s f).halted = s.halted := rfl
@[simp] theorem setOwn_nextReq (s : State) (f : Crew → Crew) : (setOwn s f).nextReq = s.nextReq := rfl
@[simp] theorem setOwn_nextItem (s : State) (f : Crew → Crew) : (setOwn s f).nextItem = s.nextItem := rfl
@[simp] theorem setOwn_accStamp (s : State) (f : Crew → Crew) : (setOwn s f).accStamp = s.accStamp := rfl
@[simp] theorem setOwn_fresh (s : State) (f : Crew → Crew) : (setOwn s f).fresh = s.fresh := rfl
@[simp] theorem setOwn_agenda (s : State) (f : Crew → Crew) : (setOwn s f).agenda = s.agenda := rfl
@[simp] theorem setOwn_ev (s : State) (f : Crew → Crew) : (setOwn s f).ev = s.ev := rfl
@[simp] theorem setOwn_cur (s : State) (f : Crew → Crew) : (setOwn s f).cur = s.cur := rfl
@[simp] theorem setOwn_gid (s : State) (f : Crew → Crew) : (setOwn s f).gid = s.gid := rfl
@[simp] theorem setOwn_gang (s : State) (f : Crew → Crew) : (setOwn s f).gang = s.gang := rfl
@[simp] theorem setOwn_crew (s : State) (f : Crew → Crew) : (setOwn s f).crew = f s.crew := rfl
@[simp] theorem setOwn_grp (s : State) (f : Crew → Crew) : (setOwn s f).grp = s.grp := rfl
@[simp] theorem setOwn_split (s : State) (f : Crew → Crew) : (setOwn s f).split = s.split := rfl

@[simp] theorem setStrm_clock (s : State) (f : Stream → Stream) : (setStrm s f).clock = s.clock := rfl
@[simp] theorem setStrm_mem (s : State) (f : Stream → Stream) : (setStrm s f).mem = s.mem := rfl
@[simp] theorem setStrm_dirty (s : State) (f : Stream → Stream) : (setStrm s f).dirty = s.dirty := rfl
@[simp] theorem setStrm_bad (s : State) (f : Stream → Stream) : (setStrm s f).bad = s.bad := rfl
@[simp] theorem setStrm_damaged (s : State) (f : Stream → Stream) : (setStrm s f).damaged = s.damaged := rfl
@[simp] theorem setStrm_sealed (s : State) (f : Stream → Stream) : (setStrm s f).sealed = s.sealed := rfl
@[simp] theorem setStrm_regs (s : State) (f : Stream → Stream) : (setStrm s f).regs = s.regs := rfl
@[simp] theorem setStrm_ctxs (s : State) (f : Stream → Stream) : (setStrm s f).ctxs = s.ctxs := rfl
@[simp] theorem setStrm_cmd (s : State) (f : Stream → Stream) : (setStrm s f).cmd = s.cmd := rfl
@[simp] theorem setStrm_grids (s : State) (f : Stream → Stream) : (setStrm s f).grids = s.grids := rfl
@[simp] theorem setStrm_nextGrid (s : State) (f : Stream → Stream) : (setStrm s f).nextGrid = s.nextGrid := rfl
@[simp] theorem setStrm_gangs (s : State) (f : Stream → Stream) : (setStrm s f).gangs = s.gangs := rfl
@[simp] theorem setStrm_nextGang (s : State) (f : Stream → Stream) : (setStrm s f).nextGang = s.nextGang := rfl
@[simp] theorem setStrm_cores (s : State) (f : Stream → Stream) : (setStrm s f).cores = s.cores := rfl
@[simp] theorem setStrm_clusters (s : State) (f : Stream → Stream) : (setStrm s f).clusters = s.clusters := rfl
@[simp] theorem setStrm_lines (s : State) (f : Stream → Stream) : (setStrm s f).lines = s.lines := rfl
@[simp] theorem setStrm_tlb (s : State) (f : Stream → Stream) : (setStrm s f).tlb = s.tlb := rfl
@[simp] theorem setStrm_ptrs (s : State) (f : Stream → Stream) : (setStrm s f).ptrs = s.ptrs := rfl
@[simp] theorem setStrm_tlbi (s : State) (f : Stream → Stream) : (setStrm s f).tlbi = s.tlbi := rfl
@[simp] theorem setStrm_staged (s : State) (f : Stream → Stream) : (setStrm s f).staged = s.staged := rfl
@[simp] theorem setStrm_owed (s : State) (f : Stream → Stream) : (setStrm s f).owed = s.owed := rfl
@[simp] theorem setStrm_pageWaits (s : State) (f : Stream → Stream) : (setStrm s f).pageWaits = s.pageWaits := rfl
@[simp] theorem setStrm_nextRid (s : State) (f : Stream → Stream) : (setStrm s f).nextRid = s.nextRid := rfl
@[simp] theorem setStrm_devSeq (s : State) (f : Stream → Stream) : (setStrm s f).devSeq = s.devSeq := rfl
@[simp] theorem setStrm_devPut (s : State) (f : Stream → Stream) : (setStrm s f).devPut = s.devPut := rfl
@[simp] theorem setStrm_devSig (s : State) (f : Stream → Stream) : (setStrm s f).devSig = s.devSig := rfl
@[simp] theorem setStrm_qsig (s : State) (f : Stream → Stream) : (setStrm s f).qsig = s.qsig := rfl
@[simp] theorem setStrm_msi (s : State) (f : Stream → Stream) : (setStrm s f).msi = s.msi := rfl
@[simp] theorem setStrm_overflow (s : State) (f : Stream → Stream) : (setStrm s f).overflow = s.overflow := rfl
@[simp] theorem setStrm_forms (s : State) (f : Stream → Stream) : (setStrm s f).forms = s.forms := rfl
@[simp] theorem setStrm_heat (s : State) (f : Stream → Stream) : (setStrm s f).heat = s.heat := rfl
@[simp] theorem setStrm_cmpRun (s : State) (f : Stream → Stream) : (setStrm s f).cmpRun = s.cmpRun := rfl
@[simp] theorem setStrm_fullSince (s : State) (f : Stream → Stream) : (setStrm s f).fullSince = s.fullSince := rfl
@[simp] theorem setStrm_keys (s : State) (f : Stream → Stream) : (setStrm s f).keys = s.keys := rfl
@[simp] theorem setStrm_keyRun (s : State) (f : Stream → Stream) : (setStrm s f).keyRun = s.keyRun := rfl
@[simp] theorem setStrm_dark (s : State) (f : Stream → Stream) : (setStrm s f).dark = s.dark := rfl
@[simp] theorem setStrm_darkening (s : State) (f : Stream → Stream) : (setStrm s f).darkening = s.darkening := rfl
@[simp] theorem setStrm_trip0 (s : State) (f : Stream → Stream) : (setStrm s f).trip0 = s.trip0 := rfl
@[simp] theorem setStrm_stackTj (s : State) (f : Stream → Stream) : (setStrm s f).stackTj = s.stackTj := rfl
@[simp] theorem setStrm_boostAt (s : State) (f : Stream → Stream) : (setStrm s f).boostAt = s.boostAt := rfl
@[simp] theorem setStrm_ambTime (s : State) (f : Stream → Stream) : (setStrm s f).ambTime = s.ambTime := rfl
@[simp] theorem setStrm_stage (s : State) (f : Stream → Stream) : (setStrm s f).stage = s.stage := rfl
@[simp] theorem setStrm_links (s : State) (f : Stream → Stream) : (setStrm s f).links = s.links := rfl
@[simp] theorem setStrm_amb (s : State) (f : Stream → Stream) : (setStrm s f).amb = s.amb := rfl
@[simp] theorem setStrm_log (s : State) (f : Stream → Stream) : (setStrm s f).log = s.log := rfl
@[simp] theorem setStrm_logSeq (s : State) (f : Stream → Stream) : (setStrm s f).logSeq = s.logSeq := rfl
@[simp] theorem setStrm_corrected (s : State) (f : Stream → Stream) : (setStrm s f).corrected = s.corrected := rfl
@[simp] theorem setStrm_bootNo (s : State) (f : Stream → Stream) : (setStrm s f).bootNo = s.bootNo := rfl
@[simp] theorem setStrm_fuseC (s : State) (f : Stream → Stream) : (setStrm s f).fuseC = s.fuseC := rfl
@[simp] theorem setStrm_revoked (s : State) (f : Stream → Stream) : (setStrm s f).revoked = s.revoked := rfl
@[simp] theorem setStrm_keyDigests (s : State) (f : Stream → Stream) : (setStrm s f).keyDigests = s.keyDigests := rfl
@[simp] theorem setStrm_pkgId (s : State) (f : Stream → Stream) : (setStrm s f).pkgId = s.pkgId := rfl
@[simp] theorem setStrm_uds (s : State) (f : Stream → Stream) : (setStrm s f).uds = s.uds := rfl
@[simp] theorem setStrm_sensors (s : State) (f : Stream → Stream) : (setStrm s f).sensors = s.sensors := rfl
@[simp] theorem setStrm_excur (s : State) (f : Stream → Stream) : (setStrm s f).excur = s.excur := rfl
@[simp] theorem setStrm_reply (s : State) (f : Stream → Stream) : (setStrm s f).reply = s.reply := rfl
@[simp] theorem setStrm_mbdata (s : State) (f : Stream → Stream) : (setStrm s f).mbdata = s.mbdata := rfl
@[simp] theorem setStrm_naks (s : State) (f : Stream → Stream) : (setStrm s f).naks = s.naks := rfl
@[simp] theorem setStrm_failedCl (s : State) (f : Stream → Stream) : (setStrm s f).failedCl = s.failedCl := rfl
@[simp] theorem setStrm_shutPorts (s : State) (f : Stream → Stream) : (setStrm s f).shutPorts = s.shutPorts := rfl
@[simp] theorem setStrm_visible (s : State) (f : Stream → Stream) : (setStrm s f).visible = s.visible := rfl
@[simp] theorem setStrm_dogs (s : State) (f : Stream → Stream) : (setStrm s f).dogs = s.dogs := rfl
@[simp] theorem setStrm_stalled (s : State) (f : Stream → Stream) : (setStrm s f).stalled = s.stalled := rfl
@[simp] theorem setStrm_halted (s : State) (f : Stream → Stream) : (setStrm s f).halted = s.halted := rfl
@[simp] theorem setStrm_nextReq (s : State) (f : Stream → Stream) : (setStrm s f).nextReq = s.nextReq := rfl
@[simp] theorem setStrm_nextItem (s : State) (f : Stream → Stream) : (setStrm s f).nextItem = s.nextItem := rfl
@[simp] theorem setStrm_accStamp (s : State) (f : Stream → Stream) : (setStrm s f).accStamp = s.accStamp := rfl
@[simp] theorem setStrm_fresh (s : State) (f : Stream → Stream) : (setStrm s f).fresh = s.fresh := rfl
@[simp] theorem setStrm_agenda (s : State) (f : Stream → Stream) : (setStrm s f).agenda = s.agenda := rfl
@[simp] theorem setStrm_ev (s : State) (f : Stream → Stream) : (setStrm s f).ev = s.ev := rfl
@[simp] theorem setStrm_cur (s : State) (f : Stream → Stream) : (setStrm s f).cur = s.cur := rfl
@[simp] theorem setStrm_gid (s : State) (f : Stream → Stream) : (setStrm s f).gid = s.gid := rfl
@[simp] theorem setStrm_gang (s : State) (f : Stream → Stream) : (setStrm s f).gang = s.gang := rfl
@[simp] theorem setStrm_crew (s : State) (f : Stream → Stream) : (setStrm s f).crew = { s.crew with strm := f s.crew.strm } := rfl
@[simp] theorem setStrm_grp (s : State) (f : Stream → Stream) : (setStrm s f).grp = s.grp := rfl
@[simp] theorem setStrm_split (s : State) (f : Stream → Stream) : (setStrm s f).split = s.split := rfl

@[simp] theorem setCore_clock (s : State) (c : Nat) (x : Core) : (setCore s c x).clock = s.clock := rfl
@[simp] theorem setCore_mem (s : State) (c : Nat) (x : Core) : (setCore s c x).mem = s.mem := rfl
@[simp] theorem setCore_dirty (s : State) (c : Nat) (x : Core) : (setCore s c x).dirty = s.dirty := rfl
@[simp] theorem setCore_bad (s : State) (c : Nat) (x : Core) : (setCore s c x).bad = s.bad := rfl
@[simp] theorem setCore_damaged (s : State) (c : Nat) (x : Core) : (setCore s c x).damaged = s.damaged := rfl
@[simp] theorem setCore_sealed (s : State) (c : Nat) (x : Core) : (setCore s c x).sealed = s.sealed := rfl
@[simp] theorem setCore_regs (s : State) (c : Nat) (x : Core) : (setCore s c x).regs = s.regs := rfl
@[simp] theorem setCore_ctxs (s : State) (c : Nat) (x : Core) : (setCore s c x).ctxs = s.ctxs := rfl
@[simp] theorem setCore_cmd (s : State) (c : Nat) (x : Core) : (setCore s c x).cmd = s.cmd := rfl
@[simp] theorem setCore_grids (s : State) (c : Nat) (x : Core) : (setCore s c x).grids = s.grids := rfl
@[simp] theorem setCore_nextGrid (s : State) (c : Nat) (x : Core) : (setCore s c x).nextGrid = s.nextGrid := rfl
@[simp] theorem setCore_gangs (s : State) (c : Nat) (x : Core) : (setCore s c x).gangs = s.gangs := rfl
@[simp] theorem setCore_nextGang (s : State) (c : Nat) (x : Core) : (setCore s c x).nextGang = s.nextGang := rfl
@[simp] theorem setCore_cores (s : State) (c : Nat) (x : Core) : (setCore s c x).cores = aput c x s.cores := rfl
@[simp] theorem setCore_clusters (s : State) (c : Nat) (x : Core) : (setCore s c x).clusters = s.clusters := rfl
@[simp] theorem setCore_lines (s : State) (c : Nat) (x : Core) : (setCore s c x).lines = s.lines := rfl
@[simp] theorem setCore_tlb (s : State) (c : Nat) (x : Core) : (setCore s c x).tlb = s.tlb := rfl
@[simp] theorem setCore_ptrs (s : State) (c : Nat) (x : Core) : (setCore s c x).ptrs = s.ptrs := rfl
@[simp] theorem setCore_tlbi (s : State) (c : Nat) (x : Core) : (setCore s c x).tlbi = s.tlbi := rfl
@[simp] theorem setCore_staged (s : State) (c : Nat) (x : Core) : (setCore s c x).staged = s.staged := rfl
@[simp] theorem setCore_owed (s : State) (c : Nat) (x : Core) : (setCore s c x).owed = s.owed := rfl
@[simp] theorem setCore_pageWaits (s : State) (c : Nat) (x : Core) : (setCore s c x).pageWaits = s.pageWaits := rfl
@[simp] theorem setCore_nextRid (s : State) (c : Nat) (x : Core) : (setCore s c x).nextRid = s.nextRid := rfl
@[simp] theorem setCore_devSeq (s : State) (c : Nat) (x : Core) : (setCore s c x).devSeq = s.devSeq := rfl
@[simp] theorem setCore_devPut (s : State) (c : Nat) (x : Core) : (setCore s c x).devPut = s.devPut := rfl
@[simp] theorem setCore_devSig (s : State) (c : Nat) (x : Core) : (setCore s c x).devSig = s.devSig := rfl
@[simp] theorem setCore_qsig (s : State) (c : Nat) (x : Core) : (setCore s c x).qsig = s.qsig := rfl
@[simp] theorem setCore_msi (s : State) (c : Nat) (x : Core) : (setCore s c x).msi = s.msi := rfl
@[simp] theorem setCore_overflow (s : State) (c : Nat) (x : Core) : (setCore s c x).overflow = s.overflow := rfl
@[simp] theorem setCore_forms (s : State) (c : Nat) (x : Core) : (setCore s c x).forms = s.forms := rfl
@[simp] theorem setCore_heat (s : State) (c : Nat) (x : Core) : (setCore s c x).heat = s.heat := rfl
@[simp] theorem setCore_cmpRun (s : State) (c : Nat) (x : Core) : (setCore s c x).cmpRun = s.cmpRun := rfl
@[simp] theorem setCore_fullSince (s : State) (c : Nat) (x : Core) : (setCore s c x).fullSince = s.fullSince := rfl
@[simp] theorem setCore_keys (s : State) (c : Nat) (x : Core) : (setCore s c x).keys = s.keys := rfl
@[simp] theorem setCore_keyRun (s : State) (c : Nat) (x : Core) : (setCore s c x).keyRun = s.keyRun := rfl
@[simp] theorem setCore_dark (s : State) (c : Nat) (x : Core) : (setCore s c x).dark = s.dark := rfl
@[simp] theorem setCore_darkening (s : State) (c : Nat) (x : Core) : (setCore s c x).darkening = s.darkening := rfl
@[simp] theorem setCore_trip0 (s : State) (c : Nat) (x : Core) : (setCore s c x).trip0 = s.trip0 := rfl
@[simp] theorem setCore_stackTj (s : State) (c : Nat) (x : Core) : (setCore s c x).stackTj = s.stackTj := rfl
@[simp] theorem setCore_boostAt (s : State) (c : Nat) (x : Core) : (setCore s c x).boostAt = s.boostAt := rfl
@[simp] theorem setCore_ambTime (s : State) (c : Nat) (x : Core) : (setCore s c x).ambTime = s.ambTime := rfl
@[simp] theorem setCore_stage (s : State) (c : Nat) (x : Core) : (setCore s c x).stage = s.stage := rfl
@[simp] theorem setCore_links (s : State) (c : Nat) (x : Core) : (setCore s c x).links = s.links := rfl
@[simp] theorem setCore_amb (s : State) (c : Nat) (x : Core) : (setCore s c x).amb = s.amb := rfl
@[simp] theorem setCore_log (s : State) (c : Nat) (x : Core) : (setCore s c x).log = s.log := rfl
@[simp] theorem setCore_logSeq (s : State) (c : Nat) (x : Core) : (setCore s c x).logSeq = s.logSeq := rfl
@[simp] theorem setCore_corrected (s : State) (c : Nat) (x : Core) : (setCore s c x).corrected = s.corrected := rfl
@[simp] theorem setCore_bootNo (s : State) (c : Nat) (x : Core) : (setCore s c x).bootNo = s.bootNo := rfl
@[simp] theorem setCore_fuseC (s : State) (c : Nat) (x : Core) : (setCore s c x).fuseC = s.fuseC := rfl
@[simp] theorem setCore_revoked (s : State) (c : Nat) (x : Core) : (setCore s c x).revoked = s.revoked := rfl
@[simp] theorem setCore_keyDigests (s : State) (c : Nat) (x : Core) : (setCore s c x).keyDigests = s.keyDigests := rfl
@[simp] theorem setCore_pkgId (s : State) (c : Nat) (x : Core) : (setCore s c x).pkgId = s.pkgId := rfl
@[simp] theorem setCore_uds (s : State) (c : Nat) (x : Core) : (setCore s c x).uds = s.uds := rfl
@[simp] theorem setCore_sensors (s : State) (c : Nat) (x : Core) : (setCore s c x).sensors = s.sensors := rfl
@[simp] theorem setCore_excur (s : State) (c : Nat) (x : Core) : (setCore s c x).excur = s.excur := rfl
@[simp] theorem setCore_reply (s : State) (c : Nat) (x : Core) : (setCore s c x).reply = s.reply := rfl
@[simp] theorem setCore_mbdata (s : State) (c : Nat) (x : Core) : (setCore s c x).mbdata = s.mbdata := rfl
@[simp] theorem setCore_naks (s : State) (c : Nat) (x : Core) : (setCore s c x).naks = s.naks := rfl
@[simp] theorem setCore_failedCl (s : State) (c : Nat) (x : Core) : (setCore s c x).failedCl = s.failedCl := rfl
@[simp] theorem setCore_shutPorts (s : State) (c : Nat) (x : Core) : (setCore s c x).shutPorts = s.shutPorts := rfl
@[simp] theorem setCore_visible (s : State) (c : Nat) (x : Core) : (setCore s c x).visible = s.visible := rfl
@[simp] theorem setCore_dogs (s : State) (c : Nat) (x : Core) : (setCore s c x).dogs = s.dogs := rfl
@[simp] theorem setCore_stalled (s : State) (c : Nat) (x : Core) : (setCore s c x).stalled = s.stalled := rfl
@[simp] theorem setCore_halted (s : State) (c : Nat) (x : Core) : (setCore s c x).halted = s.halted := rfl
@[simp] theorem setCore_nextReq (s : State) (c : Nat) (x : Core) : (setCore s c x).nextReq = s.nextReq := rfl
@[simp] theorem setCore_nextItem (s : State) (c : Nat) (x : Core) : (setCore s c x).nextItem = s.nextItem := rfl
@[simp] theorem setCore_accStamp (s : State) (c : Nat) (x : Core) : (setCore s c x).accStamp = s.accStamp := rfl
@[simp] theorem setCore_fresh (s : State) (c : Nat) (x : Core) : (setCore s c x).fresh = s.fresh := rfl
@[simp] theorem setCore_agenda (s : State) (c : Nat) (x : Core) : (setCore s c x).agenda = s.agenda := rfl
@[simp] theorem setCore_ev (s : State) (c : Nat) (x : Core) : (setCore s c x).ev = s.ev := rfl
@[simp] theorem setCore_cur (s : State) (c : Nat) (x : Core) : (setCore s c x).cur = s.cur := rfl
@[simp] theorem setCore_gid (s : State) (c : Nat) (x : Core) : (setCore s c x).gid = s.gid := rfl
@[simp] theorem setCore_gang (s : State) (c : Nat) (x : Core) : (setCore s c x).gang = s.gang := rfl
@[simp] theorem setCore_crew (s : State) (c : Nat) (x : Core) : (setCore s c x).crew = s.crew := rfl
@[simp] theorem setCore_grp (s : State) (c : Nat) (x : Core) : (setCore s c x).grp = s.grp := rfl
@[simp] theorem setCore_split (s : State) (c : Nat) (x : Core) : (setCore s c x).split = s.split := rfl

@[simp] theorem State.setReg_clock (s : State) (c v : Nat) : (s.setReg c v).clock = s.clock := rfl
@[simp] theorem State.setReg_mem (s : State) (c v : Nat) : (s.setReg c v).mem = s.mem := rfl
@[simp] theorem State.setReg_dirty (s : State) (c v : Nat) : (s.setReg c v).dirty = s.dirty := rfl
@[simp] theorem State.setReg_bad (s : State) (c v : Nat) : (s.setReg c v).bad = s.bad := rfl
@[simp] theorem State.setReg_damaged (s : State) (c v : Nat) : (s.setReg c v).damaged = s.damaged := rfl
@[simp] theorem State.setReg_sealed (s : State) (c v : Nat) : (s.setReg c v).sealed = s.sealed := rfl
@[simp] theorem State.setReg_regs (s : State) (c v : Nat) : (s.setReg c v).regs = aput c (BitVec.ofNat 64 v) s.regs := rfl
@[simp] theorem State.setReg_ctxs (s : State) (c v : Nat) : (s.setReg c v).ctxs = s.ctxs := rfl
@[simp] theorem State.setReg_cmd (s : State) (c v : Nat) : (s.setReg c v).cmd = s.cmd := rfl
@[simp] theorem State.setReg_grids (s : State) (c v : Nat) : (s.setReg c v).grids = s.grids := rfl
@[simp] theorem State.setReg_nextGrid (s : State) (c v : Nat) : (s.setReg c v).nextGrid = s.nextGrid := rfl
@[simp] theorem State.setReg_gangs (s : State) (c v : Nat) : (s.setReg c v).gangs = s.gangs := rfl
@[simp] theorem State.setReg_nextGang (s : State) (c v : Nat) : (s.setReg c v).nextGang = s.nextGang := rfl
@[simp] theorem State.setReg_cores (s : State) (c v : Nat) : (s.setReg c v).cores = s.cores := rfl
@[simp] theorem State.setReg_clusters (s : State) (c v : Nat) : (s.setReg c v).clusters = s.clusters := rfl
@[simp] theorem State.setReg_lines (s : State) (c v : Nat) : (s.setReg c v).lines = s.lines := rfl
@[simp] theorem State.setReg_tlb (s : State) (c v : Nat) : (s.setReg c v).tlb = s.tlb := rfl
@[simp] theorem State.setReg_ptrs (s : State) (c v : Nat) : (s.setReg c v).ptrs = s.ptrs := rfl
@[simp] theorem State.setReg_tlbi (s : State) (c v : Nat) : (s.setReg c v).tlbi = s.tlbi := rfl
@[simp] theorem State.setReg_staged (s : State) (c v : Nat) : (s.setReg c v).staged = s.staged := rfl
@[simp] theorem State.setReg_owed (s : State) (c v : Nat) : (s.setReg c v).owed = s.owed := rfl
@[simp] theorem State.setReg_pageWaits (s : State) (c v : Nat) : (s.setReg c v).pageWaits = s.pageWaits := rfl
@[simp] theorem State.setReg_nextRid (s : State) (c v : Nat) : (s.setReg c v).nextRid = s.nextRid := rfl
@[simp] theorem State.setReg_devSeq (s : State) (c v : Nat) : (s.setReg c v).devSeq = s.devSeq := rfl
@[simp] theorem State.setReg_devPut (s : State) (c v : Nat) : (s.setReg c v).devPut = s.devPut := rfl
@[simp] theorem State.setReg_devSig (s : State) (c v : Nat) : (s.setReg c v).devSig = s.devSig := rfl
@[simp] theorem State.setReg_qsig (s : State) (c v : Nat) : (s.setReg c v).qsig = s.qsig := rfl
@[simp] theorem State.setReg_msi (s : State) (c v : Nat) : (s.setReg c v).msi = s.msi := rfl
@[simp] theorem State.setReg_overflow (s : State) (c v : Nat) : (s.setReg c v).overflow = s.overflow := rfl
@[simp] theorem State.setReg_forms (s : State) (c v : Nat) : (s.setReg c v).forms = s.forms := rfl
@[simp] theorem State.setReg_heat (s : State) (c v : Nat) : (s.setReg c v).heat = s.heat := rfl
@[simp] theorem State.setReg_cmpRun (s : State) (c v : Nat) : (s.setReg c v).cmpRun = s.cmpRun := rfl
@[simp] theorem State.setReg_fullSince (s : State) (c v : Nat) : (s.setReg c v).fullSince = s.fullSince := rfl
@[simp] theorem State.setReg_keys (s : State) (c v : Nat) : (s.setReg c v).keys = s.keys := rfl
@[simp] theorem State.setReg_keyRun (s : State) (c v : Nat) : (s.setReg c v).keyRun = s.keyRun := rfl
@[simp] theorem State.setReg_dark (s : State) (c v : Nat) : (s.setReg c v).dark = s.dark := rfl
@[simp] theorem State.setReg_darkening (s : State) (c v : Nat) : (s.setReg c v).darkening = s.darkening := rfl
@[simp] theorem State.setReg_trip0 (s : State) (c v : Nat) : (s.setReg c v).trip0 = s.trip0 := rfl
@[simp] theorem State.setReg_stackTj (s : State) (c v : Nat) : (s.setReg c v).stackTj = s.stackTj := rfl
@[simp] theorem State.setReg_boostAt (s : State) (c v : Nat) : (s.setReg c v).boostAt = s.boostAt := rfl
@[simp] theorem State.setReg_ambTime (s : State) (c v : Nat) : (s.setReg c v).ambTime = s.ambTime := rfl
@[simp] theorem State.setReg_stage (s : State) (c v : Nat) : (s.setReg c v).stage = s.stage := rfl
@[simp] theorem State.setReg_links (s : State) (c v : Nat) : (s.setReg c v).links = s.links := rfl
@[simp] theorem State.setReg_amb (s : State) (c v : Nat) : (s.setReg c v).amb = s.amb := rfl
@[simp] theorem State.setReg_log (s : State) (c v : Nat) : (s.setReg c v).log = s.log := rfl
@[simp] theorem State.setReg_logSeq (s : State) (c v : Nat) : (s.setReg c v).logSeq = s.logSeq := rfl
@[simp] theorem State.setReg_corrected (s : State) (c v : Nat) : (s.setReg c v).corrected = s.corrected := rfl
@[simp] theorem State.setReg_bootNo (s : State) (c v : Nat) : (s.setReg c v).bootNo = s.bootNo := rfl
@[simp] theorem State.setReg_fuseC (s : State) (c v : Nat) : (s.setReg c v).fuseC = s.fuseC := rfl
@[simp] theorem State.setReg_revoked (s : State) (c v : Nat) : (s.setReg c v).revoked = s.revoked := rfl
@[simp] theorem State.setReg_keyDigests (s : State) (c v : Nat) : (s.setReg c v).keyDigests = s.keyDigests := rfl
@[simp] theorem State.setReg_pkgId (s : State) (c v : Nat) : (s.setReg c v).pkgId = s.pkgId := rfl
@[simp] theorem State.setReg_uds (s : State) (c v : Nat) : (s.setReg c v).uds = s.uds := rfl
@[simp] theorem State.setReg_sensors (s : State) (c v : Nat) : (s.setReg c v).sensors = s.sensors := rfl
@[simp] theorem State.setReg_excur (s : State) (c v : Nat) : (s.setReg c v).excur = s.excur := rfl
@[simp] theorem State.setReg_reply (s : State) (c v : Nat) : (s.setReg c v).reply = s.reply := rfl
@[simp] theorem State.setReg_mbdata (s : State) (c v : Nat) : (s.setReg c v).mbdata = s.mbdata := rfl
@[simp] theorem State.setReg_naks (s : State) (c v : Nat) : (s.setReg c v).naks = s.naks := rfl
@[simp] theorem State.setReg_failedCl (s : State) (c v : Nat) : (s.setReg c v).failedCl = s.failedCl := rfl
@[simp] theorem State.setReg_shutPorts (s : State) (c v : Nat) : (s.setReg c v).shutPorts = s.shutPorts := rfl
@[simp] theorem State.setReg_visible (s : State) (c v : Nat) : (s.setReg c v).visible = s.visible := rfl
@[simp] theorem State.setReg_dogs (s : State) (c v : Nat) : (s.setReg c v).dogs = s.dogs := rfl
@[simp] theorem State.setReg_stalled (s : State) (c v : Nat) : (s.setReg c v).stalled = s.stalled := rfl
@[simp] theorem State.setReg_halted (s : State) (c v : Nat) : (s.setReg c v).halted = s.halted := rfl
@[simp] theorem State.setReg_nextReq (s : State) (c v : Nat) : (s.setReg c v).nextReq = s.nextReq := rfl
@[simp] theorem State.setReg_nextItem (s : State) (c v : Nat) : (s.setReg c v).nextItem = s.nextItem := rfl
@[simp] theorem State.setReg_accStamp (s : State) (c v : Nat) : (s.setReg c v).accStamp = s.accStamp := rfl
@[simp] theorem State.setReg_fresh (s : State) (c v : Nat) : (s.setReg c v).fresh = s.fresh := rfl
@[simp] theorem State.setReg_agenda (s : State) (c v : Nat) : (s.setReg c v).agenda = s.agenda := rfl
@[simp] theorem State.setReg_ev (s : State) (c v : Nat) : (s.setReg c v).ev = s.ev := rfl
@[simp] theorem State.setReg_cur (s : State) (c v : Nat) : (s.setReg c v).cur = s.cur := rfl
@[simp] theorem State.setReg_gid (s : State) (c v : Nat) : (s.setReg c v).gid = s.gid := rfl
@[simp] theorem State.setReg_gang (s : State) (c v : Nat) : (s.setReg c v).gang = s.gang := rfl
@[simp] theorem State.setReg_crew (s : State) (c v : Nat) : (s.setReg c v).crew = s.crew := rfl
@[simp] theorem State.setReg_grp (s : State) (c v : Nat) : (s.setReg c v).grp = s.grp := rfl
@[simp] theorem State.setReg_split (s : State) (c v : Nat) : (s.setReg c v).split = s.split := rfl

@[simp] theorem State.freshen_clock (s : State) : (s.freshen).clock = s.clock := rfl
@[simp] theorem State.freshen_mem (s : State) : (s.freshen).mem = s.mem := rfl
@[simp] theorem State.freshen_dirty (s : State) : (s.freshen).dirty = s.dirty := rfl
@[simp] theorem State.freshen_bad (s : State) : (s.freshen).bad = s.bad := rfl
@[simp] theorem State.freshen_damaged (s : State) : (s.freshen).damaged = s.damaged := rfl
@[simp] theorem State.freshen_sealed (s : State) : (s.freshen).sealed = s.sealed := rfl
@[simp] theorem State.freshen_regs (s : State) : (s.freshen).regs = s.regs := rfl
@[simp] theorem State.freshen_ctxs (s : State) : (s.freshen).ctxs = s.ctxs := rfl
@[simp] theorem State.freshen_cmd (s : State) : (s.freshen).cmd = s.cmd := rfl
@[simp] theorem State.freshen_grids (s : State) : (s.freshen).grids = s.grids := rfl
@[simp] theorem State.freshen_nextGrid (s : State) : (s.freshen).nextGrid = s.nextGrid := rfl
@[simp] theorem State.freshen_gangs (s : State) : (s.freshen).gangs = s.gangs := rfl
@[simp] theorem State.freshen_nextGang (s : State) : (s.freshen).nextGang = s.nextGang := rfl
@[simp] theorem State.freshen_cores (s : State) : (s.freshen).cores = s.cores := rfl
@[simp] theorem State.freshen_clusters (s : State) : (s.freshen).clusters = s.clusters := rfl
@[simp] theorem State.freshen_lines (s : State) : (s.freshen).lines = s.lines := rfl
@[simp] theorem State.freshen_tlb (s : State) : (s.freshen).tlb = s.tlb := rfl
@[simp] theorem State.freshen_ptrs (s : State) : (s.freshen).ptrs = s.ptrs := rfl
@[simp] theorem State.freshen_tlbi (s : State) : (s.freshen).tlbi = s.tlbi := rfl
@[simp] theorem State.freshen_staged (s : State) : (s.freshen).staged = s.staged := rfl
@[simp] theorem State.freshen_owed (s : State) : (s.freshen).owed = s.owed := rfl
@[simp] theorem State.freshen_pageWaits (s : State) : (s.freshen).pageWaits = s.pageWaits := rfl
@[simp] theorem State.freshen_nextRid (s : State) : (s.freshen).nextRid = s.nextRid := rfl
@[simp] theorem State.freshen_devSeq (s : State) : (s.freshen).devSeq = s.devSeq := rfl
@[simp] theorem State.freshen_devPut (s : State) : (s.freshen).devPut = s.devPut := rfl
@[simp] theorem State.freshen_devSig (s : State) : (s.freshen).devSig = s.devSig := rfl
@[simp] theorem State.freshen_qsig (s : State) : (s.freshen).qsig = s.qsig := rfl
@[simp] theorem State.freshen_msi (s : State) : (s.freshen).msi = s.msi := rfl
@[simp] theorem State.freshen_overflow (s : State) : (s.freshen).overflow = s.overflow := rfl
@[simp] theorem State.freshen_forms (s : State) : (s.freshen).forms = s.forms := rfl
@[simp] theorem State.freshen_heat (s : State) : (s.freshen).heat = s.heat := rfl
@[simp] theorem State.freshen_cmpRun (s : State) : (s.freshen).cmpRun = s.cmpRun := rfl
@[simp] theorem State.freshen_fullSince (s : State) : (s.freshen).fullSince = s.fullSince := rfl
@[simp] theorem State.freshen_keys (s : State) : (s.freshen).keys = s.keys := rfl
@[simp] theorem State.freshen_keyRun (s : State) : (s.freshen).keyRun = s.keyRun := rfl
@[simp] theorem State.freshen_dark (s : State) : (s.freshen).dark = s.dark := rfl
@[simp] theorem State.freshen_darkening (s : State) : (s.freshen).darkening = s.darkening := rfl
@[simp] theorem State.freshen_trip0 (s : State) : (s.freshen).trip0 = s.trip0 := rfl
@[simp] theorem State.freshen_stackTj (s : State) : (s.freshen).stackTj = s.stackTj := rfl
@[simp] theorem State.freshen_boostAt (s : State) : (s.freshen).boostAt = s.boostAt := rfl
@[simp] theorem State.freshen_ambTime (s : State) : (s.freshen).ambTime = s.ambTime := rfl
@[simp] theorem State.freshen_stage (s : State) : (s.freshen).stage = s.stage := rfl
@[simp] theorem State.freshen_links (s : State) : (s.freshen).links = s.links := rfl
@[simp] theorem State.freshen_amb (s : State) : (s.freshen).amb = s.amb := rfl
@[simp] theorem State.freshen_log (s : State) : (s.freshen).log = s.log := rfl
@[simp] theorem State.freshen_logSeq (s : State) : (s.freshen).logSeq = s.logSeq := rfl
@[simp] theorem State.freshen_corrected (s : State) : (s.freshen).corrected = s.corrected := rfl
@[simp] theorem State.freshen_bootNo (s : State) : (s.freshen).bootNo = s.bootNo := rfl
@[simp] theorem State.freshen_fuseC (s : State) : (s.freshen).fuseC = s.fuseC := rfl
@[simp] theorem State.freshen_revoked (s : State) : (s.freshen).revoked = s.revoked := rfl
@[simp] theorem State.freshen_keyDigests (s : State) : (s.freshen).keyDigests = s.keyDigests := rfl
@[simp] theorem State.freshen_pkgId (s : State) : (s.freshen).pkgId = s.pkgId := rfl
@[simp] theorem State.freshen_uds (s : State) : (s.freshen).uds = s.uds := rfl
@[simp] theorem State.freshen_sensors (s : State) : (s.freshen).sensors = s.sensors := rfl
@[simp] theorem State.freshen_excur (s : State) : (s.freshen).excur = s.excur := rfl
@[simp] theorem State.freshen_reply (s : State) : (s.freshen).reply = s.reply := rfl
@[simp] theorem State.freshen_mbdata (s : State) : (s.freshen).mbdata = s.mbdata := rfl
@[simp] theorem State.freshen_naks (s : State) : (s.freshen).naks = s.naks := rfl
@[simp] theorem State.freshen_failedCl (s : State) : (s.freshen).failedCl = s.failedCl := rfl
@[simp] theorem State.freshen_shutPorts (s : State) : (s.freshen).shutPorts = s.shutPorts := rfl
@[simp] theorem State.freshen_visible (s : State) : (s.freshen).visible = s.visible := rfl
@[simp] theorem State.freshen_dogs (s : State) : (s.freshen).dogs = s.dogs := rfl
@[simp] theorem State.freshen_stalled (s : State) : (s.freshen).stalled = s.stalled := rfl
@[simp] theorem State.freshen_halted (s : State) : (s.freshen).halted = s.halted := rfl
@[simp] theorem State.freshen_nextReq (s : State) : (s.freshen).nextReq = s.nextReq := rfl
@[simp] theorem State.freshen_nextItem (s : State) : (s.freshen).nextItem = s.nextItem := rfl
@[simp] theorem State.freshen_accStamp (s : State) : (s.freshen).accStamp = s.accStamp := rfl
@[simp] theorem State.freshen_fresh (s : State) : (s.freshen).fresh = s.fresh + 1 := rfl
@[simp] theorem State.freshen_agenda (s : State) : (s.freshen).agenda = s.agenda := rfl
@[simp] theorem State.freshen_ev (s : State) : (s.freshen).ev = s.ev := rfl
@[simp] theorem State.freshen_cur (s : State) : (s.freshen).cur = s.cur := rfl
@[simp] theorem State.freshen_gid (s : State) : (s.freshen).gid = s.gid := rfl
@[simp] theorem State.freshen_gang (s : State) : (s.freshen).gang = s.gang := rfl
@[simp] theorem State.freshen_crew (s : State) : (s.freshen).crew = s.crew := rfl
@[simp] theorem State.freshen_grp (s : State) : (s.freshen).grp = s.grp := rfl
@[simp] theorem State.freshen_split (s : State) : (s.freshen).split = s.split := rfl

/-! ## Registers -/

theorem sget_sput (s : State) (r q : Nat) (v : BitVec 64) : sget (sput s r v) q = if q = r then v else sget s q := Store.get_put _ _ _ _
theorem eget_eput (s : State) (r q : Nat) (v : BitVec 64) : eget (eput s r v) q = if q = r then v else eget s q := Store.get_put _ _ _ _
theorem vget_vput (s : State) (r p q j : Nat) (v : BitVec 32) :
    vget (vput s r p v) q j = if 32 * q + j = 32 * r + p then v else vget s q j := Store.get_put _ _ _ _

@[simp] theorem sget_sput_self (s : State) (r : Nat) (v : BitVec 64) : sget (sput s r v) r = v := by simp [sget_sput]
@[simp] theorem eget_eput_self (s : State) (r : Nat) (v : BitVec 64) : eget (eput s r v) r = v := by simp [eget_eput]

/-- What is written to the issuer-scalar class is read back; other registers are as they were. -/
theorem iget_iput (s : State) (r q : Nat) (v : BitVec 64) : iget (iput s r v) q = if q = r then v else iget s q := by
  cases h : isStream s
  · have h' : isStream (sput s r v) = false := h
    simp [iget, iput, h, h', sget_sput]
  · have h' : isStream (eput s r v) = true := h
    simp [iget, iput, h, h', eget_eput]

theorem tget_tput (s : State) (n m : Nat) (t : Tok) : tget (tput s n t) m = if m = n then t else tget s m := by
  cases h : isStream s
  · have h2 : isStream (setGrp s (fun g => { g with t := aput n t g.t })) = false := h
    simp only [tget, tput, h, h2, Bool.false_eq_true, if_false, setGrp_grp, aget_aput]; split <;> rfl
  · have h2 : isStream (setStrm s (fun x => { x with t := aput n t x.t })) = true := h
    simp only [tget, tput, h, h2, if_true, setStrm_crew, aget_aput]; split <;> rfl

theorem hget_hput (s : State) (n m : Nat) (x : BitVec 17) : hget (hput s n x) m = if m = n then x else hget s m := by
  cases h : isStream s
  · have h2 : isStream (setGrp s (fun g => { g with h := g.h.put n x })) = false := h
    simp only [hget, hput, h, h2, Bool.false_eq_true, if_false, setGrp_grp, Store.get_put]
  · have h2 : isStream (setStrm s (fun y => { y with h := y.h.put n x })) = true := h
    simp only [hget, hput, h, h2, if_true, setStrm_crew, Store.get_put]

/-- A host register reads back what was written, modulo 2^64; the others are as they were. -/
theorem State.reg_setReg (s : State) (o q v : Nat) : (s.setReg o v).reg q = if q = o then v % 2 ^ 64 else s.reg q := by
  simp only [State.reg, State.setReg_regs, aget_aput]
  split <;> simp

theorem coreOf_setCore (s : State) (c d : Nat) (x : Core) : coreOf (setCore s c x) d = if d = c then x else coreOf s d := by
  simp only [coreOf, setCore_cores, aget_aput]
  split <;> rfl

end Sys2Proof.Machine
end

