-- ==== Sys2Proof/Laws/Retire.lean ====
section
/-! SUPPORT. What retiring an instruction, taking a fault and applying NX can do, said once. -/
namespace Sys2Proof.Machine

/-! ## Retirement (R171) -/

/-- The guard lets the instruction act, or does not concern it (R51). -/
def Plan.admits (p : Plan) (s : State) : Prop := p.guarded = true → isStream s = true → guardState s = some true

/-- An instruction of its issuer's class that reads well and that its guard lets act does what is left of its retirement. -/
theorem retire_rest {op : Nat} {nx : NX} {p : Plan} {s : State} (hc : classOk op s = true) (he : p.early = none) (hg : p.admits s) :
    retire op nx p s = .next (retireRest nx p s) := by
  unfold retire
  rw [hc, he]
  by_cases h : (p.guarded && isStream s) = true
  · simp only [Bool.and_eq_true] at h
    simp [h.1, h.2, hg h.1 h.2]
  · simp [h]

/-- An instruction that passes every check answers its own effect, NX applied to it, and what follows NX. -/
theorem retire_next {op : Nat} {nx : NX} {p : Plan} {s : State} (hc : classOk op s = true) (he : p.early = none)
    (hg : p.admits s) (hs : p.stall = false) (hf : p.fault = none) (hn : nxFault nx p.len p.done = none) (ha : p.access = none)
    (hw : p.wait = none) : retire op nx p s = .next (p.post (after nx p.len p.done)) := by
  rw [retire_rest hc he hg]; simp [retireRest, after, hs, hf, hn, ha, hw]

/-- The wrong issuer raises ILLEGAL_CONTEXT (R168). -/
theorem retire_class {op : Nat} {nx : NX} {p : Plan} {s : State} (hc : classOk op s = false) :
    retire op nx p s = .next (raise s (fx .illegalContext)) := by
  simp [retire, hc]

/-- A register out of range, a bad field or a bad type faults before the guard is looked at. -/
theorem retire_early {op : Nat} {nx : NX} {p : Plan} {s : State} {f : Fx} (hc : classOk op s = true) (he : p.early = some f) :
    retire op nx p s = .next (takeFault s f) := by
  simp [retire, hc, he]

/-- An instruction-specific check that fails faults. -/
theorem retire_fault {op : Nat} {nx : NX} {p : Plan} {s : State} {f : Fx} (hc : classOk op s = true) (he : p.early = none)
    (hg : p.admits s) (hs : p.stall = false) (hf : p.fault = some f) : retire op nx p s = .next (takeFault s f) := by
  rw [retire_rest hc he hg]; simp [retireRest, hs, hf]

/-- NX that raises something faults after the instruction's own checks. -/
theorem retire_nxFault {op : Nat} {nx : NX} {p : Plan} {s : State} {f : Fx} (hc : classOk op s = true) (he : p.early = none)
    (hg : p.admits s) (hs : p.stall = false) (hf : p.fault = none) (hn : nxFault nx p.len p.done = some f) :
    retire op nx p s = .next (takeFault s f) := by
  rw [retire_rest hc he hg]; simp [retireRest, hs, hf, hn]

/-- An access check that fails faults. -/
theorem retire_access {op : Nat} {nx : NX} {p : Plan} {s : State} {f : Fx} (hc : classOk op s = true) (he : p.early = none)
    (hg : p.admits s) (hs : p.stall = false) (hf : p.fault = none) (hn : nxFault nx p.len p.done = none) (ha : p.access = some f) :
    retire op nx p s = .next (takeFault s f) := by
  rw [retire_rest hc he hg]; simp [retireRest, hs, hf, hn, ha]

/-- An instruction that waits leaves the state its wait gives. -/
theorem retire_wait {op : Nat} {nx : NX} {p : Plan} {s w : State} (hc : classOk op s = true) (he : p.early = none)
    (hg : p.admits s) (hs : p.stall = false) (hf : p.fault = none) (hn : nxFault nx p.len p.done = none) (ha : p.access = none)
    (hw : p.wait = some w) : retire op nx p s = .next w := by
  rw [retire_rest hc he hg]; simp [retireRest, hs, hf, hn, ha, hw]

/-- A scoreboard stall leaves the state as it is, marked (R37). -/
theorem retire_stall {op : Nat} {nx : NX} {p : Plan} {s : State} (hc : classOk op s = true) (he : p.early = none)
    (hg : p.admits s) (hs : p.stall = true) : retire op nx p s = .next { s with stalled := true } := by
  rw [retire_rest hc he hg]; simp [retireRest, hs]

/-- A command that its guard discards has only its NX (R51). -/
theorem retire_discard {op : Nat} {nx : NX} {p : Plan} {s : State} (hc : classOk op s = true) (he : p.early = none)
    (hgd : p.guarded = true) (hst : isStream s = true) (hg : guardState s = some false) (hn : nxFault nx p.len s = none) :
    retire op nx p s = .next (after nx p.len s) := by
  simp [retire, hc, he, hgd, hst, hg, hn, after]

/-- A command whose guard is unresolved waits (R51). -/
theorem retire_guardWait {op : Nat} {nx : NX} {p : Plan} {s : State} (hc : classOk op s = true) (he : p.early = none)
    (hgd : p.guarded = true) (hst : isStream s = true) (hg : guardState s = none) :
    retire op nx p s = .next (waitAs s .wait) := by
  simp [retire, hc, he, hgd, hst, hg]

theorem takeFault_fx (s : State) (c : Cause) (h : c ≠ .page) : takeFault s (fx c) = raise s (fx c) := by
  simp [takeFault, fx, h]

theorem classOk_groups {op : Nat} {s : State} (h : classOf op = .groups) : classOk op s = !isStream s := by simp [classOk, h]
theorem classOk_streams {op : Nat} {s : State} (h : classOf op = .streams) : classOk op s = isStream s := by simp [classOk, h]
theorem classOk_both {op : Nat} {s : State} (h : classOf op = .both) : classOk op s = true := by simp [classOk, h]

/-! ## The faults of NX depend on few fields -/

theorem nxFault_congr {nx : NX} {len : Nat} {s t : State} (hc : t.cur = s.cur) (hs : t.split = s.split)
    (hg : t.grp.splits = s.grp.splits) (hr : t.crew.recs = s.crew.recs) (hp : t.gang = s.gang)
    (ha : t.crew.strm.armed = s.crew.strm.armed) : nxFault nx len t = nxFault nx len s := by
  cases nx <;> simp [nxFault, armedOf, isStream, xferFull, xferPlan, spawnFits, recBytes, regsOf, hc, hs, hg, hr, hp, ha]

theorem nxFault_sput (nx : NX) (len : Nat) (s : State) (d : Nat) (v : BitVec 64) :
    nxFault nx len (sput s d v) = nxFault nx len s := nxFault_congr rfl rfl rfl rfl rfl rfl

theorem nxFault_eput (nx : NX) (len : Nat) (s : State) (d : Nat) (v : BitVec 64) :
    nxFault nx len (eput s d v) = nxFault nx len s := nxFault_congr rfl rfl rfl rfl rfl rfl

theorem nxFault_withV (nx : NX) (len : Nat) (s : State) (v : Store 32) :
    nxFault nx len (withV s v) = nxFault nx len s := nxFault_congr rfl rfl rfl rfl rfl rfl

theorem nxFault_withK (nx : NX) (len : Nat) (s : State) (k : Store 32) :
    nxFault nx len (withK s k) = nxFault nx len s := nxFault_congr rfl rfl rfl rfl rfl rfl

/-- Only XFER can fault (R161). -/
theorem nxFault_seq (len : Nat) (s : State) : nxFault .seq len s = none := rfl

/-! ## What NX leaves alone (R38, R161) -/

@[simp] theorem setHold_mem (s : State) (h : Hold) : (setHold s h).mem = s.mem := by unfold setHold; split <;> rfl
@[simp] theorem setPc_mem (s : State) (v : BitVec 64) : (setPc s v).mem = s.mem := by unfold setPc; split <;> rfl
@[simp] theorem setLc_mem (s : State) (v : BitVec 64) : (setLc s v).mem = s.mem := by unfold setLc; split <;> rfl
@[simp] theorem setLs_mem (s : State) (v : BitVec 64) : (setLs s v).mem = s.mem := by unfold setLs; split <;> rfl
@[simp] theorem setArmed_mem (s : State) (a : Option Armed) : (setArmed s a).mem = s.mem := by unfold setArmed; split <;> rfl
@[simp] theorem setMode_mem (s : State) (m : BitVec 32) : (setMode s m).mem = s.mem := by unfold setMode; split <;> rfl
@[simp] theorem clearGuard_mem (s : State) : (clearGuard s).mem = s.mem := by unfold clearGuard; split <;> rfl
@[simp] theorem waitAs_mem (s : State) (h : Hold) : (waitAs s h).mem = s.mem := by unfold waitAs; split <;> simp
@[simp] theorem bump_mem (s : State) (c ix n : Nat) : (bump s c ix n).mem = s.mem := rfl
@[simp] theorem iput_mem (s : State) (r : Nat) (v : BitVec 64) : (iput s r v).mem = s.mem := by unfold iput; split <;> rfl
@[simp] theorem tput_mem (s : State) (n : Nat) (t : Tok) : (tput s n t).mem = s.mem := by unfold tput; split <;> rfl
@[simp] theorem hput_mem (s : State) (n : Nat) (x : BitVec 17) : (hput s n x).mem = s.mem := by unfold hput; split <;> rfl
@[simp] theorem updGroup_mem (s : State) (k : Nat) (f : Group → Group) : (updGroup s k f).mem = s.mem := by
  unfold updGroup; split
  · rfl
  · split <;> rfl
@[simp] theorem updBat_mem (s : State) (w : Who) (f : Batches → Batches) : (updBat s w f).mem = s.mem := by
  unfold updBat; split <;> simp
@[simp] theorem updTok_mem (s : State) (w : Who) (n : Nat) (f : Tok → Tok) : (updTok s w n f).mem = s.mem := by
  unfold updTok; dsimp only; split <;> simp
@[simp] theorem sealBatch_mem (s : State) (w : Who) (t : Option Nat) (v : Option (BitVec 64)) : (sealBatch s w t v).mem = s.mem := by
  simp [sealBatch]
@[simp] theorem pushItem_mem (s : State) (w : Who) (op : ItemOp) (a r : Bool) (c : Nat) (st : Option Status) :
    (pushItem s w op a r c st).mem = s.mem := by simp [pushItem]
@[simp] theorem streamEnd_mem (s : State) : (streamEnd s).mem = s.mem := by unfold streamEnd; dsimp only; split <;> simp
@[simp] theorem endSplit_mem (s : State) : (endSplit s).mem = s.mem := rfl
@[simp] theorem xferGroup_mem (s : State) (a : Armed) (len : Nat) : (xferGroup s a len).mem = s.mem := by
  unfold xferGroup
  dsimp only
  split <;> split <;> split <;> rfl

/-- NX touches no memory. -/
@[simp] theorem nxApply_mem (nx : NX) (len : Nat) (s : State) : (nxApply nx len s).mem = s.mem := by
  unfold nxApply
  dsimp only
  split
  · simp
  · split <;> simp
  · split
    · simp
    · split <;> simp
  · split <;> simp

@[simp] theorem after_mem (nx : NX) (len : Nat) (s : State) : (after nx len s).mem = s.mem := by simp [after]

/-! ## Taking a fault (R171, R357, R358) -/

@[simp] theorem pushRec_mem (s : State) (g c : Option Nat) (r : FRec) : (pushRec s g c r).mem = s.mem := by
  unfold pushRec; dsimp only; split <;> split <;> rfl
/-- The AMB's log is apart from memory and from the issuer in execution. -/
theorem addLog_apart (s : State) (a b c d e : Nat) : (addLog s a b c d e).mem = s.mem ∧ (addLog s a b c d e).grp = s.grp := by
  unfold addLog logPut
  dsimp only
  split
  · exact ⟨rfl, rfl⟩
  · split <;> exact ⟨rfl, rfl⟩
/-- What the AMB records of an uncorrectable error touches its log alone. -/
theorem noteEcc_cases (s : State) (f : Fx) (n : Bool) : noteEcc s f n = s ∨ ∃ c x d, noteEcc s f n = addLog s 3 c x 1 d := by
  unfold noteEcc
  split
  · split
    · exact .inl rfl
    · exact .inr ⟨_, _, _, rfl⟩
  · exact .inl rfl
@[simp] theorem noteEcc_mem (s : State) (f : Fx) (n : Bool) : (noteEcc s f n).mem = s.mem := by
  rcases noteEcc_cases s f n with h | ⟨_, _, _, h⟩ <;> simp [h, addLog_apart]
@[simp] theorem raiseNow_mem (s : State) (f : Fx) : (raiseNow s f).mem = s.mem := by
  unfold raiseNow; dsimp only; split <;> simp
@[simp] theorem raise_mem (s : State) (f : Fx) : (raise s f).mem = s.mem := by unfold raise; split <;> simp
@[simp] theorem joinPage_mem (s : State) (d c v : Nat) (f : Nat → State → State) (h : ∀ n x, (f n x).mem = x.mem) :
    (joinPage s d c v f).2.mem = s.mem := by unfold joinPage; split <;> simp [h]
@[simp] theorem suspend_mem (s : State) (f : Fx) : (suspend s f).mem = s.mem := by
  unfold suspend; dsimp only; split
  · rfl
  · simp
/-- No fault touches memory. -/
@[simp] theorem takeFault_mem (s : State) (f : Fx) : (takeFault s f).mem = s.mem := by unfold takeFault; split <;> simp

/-- A fault writes no register of the group: v, k, s, t, h and MODE are as they were (R171). -/
theorem raise_grp (s : State) (f : Fx) : (raise s f).grp = s.grp := by
  have note : ∀ n, (noteEcc s f n).grp = s.grp := fun n => by rcases noteEcc_cases s f n with h | ⟨_, _, _, h⟩ <;> simp [h, addLog_apart]
  unfold raise raiseNow pushRec
  dsimp only
  repeat' split
  all_goals first | rfl | exact note _

/-- Retirement touches memory only through the instruction's own effect, its wait, or what follows NX. -/
theorem retire_mem_wf {op : Nat} {nx : NX} {p : Plan} {s : State} (hs : s.mem.wf = true) (hd : p.done.mem.wf = true)
    (hw : ∀ w, p.wait = some w → w.mem.wf = true) (hp : ∀ t, t.mem.wf = true → (p.post t).mem.wf = true) :
    ∃ t, retire op nx p s = .next t ∧ t.mem.wf = true := by
  have rest : (retireRest nx p s).mem.wf = true := by
    unfold retireRest
    repeat' split
    all_goals first | exact hs | (simp [hs]; done) | exact hw _ ‹_› | exact hp _ (by simpa using hd)
  refine ⟨_, rfl, ?_⟩
  repeat' split
  all_goals first | exact rest | (simp [hs]; done)

end Sys2Proof.Machine
end

