-- ==== Sys2Proof/Laws/MemoryForm.lean ====
section
/-! SUPPORT. Every memory operation keeps memory in its canonical form. -/
namespace Sys2Proof.Machine

/-- Memory in its canonical form. -/
def State.formed (s : State) : Prop := s.mem.wf = true

theorem reset_formed : State.reset.formed := rfl

theorem formed_of_mem {s t : State} (h : t.mem = s.mem) (hs : s.formed) : t.formed := by unfold State.formed at *; rw [h]; exact hs

/-- A fold of operations that keep the form keeps it. -/
theorem foldl_formed {α : Type} (l : List α) (f : State → α → State) (hf : ∀ s x, s.formed → (f s x).formed) (s : State)
    (h : s.formed) : (l.foldl f s).formed := by
  induction l generalizing s with
  | nil => exact h
  | cons c r ih => exact ih _ (hf _ _ h)

theorem reseal_formed (s : State) (k : Nat) (cur : KeySlot × Nat) (h : s.formed) : (reseal s k cur).formed := by
  unfold reseal
  split
  · exact h
  · exact memPutBytes_wf _ _ _ h

theorem sealedPut_formed (s : State) (k : Nat) (b : BitVec 8) (cur : KeySlot × Nat) (h : s.formed) : (sealedPut s k b cur).formed :=
  Store.put_wf _ _ _ (reseal_formed s k cur h)

theorem sealedPutBytes_formed (s : State) (k : Nat) (bs : List (BitVec 8)) (cur : KeySlot × Nat) (h : s.formed) :
    (sealedPutBytes s k bs cur).formed := foldl_formed _ _ (fun s b hs => sealedPut_formed s _ b.1 cur hs) _ h

@[simp] theorem mendCovered_mem (s : State) (k n : Nat) : (mendCovered s k n).mem = s.mem := by unfold mendCovered; split <;> rfl

theorem devPut_formed (s : State) (n k v : Nat) (h : s.formed) : (devPut s n k v).formed :=
  sealedPutBytes_formed _ k _ _ (formed_of_mem (mendCovered_mem _ _ _) h)

theorem unitPut_formed (s : State) (key kid : Nat) (b : BitVec 8) (h : s.formed) : (unitPut s key kid b).formed := by
  unfold unitPut
  split
  · exact formed_of_mem rfl h
  · exact sealedPut_formed _ _ _ _ h

theorem setDirty_formed (s : State) (ctx va : Nat) (h : s.formed) : (setDirty s ctx va).formed := by
  unfold setDirty
  cases aget s.ctxs ctx with
  | none => exact h
  | some c =>
    dsimp only
    generalize leafFor s ctx c va .write = r
    split
    · split
      · exact devPut_formed _ _ _ _ h
      · exact h
    · exact h

@[simp] theorem setCrew_mem (s : State) (c : Nat) (f : Crew → Crew) : (setCrew s c f).mem = s.mem := by
  unfold setCrew
  repeat' split
  all_goals rfl

@[simp] theorem mend_mem (s : State) (l : Loc) : (mend s l).mem = s.mem := by
  unfold mend
  repeat' split
  all_goals rfl

theorem locPut_formed (s : State) (l : Loc) (b : BitVec 8) (h : s.formed) : (locPut s l b).formed := by
  cases l with
  | spad c o => exact formed_of_mem (by simp [locPut]) h
  | phys key kid bnd => exact formed_of_mem (mend_mem _ _) (unitPut_formed s key kid b h)

theorem locsPut_formed (s : State) (ls : List Loc) (v : Nat) (h : s.formed) : (locsPut s ls v).formed :=
  foldl_formed _ _ (fun s b hs => locPut_formed s b.2 b.1 hs) _ h

theorem setLineWord_formed (s : State) (kid ln e : Nat) (v : BitVec 32) (h : s.formed) : (setLineWord s kid ln e v).formed :=
  foldl_formed _ _ (fun s _ hs => unitPut_formed s _ _ _ hs) _ h

theorem addHome_formed (fp : Bool) (kid ln : Nat) (els : List (Nat × BitVec 32)) (s : State) (h : s.formed) :
    (addHome fp kid ln els s).formed := foldl_formed _ _ (fun s _ hs => setLineWord_formed s _ _ _ _ hs) _ h

theorem drainHolder_formed (s : State) (ln hd : Nat) (h : s.formed) : (drainHolder s ln hd).formed := by
  unfold drainHolder
  split
  · exact h
  · split
    · exact h
    · exact formed_of_mem rfl (addHome_formed _ _ _ _ _ h)

theorem drainLine_formed (s : State) (ln : Nat) (h : s.formed) : (drainLine s ln).formed := by
  unfold drainLine
  split
  · exact h
  · exact foldl_formed _ _ (fun s _ hs => drainHolder_formed s _ _ hs) _ h

theorem drainTo_formed (ln : Nat) (limit t : Dy) (n : Nat) (s : State) (h : s.formed) : (drainTo ln limit t n s).formed := by
  induction n generalizing s with
  | zero => exact h
  | succ n ih =>
    unfold drainTo
    repeat' split
    all_goals first | exact h | exact ih _ (drainHolder_formed _ _ _ h)

theorem makeRoom_formed (s : State) (hd : Nat) (h : s.formed) : (makeRoom s hd).formed := by
  unfold makeRoom
  repeat' split
  all_goals first | exact h | exact drainHolder_formed _ _ _ h

theorem contribute_formed (s : State) (ctx bidx : Nat) (b : Bound) (kid ln hd : Nat) (els : List (Nat × BitVec 32)) (h : s.formed) :
    (contribute s ctx bidx b kid ln hd els).formed := by
  have home : ∀ s : State, s.formed → (addHome b.fp kid ln els s).formed := fun s hs => addHome_formed _ _ _ _ s hs
  have drain : ∀ s : State, s.formed → (drainHolder s ln hd).formed := fun s hs => drainHolder_formed s _ _ hs
  have room : ∀ s : State, s.formed → (makeRoom s hd).formed := fun s hs => makeRoom_formed s _ hs
  unfold contribute
  dsimp only
  repeat' split
  all_goals first
    | exact home _ (drain _ h)
    | exact formed_of_mem rfl h
    | exact formed_of_mem rfl (room _ h)
    | exact formed_of_mem rfl (room _ (drain _ h))
    | exact home _ (room _ h)
    | exact home _ (room _ (drain _ h))

theorem drainFor_formed (s : State) (ls : List Loc) (h : s.formed) : (drainFor s ls).formed := by
  unfold drainFor
  split
  · exact h
  · refine foldl_formed _ _ (fun s l hs => ?_) _ h
    split
    · exact drainLine_formed _ _ hs
    · exact hs

theorem drainAcc_formed (s : State) (as : List LaneAcc) (k : AccKind) (h : s.formed) : (drainAcc s as k).formed := by
  unfold drainAcc; split
  · exact h
  · exact drainFor_formed _ _ h

theorem dirtyAcc_formed (s : State) (a : LaneAcc) (h : s.formed) : (dirtyAcc s a).formed := by
  unfold dirtyAcc
  split
  · exact setDirty_formed _ _ _ h
  · refine foldl_formed _ _ (fun s i hs => ?_) _ h
    split
    · exact hs
    · exact setDirty_formed _ _ _ hs
  · exact h

theorem storeAcc_formed (s : State) (a : LaneAcc) (v : Nat) (h : s.formed) : (storeAcc s a v).formed :=
  locsPut_formed _ _ _ (dirtyAcc_formed _ _ h)

theorem storeAll_formed (s : State) (l : List (LaneAcc × Nat)) (h : s.formed) : (storeAll s l).formed :=
  foldl_formed _ _ (fun s x hs => locsPut_formed s x.1 x.2 hs) _ (foldl_formed _ _ (fun s x hs => dirtyAcc_formed s x.1 hs) _ h)

theorem putWords_wf (m : Store 8) (a : Nat) (ws : List (BitVec 32)) (h : m.wf = true) : (putWords m a ws).wf = true := by
  induction ws generalizing m a with
  | nil => exact h
  | cons w r ih => exact ih _ _ (memPut_wf _ _ _ _ h)

/-- An instruction keeps the form when its effect, its wait and what follows NX keep it. -/
theorem retire_formed {op : Nat} {nx : NX} {p : Plan} {s : State} (hs : s.formed) (hd : p.done.formed)
    (hw : ∀ w, p.wait = some w → w.formed) (hp : ∀ t, t.formed → (p.post t).formed) :
    ∃ t, retire op nx p s = .next t ∧ t.formed := retire_mem_wf hs hd hw hp

/-- An effect in each lane that keeps the form keeps it. -/
theorem forLanes_formed (s : State) (ls : List Nat) (f : Nat → State → State) (hf : ∀ p s, s.formed → (f p s).formed)
    (h : s.formed) : (forLanes s ls f).formed := foldl_formed _ _ (fun s p hs => hf p s hs) _ h

end Sys2Proof.Machine
end

