-- ==== Sys2Proof/Laws/Lanes.lean ====
section
/-! SUPPORT. What an effect in each lane of L writes: v registers, predicates, and nothing else. -/
namespace Sys2Proof.Machine

@[simp] theorem active_withV (s : State) (v : Store 32) : active (withV s v) = active s := rfl
@[simp] theorem withV_withV (s : State) (v w : Store 32) : withV (withV s v) w = withV s w := rfl
@[simp] theorem withK_withK (s : State) (v w : Store 32) : withK (withK s v) w = withK s w := rfl
theorem withV_self (s : State) : withV s s.grp.v = s := rfl
theorem withK_self (s : State) : withK s s.grp.k = s := rfl

theorem vput_withV (s : State) (v : Store 32) (r p : Nat) (x : BitVec 32) :
    vput (withV s v) r p x = withV s (v.put (32 * r + p) x) := rfl

theorem lanesOf_nodup (m : BitVec 32) : (lanesOf m).Nodup := List.Nodup.filter _ List.nodup_range
theorem active_nodup (s : State) : (active s).Nodup := (lanesOf_nodup _).filter _

theorem mem_lanesOf {m : BitVec 32} {p : Nat} : p ∈ lanesOf m ↔ p < 32 ∧ m.getLsbD p = true := by simp [lanesOf]

theorem active_lt {s : State} {p : Nat} (h : p ∈ active s) : p < 32 := by
  simp only [active, List.mem_filter, mem_lanesOf] at h; exact h.1.1

/-- Writes of one v register in each lane of a list: the lanes' values there, everything else as it was. -/
theorem foldl_vput (s : State) (d : Nat) (f : Nat → BitVec 32) (l : List Nat) (hl : ∀ p ∈ l, p < 32) (v : Store 32) :
    ∃ w, l.foldl (fun x p => vput x d p (f p)) (withV s v) = withV s w ∧
      ∀ r p, p < 32 → w.get (32 * r + p) = if p ∈ l ∧ r = d then f p else v.get (32 * r + p) := by
  induction l generalizing v with
  | nil => exact ⟨v, rfl, by simp⟩
  | cons q l ih =>
    obtain ⟨w, hw, hg⟩ := ih (fun p hp => hl p (List.mem_cons_of_mem _ hp)) (v.put (32 * d + q) (f q))
    refine ⟨w, by rw [List.foldl_cons, vput_withV, hw], fun r p hp => ?_⟩
    have hq : q < 32 := hl q (by simp)
    rw [hg r p hp]
    by_cases h1 : p ∈ l ∧ r = d
    · simp [h1]
    · rw [if_neg h1, Store.get_put]
      by_cases h2 : p = q ∧ r = d
      · obtain ⟨rfl, rfl⟩ := h2; simp
      · rw [if_neg (by omega), if_neg]
        rintro ⟨h3, rfl⟩
        simp only [List.mem_cons] at h3
        tauto

/-- One 32-bit register written in each lane of L (R165, R223). -/
theorem rawLanes_holds (s : State) (d : Nat) (f : Nat → BitVec 32) :
    ∃ v, rawLanes s d f = withV s v ∧ LanesHold s d 1 (fun p => (f p).toNat) v := by
  obtain ⟨v, hv, hg⟩ := foldl_vput s d f (active s) (fun p hp => active_lt hp) s.grp.v
  refine ⟨v, hv, fun r p hp => ?_⟩
  rw [hg r p hp]
  by_cases h : p ∈ active s ∧ r = d
  · obtain ⟨h1, rfl⟩ := h; simp [h1]
  · rw [if_neg h, if_neg (fun h2 => h ⟨h2.1, by omega⟩)]; rfl

/-- An operand of the type written in each lane of a list: one register, or the pair under F64 (R89). -/
theorem foldl_vopPut (s : State) (t d : Nat) (f : Nat → Nat) (l : List Nat) (hl : ∀ p ∈ l, p < 32) (v : Store 32) :
    ∃ w, l.foldl (fun x p => vopPut t d p (f p) x) (withV s v) = withV s w ∧
      ∀ r p, p < 32 → w.get (32 * r + p) =
        if p ∈ l ∧ d ≤ r ∧ r < d + tyRegs t then BitVec.ofNat 32 (f p / 2 ^ (32 * (r - d))) else v.get (32 * r + p) := by
  induction l generalizing v with
  | nil => exact ⟨v, rfl, by simp⟩
  | cons q l ih =>
    have hq : q < 32 := hl q (by simp)
    by_cases ht : t = 11
    · obtain ⟨w, hw, hg⟩ := ih (fun p hp => hl p (List.mem_cons_of_mem _ hp))
        ((v.put (32 * d + q) (BitVec.ofNat 32 (f q))).put (32 * (d + 1) + q) (BitVec.ofNat 32 (f q / 2 ^ 32)))
      refine ⟨w, by rw [List.foldl_cons, ← hw]; simp only [vopPut, ht, if_true, vput_withV], fun r p hp => ?_⟩
      rw [hg r p hp]
      by_cases h1 : p ∈ l ∧ d ≤ r ∧ r < d + tyRegs t
      · simp [h1]
      · rw [if_neg h1, Store.get_put, Store.get_put]
        simp only [tyRegs, ht, if_true] at *
        by_cases h2 : p = q ∧ (r = d ∨ r = d + 1)
        · obtain ⟨rfl, rfl | rfl⟩ := h2
          · rw [if_neg (by omega)]; simp
          · simp
        · rw [if_neg (by omega), if_neg (by omega), if_neg]
          rintro ⟨h3, h4⟩
          simp only [List.mem_cons] at h3
          rcases h3 with rfl | h3
          · omega
          · exact h1 ⟨h3, h4⟩
    · obtain ⟨w, hw, hg⟩ := ih (fun p hp => hl p (List.mem_cons_of_mem _ hp)) (v.put (32 * d + q) (BitVec.ofNat 32 (f q)))
      refine ⟨w, by rw [List.foldl_cons, ← hw]; simp only [vopPut, ht, if_false, vput_withV], fun r p hp => ?_⟩
      rw [hg r p hp]
      by_cases h1 : p ∈ l ∧ d ≤ r ∧ r < d + tyRegs t
      · simp [h1]
      · rw [if_neg h1, Store.get_put]
        simp only [tyRegs, ht, if_false] at *
        by_cases h2 : p = q ∧ r = d
        · obtain ⟨rfl, rfl⟩ := h2; simp
        · rw [if_neg (by omega), if_neg]
          rintro ⟨h3, h4⟩
          simp only [List.mem_cons] at h3
          rcases h3 with rfl | h3
          · omega
          · exact h1 ⟨h3, h4⟩

/-- An operand of the type written in each lane of L (R165, R216). -/
theorem lanes_vopPut (s : State) (t d : Nat) (f : Nat → Nat) :
    ∃ v, forLanes s (active s) (fun p => vopPut t d p (f p)) = withV s v ∧ LanesHold s d (tyRegs t) f v := by
  obtain ⟨v, hv, hg⟩ := foldl_vopPut s t d f (active s) (fun p hp => active_lt hp) s.grp.v
  exact ⟨v, hv, fun r p hp => by rw [hg r p hp]; rfl⟩

/-- A predicate bit written in each lane of a list. -/
theorem foldl_kput (s : State) (d : Nat) (f : Nat → Bool) (l : List Nat) (hl : ∀ p ∈ l, p < 32) (k : Store 32) :
    ∃ w, l.foldl (fun x p => kput x d p (f p)) (withK s k) = withK s w ∧
      ∀ r p, p < 32 → (w.get r).getLsbD p = if p ∈ l ∧ r = d then f p else (k.get r).getLsbD p := by
  induction l generalizing k with
  | nil => exact ⟨k, rfl, by simp⟩
  | cons q l ih =>
    have hq : q < 32 := hl q (by simp)
    obtain ⟨w, hw, hg⟩ := ih (fun p hp => hl p (List.mem_cons_of_mem _ hp))
      (k.put d (if f q then k.get d ||| BitVec.ofNat 32 (2 ^ q) else k.get d &&& ~~~BitVec.ofNat 32 (2 ^ q)))
    refine ⟨w, by rw [List.foldl_cons, ← hw]; rfl, fun r p hp => ?_⟩
    rw [hg r p hp]
    by_cases h1 : p ∈ l ∧ r = d
    · simp [h1]
    · rw [if_neg h1, Store.get_put]
      by_cases hr : r = d
      · subst hr
        rw [if_pos rfl]
        have hb : (BitVec.ofNat 32 (2 ^ q)).getLsbD p = decide (p = q) := by
          rw [BitVec.getLsbD_ofNat, Nat.testBit_two_pow]; simp [hp, eq_comm]
        by_cases hpq : p = q
        · subst hpq
          have h3 : p ∈ p :: l ∧ r = r := ⟨by simp, rfl⟩
          rw [if_pos h3]
          split <;> simp only [BitVec.getLsbD_or, BitVec.getLsbD_and, BitVec.getLsbD_not, hb, hp] <;> simp_all
        · have h3 : ¬ (p ∈ q :: l ∧ r = r) := by simp only [List.mem_cons]; tauto
          rw [if_neg h3]
          split <;> simp only [BitVec.getLsbD_or, BitVec.getLsbD_and, BitVec.getLsbD_not, hb, hp, hpq] <;> simp
      · rw [if_neg hr, if_neg (fun h2 => hr h2.2)]

/-- A predicate written in each lane of L (R165, R243). -/
theorem setPred_holds (s : State) (d : Nat) (f : Nat → Bool) : ∃ k, setPred s d f = withK s k ∧ PredHolds s d f k := by
  obtain ⟨k, hk, hg⟩ := foldl_kput s d f (active s) (fun p hp => active_lt hp) s.grp.k
  exact ⟨k, hk, fun r p hp => by rw [hg r p hp]; rfl⟩

end Sys2Proof.Machine
end

