-- ==== Sys2Proof/Laws/PerInstr.lean ====
section
/-! SUPPORT. The per-instruction family `WordCarriesOpcode`: the first word of an instruction carries the opcode of its row
(R155, R168), and an event has no word. -/
namespace Sys2Proof.Laws.WordCarriesOpcode

/-- The opcode read from the first word of i's encoding is i's opcode; both are absent for an event. -/
def Statement (i : Instr) : Prop := wellFormed i = true → (encode i).head?.map opcodeOf = i.opcode

/-- A word built from an opcode and a body of 22 bits carries that opcode, whatever its NX. -/
theorem opcodeOf_mkWord (nx : NX) (op body : Nat) (ho : op < 2 ^ 8) (hb : body < 2 ^ 22) : opcodeOf (mkWord nx op body) = op := by
  have hn : nx.bits < 4 := by cases nx <;> decide
  unfold opcodeOf fldN mkWord
  rw [BitVec.toNat_ofNat]
  omega

theorem head_word (nx : NX) (op body : Nat) (l : List Word) (ho : op < 2 ^ 8) (hb : body < 2 ^ 22) :
    (mkWord nx op body :: l).head?.map opcodeOf = some op := by
  simp [opcodeOf_mkWord nx op body ho hb]

theorem nop (nx : NX) : Statement (.nop nx) := fun _ => head_word _ _ _ _ (by omega) (by omega)
theorem xj (nx : NX) (k : BitVec 4) (o : BitVec 18) : Statement (.xj nx k o) := fun _ => head_word _ _ _ _ (by omega) (by omega)
theorem xju (nx : NX) (k : BitVec 4) (o : BitVec 18) : Statement (.xju nx k o) := fun _ => head_word _ _ _ _ (by omega) (by omega)
theorem xcall (nx : NX) (o : BitVec 18) : Statement (.xcall nx o) := fun _ => head_word _ _ _ _ (by omega) (by omega)
theorem xret (nx : NX) : Statement (.xret nx) := fun _ => head_word _ _ _ _ (by omega) (by omega)
theorem xjr (nx : NX) (a : BitVec 7) : Statement (.xjr nx a) := fun _ => head_word _ _ _ _ (by omega) (by omega)
theorem xbtab (nx : NX) (a : BitVec 7) (targets : List (BitVec 32)) : Statement (.xbtab nx a targets) := fun h => by
  simp only [wellFormed, Bool.and_eq_true, decide_eq_true_eq] at h
  exact head_word _ _ _ _ (by omega) (by omega)
theorem lpsImm (nx : NX) (i : BitVec 15) : Statement (.lpsImm nx i) := fun _ => head_word _ _ _ _ (by omega) (by omega)
theorem lpsReg (nx : NX) (a : BitVec 6) : Statement (.lpsReg nx a) := fun _ => head_word _ _ _ _ (by omega) (by omega)
theorem rwait (nx : NX) (d : BitVec 7) (a : BitVec 7) : Statement (.rwait nx d a) := fun _ => head_word _ _ _ _ (by omega) (by omega)
theorem setmode (nx : NX) (f : BitVec 7) (i : BitVec 15) : Statement (.setmode nx f i) := fun _ => head_word _ _ _ _ (by omega) (by omega)
theorem setmodev (nx : NX) (a : BitVec 7) : Statement (.setmodev nx a) := fun _ => head_word _ _ _ _ (by omega) (by omega)
theorem getmode (nx : NX) (d : BitVec 7) : Statement (.getmode nx d) := fun _ => head_word _ _ _ _ (by omega) (by omega)
theorem trap (nx : NX) (c : BitVec 22) : Statement (.trap nx c) := fun _ => head_word _ _ _ _ (by omega) (by omega)
theorem brk (nx : NX) (c : BitVec 22) : Statement (.brk nx c) := fun _ => head_word _ _ _ _ (by omega) (by omega)
theorem yield (nx : NX) : Statement (.yield nx) := fun _ => head_word _ _ _ _ (by omega) (by omega)
theorem sadd (nx : NX) (d : BitVec 7) (a : BitVec 7) (b : BitVec 7) : Statement (.sadd nx d a b) := fun _ => head_word _ _ _ _ (by omega) (by omega)
theorem ssub (nx : NX) (d : BitVec 7) (a : BitVec 7) (b : BitVec 7) : Statement (.ssub nx d a b) := fun _ => head_word _ _ _ _ (by omega) (by omega)
theorem smul (nx : NX) (d : BitVec 7) (a : BitVec 7) (b : BitVec 7) : Statement (.smul nx d a b) := fun _ => head_word _ _ _ _ (by omega) (by omega)
theorem smulh (nx : NX) (d : BitVec 7) (a : BitVec 7) (b : BitVec 7) (x : BitVec 1) : Statement (.smulh nx d a b x) := fun _ => head_word _ _ _ _ (by omega) (by omega)
theorem sdiv (nx : NX) (d : BitVec 7) (a : BitVec 7) (b : BitVec 7) (x : BitVec 1) : Statement (.sdiv nx d a b x) := fun _ => head_word _ _ _ _ (by omega) (by omega)
theorem srem (nx : NX) (d : BitVec 7) (a : BitVec 7) (b : BitVec 7) (x : BitVec 1) : Statement (.srem nx d a b x) := fun _ => head_word _ _ _ _ (by omega) (by omega)
theorem sand (nx : NX) (d : BitVec 7) (a : BitVec 7) (b : BitVec 7) : Statement (.sand nx d a b) := fun _ => head_word _ _ _ _ (by omega) (by omega)
theorem sor (nx : NX) (d : BitVec 7) (a : BitVec 7) (b : BitVec 7) : Statement (.sor nx d a b) := fun _ => head_word _ _ _ _ (by omega) (by omega)
theorem sxor (nx : NX) (d : BitVec 7) (a : BitVec 7) (b : BitVec 7) : Statement (.sxor nx d a b) := fun _ => head_word _ _ _ _ (by omega) (by omega)
theorem sshl (nx : NX) (d : BitVec 7) (a : BitVec 7) (b : BitVec 7) : Statement (.sshl nx d a b) := fun _ => head_word _ _ _ _ (by omega) (by omega)
theorem sshr (nx : NX) (d : BitVec 7) (a : BitVec 7) (b : BitVec 7) : Statement (.sshr nx d a b) := fun _ => head_word _ _ _ _ (by omega) (by omega)
theorem ssra (nx : NX) (d : BitVec 7) (a : BitVec 7) (b : BitVec 7) : Statement (.ssra nx d a b) := fun _ => head_word _ _ _ _ (by omega) (by omega)
theorem smin (nx : NX) (d : BitVec 7) (a : BitVec 7) (b : BitVec 7) (x : BitVec 1) : Statement (.smin nx d a b x) := fun _ => head_word _ _ _ _ (by omega) (by omega)
theorem smax (nx : NX) (d : BitVec 7) (a : BitVec 7) (b : BitVec 7) (x : BitVec 1) : Statement (.smax nx d a b x) := fun _ => head_word _ _ _ _ (by omega) (by omega)
theorem scmp (nx : NX) (c : BitVec 3) (k : BitVec 3) (a : BitVec 7) (b : BitVec 7) (x : BitVec 1) : Statement (.scmp nx c k a b x) := fun _ => head_word _ _ _ _ (by omega) (by omega)
theorem ssel (nx : NX) (d : BitVec 7) (a : BitVec 7) (b : BitVec 7) : Statement (.ssel nx d a b) := fun _ => head_word _ _ _ _ (by omega) (by omega)
theorem saddi (nx : NX) (d : BitVec 7) (a : BitVec 7) (i : BitVec 8) : Statement (.saddi nx d a i) := fun _ => head_word _ _ _ _ (by omega) (by omega)
theorem sli (nx : NX) (d : BitVec 7) (i : BitVec 15) : Statement (.sli nx d i) := fun _ => head_word _ _ _ _ (by omega) (by omega)
theorem slih (nx : NX) (d : BitVec 7) (i : BitVec 15) : Statement (.slih nx d i) := fun _ => head_word _ _ _ _ (by omega) (by omega)
theorem smov (nx : NX) (d : BitVec 7) (a : BitVec 7) : Statement (.smov nx d a) := fun _ => head_word _ _ _ _ (by omega) (by omega)
theorem sclz (nx : NX) (d : BitVec 7) (a : BitVec 7) : Statement (.sclz nx d a) := fun _ => head_word _ _ _ _ (by omega) (by omega)
theorem spopc (nx : NX) (d : BitVec 7) (a : BitVec 7) : Statement (.spopc nx d a) := fun _ => head_word _ _ _ _ (by omega) (by omega)
theorem srd (nx : NX) (d : BitVec 7) (i : BitVec 15) : Statement (.srd nx d i) := fun _ => head_word _ _ _ _ (by omega) (by omega)
theorem swr (nx : NX) (d : BitVec 7) (i : BitVec 15) : Statement (.swr nx d i) := fun _ => head_word _ _ _ _ (by omega) (by omega)
theorem sld (nx : NX) (d : BitVec 7) (a : BitVec 7) (i : BitVec 8) : Statement (.sld nx d a i) := fun _ => head_word _ _ _ _ (by omega) (by omega)
theorem sst (nx : NX) (d : BitVec 7) (a : BitVec 7) (i : BitVec 8) : Statement (.sst nx d a i) := fun _ => head_word _ _ _ _ (by omega) (by omega)
theorem saddr (nx : NX) (d : BitVec 7) (a : BitVec 7) (b : BitVec 7) (x : BitVec 1) : Statement (.saddr nx d a b x) := fun _ => head_word _ _ _ _ (by omega) (by omega)
theorem ssext (nx : NX) (d : BitVec 7) (a : BitVec 7) (i : BitVec 8) : Statement (.ssext nx d a i) := fun _ => head_word _ _ _ _ (by omega) (by omega)
theorem sbfx (nx : NX) (d : BitVec 7) (a : BitVec 7) (l : BitVec 4) (w : BitVec 4) : Statement (.sbfx nx d a l w) := fun _ => head_word _ _ _ _ (by omega) (by omega)
theorem sbfi (nx : NX) (d : BitVec 7) (a : BitVec 7) (l : BitVec 4) (w : BitVec 4) : Statement (.sbfi nx d a l w) := fun _ => head_word _ _ _ _ (by omega) (by omega)
theorem sshli (nx : NX) (d : BitVec 7) (a : BitVec 7) (c : BitVec 6) : Statement (.sshli nx d a c) := fun _ => head_word _ _ _ _ (by omega) (by omega)
theorem sshri (nx : NX) (d : BitVec 7) (a : BitVec 7) (c : BitVec 6) : Statement (.sshri nx d a c) := fun _ => head_word _ _ _ _ (by omega) (by omega)
theorem ssrai (nx : NX) (d : BitVec 7) (a : BitVec 7) (c : BitVec 6) : Statement (.ssrai nx d a c) := fun _ => head_word _ _ _ _ (by omega) (by omega)
theorem vadd (nx : NX) (d : BitVec 7) (a : BitVec 7) (b : BitVec 7) (x : BitVec 1) : Statement (.vadd nx d a b x) := fun _ => head_word _ _ _ _ (by omega) (by omega)
theorem vsub (nx : NX) (d : BitVec 7) (a : BitVec 7) (b : BitVec 7) (x : BitVec 1) : Statement (.vsub nx d a b x) := fun _ => head_word _ _ _ _ (by omega) (by omega)
theorem vmul (nx : NX) (d : BitVec 7) (a : BitVec 7) (b : BitVec 7) (x : BitVec 1) : Statement (.vmul nx d a b x) := fun _ => head_word _ _ _ _ (by omega) (by omega)
theorem vmad (nx : NX) (d : BitVec 7) (a : BitVec 7) (b : BitVec 7) (x : BitVec 1) : Statement (.vmad nx d a b x) := fun _ => head_word _ _ _ _ (by omega) (by omega)
theorem vmsb (nx : NX) (d : BitVec 7) (a : BitVec 7) (b : BitVec 7) (x : BitVec 1) : Statement (.vmsb nx d a b x) := fun _ => head_word _ _ _ _ (by omega) (by omega)
theorem vmin (nx : NX) (d : BitVec 7) (a : BitVec 7) (b : BitVec 7) (x : BitVec 1) : Statement (.vmin nx d a b x) := fun _ => head_word _ _ _ _ (by omega) (by omega)
theorem vmax (nx : NX) (d : BitVec 7) (a : BitVec 7) (b : BitVec 7) (x : BitVec 1) : Statement (.vmax nx d a b x) := fun _ => head_word _ _ _ _ (by omega) (by omega)
theorem vabs (nx : NX) (d : BitVec 7) (a : BitVec 7) : Statement (.vabs nx d a) := fun _ => head_word _ _ _ _ (by omega) (by omega)
theorem vneg (nx : NX) (d : BitVec 7) (a : BitVec 7) : Statement (.vneg nx d a) := fun _ => head_word _ _ _ _ (by omega) (by omega)
theorem vand (nx : NX) (d : BitVec 7) (a : BitVec 7) (b : BitVec 7) (x : BitVec 1) : Statement (.vand nx d a b x) := fun _ => head_word _ _ _ _ (by omega) (by omega)
theorem vor (nx : NX) (d : BitVec 7) (a : BitVec 7) (b : BitVec 7) (x : BitVec 1) : Statement (.vor nx d a b x) := fun _ => head_word _ _ _ _ (by omega) (by omega)
theorem vxor (nx : NX) (d : BitVec 7) (a : BitVec 7) (b : BitVec 7) (x : BitVec 1) : Statement (.vxor nx d a b x) := fun _ => head_word _ _ _ _ (by omega) (by omega)
theorem vnot (nx : NX) (d : BitVec 7) (a : BitVec 7) : Statement (.vnot nx d a) := fun _ => head_word _ _ _ _ (by omega) (by omega)
theorem vshl (nx : NX) (d : BitVec 7) (a : BitVec 7) (b : BitVec 7) (x : BitVec 1) : Statement (.vshl nx d a b x) := fun _ => head_word _ _ _ _ (by omega) (by omega)
theorem vshr (nx : NX) (d : BitVec 7) (a : BitVec 7) (b : BitVec 7) (x : BitVec 1) : Statement (.vshr nx d a b x) := fun _ => head_word _ _ _ _ (by omega) (by omega)
theorem vsra (nx : NX) (d : BitVec 7) (a : BitVec 7) (b : BitVec 7) (x : BitVec 1) : Statement (.vsra nx d a b x) := fun _ => head_word _ _ _ _ (by omega) (by omega)
theorem vcmp (nx : NX) (c : BitVec 3) (y : BitVec 1) (k : BitVec 3) (a : BitVec 7) (b : BitVec 7) (x : BitVec 1) : Statement (.vcmp nx c y k a b x) := fun _ => head_word _ _ _ _ (by omega) (by omega)
theorem vsel (nx : NX) (d : BitVec 7) (a : BitVec 7) (b : BitVec 7) (x : BitVec 1) : Statement (.vsel nx d a b x) := fun _ => head_word _ _ _ _ (by omega) (by omega)
theorem vmovV (nx : NX) (d : BitVec 7) (a : BitVec 7) : Statement (.vmovV nx d a) := fun _ => head_word _ _ _ _ (by omega) (by omega)
theorem vmovS (nx : NX) (d : BitVec 7) (b : BitVec 7) : Statement (.vmovS nx d b) := fun _ => head_word _ _ _ _ (by omega) (by omega)
theorem vli (nx : NX) (d : BitVec 7) (i : BitVec 15) : Statement (.vli nx d i) := fun _ => head_word _ _ _ _ (by omega) (by omega)
theorem vbcsImm (nx : NX) (d : BitVec 7) (a : BitVec 7) (p : BitVec 5) : Statement (.vbcsImm nx d a p) := fun _ => head_word _ _ _ _ (by omega) (by omega)
theorem vbcsReg (nx : NX) (d : BitVec 7) (a : BitVec 7) (b : BitVec 7) : Statement (.vbcsReg nx d a b) := fun _ => head_word _ _ _ _ (by omega) (by omega)
theorem vdot4 (nx : NX) (d : BitVec 7) (a : BitVec 7) (b : BitVec 7) (x : BitVec 1) : Statement (.vdot4 nx d a b x) := fun _ => head_word _ _ _ _ (by omega) (by omega)
theorem vdot2 (nx : NX) (d : BitVec 7) (a : BitVec 7) (b : BitVec 7) (x : BitVec 1) : Statement (.vdot2 nx d a b x) := fun _ => head_word _ _ _ _ (by omega) (by omega)
theorem vsad (nx : NX) (d : BitVec 7) (a : BitVec 7) (b : BitVec 7) (x : BitVec 1) : Statement (.vsad nx d a b x) := fun _ => head_word _ _ _ _ (by omega) (by omega)
theorem vclz (nx : NX) (d : BitVec 7) (a : BitVec 7) : Statement (.vclz nx d a) := fun _ => head_word _ _ _ _ (by omega) (by omega)
theorem vpopc (nx : NX) (d : BitVec 7) (a : BitVec 7) : Statement (.vpopc nx d a) := fun _ => head_word _ _ _ _ (by omega) (by omega)
theorem vrcp (nx : NX) (d : BitVec 7) (a : BitVec 7) : Statement (.vrcp nx d a) := fun _ => head_word _ _ _ _ (by omega) (by omega)
theorem vrsq (nx : NX) (d : BitVec 7) (a : BitVec 7) : Statement (.vrsq nx d a) := fun _ => head_word _ _ _ _ (by omega) (by omega)
theorem vexp2 (nx : NX) (d : BitVec 7) (a : BitVec 7) : Statement (.vexp2 nx d a) := fun _ => head_word _ _ _ _ (by omega) (by omega)
theorem vlog2 (nx : NX) (d : BitVec 7) (a : BitVec 7) : Statement (.vlog2 nx d a) := fun _ => head_word _ _ _ _ (by omega) (by omega)
theorem vsin (nx : NX) (d : BitVec 7) (a : BitVec 7) : Statement (.vsin nx d a) := fun _ => head_word _ _ _ _ (by omega) (by omega)
theorem vcos (nx : NX) (d : BitVec 7) (a : BitVec 7) : Statement (.vcos nx d a) := fun _ => head_word _ _ _ _ (by omega) (by omega)
theorem vcvt (nx : NX) (d : BitVec 7) (a : BitVec 7) (sel : BitVec 3) (t : BitVec 4) : Statement (.vcvt nx d a sel t) := fun _ => head_word _ _ _ _ (by omega) (by omega)
theorem vpack (nx : NX) (d : BitVec 7) (a : BitVec 7) (b : BitVec 7) (x : BitVec 1) : Statement (.vpack nx d a b x) := fun _ => head_word _ _ _ _ (by omega) (by omega)
theorem vunpk (nx : NX) (d : BitVec 7) (a : BitVec 7) : Statement (.vunpk nx d a) := fun _ => head_word _ _ _ _ (by omega) (by omega)
theorem vrq (nx : NX) (d : BitVec 7) (a : BitVec 7) (b : BitVec 7) (x : BitVec 1) : Statement (.vrq nx d a b x) := fun _ => head_word _ _ _ _ (by omega) (by omega)
theorem vrshr (nx : NX) (d : BitVec 7) (a : BitVec 7) (b : BitVec 7) (x : BitVec 1) : Statement (.vrshr nx d a b x) := fun _ => head_word _ _ _ _ (by omega) (by omega)
theorem vscl (nx : NX) (d : BitVec 7) (a : BitVec 7) (b : BitVec 7) (x : BitVec 1) : Statement (.vscl nx d a b x) := fun _ => head_word _ _ _ _ (by omega) (by omega)
theorem vshfl (nx : NX) (d : BitVec 7) (a : BitVec 7) (b : BitVec 7) (x : BitVec 1) : Statement (.vshfl nx d a b x) := fun _ => head_word _ _ _ _ (by omega) (by omega)
theorem vshfli (nx : NX) (d : BitVec 7) (a : BitVec 7) (m : BitVec 3) (c : BitVec 5) : Statement (.vshfli nx d a m c) := fun _ => head_word _ _ _ _ (by omega) (by omega)
theorem vred (nx : NX) (d : BitVec 7) (a : BitVec 7) (o : BitVec 3) : Statement (.vred nx d a o) := fun _ => head_word _ _ _ _ (by omega) (by omega)
theorem vscan (nx : NX) (d : BitVec 7) (a : BitVec 7) (e : BitVec 1) (o : BitVec 3) : Statement (.vscan nx d a e o) := fun _ => head_word _ _ _ _ (by omega) (by omega)
theorem vprune (nx : NX) (d : BitVec 7) (a : BitVec 7) (b : BitVec 7) (x : BitVec 1) : Statement (.vprune nx d a b x) := fun _ => head_word _ _ _ _ (by omega) (by omega)
theorem vspdot (nx : NX) (d : BitVec 7) (a : BitVec 7) (b : BitVec 7) (x : BitVec 1) : Statement (.vspdot nx d a b x) := fun _ => head_word _ _ _ _ (by omega) (by omega)
theorem vnzc (nx : NX) (d : BitVec 7) (a : BitVec 7) : Statement (.vnzc nx d a) := fun _ => head_word _ _ _ _ (by omega) (by omega)
theorem vnzb (nx : NX) (d : BitVec 7) (a : BitVec 7) : Statement (.vnzb nx d a) := fun _ => head_word _ _ _ _ (by omega) (by omega)
theorem vterm (nx : NX) (d : BitVec 7) (a : BitVec 7) : Statement (.vterm nx d a) := fun _ => head_word _ _ _ _ (by omega) (by omega)
theorem vlane (nx : NX) (d : BitVec 7) (sel : BitVec 7) : Statement (.vlane nx d sel) := fun _ => head_word _ _ _ _ (by omega) (by omega)
theorem kand (nx : NX) (d : BitVec 7) (a : BitVec 7) (b : BitVec 7) (x : BitVec 1) : Statement (.kand nx d a b x) := fun _ => head_word _ _ _ _ (by omega) (by omega)
theorem kor (nx : NX) (d : BitVec 7) (a : BitVec 7) (b : BitVec 7) (x : BitVec 1) : Statement (.kor nx d a b x) := fun _ => head_word _ _ _ _ (by omega) (by omega)
theorem kxor (nx : NX) (d : BitVec 7) (a : BitVec 7) (b : BitVec 7) (x : BitVec 1) : Statement (.kxor nx d a b x) := fun _ => head_word _ _ _ _ (by omega) (by omega)
theorem knot (nx : NX) (d : BitVec 7) (a : BitVec 7) : Statement (.knot nx d a) := fun _ => head_word _ _ _ _ (by omega) (by omega)
theorem kmov (nx : NX) (d : BitVec 7) (a : BitVec 7) : Statement (.kmov nx d a) := fun _ => head_word _ _ _ _ (by omega) (by omega)
theorem kany (nx : NX) (d : BitVec 7) (a : BitVec 7) : Statement (.kany nx d a) := fun _ => head_word _ _ _ _ (by omega) (by omega)
theorem kall (nx : NX) (d : BitVec 7) (a : BitVec 7) : Statement (.kall nx d a) := fun _ => head_word _ _ _ _ (by omega) (by omega)
theorem kcnt (nx : NX) (d : BitVec 7) (a : BitVec 7) : Statement (.kcnt nx d a) := fun _ => head_word _ _ _ _ (by omega) (by omega)
theorem kbits (nx : NX) (d : BitVec 7) (a : BitVec 7) : Statement (.kbits nx d a) := fun _ => head_word _ _ _ _ (by omega) (by omega)
theorem kfromv (nx : NX) (d : BitVec 7) (a : BitVec 7) : Statement (.kfromv nx d a) := fun _ => head_word _ _ _ _ (by omega) (by omega)
theorem ktov (nx : NX) (d : BitVec 7) (a : BitVec 7) : Statement (.ktov nx d a) := fun _ => head_word _ _ _ _ (by omega) (by omega)
theorem ld (nx : NX) (d : BitVec 7) (a : BitVec 7) (b : BitVec 7) : Statement (.ld nx d a b) := fun _ => head_word _ _ _ _ (by omega) (by omega)
theorem st (nx : NX) (d : BitVec 7) (a : BitVec 7) (b : BitVec 7) : Statement (.st nx d a b) := fun _ => head_word _ _ _ _ (by omega) (by omega)
theorem ldi (nx : NX) (d : BitVec 7) (a : BitVec 7) (i : BitVec 8) : Statement (.ldi nx d a i) := fun _ => head_word _ _ _ _ (by omega) (by omega)
theorem sti (nx : NX) (d : BitVec 7) (a : BitVec 7) (i : BitVec 8) : Statement (.sti nx d a i) := fun _ => head_word _ _ _ _ (by omega) (by omega)
theorem ldt (nx : NX) (d : BitVec 7) (a : BitVec 7) (b : BitVec 7) : Statement (.ldt nx d a b) := fun _ => head_word _ _ _ _ (by omega) (by omega)
theorem stt (nx : NX) (d : BitVec 7) (a : BitVec 7) (b : BitVec 7) : Statement (.stt nx d a b) := fun _ => head_word _ _ _ _ (by omega) (by omega)
theorem ldb (nx : NX) (d : BitVec 7) (a : BitVec 7) (b : BitVec 7) : Statement (.ldb nx d a b) := fun _ => head_word _ _ _ _ (by omega) (by omega)
theorem ldw (nx : NX) (d : BitVec 7) (a : BitVec 7) (b : BitVec 7) : Statement (.ldw nx d a b) := fun _ => head_word _ _ _ _ (by omega) (by omega)
theorem stw (nx : NX) (d : BitVec 7) (a : BitVec 7) (b : BitVec 7) : Statement (.stw nx d a b) := fun _ => head_word _ _ _ _ (by omega) (by omega)
theorem aadd (nx : NX) (d : BitVec 7) (a : BitVec 7) (b : BitVec 7) : Statement (.aadd nx d a b) := fun _ => head_word _ _ _ _ (by omega) (by omega)
theorem amin (nx : NX) (d : BitVec 7) (a : BitVec 7) (b : BitVec 7) : Statement (.amin nx d a b) := fun _ => head_word _ _ _ _ (by omega) (by omega)
theorem amax (nx : NX) (d : BitVec 7) (a : BitVec 7) (b : BitVec 7) : Statement (.amax nx d a b) := fun _ => head_word _ _ _ _ (by omega) (by omega)
theorem aand (nx : NX) (d : BitVec 7) (a : BitVec 7) (b : BitVec 7) : Statement (.aand nx d a b) := fun _ => head_word _ _ _ _ (by omega) (by omega)
theorem aor (nx : NX) (d : BitVec 7) (a : BitVec 7) (b : BitVec 7) : Statement (.aor nx d a b) := fun _ => head_word _ _ _ _ (by omega) (by omega)
theorem axor (nx : NX) (d : BitVec 7) (a : BitVec 7) (b : BitVec 7) : Statement (.axor nx d a b) := fun _ => head_word _ _ _ _ (by omega) (by omega)
theorem axch (nx : NX) (d : BitVec 7) (a : BitVec 7) (b : BitVec 7) : Statement (.axch nx d a b) := fun _ => head_word _ _ _ _ (by omega) (by omega)
theorem acas (nx : NX) (d : BitVec 7) (a : BitVec 7) (b : BitVec 7) : Statement (.acas nx d a b) := fun _ => head_word _ _ _ _ (by omega) (by omega)
theorem rdadd (nx : NX) (d : BitVec 7) (a : BitVec 7) (b : BitVec 7) : Statement (.rdadd nx d a b) := fun _ => head_word _ _ _ _ (by omega) (by omega)
theorem rdmin (nx : NX) (d : BitVec 7) (a : BitVec 7) (b : BitVec 7) : Statement (.rdmin nx d a b) := fun _ => head_word _ _ _ _ (by omega) (by omega)
theorem rdmax (nx : NX) (d : BitVec 7) (a : BitVec 7) (b : BitVec 7) : Statement (.rdmax nx d a b) := fun _ => head_word _ _ _ _ (by omega) (by omega)
theorem rdand (nx : NX) (d : BitVec 7) (a : BitVec 7) (b : BitVec 7) : Statement (.rdand nx d a b) := fun _ => head_word _ _ _ _ (by omega) (by omega)
theorem rdor (nx : NX) (d : BitVec 7) (a : BitVec 7) (b : BitVec 7) : Statement (.rdor nx d a b) := fun _ => head_word _ _ _ _ (by omega) (by omega)
theorem rdxor (nx : NX) (d : BitVec 7) (a : BitVec 7) (b : BitVec 7) : Statement (.rdxor nx d a b) := fun _ => head_word _ _ _ _ (by omega) (by omega)
theorem rdx (nx : NX) (d : BitVec 7) (a : BitVec 7) (b : BitVec 7) : Statement (.rdx nx d a b) := fun _ => head_word _ _ _ _ (by omega) (by omega)
theorem fnc (nx : NX) (d : BitVec 7) (i : BitVec 8) : Statement (.fnc nx d i) := fun _ => head_word _ _ _ _ (by omega) (by omega)
theorem fwait (nx : NX) (a : BitVec 7) : Statement (.fwait nx a) := fun _ => head_word _ _ _ _ (by omega) (by omega)
theorem pref (nx : NX) (d : BitVec 7) (a : BitVec 7) (b : BitVec 7) : Statement (.pref nx d a b) := fun _ => head_word _ _ _ _ (by omega) (by omega)
theorem bara (nx : NX) (a : BitVec 7) : Statement (.bara nx a) := fun _ => head_word _ _ _ _ (by omega) (by omega)
theorem barw (nx : NX) (a : BitVec 7) : Statement (.barw nx a) := fun _ => head_word _ _ _ _ (by omega) (by omega)
theorem baraw (nx : NX) (a : BitVec 7) : Statement (.baraw nx a) := fun _ => head_word _ _ _ _ (by omega) (by omega)
theorem barx (nx : NX) (a : BitVec 7) (b : BitVec 7) : Statement (.barx nx a b) := fun _ => head_word _ _ _ _ (by omega) (by omega)
theorem bari (nx : NX) (a : BitVec 7) (b : BitVec 7) : Statement (.bari nx a b) := fun _ => head_word _ _ _ _ (by omega) (by omega)
theorem qpush (nx : NX) (d : BitVec 7) (a : BitVec 7) : Statement (.qpush nx d a) := fun _ => head_word _ _ _ _ (by omega) (by omega)
theorem qpop (nx : NX) (d : BitVec 7) (a : BitVec 7) : Statement (.qpop nx d a) := fun _ => head_word _ _ _ _ (by omega) (by omega)
theorem qpeek (nx : NX) (d : BitVec 7) (a : BitVec 7) (b : BitVec 7) : Statement (.qpeek nx d a b) := fun _ => head_word _ _ _ _ (by omega) (by omega)
theorem qcfg (nx : NX) (a : BitVec 7) (b : BitVec 7) : Statement (.qcfg nx a b) := fun _ => head_word _ _ _ _ (by omega) (by omega)
theorem gset (nx : NX) (a : BitVec 7) : Statement (.gset nx a) := fun _ => head_word _ _ _ _ (by omega) (by omega)
theorem gclr (nx : NX) (a : BitVec 7) : Statement (.gclr nx a) := fun _ => head_word _ _ _ _ (by omega) (by omega)
theorem gclrUnres (nx : NX) (a : BitVec 7) : Statement (.gclrUnres nx a) := fun _ => head_word _ _ _ _ (by omega) (by omega)
theorem estart (nx : NX) (a : BitVec 7) : Statement (.estart nx a) := fun _ => head_word _ _ _ _ (by omega) (by omega)
theorem ejoin (nx : NX) (d : BitVec 7) : Statement (.ejoin nx d) := fun _ => head_word _ _ _ _ (by omega) (by omega)
theorem launch (nx : NX) (d : BitVec 7) (a : BitVec 7) : Statement (.launch nx d a) := fun _ => head_word _ _ _ _ (by omega) (by omega)
theorem sfork (nx : NX) (a : BitVec 7) (b : BitVec 7) : Statement (.sfork nx a b) := fun _ => head_word _ _ _ _ (by omega) (by omega)
theorem sreward (nx : NX) (d : BitVec 7) (a : BitVec 7) : Statement (.sreward nx d a) := fun _ => head_word _ _ _ _ (by omega) (by omega)
theorem sbar (nx : NX) : Statement (.sbar nx) := fun _ => head_word _ _ _ _ (by omega) (by omega)
theorem scancel (nx : NX) (d : BitVec 7) (a : BitVec 7) : Statement (.scancel nx d a) := fun _ => head_word _ _ _ _ (by omega) (by omega)
theorem sginfo (nx : NX) (d : BitVec 7) : Statement (.sginfo nx d) := fun _ => head_word _ _ _ _ (by omega) (by omega)
theorem sgabs (nx : NX) (d : BitVec 7) : Statement (.sgabs nx d) := fun _ => head_word _ _ _ _ (by omega) (by omega)
theorem sgadv (nx : NX) (a : BitVec 7) : Statement (.sgadv nx a) := fun _ => head_word _ _ _ _ (by omega) (by omega)
theorem mxg (nx : NX) (sel : BitVec 1) (d : BitVec 2) (g : BitVec 3) : Statement (.mxg nx sel d g) := fun _ => head_word _ _ _ _ (by omega) (by omega)
theorem mx (nx : NX) (c : BitVec 2) (sel : BitVec 5) (a : BitVec 4) (b : BitVec 4) (v : BitVec 5) (q : BitVec 1) (r : BitVec 1) : Statement (.mx nx c sel a b v q r) := fun _ => head_word _ _ _ _ (by omega) (by omega)
theorem mxbound (nx : NX) (d : BitVec 7) (a : BitVec 7) : Statement (.mxbound nx d a) := fun _ => head_word _ _ _ _ (by omega) (by omega)
theorem mxz (nx : NX) (d : BitVec 7) : Statement (.mxz nx d) := fun _ => head_word _ _ _ _ (by omega) (by omega)
theorem acst (nx : NX) (d : BitVec 7) (a : BitVec 7) (b : BitVec 7) : Statement (.acst nx d a b) := fun _ => head_word _ _ _ _ (by omega) (by omega)
theorem acld (nx : NX) (d : BitVec 7) (a : BitVec 7) (b : BitVec 7) : Statement (.acld nx d a b) := fun _ => head_word _ _ _ _ (by omega) (by omega)
theorem hclaim (nx : NX) (d : BitVec 7) (x : BitVec 1) : Statement (.hclaim nx d x) := fun _ => head_word _ _ _ _ (by omega) (by omega)
theorem hrel (nx : NX) (a : BitVec 7) : Statement (.hrel nx a) := fun _ => head_word _ _ _ _ (by omega) (by omega)
theorem cpldSlot (nx : NX) (d : BitVec 7) (a : BitVec 7) (b : BitVec 7) : Statement (.cpldSlot nx d a b) := fun _ => head_word _ _ _ _ (by omega) (by omega)
theorem cpldSp (nx : NX) (a : BitVec 7) (b : BitVec 7) : Statement (.cpldSp nx a b) := fun _ => head_word _ _ _ _ (by omega) (by omega)
theorem cpst (nx : NX) (a : BitVec 7) (b : BitVec 7) : Statement (.cpst nx a b) := fun _ => head_word _ _ _ _ (by omega) (by omega)
theorem cpss (nx : NX) (a : BitVec 7) (b : BitVec 7) : Statement (.cpss nx a b) := fun _ => head_word _ _ _ _ (by omega) (by omega)
theorem bseal (nx : NX) (d : BitVec 7) : Statement (.bseal nx d) := fun _ => head_word _ _ _ _ (by omega) (by omega)
theorem bsealStatus (nx : NX) (d : BitVec 7) (a : BitVec 7) : Statement (.bsealStatus nx d a) := fun _ => head_word _ _ _ _ (by omega) (by omega)
theorem bwaitImm (nx : NX) (i : BitVec 15) : Statement (.bwaitImm nx i) := fun _ => head_word _ _ _ _ (by omega) (by omega)
theorem bwaitReg (nx : NX) (a : BitVec 6) : Statement (.bwaitReg nx a) := fun _ => head_word _ _ _ _ (by omega) (by omega)
theorem lease (nx : NX) (d : BitVec 7) (a : BitVec 7) (b : BitVec 7) : Statement (.lease nx d a b) := fun _ => head_word _ _ _ _ (by omega) (by omega)
theorem lrel (nx : NX) (a : BitVec 7) : Statement (.lrel nx a) := fun _ => head_word _ _ _ _ (by omega) (by omega)
theorem ecmd (nx : NX) (d : BitVec 7) (a : BitVec 7) (b : BitVec 7) : Statement (.ecmd nx d a b) := fun _ => head_word _ _ _ _ (by omega) (by omega)
theorem swbind (nx : NX) (a : BitVec 7) (b : BitVec 7) : Statement (.swbind nx a b) := fun _ => head_word _ _ _ _ (by omega) (by omega)
theorem swunb (nx : NX) (a : BitVec 7) : Statement (.swunb nx a) := fun _ => head_word _ _ _ _ (by omega) (by omega)
theorem eadd (nx : NX) (d : BitVec 7) (a : BitVec 7) (b : BitVec 7) : Statement (.eadd nx d a b) := fun _ => head_word _ _ _ _ (by omega) (by omega)
theorem esub (nx : NX) (d : BitVec 7) (a : BitVec 7) (b : BitVec 7) : Statement (.esub nx d a b) := fun _ => head_word _ _ _ _ (by omega) (by omega)
theorem eli (nx : NX) (d : BitVec 7) (i : BitVec 15) : Statement (.eli nx d i) := fun _ => head_word _ _ _ _ (by omega) (by omega)
theorem elih (nx : NX) (d : BitVec 7) (i : BitVec 15) : Statement (.elih nx d i) := fun _ => head_word _ _ _ _ (by omega) (by omega)
theorem emov (nx : NX) (d : BitVec 7) (a : BitVec 7) : Statement (.emov nx d a) := fun _ => head_word _ _ _ _ (by omega) (by omega)
theorem eshl (nx : NX) (d : BitVec 7) (a : BitVec 7) (c : BitVec 6) : Statement (.eshl nx d a c) := fun _ => head_word _ _ _ _ (by omega) (by omega)
theorem eshr (nx : NX) (d : BitVec 7) (a : BitVec 7) (c : BitVec 6) : Statement (.eshr nx d a c) := fun _ => head_word _ _ _ _ (by omega) (by omega)
theorem xjz (nx : NX) (d : BitVec 7) (i : BitVec 15) : Statement (.xjz nx d i) := fun _ => head_word _ _ _ _ (by omega) (by omega)
theorem xjnz (nx : NX) (d : BitVec 7) (i : BitVec 15) : Statement (.xjnz nx d i) := fun _ => head_word _ _ _ _ (by omega) (by omega)
theorem efroms (nx : NX) (d : BitVec 7) (i : BitVec 15) : Statement (.efroms nx d i) := fun _ => head_word _ _ _ _ (by omega) (by omega)
theorem csrr (nx : NX) (d : BitVec 7) (i : BitVec 15) : Statement (.csrr nx d i) := fun _ => head_word _ _ _ _ (by omega) (by omega)
theorem csrw (nx : NX) (d : BitVec 7) (i : BitVec 15) : Statement (.csrw nx d i) := fun _ => head_word _ _ _ _ (by omega) (by omega)
theorem cntr (nx : NX) (d : BitVec 7) (i : BitVec 15) : Statement (.cntr nx d i) := fun _ => head_word _ _ _ _ (by omega) (by omega)
theorem clk (nx : NX) (d : BitVec 7) (i : BitVec 15) : Statement (.clk nx d i) := fun _ => head_word _ _ _ _ (by omega) (by omega)
theorem seed (nx : NX) (a : BitVec 7) : Statement (.seed nx a) := fun _ => head_word _ _ _ _ (by omega) (by omega)
theorem reservedOpcode (w : BitVec 32) : Statement (.reservedOpcode w) := fun _ => rfl
theorem formerBuild : Statement (.formerBuild) := fun _ => rfl
theorem rwaitTimeout : Statement (.rwaitTimeout) := fun _ => rfl
theorem guardedCommandRelease : Statement (.guardedCommandRelease) := fun _ => rfl
theorem streamEnded : Statement (.streamEnded) := fun _ => rfl
theorem gangEnd : Statement (.gangEnd) := fun _ => rfl
theorem packetTake : Statement (.packetTake) := fun _ => rfl
theorem gangPlace : Statement (.gangPlace) := fun _ => rfl
theorem childGridStart : Statement (.childGridStart) := fun _ => rfl
theorem replayResend : Statement (.replayResend) := fun _ => rfl
theorem sramSplitReclaim : Statement (.sramSplitReclaim) := fun _ => rfl
theorem latchLoadComplete : Statement (.latchLoadComplete) := fun _ => rfl
theorem mxStepStart : Statement (.mxStepStart) := fun _ => rfl
theorem mxStepComplete : Statement (.mxStepComplete) := fun _ => rfl
theorem cpldItemComplete : Statement (.cpldItemComplete) := fun _ => rfl
theorem cpstItemComplete : Statement (.cpstItemComplete) := fun _ => rfl
theorem cpssItemComplete : Statement (.cpssItemComplete) := fun _ => rfl
theorem acstItemComplete : Statement (.acstItemComplete) := fun _ => rfl
theorem acldItemComplete : Statement (.acldItemComplete) := fun _ => rfl
theorem swbindItemComplete : Statement (.swbindItemComplete) := fun _ => rfl
theorem swunbItemComplete : Statement (.swunbItemComplete) := fun _ => rfl
theorem fenceComplete : Statement (.fenceComplete) := fun _ => rfl
theorem logicalTimeAdvance : Statement (.logicalTimeAdvance) := fun _ => rfl
theorem holderDrain : Statement (.holderDrain) := fun _ => rfl
theorem pageTableWalk : Statement (.pageTableWalk) := fun _ => rfl
theorem leaseGrant : Statement (.leaseGrant) := fun _ => rfl
theorem leaseHoldExpire : Statement (.leaseHoldExpire) := fun _ => rfl
theorem lrelTakeEffect : Statement (.lrelTakeEffect) := fun _ => rfl
theorem engineLit : Statement (.engineLit) := fun _ => rfl
theorem engineDimIdle : Statement (.engineDimIdle) := fun _ => rfl
theorem engineLingerExpire : Statement (.engineLingerExpire) := fun _ => rfl
theorem engineDarkIdle : Statement (.engineDarkIdle) := fun _ => rfl
theorem xfItemComplete : Statement (.xfItemComplete) := fun _ => rfl
theorem mgItemComplete : Statement (.mgItemComplete) := fun _ => rfl
theorem dcItemComplete : Statement (.dcItemComplete) := fun _ => rfl
theorem spItemComplete : Statement (.spItemComplete) := fun _ => rfl
theorem clItemComplete : Statement (.clItemComplete) := fun _ => rfl
theorem ixItemComplete : Statement (.ixItemComplete) := fun _ => rfl
theorem sgDeadline : Statement (.sgDeadline) := fun _ => rfl
theorem tlbiRange : Statement (.tlbiRange) := fun _ => rfl
theorem tlbiContext : Statement (.tlbiContext) := fun _ => rfl
theorem tlbiAll : Statement (.tlbiAll) := fun _ => rfl
theorem tlbInvalidateComplete : Statement (.tlbInvalidateComplete) := fun _ => rfl
theorem fltrespReplay : Statement (.fltrespReplay) := fun _ => rfl
theorem fltrespAbort : Statement (.fltrespAbort) := fun _ => rfl
theorem faultRecordWrite : Statement (.faultRecordWrite) := fun _ => rfl
theorem space1BlockWrite : Statement (.space1BlockWrite) := fun _ => rfl
theorem cmpcfgWrite : Statement (.cmpcfgWrite) := fun _ => rfl
theorem reloc : Statement (.reloc) := fun _ => rfl
theorem cmpcmdRead : Statement (.cmpcmdRead) := fun _ => rfl
theorem relocDone : Statement (.relocDone) := fun _ => rfl
theorem decay : Statement (.decay) := fun _ => rfl
theorem seedw : Statement (.seedw) := fun _ => rfl
theorem heatDecayComplete : Statement (.heatDecayComplete) := fun _ => rfl
theorem keyLoad : Statement (.keyLoad) := fun _ => rfl
theorem keyFlush : Statement (.keyFlush) := fun _ => rfl
theorem keyClear : Statement (.keyClear) := fun _ => rfl
theorem keyCommandDone : Statement (.keyCommandDone) := fun _ => rfl
theorem partmapWrite : Statement (.partmapWrite) := fun _ => rfl
theorem create : Statement (.create) := fun _ => rfl
theorem start : Statement (.start) := fun _ => rfl
theorem save : Statement (.save) := fun _ => rfl
theorem swap : Statement (.swap) := fun _ => rfl
theorem prestage : Statement (.prestage) := fun _ => rfl
theorem abort : Statement (.abort) := fun _ => rfl
theorem fltactEnd : Statement (.fltactEnd) := fun _ => rfl
theorem fltactResume : Statement (.fltactResume) := fun _ => rfl
theorem destroy : Statement (.destroy) := fun _ => rfl
theorem dieoff : Statement (.dieoff) := fun _ => rfl
theorem dieon : Statement (.dieon) := fun _ => rfl
theorem contextCommandComplete : Statement (.contextCommandComplete) := fun _ => rfl
theorem lqctlWrite : Statement (.lqctlWrite) := fun _ => rfl
theorem lqputWrite : Statement (.lqputWrite) := fun _ => rfl
theorem completionRecordWrite : Statement (.completionRecordWrite) := fun _ => rfl
theorem dfbbaseWrite : Statement (.dfbbaseWrite) := fun _ => rfl
theorem carveWrite : Statement (.carveWrite) := fun _ => rfl
theorem orderlyDarkTimeout : Statement (.orderlyDarkTimeout) := fun _ => rfl
theorem dieAbruptLoss : Statement (.dieAbruptLoss) := fun _ => rfl
theorem rglInterval : Statement (.rglInterval) := fun _ => rfl
theorem clpwrWrite : Statement (.clpwrWrite) := fun _ => rfl
theorem clusterGate : Statement (.clusterGate) := fun _ => rfl
theorem clusterUngate : Statement (.clusterUngate) := fun _ => rfl
theorem boostInterval : Statement (.boostInterval) := fun _ => rfl
theorem hotSpotMigration : Statement (.hotSpotMigration) := fun _ => rfl
theorem thermalEmergency : Statement (.thermalEmergency) := fun _ => rfl
theorem watchdog : Statement (.watchdog) := fun _ => rfl
theorem watchdogUncleared : Statement (.watchdogUncleared) := fun _ => rfl
theorem powerOn : Statement (.powerOn) := fun _ => rfl
theorem perst : Statement (.perst) := fun _ => rfl
theorem bringupStageComplete : Statement (.bringupStageComplete) := fun _ => rfl
theorem stageLimitExpire : Statement (.stageLimitExpire) := fun _ => rfl
theorem retrain : Statement (.retrain) := fun _ => rfl
theorem flitCrcReplay : Statement (.flitCrcReplay) := fun _ => rfl
theorem linkRetrainComplete : Statement (.linkRetrainComplete) := fun _ => rfl
theorem sensors : Statement (.sensors) := fun _ => rfl
theorem logread : Statement (.logread) := fun _ => rfl
theorem bootinfo : Statement (.bootinfo) := fun _ => rfl
theorem updopen : Statement (.updopen) := fun _ => rfl
theorem updwrite : Statement (.updwrite) := fun _ => rfl
theorem updclose : Statement (.updclose) := fun _ => rfl
theorem activate : Statement (.activate) := fun _ => rfl
theorem confirm : Statement (.confirm) := fun _ => rfl
theorem svncommit : Statement (.svncommit) := fun _ => rfl
theorem pkgreset : Statement (.pkgreset) := fun _ => rfl
theorem trialTimeout : Statement (.trialTimeout) := fun _ => rfl
theorem ambRestart : Statement (.ambRestart) := fun _ => rfl
theorem pldmFirmwareUpdate : Statement (.pldmFirmwareUpdate) := fun _ => rfl
theorem pldmMonitoring : Statement (.pldmMonitoring) := fun _ => rfl
theorem spdmMeasurements : Statement (.spdmMeasurements) := fun _ => rfl
theorem spdmMldsaSignature : Statement (.spdmMldsaSignature) := fun _ => rfl
theorem sensorSample : Statement (.sensorSample) := fun _ => rfl
theorem logCoalesceWindow : Statement (.logCoalesceWindow) := fun _ => rfl
theorem patrolScrub : Statement (.patrolScrub) := fun _ => rfl
theorem hbmPatrolScrub : Statement (.hbmPatrolScrub) := fun _ => rfl
theorem registerWrite : Statement (.registerWrite) := fun _ => rfl
theorem compressRecord : Statement (.compressRecord) := fun _ => rfl
theorem lqgetRead : Statement (.lqgetRead) := fun _ => rfl
theorem watchdogCleared : Statement (.watchdogCleared) := fun _ => rfl
theorem powerLoss : Statement (.powerLoss) := fun _ => rfl

end Sys2Proof.Laws.WordCarriesOpcode
end

