-- ==== Sys2Proof/Laws/Turns.lean ====
section
/-! SUPPORT. What a step and an issue can do, said once. -/
namespace Sys2Proof.Machine

/-- With nothing on the agenda a stream that would fall behind its steps takes its turn, or one slate cycle passes. -/
theorem step_idle {s : State} (h : s.agenda = []) : step s = idle s := by simp [step, h]

theorem idle_passes {s : State} (h : dueStream s = none) : idle s = .next (pass s 1) := by simp [idle, h]

theorem idle_issues {s : State} {g c : Nat} (h : dueStream s = some (g, c)) : idle s = issueFirst s (streamCands s g c) := by
  simp [idle, h]

/-- A cycle does not pass before a stream that would fall behind its steps has issued. -/
theorem pass_waits {s : State} {n : Nat} (hn : n ≠ 0) (h : (dueStream s).isSome = true) : pass s n = s := by simp [pass, hn, h]

/-- Else the turn at the head is taken. -/
theorem step_turn {s : State} {x : Turn} {r : List Turn} (h : s.agenda = x :: r) : step s = takeTurn { s with agenda := r } x := by
  simp [step, h]

/-- An issue leaves the state as it is, or it is that of one candidate which could be loaded and did not stall. -/
theorem issueFirst_cases {s t : State} {cs : List Cand} (h : issueFirst s cs = .next t) :
    t = s ∨ ∃ c ∈ cs, ∃ s1 s2, load s c = some s1 ∧ attempt s1 = .next s2 ∧ s2.stalled = false ∧ t = unload s2 := by
  induction cs with
  | nil => exact .inl (Host.Outcome.next.inj h).symm
  | cons c r ih =>
    suffices later : issueFirst s r = .next t ∨ ∃ s1 s2, load s c = some s1 ∧ attempt s1 = .next s2 ∧ s2.stalled = false ∧ t = unload s2 by
      rcases later with g | g
      · exact (ih g).imp_right fun ⟨d, hd, x⟩ => ⟨d, List.mem_cons_of_mem c hd, x⟩
      · exact .inr ⟨c, List.mem_cons_self, g⟩
    unfold issueFirst at h
    cases hl : load s c with
    | none => rw [hl] at h; exact .inl h
    | some s1 =>
      rw [hl] at h
      cases ha : attempt s1 with
      | next s2 =>
        simp only [ha] at h
        by_cases hs : s2.stalled = true
        · exact .inl (by simpa [hs] using h)
        · exact .inr ⟨s1, s2, rfl, ha, by simpa using hs, by simpa [hs] using h.symm⟩
      | fault f => simp [ha] at h
      | refused f => simp [ha] at h

/-- An issue keeps the form of memory where an attempt of a loaded issuer keeps it. -/
theorem issueFirst_formed {s t : State} {cs : List Cand} (h : issueFirst s cs = .next t) (hs : s.formed)
    (ha : ∀ c s1 s2, load s c = some s1 → attempt s1 = .next s2 → (unload s2).formed) : t.formed := by
  rcases issueFirst_cases h with rfl | ⟨c, _, s1, s2, hl, hx, _, rfl⟩
  · exact hs
  · exact ha c s1 s2 hl hx

end Sys2Proof.Machine
end

