-- ==== Sys2Proof/Tests/Slice0.lean ====
section
/-! SUPPORT. Tests: words written out from the encodings and what they decode to, the terms that well-formedness refuses,
single steps whose results the manual states, and for each statement a state and operands that meet its hypotheses. -/
namespace Sys2Proof.Tests
open Sys2Proof Sys2Proof.Machine

-- One theorem after another: each thread that checks one takes a large stack.
set_option Elab.async false

/-! ## Helpers -/

/-- The word decodes to the instruction, whose encoding is the word. -/
def reads (l : List (Word × Instr)) : Bool := l.all (fun x =>
  (match decode x.1 [] with
   | .ok i => decide (i = x.2)
   | .error _ => false) && decide (encode x.2 = [x.1]))

/-- A program of one word, with its issuer in execution. -/
def loaded (w : Word) (c : Cand) : State := (load (placeProgram State.reset [w]) c).getD .reset

/-- A launched group at its first instruction, in execution. -/
def gs : State := loaded 0x00400000 ⟨0, 0, some (0, 0)⟩

/-- An engine stream at its first instruction, in execution. -/
def es : State := loaded 0x30800000 ⟨0, 0, none⟩

/-- The group with another MODE, or with a scalar register written. -/
def gsM (m : BitVec 32) : State := setMode gs m
def gsS (r : Nat) (v : BitVec 64) : State := sput gs r v

/-- The next state of an instruction, and a field of it. -/
def nextOf (o : Out) : State :=
  match o with
  | .next t => t
  | _ => .reset

/-- The cause that stopped the split in execution. -/
def stopCause (s : State) : Option Cause := s.split.stop.map (·.2)

/-! ## Decoding: for each constructor a word put together from the opcode map of R168 and the fields of its entry -/

theorem test_decode_control : reads [
    (0x00400000, .nop .seq),
    (0x4086D6F2, .xj .loop 1 186098),
    (0x80CAD6F3, .xju .xfer 2 186099),
    (0xC1035BB3, .xcall .fin 220083),
    (0x01400000, .xret .seq),
    (0x41803500, .xjr .loop 53),
    (0x82005BB6, .lpsImm .xfer 23478),
    (0xC23B8000, .lpsReg .fin 55),
    (0x025C7900, .rwait .seq 56 121),
    (0x429CD6FA, .setmode .loop 57 22266),
    (0x82C03A00, .setmodev .xfer 58),
    (0xC31D8000, .getmode .fin 59),
    (0x034B5BBC, .trap .seq 744380),
    (0x438B5BBD, .brk .loop 744381),
    (0x83C00000, .yield .xfer)] = true := by decide +kernel

theorem test_decode_scalar : reads [
    (0xC41F80A6, .sadd .fin 63 0 83),
    (0x046001A8, .ssub .seq 64 1 84),
    (0x44A082AA, .smul .loop 65 2 85),
    (0x84E103AC, .smulh .xfer 66 3 86 0),
    (0xC52184AE, .sdiv .fin 67 4 87 0),
    (0x056205B0, .srem .seq 68 5 88 0),
    (0x45A286B2, .sand .loop 69 6 89),
    (0x85E307B4, .sor .xfer 70 7 90),
    (0xC62388B6, .sxor .fin 71 8 91),
    (0x066409B8, .sshl .seq 72 9 92),
    (0x46A48ABA, .sshr .loop 73 10 93),
    (0x86E50BBC, .ssra .xfer 74 11 94),
    (0xC7258CBE, .smin .fin 75 12 95 0),
    (0x07660DC0, .smax .seq 76 13 96 0),
    (0x47AB6130, .scmp .loop 5 6 97 24 0),
    (0x87E70FC4, .ssel .xfer 78 15 98)] = true := by decide +kernel

theorem test_decode_scalarImmediate : reads [
    (0xC82790E3, .saddi .fin 79 16 227),
    (0x08685711, .sli .seq 80 22289),
    (0x48A8D712, .slih .loop 81 22290),
    (0x88E91300, .smov .xfer 82 19),
    (0xC9299400, .sclz .fin 83 20),
    (0x096A1500, .spopc .seq 84 21),
    (0x49AAD716, .srd .loop 85 22294),
    (0x89EB5717, .swr .xfer 86 22295),
    (0xCA2B98EB, .sld .fin 87 24 235),
    (0x0A6C19EC, .sst .seq 88 25 236),
    (0x4AAC9ADA, .saddr .loop 89 26 109 0),
    (0x8AED1BEE, .ssext .xfer 90 27 238),
    (0xCB2D9CF6, .sbfx .fin 91 28 15 6),
    (0x0B6E1D07, .sbfi .seq 92 29 0 7),
    (0x4BAE9E31, .sshli .loop 93 30 49),
    (0x8BEF1F32, .sshri .xfer 94 31 50),
    (0xCBEFA073, .ssrai .fin 95 32 51)] = true := by decide +kernel

theorem test_decode_vectorArithmetic : reads [
    (0x0C3021E8, .vadd .seq 96 33 116 0),
    (0x4C70A2EA, .vsub .loop 97 34 117 0),
    (0x8CB123EC, .vmul .xfer 98 35 118 0),
    (0xCCF1A4EE, .vmad .fin 99 36 119 0),
    (0x0D3225F0, .vmsb .seq 100 37 120 0),
    (0x4D72A6F2, .vmin .loop 101 38 121 0),
    (0x8DB327F4, .vmax .xfer 102 39 122 0),
    (0xCDF3A800, .vabs .fin 103 40),
    (0x0E342900, .vneg .seq 104 41),
    (0x4E74AAFA, .vand .loop 105 42 125 0),
    (0x8EB52BFC, .vor .xfer 106 43 126 0),
    (0xCEF5ACFE, .vxor .fin 107 44 127 0),
    (0x0F362D00, .vnot .seq 108 45),
    (0x4F76AE02, .vshl .loop 109 46 1 0),
    (0x8FB72F04, .vshr .xfer 110 47 2 0),
    (0xCFF7B006, .vsra .fin 111 48 3 0)] = true := by decide +kernel

theorem test_decode_vectorCompareMove : reads [
    (0x10023B54, .vcmp .seq 0 0 4 59 42 0),
    (0x5078B20A, .vsel .loop 113 50 5 0),
    (0x90B93300, .vmovV .xfer 114 51),
    (0xD0B98069, .vmovS .fin 115 52),
    (0x10FA5735, .vli .seq 116 22325),
    (0x513AB612, .vbcsImm .loop 117 54 9),
    (0x913B3715, .vbcsReg .xfer 118 55 10),
    (0xD17BB816, .vdot4 .fin 119 56 11 0),
    (0x11BC3918, .vdot2 .seq 120 57 12 0),
    (0x51FCBA1A, .vsad .loop 121 58 13 0),
    (0x923D3B00, .vclz .xfer 122 59),
    (0xD27DBC00, .vpopc .fin 123 60),
    (0x12BE3D00, .vrcp .seq 124 61),
    (0x52FEBE00, .vrsq .loop 125 62),
    (0x933F3F00, .vexp2 .xfer 126 63),
    (0xD37FC000, .vlog2 .fin 127 64),
    (0x13804100, .vsin .seq 0 65),
    (0x53C0C200, .vcos .loop 1 66)] = true := by decide +kernel

theorem test_decode_vectorConvert : reads [
    (0x940143DA, .vcvt .xfer 2 67 6 13),
    (0xD441C42E, .vpack .fin 3 68 23 0),
    (0x14824500, .vunpk .seq 4 69),
    (0x54C2C632, .vrq .loop 5 70 25 0),
    (0x95034734, .vrshr .xfer 6 71 26 0),
    (0xD7C3C836, .vscl .fin 7 72 27 0),
    (0x15444938, .vshfl .seq 8 73 28 0),
    (0x5584CAB4, .vshfli .loop 9 74 5 20),
    (0x95C54B0C, .vred .xfer 10 75 6),
    (0xD605CC0C, .vscan .fin 11 76 0 6),
    (0x16464D40, .vprune .seq 12 77 32 0),
    (0x5686CE42, .vspdot .loop 13 78 33 0),
    (0x96C74F00, .vnzc .xfer 14 79),
    (0xD707D000, .vnzb .fin 15 80),
    (0x17485100, .vterm .seq 16 81),
    (0x5788D200, .vlane .loop 17 82)] = true := by decide +kernel

theorem test_decode_vectorLanes : reads [
    (0x9809534C, .kand .xfer 18 83 38 0),
    (0xD849D44E, .kor .fin 19 84 39 0),
    (0x188A5550, .kxor .seq 20 85 40 0),
    (0x58CAD600, .knot .loop 21 86),
    (0x990B5700, .kmov .xfer 22 87),
    (0xD94BD800, .kany .fin 23 88),
    (0x198C5900, .kall .seq 24 89),
    (0x59CCDA00, .kcnt .loop 25 90),
    (0x99CD5B01, .kbits .xfer 26 91),
    (0xDA0DDC00, .kfromv .fin 27 92),
    (0x1A4E5D00, .ktov .seq 28 93)] = true := by decide +kernel

theorem test_decode_memory : reads [
    (0x5C0EDE62, .ld .loop 29 94 49),
    (0x9C4F5F64, .st .xfer 30 95 50),
    (0xDC8FE033, .ldi .fin 31 96 51),
    (0x1CD06134, .sti .seq 32 97 52),
    (0x5D10E26A, .ldt .loop 33 98 53),
    (0x9D51636C, .stt .xfer 34 99 54),
    (0xDD91E46E, .ldb .fin 35 100 55),
    (0x1DD26570, .ldw .seq 36 101 56),
    (0x5E12E672, .stw .loop 37 102 57),
    (0x9E536774, .aadd .xfer 38 103 58),
    (0xDE93E876, .amin .fin 39 104 59),
    (0x1ED46978, .amax .seq 40 105 60),
    (0x5F14EA7A, .aand .loop 41 106 61),
    (0x9F556B7C, .aor .xfer 42 107 62),
    (0xDF95EC7E, .axor .fin 43 108 63),
    (0x1FD66D80, .axch .seq 44 109 64)] = true := by decide +kernel

theorem test_decode_atomicsFences : reads [
    (0x6016EE82, .acas .loop 45 110 65),
    (0xA0576F84, .rdadd .xfer 46 111 66),
    (0xE097F086, .rdmin .fin 47 112 67),
    (0x20D87188, .rdmax .seq 48 113 68),
    (0x6118F28A, .rdand .loop 49 114 69),
    (0xA159738C, .rdor .xfer 50 115 70),
    (0xE199F48E, .rdxor .fin 51 116 71),
    (0x21DA7590, .rdx .seq 52 117 72),
    (0x621A8076, .fnc .loop 53 118),
    (0xA2403600, .fwait .xfer 54),
    (0xE29BF896, .pref .fin 55 120 75)] = true := by decide +kernel

theorem test_decode_barriersQueues : reads [
    (0x24003800, .bara .seq 56),
    (0x64403900, .barw .loop 57),
    (0xA4803A00, .baraw .xfer 58),
    (0xE4C03BF8, .barx .fin 59 124),
    (0x25003CFA, .bari .seq 60 125),
    (0x655EFE00, .qpush .loop 61 126),
    (0xA59F7F00, .qpop .xfer 62 127),
    (0xE5DF80A6, .qpeek .fin 63 0 83),
    (0x26004002, .qcfg .seq 64 1),
    (0x66404100, .gset .loop 65),
    (0xA6804200, .gclr .xfer 66),
    (0xE6804301, .gclrUnres .fin 67),
    (0x26C04400, .estart .seq 68),
    (0x67228000, .ejoin .loop 69),
    (0xA7630700, .launch .xfer 70 7)] = true := by decide +kernel

theorem test_decode_sampleGroups : reads [
    (0xE8004710, .sfork .fin 71 8),
    (0x28640900, .sreward .seq 72 9),
    (0x68800000, .sbar .loop),
    (0xA8E50B00, .scancel .xfer 74 11),
    (0xE9258000, .sginfo .fin 75),
    (0x29260001, .sgabs .seq 76),
    (0x69404D00, .sgadv .loop 77)] = true := by decide +kernel

theorem test_decode_engine : reads [
    (0xAC00001A, .mxg .xfer 0 3 2),
    (0xEC781D24, .mx .fin 3 16 3 10 9 0 0),
    (0x2CA81100, .mxbound .seq 80 17),
    (0x6CE88000, .mxz .loop 81),
    (0xAD2913CC, .acst .xfer 82 19 102),
    (0xED6994CE, .acld .fin 83 20 103),
    (0x2DAA0000, .hclaim .seq 84 0),
    (0x6DC05500, .hrel .loop 85),
    (0xAE2B17D4, .cpldSlot .xfer 86 23 106),
    (0xEE005731, .cpldSp .fin 87 24),
    (0x2E405832, .cpst .seq 88 25),
    (0x6E805934, .cpss .loop 89 26),
    (0xAEED0000, .bseal .xfer 90),
    (0xEEED9C01, .bsealStatus .fin 91 28),
    (0x2F005C5C, .bwaitImm .seq 23644),
    (0x6F2E8000, .bwaitReg .loop 29),
    (0xAF6F1FE4, .lease .xfer 94 31 114),
    (0xEF805F00, .lrel .fin 95),
    (0x2FF021E8, .ecmd .seq 96 33 116)] = true := by decide +kernel

theorem test_decode_windowsStream : reads [
    (0x70006144, .swbind .loop 97 34),
    (0xB0406200, .swunb .xfer 98),
    (0xF0B1A4EE, .eadd .fin 99 36 119),
    (0x30F225F0, .esub .seq 100 37 120),
    (0x7132D7A6, .eli .loop 101 22438),
    (0xB17357A7, .elih .xfer 102 22439),
    (0xF1B3A800, .emov .fin 103 40),
    (0x31F4293C, .eshl .seq 104 41 60),
    (0x71F4AA7D, .eshr .loop 105 42 61),
    (0xB23557AB, .xjz .xfer 106 22443),
    (0xF275D7AC, .xjnz .fin 107 22444),
    (0x32B657AD, .efroms .seq 108 22445)] = true := by decide +kernel

theorem test_decode_system : reads [
    (0x7836D7AE, .csrr .loop 109 22446),
    (0xB87757AF, .csrw .xfer 110 22447),
    (0xF8B7D7B0, .cntr .fin 111 22448),
    (0x38F857B1, .clk .seq 112 22449),
    (0x79007100, .seed .loop 113)] = true := by decide +kernel
theorem test_decode_xbtab : (match decode 0x01C00301 [0x10, 0xFFFFFFF0, 7] with
    | .ok i => decide (i = .xbtab .seq 3 [0x10, 0xFFFFFFF0])
    | .error _ => false) = true := by decide +kernel

theorem test_decode_manual_words : reads [
    (0x8C048418, .vadd .xfer 9 4 12 0), (0x00ABFFF4, .xj .seq 10 0x3FFF4), (0x80ABFFF4, .xj .xfer 10 0x3FFF4),
    (0x00FC0002, .xju .seq 15 2), (0x01800900, .xjr .seq 9), (0x02230000, .lpsReg .seq 6), (0x08428003, .sli .seq 5 3),
    (0x08C10000, .smov .seq 2 0), (0x0A020008, .sld .seq 4 0 8), (0x0A603F01, .sst .seq 64 63 1), (0x0A203F01, .sld .seq 64 63 1),
    (0x0882BD5B, .slih .seq 5 0x3D5B), (0x0B038312, .sbfx .seq 7 3 1 2), (0x0790840A, .scmp .seq 2 1 4 5 0),
    (0x0790840B, .scmp .seq 2 1 4 5 1), (0x09808009, .srd .seq 1 9), (0x20030404, .acas .seq 6 4 2), (0x22400100, .fwait .seq 1),
    (0x24C00312, .barx .seq 3 9), (0x25430200, .qpush .seq 6 2), (0x25820200, .qpop .seq 4 2), (0x26800201, .gclrUnres .seq 2),
    (0x27480700, .launch .seq 16 7), (0x2800040A, .sfork .seq 4 5), (0x28408200, .sreward .seq 1 2), (0x28800000, .sbar .seq),
    (0x2C519292, .mx .seq 1 3 2 5 4 1 0), (0xEC519292, .mx .fin 1 3 2 5 4 1 0), (0x2C00000A, .mxg .seq 0 1 2),
    (0x2D810000, .hclaim .seq 2 0), (0x2D828001, .hclaim .seq 5 1), (0x2E010A1C, .cpldSlot .seq 2 10 14),
    (0x2EC08000, .bseal .seq 1), (0xEF000000, .bwaitImm .fin 0), (0x30C10202, .esub .seq 2 2 1), (0xB2417FFC, .xjnz .xfer 2 0x7FFC),
    (0x38018004, .csrr .seq 3 4), (0x38418010, .csrw .seq 3 0x10), (0x39000300, .seed .seq 3), (0, .reservedOpcode 0)] = true := by
  decide +kernel

theorem test_decode_mustBeZero : ([0x00400001, 0x01400001, 0x02000000 + 2 ^ 15, 0x04000001, 0x2C000040, 0x2F200001] : List Word).all
    (fun w => match decode w [] with
      | .ok _ => false
      | .error e => decide (e = .mustBeZero (opcodeOf w))) = true := by decide +kernel

theorem test_decode_missing_targets : (match decode 0x01C00301 [0x10] with
    | .ok _ => false
    | .error e => decide (e = .missingTargets)) = true := by decide +kernel

/-! ## Well-formedness refuses an ill-formed term for each of its checks -/

theorem test_wellFormed_refuses : ([.xbtab .seq 0 [], .xbtab .seq 0 (List.replicate 257 0), .reservedOpcode 0x00400000, .setmode .seq 9 0,
    .vlane .seq 0 3, .vcmp .seq 7 0 0 0 0 0, .scmp .seq 6 0 0 0 0, .vshfli .seq 0 0 5 0, .vred .seq 0 0 6, .vscan .seq 0 0 0 6,
    .vcvt .seq 0 0 0 14, .pref .seq 2 0 0, .mxg .seq 0 0 5, .ssext .seq 0 0 0, .ssext .seq 0 0 65, .sbfx .seq 0 0 15 1,
    .sbfi .seq 0 0 1 15, .fnc .seq 0 5, .fnc .seq 0 64] : List Instr).all (fun i => !wellFormed i) = true := by decide +kernel

theorem test_wellFormed_admits : ([.xbtab .seq 0 [1], .reservedOpcode 0, .setmode .seq 8 0, .vlane .seq 0 2, .vcmp .seq 6 0 0 0 0 0,
    .scmp .seq 5 0 0 0 0, .vshfli .seq 0 0 4 0, .vred .seq 0 0 5, .vcvt .seq 0 0 0 13, .pref .seq 1 0 0, .mxg .seq 0 0 4,
    .ssext .seq 0 0 64, .sbfx .seq 0 0 15 0, .fnc .seq 0 0x3C] : List Instr).all wellFormed = true := by decide +kernel

/-! ## States and operands that meet the hypotheses of the statements -/

theorem witness_scalarResults : isStream gs = false ∧ nxFault .seq 4 gs = none ∧ (63 : BitVec 7).toNat < 64 ∧
    (1 ≤ (1 : BitVec 8).toNat ∧ (64 : BitVec 8).toNat ≤ 64) ∧ 4 * (0 : BitVec 4).toNat + 4 * ((15 : BitVec 4).toNat + 1) ≤ 64 ∧
    64 < 4 * (15 : BitVec 4).toNat + 4 * ((1 : BitVec 4).toNat + 1) ∧ 6 ≤ (6 : BitVec 3).toNat := by decide +kernel

theorem witness_scalarDivision : isStream (gsS 5 0x8000000000000000) = false ∧ nxFault .fin 4 (gsS 5 0x8000000000000000) = none ∧
    sget (sput (gsS 5 0x8000000000000000) 6 (BitVec.allOnes 64)) 6 = BitVec.allOnes 64 := by decide +kernel

theorem witness_scalarMemory : accessFx (gsS 1 0x1000) [⟨0xFF, 0x1000, 8⟩] .read = none ∧
    accessFx (gsS 1 0x1000) [⟨0xFF, 0x1000, 8⟩] .write = none ∧
    nxFault .seq 4 (selPut (drainAcc (gsS 1 0x1000) [⟨0xFF, 0x1000, 8⟩] .read) 64 0) = none ∧
    ((sget (gsS 1 0x1004) 1 + BitVec.ofInt 64 (8 * signExt (0 : BitVec 8).toNat 8)).toNat % 8 ≠ 0) := by decide +kernel

theorem witness_specialRegisters : isStream gs = false ∧ nxFault .seq 4 gs = none ∧ nxFault .seq 4 (setLs gs 8) = none ∧
    (0x01F : BitVec 15).toNat = 0x010 + 15 ∧ (0x00F : BitVec 15).toNat < 0x010 ∧ 0x022 < (0x023 : BitVec 15).toNat ∧
    sget (gsS 1 8) 1 % 4 = 0 ∧ sget (gsS 1 2) 1 % 4 ≠ 0 ∧ 3 ≤ (3 : BitVec 15).toNat := by decide +kernel

/-- A transfer armed for every lane of the group, with k other splits elsewhere. -/
def armedState (k : Nat) : State :=
  setGrp (setArmed gs (some ⟨true, (List.range 32).map (fun p => (p, 0x100040))⟩)) (fun g =>
    { g with splits := (List.range k).map (fun i => { Split.zero with mask := 0, pc := BitVec.ofNat 64 (64 * i) }) })

theorem witness_nextAddress : lcOf gs = 0 ∧ lcOf (setLc gs 1) ≠ 0 ∧ isStream es = true ∧
    armedOf (streamArm es 4 true) = some ⟨false, [(0, 0x100010)]⟩ ∧ armedOf gs = none := by decide +kernel

theorem witness_transferTogether : isStream (armedState 3) = false ∧ (armedState 3).split.mask ≠ 0 ∧
    ((armedState 3).split.armed.any (fun a => (lanesOf (armedState 3).split.mask).all (fun p => aget a.tgts p = some 0x100040))) = true ∧
    (armedState 3).grp.splits.length < 4 ∧
    (∀ x ∈ (armedState 3).grp.splits, mergesInto (armedState 3).split ⟨0x100040, 0x100004, 0xFFFFFFFF⟩ x = false) := by decide +kernel

theorem witness_arming : nxFault .xfer 4 (arm gs false (jTaken gs 0 0x100040)) = none ∧ gs.split.lk.toNat % 4 = 0 ∧
    (∀ p ∈ active gs, ∀ q ∈ active gs, (kget gs 0 p != (0 : BitVec 4).getLsbD 3) = (kget gs 0 q != (0 : BitVec 4).getLsbD 3)) ∧
    (∃ p ∈ active (kput gs 0 5 true), ∃ q ∈ active (kput gs 0 5 true), kget (kput gs 0 5 true) 0 p ≠ kget (kput gs 0 5 true) 0 q) ∧
    (∀ p ∈ active gs, (vget gs 127 p).toNat < [(0 : Word)].length) ∧ (127 : BitVec 7).toNat < regsOf gs := by decide +kernel

/-- Half of the group's lanes in the split in execution, the other half in another split. -/
def halves : State :=
  setGrp (setSplit gs (fun x => { x with mask := 0xFFFF })) (fun g => { g with splits := [{ Split.zero with mask := 0xFFFF0000 }] })

theorem witness_rwait : halves.grp.formed = false ∧ halves.split.mask ≠ 0 ∧ halves.split.hold = .none ∧ rwaitMissing halves = 16 ∧
    rwaitMissing gs = 0 ∧ sget (sput halves 1 7) 1 ≠ 0 ∧ sget halves 1 = 0 := by decide +kernel

/-- The crew's group put back, with its split held in an RWAIT whose count elapses. -/
def rwaiting (left : Nat) : State :=
  { unfocusCrew (unfocusSplit (setSplit halves (fun x => { x with hold := .rwait 3 .seq left }))) with ev := { Ev.zero with n := 0 } }

theorem witness_rwaitElapses : [0, 5].all (fun left => ((focusCrew (rwaiting left) 0 0).bind (fun s1 => focusSplit s1 0 0)).any (fun s2 =>
    s2.split.hold = .rwait 3 .seq left && nxFault .seq 4 (rwaitDone s2 3) = none)) = true ∧
    ((Split.zero).age 3).hold = .none ∧ ({ Split.zero with hold := .rwait 3 .seq 5 }.age 3).hold = .rwait 3 .seq 2 := by decide +kernel

theorem witness_modes : nxFault .seq 4 gs = none ∧ (15 : BitVec 15).toNat < 2 ^ (modeField 0).2 ∧
    modeLegal (BitVec.ofNat 32 (setBits (modeOf gs).toNat 0 4 15)) = true ∧
    modeLegal (BitVec.ofNat 32 (setBits (modeOf gs).toNat 13 5 9)) = false ∧ (63 : BitVec 15).toNat < iLimit gs ∧
    modeLegal ((iget gs 63).setWidth 32) = true ∧ modeLegal ((iget (gsS 63 (2 ^ 21)) 63).setWidth 32) = false ∧
    active (setSplit gs (fun x => { x with mask := 0 })) = [] ∧ (∀ p ∈ active gs, vget gs 0 p = 0) ∧
    (∃ p ∈ active (vput gs 0 3 1), ∃ q ∈ active (vput gs 0 3 1), vget (vput gs 0 3 1) 0 p ≠ vget (vput gs 0 3 1) 0 q) := by
  decide +kernel

/-- The staging store of die 0 full. -/
def fullStage : State := { gs with staged := List.replicate 512 (issuerRec gs (fx .trap) none) }

theorem witness_faultEntry : (aget gs.ctxs gs.gang.ctx).isSome = true ∧ stagedFull gs (dieOfCore gs.crew.core) = false ∧
    stagedFull fullStage (dieOfCore fullStage.crew.core) = true := by decide +kernel

theorem witness_pageSuspends : (⟨.page, 0, 3, 0x5008, false, 0⟩ : Fx).cause = .page ∧ stagedFull gs 0 = false ∧
    gs.pageWaits.find? (fun w => w.die = 0 && w.ctx = gs.gang.ctx && w.page = 5) = none ∧
    ({ gs with pageWaits := [⟨9, 0, 1, 5⟩] } : State).pageWaits.find? (fun w => w.die = 0 && w.ctx = gs.gang.ctx && w.page = 5) =
      some ⟨9, 0, 1, 5⟩ := by decide +kernel

theorem witness_traps : breakOn gs = false ∧ breakOn { gs with ctxs := [(1, { progCtx with brken := true })] } = true ∧
    classOf 0x10 = .groups ∧ isStream es = true ∧ classOf 0xB0 = .streams ∧ isStream gs = false := by decide +kernel

theorem witness_vectorArithmetic : nxFault .seq 4 gs = none ∧ accIF (ty gs) = true ∧ vOk gs (ty gs) 127 = true ∧
    bOk gs (ty gs) 1 63 = true ∧ accIF (ty (gsM 11)) = true ∧ vOk (gsM 11) 11 126 = true ∧ vOk (gsM 11) 11 127 = false ∧
    ty (gsM 1) ≤ 1 ∧ satOf (gsM 1).grp.mode = false := by decide +kernel

theorem witness_vectorCompare : (5 : BitVec 3).toNat < 6 ∧ (6 : BitVec 3).toNat = 6 ∧ isF (ty (gsM 6)) = true ∧ isF (ty gs) = false ∧
    (7 : BitVec 3).toNat = 7 ∧ ty (gsM 13) ≤ 13 ∧ qCheck (gsM 13) 13 = none ∧ isI (ty (gsM 13)) = true ∧
    bOk (gsM 13) 13 0 127 = true := by decide +kernel

theorem witness_vectorLogic : (127 : BitVec 7).toNat < regsOf gs ∧ (63 : BitVec 7).toNat < 64 ∧ 2 < (3 : BitVec 7).toNat ∧
    (7 : BitVec 7).toNat < 8 := by decide +kernel

theorem witness_vectorDots : ty (gsM 4) = 4 ∧ ty (gsM 13) = 13 ∧ ty (gsM 3) = 3 ∧ ty (gsM 8) = 8 ∧ (126 : BitVec 7).toNat + 1 < regsOf gs ∧
    (∀ p ∈ active (gsM 5), popN 8 (vget (gsM 5) 127 p).toNat ≤ 4) ∧ 4 < popN 8 (vget (vput (gsM 5) 3 0 0x1F) 3 0).toNat ∧
    qCheck (gsM 11) 11 = none ∧ vOk (gsM 11) 11 0 = true ∧ ty gs ≠ 11 := by decide +kernel

theorem witness_conversions : ty (gsM 6) = 6 ∧ ty (gsM 7) = 7 ∧ ty (gsM 8) = 8 ∧ (isQ 9 && isQ (ty (gsM 6))) = false ∧
    (7 : BitVec 3).toNat * min (tyCount 12) (tyCount 0) < max (tyCount 12) (tyCount 0) ∧ packOk 2 = true ∧ qCheck (gsM 2) 2 = none ∧
    accRq (ty (gsM 4)) = true ∧ 124 + tyCount 4 ≤ regsOf (gsM 4) ∧ rawOk gs 1 63 = true := by decide +kernel

theorem witness_acrossLanes : (4 : BitVec 3).toNat ≤ 4 ∧ 4 < (5 : BitVec 3).toNat ∧ redAcc 5 (ty gs) = true ∧ redAcc 2 (ty (gsM 11)) = true ∧
    5 < (6 : BitVec 3).toNat := by decide +kernel

theorem witness_prune : ty gs ≤ 9 ∧ (126 : BitVec 7).toNat + 1 < regsOf gs ∧ fullGroups gs = [0, 1, 2, 3] ∧
    (∀ j ∈ fullGroups gs, ∀ i < tyCount (ty gs), (bRaw gs 0 5 (8 * j)).toNat / 2 ^ (8 * i) % 256 ≤ 8) ∧
    8 < (bRaw (vput gs 5 8 9) 0 5 (8 * 1)).toNat / 2 ^ (8 * 0) % 256 ∧ (List.replicate 8 Val.nan).length = 8 := by decide +kernel

/-- s1 holds an address, s2 a tile descriptor of two parts. -/
def ms : State := sput (gsS 1 0x1000) 2 0x1_0000_0100

theorem witness_vectorLoads : memFmtCheck ms = none ∧ vOk ms (ty ms) 127 = true ∧
    accessFx ms (laneAccs ms (memWidth ms) (gatherAddr ms 1 0)) .read = none ∧
    accessFx ms (laneAccs ms (memWidth ms) (linearAddr ms 1 (-32) (memWidth ms))) .read = none ∧
    (sget ms 2).toNat < 2 ^ 36 ∧ 126 + tileN (sget ms 2) * tyRegs (ty ms) ≤ regsOf ms ∧
    accessFx ms ((tileAccs ms 1 (sget ms 2)).map (·.1)) .read = none := by decide +kernel

theorem witness_vectorStores :
    accessFx ms (laneAccs ms (memWidth ms) (gatherAddr ms 1 0)) .write = none ∧
    accessFx ms ((tileAccs ms 1 (sget ms 2)).map (·.1)) .write = none ∧ keySlot ms 0 = plainSlot ∧
    ([Loc.phys 0x1000 0 none, .phys 0x1001 0 none, .spad 0 0].map (Loc.place ms)).Nodup ∧
    (Loc.phys 0x1000 0 none).sealed ms = (Loc.phys 0x1001 0 none).sealed ms ∧ (crewOf ms 0).isSome = true ∧ keySpace 0x1000 ≠ 1 := by decide +kernel

/-- A byte that is not stored to, of another unit of encryption or of the same one under the same key. -/
theorem witness_storesFrame : isStream ms = false ∧ (Loc.phys 0x2000 0 none).plain ∧
    (storedBytes ms [(⟨0xFF, 0x1000, 8⟩, 5)]).length = 8 ∧
    ∀ x ∈ storedBytes ms [(⟨0xFF, 0x1000, 8⟩, 5)], ∀ k ∈ [0x0FFF, 0x1008, 0x2000], x.spares ms (.phys k 0 none) := by
  refine ⟨by decide +kernel, by simp [Loc.plain, keySpace], by decide +kernel, ?_⟩
  simp only [Stored.spares]
  decide +kernel

theorem witness_atomics : accessRW ms (laneAccs ms 4 (gatherAddr ms 1 0)) = none ∧ AtomOp.accept .add (ty ms) = true ∧
    126 + 2 * tyRegs (ty ms) ≤ regsOf ms ∧ locsBound ms (locsOr ms ⟨0, 0x1000, 4⟩ .write) = none ∧ rdxOp (sget (sput ms 2 0) 2) = some .add ∧
    (126 : BitVec 7).toNat + tyRegs (ty ms) + 1 ≤ regsOf ms := by decide +kernel


/-- A bounded line of context 1 with one share of holder 3 outstanding. -/
def lineState : State :=
  { gs with lines := [(40, ⟨1, 0, 0, ⟨1, 0⟩, [(3, ⟨0x8000, 0x7F00, [], 0⟩)]⟩)], ev := { Ev.zero with n := 40, m := 3 } }

theorem witness_boundedLines : (aget lineState.lines 40).any (fun x => decide (x.shares ≠ [] ∧ x.shares.length ≤ 1)) = true ∧
    (aget (drainTo 40 ⟨2, 0⟩ ⟨5, 0⟩ 1 lineState).lines 40).isSome = true ∧
    ((aget lineState.lines lineState.ev.n).bind (fun x => aget x.shares lineState.ev.m)).isSome = true ∧
    adel 3 [(3, (⟨0x8000, 0x7F00, [], 0⟩ : Share))] = [] ∧
    adel 3 [(3, (⟨0x8000, 0x7F00, [], 0⟩ : Share)), (4, ⟨0x8000, 0, [], 0⟩)] ≠ [] := by decide +kernel

theorem witness_fences : nxFault .seq 4 gs = none ∧ (0x3C : BitVec 8).toNat < 64 ∧ (0x3C : BitVec 8).toNat % 8 ≤ 4 ∧
    (tget gs 15).pending = false ∧ (tget (tput gs 15 ⟨true, 0, none, false, none⟩) 15).pending = true ∧
    nxFault .seq 4 (tput gs 15 ⟨true, 0, none, false, none⟩) = none := by decide +kernel

/-- The crew with its stream in a given state put back, the stream or group 0 named by the event. -/
def crewWith (f : Stream → Stream) (g : Crew → Crew) (strm : Bool) : State :=
  { unfocusCrew (setOwn es (fun c => g { c with strm := f c.strm })) with ev := { Ev.zero with who := ⟨0, 0, 0, strm⟩ } }

/-- The crew of the event loaded, and a property of it. -/
def inCrew (s : State) (p : State → Bool) : Bool := (focusCrew s s.ev.who.gang s.ev.who.crew).any p

theorem witness_streamEvents :
    inCrew (crewWith (fun x => { x with hold := .wait, mode := 0x2000 }) (fun c => { c with guards := [(0, true)] }) true)
      (fun s1 => s1.crew.strm.st = .running && s1.crew.strm.hold = .wait && s1.crew.strm.guard = none &&
        guardOf s1.crew.strm.mode = 1 && aget s1.crew.guards 0 = some true) = true ∧
    inCrew (crewWith (fun x => { x with st := .ending }) id true) (fun s1 =>
      (settleAll s1 ⟨s1.gid, s1.crew.no, 0, true⟩).crew.strm.st = .ending &&
      (settleAll s1 ⟨s1.gid, s1.crew.no, 0, true⟩).crew.strm.bat.sealed = []) = true ∧
    inCrew (crewWith (fun x => { x with st := .ending, bat := ⟨2, [], [⟨1, [⟨0, 0, 0, .swunb 0, false, false, 0, none, false, false, false, none, none, false, false⟩], none, none, 0, none, none, 0⟩]⟩ })
      id true) (fun s1 => (settleAll s1 ⟨s1.gid, s1.crew.no, 0, true⟩).crew.strm.bat.sealed ≠ []) = true ∧
    inCrew (crewWith (fun x => { x with t := [(0, ⟨true, 0, none, false, some ⟨true, [], []⟩⟩)] }) id true) (fun s1 =>
      (aget s1.crew.strm.t 0).any (fun t => t.pending && t.fence = some ⟨true, [], []⟩)) = true ∧
    inCrew (crewWith (fun x => { x with bat := ⟨1, [⟨0, 0, 0, .swunb 0, false, false, 0, none, false, false, false, none, none, false, false⟩], []⟩ }) id true) (fun s1 =>
      (openItems (batOf s1 ⟨0, 0, 0, true⟩)).contains (1, 0)) = true := by decide +kernel

theorem witness_barriers : (barOf gs.crew 15).phase = recordedPhase gs 15 ∧
    (barOf (setOwn gs (fun c => { c with bars := aput 15 ⟨32, [], false, 0, 1⟩ c.bars })).crew 15).phase ≠ recordedPhase gs 15 ∧
    holdOf gs = .none ∧ holdOf (setHold gs (.bar 15 0)) = .bar 15 0 ∧ (barOf gs.crew 15).phase = 0 ∧ (barOf (arrive gs 15).crew 15).phase ≠ recordedPhase (arrive gs 15) 15 ∧
    (barOf (arrive halves 15).crew 15).phase = recordedPhase (arrive halves 15) 15 := by decide +kernel

theorem witness_barrierCounts : (iget (gsS 1 (2 ^ 55 - 1)) 1).toInt < 2 ^ 55 ∧ ¬ (iget (gsS 1 (2 ^ 55)) 1).toInt < 2 ^ 55 ∧
    -(2 ^ 55) ≤ (iget (gsS 1 (-(2 ^ 55))) 1).toInt ∧ (iget (gsS 1 1024) 1).toNat ≤ 1024 ∧ ¬ (iget (gsS 1 1025) 1).toNat ≤ 1024 ∧
    (barOf gs.crew 0).arrived = [] ∧ (barOf gs.crew 0).p = 0 ∧ (63 : BitVec 7).toNat < iLimit gs := by decide +kernel

/-- Queue 2 configured with entries of 4 bytes, two deep, an allowance of one, with the entries of the given pushers. -/
def queued (ps : List Nat) : State := setOwn gs (fun c => { c with queues := [(2, ⟨0, 2, 1, 1, 0, ps⟩)] })

theorem witness_queues : queueOf gs 2 = none ∧ queueOf (queued []) 2 = some ⟨0, 2, 1, 1, 0, []⟩ ∧ entryOk (queued []) 127 4 = true ∧
    dataOk (queued []) 127 = true ∧ ([] : List Nat).length < (⟨0, 2, 1, 1, 0, []⟩ : Queue).depth ∧
    ((queued [1]).crew.queues.all (fun q => q.2.alw ≤ (q.2.pushers.filter (fun x => x = pusherId (queued [1]))).length)) = true ∧
    (⟨0, 2, 1, 1, 0, [5, 6]⟩ : Queue).depth ≤ [5, 6].length ∧ iget gs 63 = 0 ∧
    (qcfgOf gs (2 * 2 ^ 19 + 1 * 2 ^ 23 + 1 * 2 ^ 27)).isSome = true ∧ qcfgOf gs 1 = none := by decide +kernel

theorem witness_guardSlots : isStream gs = false ∧ nxFault .fin 4 gs = none ∧ (7 : BitVec 7).toNat < 8 := by decide +kernel

/-- The group with its crew's stream in a given state. -/
def withStream (st : StreamState) : State := setStrm gs (fun x => { x with st := st })

theorem witness_streamStart : gs.gang.pkt.eaddr ≠ 0 ∧ (withStream .idle).crew.strm.st = .idle ∧ (withStream .ended).crew.strm.st = .ended ∧
    (withStream .running).crew.strm.st = .running ∧ (withStream .ending).crew.strm.st = .ending ∧
    ({ gs with gang := { gs.gang with pkt := { gs.gang.pkt with eaddr := 0 } } } : State).gang.pkt.eaddr = 0 := by decide +kernel

theorem witness_streamRegisters : isStream es = true ∧ nxFault .seq 4 es = none ∧ (31 : BitVec 7).toNat < 32 ∧
    (efromsValue es 9).isSome = true ∧ efromsValue es 0 = none := by decide +kernel

/-- Context 1 with one device queue of 16 entries, which holds n packets. -/
def dqState (n : Nat) : State :=
  { gs with mem := memPut (memPut gs.mem 8 0x80000 0x90000) 2 0x80008 0x104,
            ctxs := [(1, { progCtx with dqtab := 0x80000, dqcnt := 1, dq := [(0, (n, 0))] })] }

/-- The group as sender of n packets that queue 0 has refused. -/
def keeping (n : Nat) (s : State) : State := { s with naks := List.replicate n ⟨packetMsg s 0 0 (List.replicate 64 0), 1, 0⟩ }

theorem witness_launch : (112 : BitVec 7).toNat + 16 ≤ regsOf (dqState 0) ∧ (dqState 0).split.hold = .none ∧
    queueSet (dqState 0) (sget (dqState 0) 1) = true ∧ queueSet gs (sget gs 1) = false ∧
    flowFull (keeping 7 gs) (packetMsg gs 0 0 []) = false ∧ flowFull (keeping 8 gs) (packetMsg gs 0 0 []) = true ∧
    (submitLanes 112 0 0 [0] (dqState 15)).2 = [] ∧ (submitLanes 112 0 0 [0, 1] (keeping 7 (dqState 16))).2 = [1] ∧
    flowBusy (submitLanes 112 0 0 [0] (dqState 15)).1 (packetMsg gs 0 0 []) = false ∧
    flowBusy (submitLanes 112 0 0 [0] (dqState 16)).1 (packetMsg gs 0 0 []) = true ∧
    (setHold gs (.launch 0 [3])).split.hold = .launch 0 [3] ∧ packetDue (submitLanes 112 0 0 [0] (dqState 15)).1 0 = false ∧
    packetDue (submitLanes 112 0 0 [0] (dqState 16)).1 0 = true ∧ packetDue (submitLanes 112 0 0 [0] (dqState 16)).1 1 = false := by decide +kernel

/-- One packet is accepted, a second of a full queue is refused, and one behind a refused one is kept. -/
theorem witness_lanesSubmit :
    (acceptPacket (dqState 15) 1 0 0 0 (lanePacket (dqState 15) 112 3)).isSome = true ∧
    acceptPacket (dqState 16) 1 0 0 0 (lanePacket (dqState 16) 112 3) = none ∧ (dqState 0).gang.ctx = 1 ∧
    flowBusy (keeping 1 gs) (packetMsg gs 0 0 (lanePacket gs 112 3)) = true ∧
    ((keeping 7 gs).naks.filter (fun n => n.msg.sameFlow (packetMsg gs 0 0 (lanePacket gs 112 3)))).length < 8 ∧
    8 ≤ ((keeping 8 gs).naks.filter (fun n => n.msg.sameFlow (packetMsg gs 0 0 (lanePacket gs 112 3)))).length := by decide +kernel

/-- A packet of one gang, as 64 bytes, and the first with a field that must be zero set. -/
def goodPacket : List (BitVec 8) := natBytes 8 0x100000 ++ natBytes 8 0 ++ natBytes 8 0x100000 ++ natBytes 4 1 ++ natBytes 2 1 ++ natBytes 2 1 ++
  [8, 1, 1, 0] ++ natBytes 2 64 ++ natBytes 2 0 ++ [4, 4] ++ natBytes 2 1 ++ natBytes 4 1 ++ natBytes 8 0x2000 ++ natBytes 8 0

/-- Context 1 runs, and a packet waits in its device queue 0. -/
def waitingPacket (bs : List (BitVec 8)) : State :=
  { unfocusCrew gs with mem := memPutBytes (dqState 0).mem 0x90000 bs, ctxs := (dqState 1).ctxs,
                        visible := [⟨true, 1, 0, 0, some 0, 3, 0⟩], ev := { Ev.zero with n := 1 } }

theorem witness_packets :
    (∀ bs ∈ [goodPacket, goodPacket.set 0x28 17], ctxRuns (waitingPacket bs) 1 = true ∧ stagedFull (waitingPacket bs) 0 = false ∧
      nextPacket (waitingPacket bs) 1 = some ⟨true, 1, 0, 0, some 0, 3, 0⟩ ∧
      pktBytes (waitingPacket bs) ⟨true, 1, 0, 0, some 0, 3, 0⟩ = bs) ∧
    packetOk goodPacket 1 = true ∧ packetOk (goodPacket.set 0x28 17) 1 = false ∧ (packetOf (goodPacket.set 0x28 17)).canNotify = true ∧
    (aget [(5, { progGrid with parent := some 4 }), (4, { progGrid with fin := true })] 5).bind (fun g => g.parent) = some 4 := by
  decide +kernel

/-- An open entry of two siblings in place 6, its deadline at 100; the group is sibling 1 of it. -/
def sgEntry (complete : Bool) : SgEntry := ⟨2, 0, 0, 0, .empty 32, 0, some 100, .empty 32, false, false, 0, complete, 0⟩
def sibState (complete : Bool) : State := setGrp (setSg (gsS 1 0x1000) 0 6 (sgEntry complete)) (fun g => { g with sib := some (6, 1) })

/-- s4 asks for two siblings, and the gang has spawn memory for their records. -/
def forking : State := { gsS 4 2 with gang := { gs.gang with pkt := { gs.gang.pkt with spawn := 64 } } }

theorem witness_sampleGroups : forkCheck forking 4 = none ∧ freeEntry forking = some 0 ∧ sibXferFits .seq forking 4 = true ∧
    nxFault .seq 4 (forkDone forking 4 5) = none ∧ mySg (sibState false) = some (6, 1, sgEntry false) ∧
    mySg (sibState true) = some (6, 1, sgEntry true) ∧ mySg gs = none ∧ (sget (gsS 2 1) 2).toNat < 2 ∧ 2 ≤ (sget (gsS 2 2) 2).toNat ∧
    accessFx (sibState true) ((List.range 2).map (fun j => ⟨0xFF, 0x1000 + 4 * j, 4⟩)) .write = none := by decide +kernel

theorem witness_sampleDeadline :
    let s := { unfocusCrew (sibState false) with ev := { Ev.zero with n := 0, m := 6 }, ctxs := [(1, { progCtx with ctxtime := 100 })] }
    (sgOf s 0 6).any (fun x => x.deadline = some 100 && !x.complete) = true ∧ (aget s.gangs 0).any (fun g => g.ctx = 1) = true ∧
    (aget s.ctxs 1).any (fun c => 100 ≤ c.ctxtime.toNat) = true := by decide +kernel

/-- The stream with two slots claimed, slot 0 for A and slot 1 for B, and their handles in h0 and h1. -/
def slotState : State := claimSlot (claimSlot es 0 0 false) 1 1 true

/-- A descriptor of a step with every dimension at its least. -/
def mxDesc : BitVec 64 := 0

theorem witness_engineCommands : commandRuns es ∧ nxFault .seq 4 es = none ∧
    (dTiles mxDesc 0).any (tileLoading slotState.crew) = false ∧ tilePending es.crew 3 = false ∧ tileLoading es.crew 3 = false ∧
    storeFull es = false ∧ loadFull es = false ∧ acOk 0 = true ∧ batchRoom es 1 = none ∧ flagCheck es false false = none ∧
    iRun es 30 2 = true ∧ iRun es 29 3 = true ∧ (3 : BitVec 7).toNat < es.gang.pkt.accs := by
  refine ⟨fun _ => by decide +kernel, ?_⟩
  decide +kernel

theorem witness_controlWords : ccOk 0 true = true ∧ ccOk 0 false = true ∧ csOk 0 = true ∧
    handleOk slotState.crew (hget slotState 0) = true := by decide +kernel

/-- The stream under guard slot 0, resolved or not. -/
def guarded (g : List (Nat × Bool)) : State := setOwn (setMode es 0x2000) (fun c => { c with guards := g })

theorem witness_guards : isStream (guarded []) = true ∧ nxFault .seq 4 (guarded []) = none ∧ (guarded []).gang.pkt.accs ≤ 4 ∧
    guardState (guarded []) = none ∧ guardState (guarded [(0, false)]) = some false ∧ guardState (guarded [(0, true)]) = some true := by
  decide +kernel

theorem witness_gatherSettings : isStream es = true ∧ nxFault .seq 4 es = none ∧ (4 : BitVec 3).toNat ≤ 4 ∧ 4 < (5 : BitVec 3).toNat ∧
    opcodeOf 0x2C00000A = 0xB0 ∧ (fldN 0x2C00000A 15 7 = 0 ∧ fldN 0x2C00000A 6 9 = 0) ∧ ¬ fldN 0x2C000040 6 9 = 0 := by decide +kernel

theorem witness_streamJumps : isStream es = true ∧ (31 : BitVec 7).toNat < 32 ∧ opcodeOf 0x32000000 = 0xC8 ∧ opcodeOf 0x32400000 = 0xC9 := by
  decide +kernel

theorem witness_tilesAndSlots : freeSlot es = some 0 ∧ (freeSlot slotState) = some 2 ∧
    handleOk slotState.crew (hget slotState 0) = true ∧ handleOk es.crew (hget es 0) = false ∧
    freeSlot (claimSlot (claimSlot slotState 2 2 false) 3 3 false) = none ∧
    releaseDue (claimSlot (claimSlot slotState 2 2 false) 3 3 false) = false := by decide +kernel

theorem witness_batches : (tget gs 15).pending = false ∧ (batOf gs (curWho gs)).sealed.length < 32 ∧
    32 ≤ (batOf (setGrp gs (fun g => { g with bat := ⟨1, [], List.replicate 32 ⟨0, [], none, none, 0, none, none, 0⟩⟩ }))
      (curWho gs)).sealed.length ∧ (63 : BitVec 6).toNat < iLimit gs ∧
    (∀ i < 1, (([⟨0, 0, 0, .swunb 0, false, false, 0, some .prot, false, false, false, none, none, false, false⟩] : List Item).getD i
      ⟨0, 0, 0, .swunb 0, false, false, 0, none, false, false, false, none, none, false, false⟩).ix = i) := by decide +kernel

/-- A lease request of kind 0 of the group, which waits at its sender n times, each due when the clock is at `due`. -/
def refusedReq : LeaseReq := ⟨9, 0, 5, ⟨0, 0, 0, false⟩, 2, 0⟩
def keepingReq (n due : Nat) : State := { gs with naks := List.replicate n ⟨.lease 0 0 refusedReq, 1, due⟩ }

/-- A token of a lease that is held: a function engine of cluster 0. -/
def leasedTok (ev : Bool) : Tok := ⟨false, leaseToken 0 0 0 ev 1, some (3, 0), false, none⟩

theorem witness_leases : (iget (gsS 1 5) 1).toNat % 8 ≤ 5 ∧ 5 < (iget (gsS 1 6) 1).toNat % 8 ∧
    (gs.naks.filter (fun n => n.msg.sameFlow (leaseMsg gs refusedReq))).length < 8 ∧
    8 ≤ ((keepingReq 8 1).naks.filter (fun n => n.msg.sameFlow (leaseMsg gs refusedReq))).length ∧ (tget (tput gs 2 (leasedTok false)) 2).lease = some (3, 0) ∧
    (tget gs 2).lease = none ∧ ((aget (clusterOf gs 0).queues 0).getD []).length < 16 ∧ flowBusy gs (leaseMsg gs refusedReq) = false ∧
    flowBusy (keepingReq 1 1) (leaseMsg gs refusedReq) = true ∧
    subOk (leaseKind (leasedTok false).val) 0 = true ∧ leaseEvicted (leasedTok true).val = true ∧ argsOk 0 0 1 0 = true ∧
    batchRoom gs (cmdItems 0 0 1) = none ∧ iRun gs 60 4 = true ∧ swOk 0x200 1 = true ∧
    (sget (gsS 1 63) 1).toNat < 64 ∧ 64 ≤ (sget (gsS 1 64) 1).toNat := by decide +kernel

/-- A group's commands are not guarded. -/
theorem witness_groupCommands : commandRuns gs := fun h => absurd h (by decide +kernel)

/-! ### Items, steps and copies -/

/-- An item not ended. -/
def oneItem (op : ItemOp) : Item := ⟨0, 0, 0x100000, op, false, false, 0, none, false, false, false, none, none, false, false⟩

/-- The stream with its oldest item given, named by the event; `f` prepares the crew. -/
def itemState (op : ItemOp) (f : State → State) : State :=
  { unfocusCrew (f (setStrm es (fun x => { x with bat := ⟨1, [oneItem op], []⟩ }))) with
    ev := { Ev.zero with item := ⟨⟨0, 0, 0, true⟩, 1, 0⟩ } }

/-- The item of the event can end, and what its accesses see has a property. -/
def canEnd (s : State) (kind : ItemOp → Bool) (p : State → Item → Bool) : Bool :=
  (focusCrew s s.ev.item.who.gang s.ev.item.who.crew).any (fun s1 => (itemOf s1 s.ev.item).any (fun i =>
    kind i.op && decide (i.status = none) && decide (i.page = none) && acqOk s1 s.ev.item i && p (atWork s1 i) i))

theorem witness_tileTransfers :
    ([((0 : BitVec 64), false), (0x4000, false), (0, true)].all (fun y =>
      let w := y.1
      canEnd (itemState (.acst 0x1000 w (.empty 32) y.2 false) id) ItemOp.isAcst (fun x i =>
        !acstBehind x ⟨⟨0, 0, 0, true⟩, 1, 0⟩ i (acAccs 0x1000 w) && decide (engFx x 4 [] (acAccs 0x1000 w) = none) && decide (engAddr x 4 [] (acAccs 0x1000 w) = none) &&
        decide (engData x 4 (acAccs 0x1000 w) (acAccs 0x1000 w) = none) && !stagedFull x (itemDie x)))) = true ∧
    acAos 0 = false ∧ acAos 0x4000 = true ∧
    canEnd (itemState (.acld 3 0x1000 0) id) ItemOp.isAcld (fun x _ => decide (engFx x 4 (acAccs 0x1000 0) [] = none)) = true := by
  decide +kernel

/-- Context 1 with a pool of n units for shadow indices. -/
def pooled (n : Nat) (s : State) : State := { s with ctxs := [(1, { progCtx with poolUnits := n })] }

theorem witness_windowItems :
    ([0, 1].all (fun n => canEnd (itemState (.swbind 2 0x40 0x8000 0x2000 4) (pooled n)) ItemOp.isSwbind (fun x i =>
      windowIdle x ⟨⟨0, 0, 0, true⟩, 1, 0⟩ i 2 && decide (engFx x 6 (runAcc 0x2000 4 4) [] = none) &&
      !stagedFull x (itemDie x) && (aget (drainAcc x (runAcc 0x2000 4 4) .read).ctxs x.gang.ctx).any (fun c =>
        decide (poolRun ((c.windows.filter (fun b => b.1 ≠ 2)).map (fun b => (b.2.run, bindUnits b.2.idx.length))) c.poolUnits
          (bindUnits 4) = if n = 0 then none else some 0))))) = true ∧
    canEnd (itemState (.swunb 2) (pooled 1)) ItemOp.isSwunb (fun x i => windowIdle x ⟨⟨0, 0, 0, true⟩, 1, 0⟩ i 2) = true := by
  decide +kernel

/-- A layout record at 0x3000 of a tensor of 8 × 64 elements at 0x10000, of a kind and format. -/
def recordOf (kind fmt pitch : Nat) (s : State) : State :=
  { s with mem := memPutBytes s.mem 0x3000 (natBytes 8 0x10000 ++ natBytes 1 fmt ++ [0] ++ natBytes 1 kind ++ [0] ++ natBytes 4 8 ++
      natBytes 4 64 ++ natBytes 4 0 ++ natBytes 8 pitch ++ natBytes 8 0x20000 ++ natBytes 8 0x21000 ++ natBytes 8 0x22000 ++ natBytes 8 0) }

/-- A gang with 4 KiB of scratchpad in each crew. -/
def withSpad (s : State) : State := { s with gang := { s.gang with pkt := { s.gang.pkt with spad := 4 } } }

/-- The copy's record is read and keeps the rules, with the copy's own conditions. -/
def copyReady (kind fmt pitch : Nat) (sl : Option Nat) (w : BitVec 64) (st : Bool) (p : State → Item → Layout → Bool) : Bool :=
  let op : ItemOp := if st then .cpst 0x3000 0 w (.empty 32) else .cpld sl 0 0x3000 0 w (.empty 32)
  canEnd (itemState op (fun s => recordOf kind fmt pitch (withSpad (claimSlot s 0 0 false))))
    (if st then ItemOp.isCpst else ItemOp.isCpld) (fun x i =>
      (sl.isNone || (((batOf x ⟨0, 0, 0, true⟩).before i).isEmpty && !(slotOf x.crew 0).lost)) &&
      match readLayout x i 0x3000 0 w (.empty 32) (sl.map (fun _ => false)) (fun _ => true) with
      | .inl _ => false
      | .inr l => decide (l.kind = kind) && p x i l)

def resOk? : ItemRes → Bool
  | .ok _ => true
  | _ => false

/-- The control word of a region of two rows of eight columns. -/
def ctlWord : BitVec 64 := 1 + 7 * 64

theorem witness_copies :
    copyReady 0 5 64 (some 0) ctlWord false (fun x _ l => decide (engFx x 2 (elemAccs (denseElems l (l.bits (.empty 32)) 0 0 2 8)) [] = none)) = true ∧
    copyReady 3 5 64 (some 0) ctlWord false (fun x i l => resOk? (cpldSparse x i 0 false l ctlWord (.empty 32) 0 0)) = true ∧
    copyReady 0 5 64 none ctlWord false (fun x _ l => decide (engFx x 2 (elemAccs (denseElems l (l.bits (.empty 32)) 0 0 2 8)) [] = none) &&
      decide (ccSoff ctlWord % 4 = 0) && decide (ccSoff ctlWord + ccPitch ctlWord (l.bits (.empty 32)) * 1 + 8 ≤ x.gang.pkt.spad * 1024)) = true ∧
    copyReady 0 5 64 none ctlWord true (fun x _ l =>
      let as := elemAccs (denseElems l (l.bits (.empty 32)) 0 0 2 8)
      decide (engAddr x 2 [] as = none) && decide (engData x 2 as as = none) &&
      decide (ccSoff ctlWord + ccPitch ctlWord (l.bits (.empty 32)) * 1 + 8 ≤ x.gang.pkt.spad * 1024)) = true := by decide +kernel
theorem witness_byteCopies : canEnd (itemState (.cpss 0x1000 0x2000 0 3) id) ItemOp.isCpss (fun x _ =>
    let rs := (List.range (csRows 3)).flatMap (csRow 0x1000 0 (csLen 3))
    let ws := (List.range (csRows 3)).flatMap (csRow 0x2000 0 (csLen 3))
    let y := drainAcc (drainAcc x rs .read) ws .write
    decide (engFx x 2 rs ws = none) && rs.all (fun a => decide ((locsOr y a .read).length = 4) &&
      ws.all (fun b => (locsOr y a .read).all (fun l => !(locsOr y b .write).contains l)))) = true := by decide +kernel

/-- The engines of kind k of cluster 0 hold one lit engine leased to the stream by request 3. -/
def leased (k : Nat) (s : State) : State :=
  { s with clusters := [(0, { Cluster.zero with engines :=
      [(4 * k, { Engine.zero with power := .lit, lease := some (3, 4, 0, ⟨0, 0, 0, true⟩, 2) })] })] }

/-- The command of an engine of kind k can execute, and what its accesses see has a property. -/
def engineReady (k sub : Nat) (p0 p1 p2 p3 : BitVec 64) (f : State → State) (kind : ItemOp → Bool) (p : State → Item → Bool) : Bool :=
  canEnd (itemState (.ecmd 0 3 k sub 0 p0 p1 p2 p3) (fun s => f (leased k s))) kind (fun x i =>
    ecmdReady x ⟨⟨0, 0, 0, true⟩, 1, 0⟩ i && p (onEngine x 0 3 id) i)

theorem witness_functionEngine : ([0, 2, 3, 5, 6] : List Nat).all (fun sub =>
    engineReady 0 sub 0x1000 0x2000 1 0 id (ItemOp.isKind 0) (fun y _ =>
      decide (engFx y 5 (runAcc 0x1000 4 (rowLen 1)) (runAcc 0x2000 4 (rowLen 1)) = none) &&
      decide (engFx y 5 (runAcc 0x1000 4 (2 * rowCount 1)) (runAcc 0x2000 4 (2 * rowCount 1)) = none))) = true := by decide +kernel

/-- Bytes at a physical address of the memory that context 1 maps. -/
def withBytes (a : Nat) (bs : List (BitVec 8)) (s : State) : State := { s with mem := memPutBytes s.mem a bs }

/-- A merge of one stream of two keys at 0x3000 into 0x2000. -/
theorem witness_mergeEngine : engineReady 1 0 0x1000 0x2000 0 1
    (fun s => withBytes 0x3000 (natBytes 4 5 ++ natBytes 4 9) (withBytes 0x1000 (natBytes 8 0x3000 ++ natBytes 8 0 ++ natBytes 8 2) s))
    (ItemOp.isKind 1) (fun y _ =>
      let da := runAcc 0x1000 8 4
      let d := (readRun y da).2
      let ka := runAcc (d.getD 0 0) 4 (d.getD 2 0)
      let t := drainAcc y ka .read
      let xs : List MgStream := [⟨0, 0, ka.map (fun a => (loadAcc t a, 0))⟩]
      decide (d.getD 3 0 = 0) && decide (engFx y 5 da [] = none) && decide (engFx y 5 ka [] = none) &&
      (xs.find? (headBreaks 0 false none)).isNone && decide ((mergeLoop 0 false false false 2 3 xs []).1.map (·.1) = [5, 9]) &&
      (mergeLoop 0 false false false 2 3 xs []).2.isNone &&
      decide (engFx t 5 [] (runAcc 0x2000 4 2 ++ runAcc (0x1000 + 32) 8 1) = none)) = true := by decide +kernel

/-- A chunk of one symbol, whose table gives symbol 0 the frequency 4095 and symbol 1 the frequency 1 (R147, R307). -/
def chunkBytes : List (BitVec 8) := natBytes 4 1 ++ [0xFF, 0x1F] ++ List.replicate 386 0

theorem witness_chunk : decodeChunk (chunkBytes.map BitVec.toNat) 1 = some [0] := by decide +kernel

theorem witness_decoder : engineReady 2 0 0x1000 0x5000 1 0
    (withBytes 0x1000 (natBytes 8 0x3000 ++ natBytes 4 392 ++ natBytes 4 1 ++ natBytes 8 0x4000)) (ItemOp.isKind 2) (fun y i =>
      let d := (readRun y (runAcc 0x1000 8 4)).2
      decide (engFx y 5 (runAcc 0x1000 8 4) [] = none) && decide (d.getD 3 0 = 0) &&
      decide ((d.getD 0 0, bitsOf (d.getD 1 0) 0 32, bitsOf (d.getD 1 0) 32 32, d.getD 2 0) = (0x3000, 392, 1, 0x4000)) &&
      decide (engFx y 5 [] (runAcc 0x4000 1 1) = none) && decide (chunkMap y i false = some 0) &&
      decide (engFx y 5 [] (runAcc 0x5000 8 1) = none)) = true := by decide +kernel

theorem witness_samplerAndIndex :
    ([0, 1, 2] : List Nat).all (fun sub => engineReady 3 sub 0x1000 0x2000 1 0 id (ItemOp.isKind 3) (fun y _ =>
      decide (engFx y 5 (runAcc 0x1000 4 (rowLen 1)) (runAcc 0x2000 4 1) = none) && decide (engFx y 5 [] (runAcc 0x2000 8 1) = none))) = true ∧
    ([0, 1, 2] : List Nat).all (fun sub => engineReady 5 sub 0x1000 0x2000 2 (if sub = 1 then 0x3000 else 2) id (ItemOp.isKind 5) (fun y _ =>
      decide (engFx y 5 (runAcc 0x1000 4 2 ++ runAcc 0x2000 4 2) (runAcc 0x2000 4 2) = none) &&
      decide (engFx y 5 (runAcc 0x1000 4 2) (runAcc 0x2000 4 1 ++ runAcc 0x3000 8 1) = none))) = true := by decide +kernel

/-- A sum over two participants of one FP32 element: this stream's core, and a peer behind port 0, whose link is up. -/
def collState : State :=
  itemState (.ecmd 0 3 4 0 0 0x1000 0x2000 0x3000 (4 + 2 * 2 ^ 36)) (fun s =>
    { withBytes 0x4000 (natBytes 8 0 ++ natBytes 8 0xFF) (withBytes 0x1000 (natBytes 4 7 ++ natBytes 2 2 ++ natBytes 2 0 ++ natBytes 8 0x4000)
        (leased 4 s)) with regs := aput (regLSTAT 6) 2 s.regs })

/-- The item of the collective. -/
def collItem : Item := oneItem (.ecmd 0 3 4 0 0 0x1000 0x2000 0x3000 (4 + 2 * 2 ^ 36))

theorem witness_collective : (clItems collState (((aget collState.gangs 0).map (fun g => g.ctx)).getD 0)).find? (fun x => x.1 = ⟨⟨0, 0, 0, true⟩, 1, 0⟩) =
      some (⟨⟨0, 0, 0, true⟩, 1, 0⟩, 0, collItem) ∧
    ((seenBy collState ⟨⟨0, 0, 0, true⟩, 1, 0⟩ collItem (fun s1 => readColl s1 0x1000)).any (fun c => match c with
      | .inl _ => false
      | .inr c => decide (c.ok = true) && decide (c.ents = [0, 0xFF]) &&
        decide (gather collState 1 c (4 + 2 * 2 ^ 36) 0 = ([(0, ⟨⟨0, 0, 0, true⟩, 1, 0⟩, collItem)], false)))) = true ∧
    seenBy collState ⟨⟨0, 0, 0, true⟩, 1, 0⟩ collItem (fun s1 => (ecmdReady s1 ⟨⟨0, 0, 0, true⟩, 1, 0⟩ collItem &&
      acqOk s1 ⟨⟨0, 0, 0, true⟩, 1, 0⟩ collItem, s1.gang.ctx)) = some (true, 1) ∧
    seenBy collState ⟨⟨0, 0, 0, true⟩, 1, 0⟩ collItem (fun s1 => engFx s1 5 (clSrc collItem 0) (clDst collItem 2)) = some none ∧
    linkUp collState 6 = true ∧ collState.dark = [] ∧ partOf 0 = .core 0 ∧ partOf 0xFF = .peer 0 := by decide +kernel

/-- A load of a tile from an address that the context does not map, and from one above the global space. -/
theorem witness_failedItems :
    (canEnd (itemState (.acld 3 0x8000000000 0) id) ItemOp.isAcld (fun x i => (match acldWork x ⟨⟨0, 0, 0, true⟩, 1, 0⟩ i with
      | .page _ => !stagedFull x (itemDie x) && decide (x.pageWaits = [])
      | _ => false) )) = true ∧
    (canEnd (itemState (.acld 3 0x8000000000 0) (fun s => { s with staged := List.replicate 512 (issuerRec s (fx .trap) none) })) ItemOp.isAcld
      (fun x i => (match acldWork x ⟨⟨0, 0, 0, true⟩, 1, 0⟩ i with
      | .page _ => stagedFull x (itemDie x)
      | _ => false) )) = true ∧
    (canEnd (itemState (.acld 3 0x1001 0) id) ItemOp.isAcld (fun x i => (match acldWork x ⟨⟨0, 0, 0, true⟩, 1, 0⟩ i with
      | .fail st _ _ _ _ => decide (st = .align) && !stagedFull x (itemDie x)
      | _ => false) )) = true := by decide +kernel

/-- A step of one row on slots 0 and 1 of the stream, and the engine of core 0 about to run it. -/
def stepOp : ItemOp := .mx 0 mxDesc 0 1 0 0 0 false 0 0 0 1
def stepStateOf (op : ItemOp) (latched running : Bool) (fail : Option (Status × Fx × Bool)) : State :=
  let s := itemState op (fun s => claimSlot (claimSlot s 0 0 false) 1 1 true)
  let x : Running := ⟨⟨⟨0, 0, 0, true⟩, 1, 0⟩, some 0, if latched then some (.dense, .empty 8, .empty 8) else none, false,
    if running then some (.dense, .empty 8, .empty 8) else none, ⟨[(0, 3), (4, 2)], [(3, 1)], 6, 2⟩, fail, []⟩
  setRun { s with clock := 1000 } 0 (fun c => if running then { c with run := some x } else { c with nxt := some x })

def stepState := stepStateOf stepOp

/-- The crew of the step is loaded, and its item has a property. -/
def stepItem (s : State) (p : State → Item → Bool) : Bool :=
  (focusCrew s 0 0).any (fun s1 => (itemOf s1 ⟨⟨0, 0, 0, true⟩, 1, 0⟩).any (p s1))

theorem witness_stepsBegin : (coreOf (stepState true false none) 0).nxt.isSome = true ∧ (coreOf (stepState true false none) 0).run = none ∧
    stepItem (stepState false false none) (fun s1 i => copied s1 ⟨⟨0, 0, 0, true⟩, 1, 0⟩ i i.op.slotsAB.2) = true ∧
    (coreOf (stepState false false none) 0).nxt.any (fun x => passed (stepState false false none) 0 x 16) = true ∧
    stepItem (stepState true false none) (fun s1 i => copied s1 ⟨⟨0, 0, 0, true⟩, 1, 0⟩ i i.op.slotsAB.1 && decide (i.page = none) &&
      acqOk s1 ⟨⟨0, 0, 0, true⟩, 1, 0⟩ i && (match fetchBudgets (atWork s1 i) i.op with
        | (t, .go bs) => (match prepStep t i.op .dense false bs with
          | .go _ => true
          | _ => false)
        | _ => false)) = true := by decide +kernel

theorem witness_stepsEnd : (coreOf (stepState true true none) 0).run.any (fun x => passed (stepState true true none) 0 x x.plan.cycles &&
      !passed { stepState true true none with clock := 0 } 0 x x.plan.cycles) = true ∧
    stepItem (stepState true true none) (fun s1 i => !i.rel && !stagedFull s1 (itemDie s1) && !tilesBad s1 i.op &&
      (match prepRows i.op .dense (.empty 8) [] with
        | .go _ => true
        | _ => false)) = true ∧
    stepItem { stepStateOf (.mx 0 mxDesc 0 1 1 0 0 false 0 0 0 1) true true none with damaged := [.tile 0 0 0 0] } (fun s1 i => tilesBad s1 i.op) = true ∧
    (coreOf (stepState true true (some (.termFormat, fx .termFormat, false))) 0).run.any (fun x =>
      decide (x.fail = some (.termFormat, fx .termFormat, false))) = true := by decide +kernel
/-! ### The dispatcher, leases and power -/

/-- The group and its crew put back, an event's operands given, after a change. -/
def rested (f : State → State) (ev : Ev) : State := { unfocusCrew (unfocusSplit (f gs)) with ev := ev }

/-- A record of one class, and a crew that holds n of them. -/
def spawned (p : BitVec 64) : SpawnRec := ⟨p, 0, 0, ⟨0, 5, none⟩, none, [7, 8], []⟩
def withRecs (n : Nat) : State := rested (fun s => setOwn s (fun c => { c with recs := spawned 0x300 :: List.replicate n (spawned 0x200) })) .zero

theorem witness_groupFormer : ([32, 33].all (fun n => inCrew (withRecs n) (fun s1 =>
    let s2 := if autoFlush s1.crew then { s1 with crew := flushPoint s1.crew } else s1
    decide (firstClass (readyClasses s2.crew) = some ⟨0x200, 0, none⟩) && decide (lowestFree (slotsUsed s2 s2.crew.core) 0 64 = some 1) &&
    decide (lowestFree ((liveGroups s2.crew).map (fun x => x.no)) s2.gang.pkt.crew (64 - s2.gang.pkt.crew) = some 1) &&
    decide (regBytes s2 s2.crew.core + regsOf s2 * 128 ≤ 512 * 1024)))) = true := by decide +kernel

/-- Nothing resident, and a grid whose one gang waits for a place. -/
def offering : State := { gs with gangs := [], grids := [(0, { progGrid with next := 0 })], ev := { Ev.zero with n := 1 } }

theorem witness_gangsPlaced : (aget offering.ctxs 1 = some progCtx ∧ progCtx.st = .running ∧ progCtx.image = []) ∧
    offering.halted = false ∧ ctxStops offering 1 = false ∧ (offered offering 1).any (fun x => decide (x = (0, { progGrid with next := 0 }))) = true ∧
    spotFor offering (clustersOf offering 0) (wantNew progPacket) = some 1 ∧ gated offering 0 = false := by decide +kernel

/-- The gang's crew with its only group and its stream ended. -/
def endedCrew (c : Nat × Crew) : Nat × Crew :=
  (c.1, { c.2 with strm := { c.2.strm with st := .ended }, groups := c.2.groups.map (fun y => (y.1, { y.2 with splits := [] })) })

theorem witness_gangsEnd : ((rested id .zero).gangs.map (fun (g : Nat × Gang) => (g.1, { g.2 with crews := g.2.crews.map endedCrew }))).any
      (fun g => decide (g.1 = 0) && g.2.crews.all (fun c => c.2.over && c.2.quiet)) = true ∧
    (aget (rested id .zero).gangs 0).any (fun g => !g.crews.all (fun c => c.2.over && c.2.quiet)) = true := by decide +kernel

/-- The request waits at its sender until the clock is at `due`; the queue it is for is full or not. -/
def refusedState (full : Bool) (due : Nat) : State :=
  let q := if full then [(0, List.replicate 16 refusedReq)] else []
  { keepingReq 1 due with clusters := [(0, { Cluster.zero with queues := q })], ev := .zero }

theorem witness_refusals : ([false, true].all (fun full => let s := refusedState full 0
    decide (s.naks[0]? = some ⟨.lease 0 0 refusedReq, 1, 0⟩) && decide (s.naks.filter (fun x => x.msg.sameFlow (.lease 0 0 refusedReq)) =
      [⟨.lease 0 0 refusedReq, 1, 0⟩]) && decide (0 ≤ s.clock.toNat) &&
    decide ((resendOne { bump s 0 0x23 1 with naks := s.naks.erase ⟨.lease 0 0 refusedReq, 1, 0⟩ } (.lease 0 0 refusedReq)).isSome = !full))) = true ∧
    (refusedState false 1).clock.toNat < 1 := by decide +kernel

/-- A request of priority 5 waits at cluster 0, whose engines of its kind are as given. -/
def requesting (es : List (Nat × Engine)) (t : Nat) : State :=
  { gs with clock := BitVec.ofNat 64 t, clusters := [(0, { Cluster.zero with engines := es, queues := [(0, [refusedReq])] })], ev := .zero }

/-- An engine leased at priority 1 since cycle 0. -/
def heldEngine : Engine := { Engine.zero with power := .lit, lease := some (3, 1, 0, ⟨0, 0, 0, false⟩, 2) }

theorem witness_leasesGranted : headsOf (clusterOf (requesting [] 1) 0) 1 = [refusedReq] ∧
    (clusterOf (requesting [] 1) 0).roundAt < (requesting [] 1).clock.toNat ∧ (clusterOf (requesting [] 0) 0).roundAt = 0 ∧
    freeEngine (clusterOf (requesting [(2, { Engine.zero with power := .lit })] 0) 0) 0 .lit = some 2 ∧
    freeEngine (clusterOf (requesting [(1, { Engine.zero with power := .dim })] 0) 0) 0 .lit = none ∧
    freeEngine (clusterOf (requesting [(1, { Engine.zero with power := .dim })] 0) 0) 0 .dim = some 1 ∧
    freeEngine (clusterOf (requesting [] 0) 0) 0 .lit = none ∧ freeEngine (clusterOf (requesting [] 0) 0) 0 .dim = none ∧
    freeEngine (clusterOf (requesting [] 0) 0) 0 .dark = some 0 ∧ poweredCount (clusterOf (requesting [] 0) 0) < 8 := by decide +kernel

/-- All four engines of the kind held: none is free, and after 10 µs and not before the lowest is the victim. -/
def heldAll (t : Nat) : State := requesting [(0, heldEngine), (1, heldEngine), (2, heldEngine), (3, heldEngine)] t

theorem witness_leaseEvicted : headsOf (clusterOf (heldAll 16000) 0) 16000 = [refusedReq] ∧
    ([Power.dark, .dim, .lit].all (fun p => decide (freeEngine (clusterOf (heldAll 16000) 0) 0 p = none))) = true ∧
    victim (heldAll 16000) (clusterOf (heldAll 16000) 0) [0, 1, 2, 3] 5 = some 0 ∧
    victim (heldAll 15999) (clusterOf (heldAll 15999) 0) [0, 1, 2, 3] 5 = none := by decide +kernel

theorem witness_engineTimers :
    let e := fun (x : Engine) (t : Nat) => engOf (clusterOf (requesting [(0, x)] t) 0) 0
    let waking : Engine := { Engine.zero with waking := true }
    (e waking 0).waking = true ∧ (e waking 0).lease = none ∧ (e { heldEngine with waking := true } 0).lease.isSome = true ∧
    (e heldEngine 0).waking = false ∧ leaseIdle (requesting [(0, heldEngine)] 32000) heldEngine = true ∧
    dimIdleOf gs 0 = 20 ∧ 0 + 1600 * 20 ≤ (requesting [(0, heldEngine)] 32000).clock.toNat ∧
    (requesting [(0, heldEngine)] 31999).clock.toNat < 0 + 1600 * 20 ∧
    (e { Engine.zero with power := .dim } 0).power = .dim ∧ (e { heldEngine with lrel := true } 0).lrel = true ∧
    leaseIdle (itemState (.ecmd 0 3 0 0 0 0 0 0 0) id) { heldEngine with lease := some (3, 1, 0, ⟨0, 0, 0, true⟩, 2) } = false := by
  decide +kernel

theorem witness_residency : let s := { gs with clock := 16000, ev := { Ev.zero with n := 23, v := 1000, m := 60 } }
    (clusterOf s 23).rglAt < s.clock.toNat / 16000 ∧ ¬ therm s 1 8 ≤ s.ev.m ∧ s.field (regCLPWR 23) 26 12 ≠ 0 ∧
    8 * 1000 < 7 * (1000 * s.field (regCLPWR 23) 26 12) ∧ therm s 1 8 = 100 ∧ s.ev.m < 256 ∧
    ¬ (s.clock.toNat / 16000 ≤ (clusterOf s 23).rglAt) ∧ gs.clock.toNat / 16000 ≤ (clusterOf gs 23).rglAt := by decide +kernel

theorem witness_clusterGates : let o := regCLPWR 5
    (gs.field o 38 10 ≠ 0 ∧ gated gs 5 = false ∧ clusterIdle gs 5 = true ∧ (clusterOf gs 5).placing = none) ∧
    (clusterOf gs 5).busyAt + 1600 * gs.field o 38 10 ≤ ({ gs with clock := 2 ^ 30 } : State).clock.toNat ∧
    gs.clock.toNat < (clusterOf gs 5).busyAt + 1600 * gs.field o 38 10 ∧
    (clusterOf (setCluster gs 5 { Cluster.zero with placing := some 0 }) 5).placing = some 0 := by decide +kernel

theorem witness_boost : (aget gs.boostAt 1).all (fun t => t < gs.clock.toNat / 16000) = true ∧ gs.field (regPERMIT 1) 0 7 ≤ 64 ∧
    claims gs 1 = [] ∧ claims (gs.setField (regBOOSTCTL 12) 0 1 1) 1 = [0] ∧
    boosted ((gs.setField (regCLSTAT 12) 10 2 2)) 1 = true := by decide +kernel

/-- A gang that is to move from cluster 0, which is hot, and whose issuers have stopped. -/
def hotState (halt : Bool) (t : Nat) : State :=
  let s := rested (fun s => setHold s (.bar 0 0)) .zero
  { (s.setField (regCLSTAT 0) 13 8 100).setField (regCLSTAT 1) 13 8 60 with
    clock := BitVec.ofNat 64 t, gangs := s.gangs.map (fun g => (g.1, { g.2 with halt := halt })),
    clusters := [(0, { Cluster.zero with hotSince := some 0 })] }

theorem witness_hotSpots : (migrating (hotState true 0) 0).any (fun x => decide (x.1 = 0) &&
      decide ((coolSpot (hotState true 0) 0 x.1 x.2) = some 16)) = true ∧
    gangQuiet (hotState true 0) 0 = true ∧ gated (hotState true 0) 1 = false ∧ (hotState true 0).lines = [] ∧
    migrating (hotState false 0) 0 = none ∧ (migrant (hotState false 0) 0).isSome = true ∧
    (clusterOf (hotState false 0) 0).hotSince = some 0 ∧ (hotState false 159999).clock.toNat < 0 + 160000 ∧
    stagedFull (hotState false 0) 0 = false ∧ aget (hotState false 0).darkening 1 = none ∧ 1 ∉ (hotState false 0).dark ∧
    gangsOnDie (hotState false 0) 1 = [] := by decide +kernel

theorem witness_watchdogs : let s := { gs with dogs := [(23, 0), (24, 0)], ev := { Ev.zero with n := 23 } }
    stagedFull s 0 = false ∧ aget s.dogs 23 = some 0 ∧ aget s.dogs 24 = some 0 ∧ s.clock.toNat < 0 + 1600000 ∧
    0 + 1600000 ≤ ({ s with clock := 1600000 } : State).clock.toNat ∧ 23 % 256 < 24 ∧ 24 ≤ 24 % 256 := by decide +kernel
/-! ### The driver, compression and the AMB -/

/-- The host link up, and an event's operands. -/
def host (v : BitVec 64) (n : Nat) (f : State → State) : State :=
  let s := f (rested id .zero)
  { s with regs := aput (regLSTAT 1) 2 s.regs, ev := { Ev.zero with v := v, n := n } }

theorem witness_translations : let s := rested id { Ev.zero with n := 1, m := 1, v := 0x1000 }
    s.ev.v.toNat < globalTop ∧ s.ev.item.ix < 192 ∧ (aget s.ctxs 1).any (fun c => match walk s 0x1000 5 (physKey c.rootSpace c.root) with
      | .leaf e lg (some a) => (leafLoc s c 0x1000 .write e lg).toBool && decide (bitsOf e 61 1 = 1) &&
        (match walk { s with mem := memPut s.mem 8 a (e - 2 ^ 61) } 0x1000 5 (physKey c.rootSpace c.root) with
        | .leaf e' _ _ => decide (bitsOf e' 61 1 = 0)
        | _ => false)
      | _ => false) = true ∧
    (ptrFind [⟨0, 1, 3, 0, physKey 0 progTable⟩] 0 1 0x1000).any (fun p => match walk s 0x1000 (p.level + 1) p.tab with
      | .leaf _ lg _ => lg = 39
      | _ => false) = true ∧
    linkUp (host 0 0 id) 1 = true ∧ linkUp s 1 = false ∧ bitsOf (0x2000 : BitVec 64).toNat 12 2 = 2 := by decide +kernel

theorem witness_invalidation : let s := { rested id .zero with tlbi := [(0x1001, 0), (0x3000, 0), (5 * 2 ^ 14, 0)] }
    s.tlbi = (0x1001, 0) :: [(0x3000, 0), (5 * 2 ^ 14, 0)] ∧ bitsOf (0x1001 : BitVec 64).toNat 12 2 = 1 ∧
    bitsOf (0x3000 : BitVec 64).toNat 12 2 = 3 ∧ bitsOf (5 * 2 ^ 14 : BitVec 64).toNat 14 3 = 5 := by decide +kernel

/-- A group that waits for page 7 of context 1 under replay identity 4. -/
def pageHeld (v : BitVec 64) : State :=
  host v 0 (fun s => { s with pageWaits := [⟨4, 0, 1, 7⟩] })

theorem witness_faultResponses : linkUp (pageHeld 4) 1 = true ∧ respOk (pageHeld 4) = true ∧ respOk (pageHeld (4 + 2 ^ 32)) = true ∧
    bitsOf (4 : BitVec 64).toNat 32 1 = 0 ∧ bitsOf (4 + 2 ^ 32 : BitVec 64).toNat 32 1 = 1 ∧ respOk (pageHeld 5) = false ∧
    (setHold gs (.page 4 (fx .page))).split.hold = .page 4 (fx .page) := by decide +kernel

/-- A record staged for context 1, whose buffer has taken n records of which the driver has read none. -/
def stagedState (n : Nat) : State :=
  { rested id { Ev.zero with n := 1 } with staged := [{ issuerRec gs (fx .trap) none with dest := some 1 }],
                                           ctxs := [(1, { progCtx with put := n })] }

theorem witness_faultRecord : ([62, 63].all (fun n => decide ((stagedState n).ev.flag = false) &&
      ((stagedState n).staged.find? (fun x => x.dest = some 1)).isSome &&
      decide ((n < memNat (stagedState n).mem 8 (physKey 0 0x40000 + 8) + (2 ^ 6 - 1)) ↔ n = 62))) = true := by decide +kernel

theorem witness_heatAndKeys : linkUp (host 2 0 id) 1 = true ∧ bitsOf (2 : BitVec 64).toNat 1 1 = 1 ∧ bitsOf (1 : BitVec 64).toNat 0 1 = 1 ∧
    (host 0x400 0 id).reg regKEYSTAT % 2 = 0 ∧ bitsOf (0x400 : BitVec 64).toNat 10 2 = 1 ∧ bitsOf (0x800 : BitVec 64).toNat 10 2 = 2 ∧
    bitsOf (0x100 : BitVec 64).toNat 8 2 = 1 ∧ bitsOf (0x200 : BitVec 64).toNat 8 2 = 2 ∧
    (host 0 0 (fun s => s.setReg regKEYSTAT 1)).reg regKEYSTAT % 2 = 1 ∧ (host 0 0 (fun s => s.setReg regHEATSTAT 1)).reg regHEATSTAT % 2 = 1 ∧
    (host 0 0 id).reg regHEATSTAT % 2 = 0 := by decide +kernel

/-- Stack 0 compressed with an aperture of 1 GiB and its table at 16 MiB; block 3 has a dirty byte, and an allotment of n
sectors. -/
def compressed (n : Nat) (x : BitVec 8) : State :=
  let s := (host 0 0 id).setReg (regCMP 0 0) 3 |>.setReg (regCMP 0 8) (2 ^ 24)
  { s with mem := memPut s.mem 8 (physKey 0 (2 ^ 24) + 4) (n * 2 ^ 12), dirty := [(blkByte 0 3 17, (0, x))], ev := { Ev.zero with n := 0, m := 3 } }

theorem witness_blocksWritten : ([0, 8].all (fun n => let s := compressed n 0xA5
      backed s 1 (keyAddr (blkByte 0 3 0)) && hasDirty s 0 3 && !stagedFull s 0 && !keptMsg s (.grow (blockSlice s 0 3) 0 3) && !flowBusy s (.grow (blockSlice s 0 3) 0 3) && !growStalls s 0 &&
      decide (allotOf s 0 3 = n) && decide (sectorsOf (newImage s 0 3) ≤ allotOf s 0 3 ↔ n = 8) &&
      decide (aget s.overflow (blkId 0 3) = none) && decide (lowestFree ((ovflOf s 0).map (fun x => x.2.1)) 0 64 = some 0))) = true ∧
    lowestFree (List.range 64) 0 64 = none := by decide +kernel

theorem witness_compressionCommands : linkUp (host 0 0 id) 1 = true ∧ (host 0 0 id).field (regCMP 0 0) 0 1 = 0 ∧
    bitsOf (3 : BitVec 64).toNat 0 1 = 1 ∧ bitsOf (3 : BitVec 64).toNat 1 9 = 1 ∧ tableFits (host 0 0 id) 0 1 = true ∧
    tableFits (host 0 0 id) 0 256 = true ∧ stackOff (host 0 0 id) 0 = false ∧ (host 0 0 id).field (regCMP 0 0x28) 0 1 = 0 ∧
    ((compressed 8 1).setField (regCMP 0 0x28) 0 1 1).field (regCMP 0 0x28) 0 1 = 1 ∧
    (compressed 8 1).field (regCMP 0 0) 1 9 * 262144 = 262144 ∧ bitsOf (2 ^ 32 * 262144 : BitVec 64).toNat 32 32 = 262144 ∧
    bitsOf (2 + 2 ^ 32 * 262143 : BitVec 64).toNat 32 32 < 262144 ∧
    ((List.range 16).all (fun b => decide ((heldSectors (compressed 8 1) 0 (16 * 5 + b)).length ≤ 8))) = true ∧
    (0 : BitVec 64).toNat % 2 ^ 32 + 16 * 8 ≤ 2 ^ 31 := by decide +kernel

theorem witness_storedForm : (List.replicate 256 (0x5A : BitVec 8)).length = 256 := by decide +kernel

/-! ### Contexts -/

theorem witness_partitionMap : linkUp (host 0 0 id) 1 = true ∧ ownValid 0 = true ∧ ownValid 0x76543210 = true ∧ ownValid 8 = false ∧
    (runningOn (host 0 0 id) 0).isSome = true ∧ (runningOn (host 0 0 id) 1).isSome = false := by decide +kernel

/-- Context 1 in a state, its work record at 0x50000 and its memory record at 0x51000. -/
def ctxIn (st : CtxState) (v : BitVec 64) : State :=
  host v 0 (fun s => { s with
    mem := memPutBytes (memPutBytes s.mem 0x50000 (natBytes 8 0x51000 ++ natBytes 8 0x100000 ++ natBytes 4 (imageKiB 3) ++ [3, 0])) 0x51000
      (natBytes 8 0x10000 ++ natBytes 8 0x40000 ++ [6, 0] ++ natBytes 2 0xFFFF),
    ctxs := [(1, { progCtx with st := st, workRec := 0x50000, memRec := 0x51000 })], regs := aput regCTXARG 0x50000 s.regs })

theorem witness_contextStarts : linkUp (ctxIn .idle 0x11) 1 = true ∧ (ctxIn .idle 0x11).cmd = none ∧
    ({ ctxIn .idle 0x11 with cmd := some (0, none) } : State).cmd ≠ none ∧ (0xA : BitVec 64).toNat % 16 = 10 ∧
    bitsOf ((host 0 0 (fun s => s.setReg regCTXARG (2 ^ 32))).reg regCTXARG) 32 1 = 1 := by decide +kernel

theorem witness_contextActs : cmdCtx 0x12 = 1 ∧ cmdPart 0x12 = 0 ∧
    (let s := { ctxIn .idle 0x11 with ctxs := [] }; aget s.ctxs 1 = none ∧ (readWorkRec s (s.reg regCTXARG) .fresh).isSome = true ∧
      readWorkRec s 0x50001 .fresh = none) ∧
    (([CtxState.idle, .saved].all (fun st => let s := ctxIn st 0x12
      (aget s.ctxs 1).any (fun c => decide (c.st = st) && decide (runningOn s 0 = none) &&
        (readRecs s c).any (fun c1 => decide (partCheck s 0 c1.psize = none))))) = true) ∧
    (aget (ctxIn .running 0x12).ctxs 1).any (fun c => decide (c.st = .running)) = true ∧
    1 ∉ (ctxIn .idle 0).dark ∧ aget (ctxIn .idle 0).darkening 1 = none ∧
    (aget ({ ctxIn .idle 0 with darkening := [(1, (0, some 0))] } : State).darkening 1).isSome = true := by
  decide +kernel

/-- Context 2, saved, may be swapped in for context 1. -/
def swapping : State :=
  let s := ctxIn .running 0x24
  { s with ctxs := s.ctxs ++ [(2, { progCtx with st := .saved, workRec := 0x50000, memRec := 0x51000 })] }

theorem witness_swapAndPrestage : cmdCtx 0x24 = 2 ∧ (aget swapping.ctxs 2).any (fun c => decide (c.st = .saved) &&
      (readRecs swapping c).any (fun c1 => decide (c1.psize = 3))) = true ∧
    (runningOn swapping 0).any (fun x => decide (x.1 = 1 ∧ x.2.psize = 3)) = true ∧ partCheck swapping 0 3 = none ∧
    carveFit [] (10 * 16384) (imageKiB 0) = some 0 := by decide +kernel

/-- The group's split, stopped by record 9 with a cause. -/
def stoppedState (c : Cause) : State := rested (fun s => setSplit s (fun x => { x with stop := some (9, c) })) .zero

theorem witness_fltact : findStopped (stoppedState .trap) 1 9 = some (0, 0, .trap) ∧
    findStopped (stoppedState .prot) 1 9 = some (0, 0, .prot) ∧ findStopped (stoppedState .trap) 1 8 = none := by decide +kernel

theorem witness_dieon : let s := { ctxIn .idle 0x1000A with dark := [1] }
    cmdDie s.ev.v = 1 ∧ 1 ∈ s.dark ∧ ((List.range 12).all (fun i => decide (tjOf s (12 * 1 + i) < therm s 1 0))) = true ∧ s.ev.flag = false ∧
    ((List.range 4).all (fun i => decide (s.stackTj.getD (4 * 1 + i) 0 < 16 * (therm s 1 0 : Int)))) = true ∧
    16 * (therm s 1 0 : Int) ≤ ({ s with stackTj := [0, 0, 0, 0, 0, 1520, 0, 0] } : State).stackTj.getD (4 * 1 + 1) 0 := by
  decide +kernel

theorem witness_contextEnds :
    ({ gs with cmd := some (0x13, some 2) } : State).cmd = some (0x13, some 2) ∧
    (let s := { rested id .zero with cmd := some (0x13, none), gangs := [] }
     cmdOp 0x13 = 3 ∧ (aget s.ctxs (cmdCtx 0x13)).isSome = true ∧ s.lines = [] ∧ (gangsOf s 1).all (gangQuiet s) = true) ∧
    (gangsOf (rested id .zero) 1).all (gangQuiet (rested id .zero)) = true ∧
    (let s := itemState stepOp (fun s => claimSlot (claimSlot s 0 0 false) 1 1 true)
     (gangsOf (setRun s 0 (fun c => { c with run := some ⟨⟨⟨0, 0, 0, true⟩, 1, 0⟩, some 0, none, false, none, .zero, none, []⟩ })) 1).all (gangQuiet s) = false) := by
  decide +kernel

theorem witness_darkDies : aget ({ gs with darkening := [(1, (0, none))] } : State).darkening 1 = some (0, none) ∧
    0 + 320000 ≤ ({ gs with clock := 320000 } : State).clock.toNat ∧ gs.clock.toNat < 0 + 320000 ∧
    1 ∉ (rested id .zero).dark ∧ gangsOnDie (rested id .zero) 1 = [] ∧ (rested id .zero).lines = [] := by decide +kernel

/-! ### Launch queues and completion records -/

/-- Host queue 5 enabled with 16 entries, its PUT and GET at n. -/
def lqState (n : Nat) (v : BitVec 64) : State :=
  host v 5 (fun s => ((s.setReg (regLQ 5 8) (1 + 2 * 4 + 3 * 2 ^ 32)).setReg (regLQ 5 0x10) n).setReg (regLQ 5 0x18) n)

theorem witness_launchQueues : linkUp (lqState 3 20) 1 = true ∧ (lqState 3 20).reg (regLQ 5 0x10) = 3 ∧
    2 ^ (lqState 3 20).field (regLQ 5 8) 1 4 < (20 + 2 ^ 64 - (lqState 3 20).reg (regLQ 5 0x18)) % 2 ^ 64 ∧
    (19 + 2 ^ 64 - (lqState 3 19).reg (regLQ 5 0x18)) % 2 ^ 64 ≤ 2 ^ (lqState 3 19).field (regLQ 5 8) 1 4 ∧
    (lqState 3 19).reg (regLQ 5 0x10) ≤ 19 ∧ (lqState 3 19).visible = [] ∧ (lqState 3 0).field (regLQ 5 8) 0 1 = 1 ∧
    (host 0 5 id).field (regLQ 5 8) 0 1 = 0 := by decide +kernel

/-- A grid that has ended, with its record's address; context 1's page maps the first 512 GiB. -/
def finishedGrid (a : BitVec 64) : State :=
  { lqState 0 0 with grids := [(5, { progGrid with fin := true, q := 5, pkt := { progPacket with caddr := a } })], ev := { Ev.zero with n := 5 } }

theorem witness_completionRecords : (aget (finishedGrid 0x60000).grids 5).any (fun g => g.fin && g.page.isNone && !g.dev && decide (g.q = 5)) = true ∧
    stagedFull (finishedGrid 0x60000) 0 = false ∧ regionOf 0x60000 = .global ∧
    (match (List.range 32).mapM (fun i => translate (finishedGrid 0x60000) 1 (0x60000 + i) .write) with
      | .ok _ => true
      | .error _ => false) = true ∧ (finishedGrid 0x60000).lines = [] ∧ 5 ∉ (finishedGrid 0x60000).qsig ∧
    (finishedGrid 0x60000).field (regLQ 5 8) 32 16 = 3 ∧ regionOf 0x8000000000 = .global ∧
    (match (List.range 32).mapM (fun i => translate (finishedGrid 0x60000) 1 (0x8000000000 + i) .write) with
      | .error .page => true
      | _ => false) = true ∧ (finishedGrid 0).pageWaits = [] ∧ regionOf (2 ^ 60) ≠ .global := by decide +kernel

theorem witness_bufferRegisters : linkUp (host 0 1 id) 1 = true ∧ (host 0 1 id).field (regCARVE 1) 16 12 = 0 ∧
    (host 0 1 (fun s => s.setReg (regCARVE 1) (2 ^ 16))).field (regCARVE 1) 16 12 ≠ 0 := by decide +kernel

/-! ### The AMB -/

/-- An image's first bytes: MAGIC, version, kind, number 3, key 0, a body of 64 bytes. -/
def imageHead (k : Nat) : List (BitVec 8) :=
  natBytes 4 0x5746375A ++ natBytes 2 1 ++ natBytes 2 k ++ natBytes 4 3 ++ natBytes 4 0 ++ natBytes 8 64

/-- A set of four images, and a package whose key 0 has digests of zeros. -/
def imageSet : Store 8 := (List.range 4).foldl (fun m k => memPutBytes m (k * imageSize 64) (imageHead (k + 1))) (.empty 8)
def ambState (a b : Store 8) (act pend tried : Bool) : State :=
  { host 0 0 id with keyDigests := [(0, List.replicate 96 0)],
                     amb := { Amb.zero with slotA := a, slotB := b, activeB := act, pend := pend, tried := tried, serving := true, booted := some false } }

/-- The digest and signature functions are constants without a body (log 4): where they give zeros and accept, the set
verifies, so the statements about a set that verifies are about some package. -/
theorem witness_verifies (h : ∀ x, Config.sha384 x = List.replicate 48 0) (he : ∀ p m g, Config.edVerify p m g = true)
    (hm : ∀ p m g, Config.mlVerify p m g = true) : ∀ pend ∈ [false, true],
    verifySet (ambState imageSet imageSet false pend false) imageSet = verifyOk := by
  simp only [verifySet, verifyFrom, verifyImage, h, he, hm]
  decide +kernel

theorem witness_bootSlots : let s := ambState (.empty 8) (.empty 8) false true true
    s.amb.pend = true ∧ verifySet s (s.amb.slot false) ≠ verifyOk ∧ verifySet s (s.amb.slot true) ≠ verifyOk ∧ s.amb.serving = true ∧
    (ambState (.empty 8) (.empty 8) false false false).amb.pend = false ∧ s.amb.booted.isSome = true ∧
    s.ambTime < 0 + 960000000000 ∧ s.ambTime ≤ 0 + 960000000000 := by decide +kernel

theorem witness_packageResets : powered (ambState (.empty 8) (.empty 8) false false false) = true ∧ powered State.reset = false ∧
    linkUp (ambState (.empty 8) (.empty 8) false false false) 1 = true ∧ (0x20 : BitVec 64).toNat % 2 ^ 8 = 0x20 ∧
    (ambState (.empty 8) (.empty 8) false false false).amb.recov = false := by decide +kernel

theorem witness_bringUp : let s := fun (n t : Nat) => { State.reset with stage := some (n, 5), ambTime := t }
    (s 1 5).stage = some (1, 5) ∧ (s 7 5).stage = some (7, 5) ∧ 5 + stageLimit 4 ≤ (s 4 (5 + 640000000)).ambTime ∧
    (s 4 (4 + 640000000)).ambTime < 5 + stageLimit 4 ∧ (0xFF : BitVec 64).toNat < 2 ^ 8 ∧ (3 : BitVec 64).toNat < 4 ∧
    (1 : BitVec 64).toNat % 2 = 1 := by decide +kernel

theorem witness_mailbox : let s := ambState (.empty 8) (.empty 8) false false false
    linkUp s 1 = true ∧ s.amb.serving = true ∧ s.amb.recov = false ∧ s.amb.session = none ∧
    (setAmb s (fun a => { a with session := some (false, true) })).amb.session = some (false, !s.amb.activeB) ∧
    (setAmb s (fun a => { a with session := some (false, true) })).amb.session.isSome = true ∧
    (setAmb s (fun a => { a with serving := false })).amb.serving = false ∧ (setAmb s (fun a => { a with recov := true })).amb.recov = true ∧
    (ambState (.empty 8) (.empty 8) false true false).amb.pend = true ∧ s.fuseC < svnOf imageSet ∧
    verifySet s (s.amb.slot true) ≠ verifyOk := by decide +kernel

theorem witness_managementPaths : let s := ambState (.empty 8) (.empty 8) false false false
    s.amb.serving = true ∧ s.ev.n = 0 ∧ s.amb.session = none ∧ s.amb.recov = false ∧
    (setAmb s (fun a => { a with session := some (true, true) })).amb.session = some (true, true) := by decide +kernel

/-- Link k, up, with a number of failed replays. -/
def linkState (k n : Nat) : State := { setLink (host 0 k id) k ⟨n, false, [], 0⟩ with regs := aput (regLSTAT k) 2 (host 0 k id).regs }

theorem witness_links : linkUp (linkState 5 7) 5 = true ∧ (linkOf (linkState 5 7) 5).replays = 7 ∧ (linkOf (linkState 5 6) 5).replays < 7 ∧
    linkUp (host 0 3 id) 3 = false ∧ (linkOf (setLink (host 0 3 id) 3 ⟨0, true, [], 0⟩) 3).auto = true ∧
    (recentFails (host 0 3 id) [0, 0]).length = 2 ∧ (recentFails (host 0 3 id) [0]).length < 2 ∧ linkUp (host 1 15 id) (6 + 15) = false ∧
    linkUp (host 1 15 id) 1 = true ∧ (1 : BitVec 64).toNat % 2 = 1 := by decide +kernel

theorem witness_sensors : let s := ambState (.empty 8) (.empty 8) false false false
    s.amb.serving = true ∧ (firstOut (List.replicate 96 0x8000)).isSome = s.excur ∧ s.excur = false ∧ (0 : BitVec 64).toNat / (64 * gib) < 8 ∧
    s.log.length ≤ 8192 := by decide +kernel

theorem witness_registerWrites : linkUp (host 0 0x2FF8 id) 1 = true ∧ linkUp (rested id .zero) 1 = false ∧ 0x2FF8 = 0x2000 + 8 * 511 ∧
    0x2FF9 % 8 ≠ 0 := by decide +kernel

/-! ### The machine as a whole -/

/-- A program of one SADD, and the state that its first turn loads. -/
theorem witness_steps : let s := placeProgram State.reset [0x04C08418]
    let s0 := { s with agenda := [] }
    s.agenda = [.pipe 0 0] ∧ pipeCands s0 0 0 = [⟨0, 0, some (0, 0)⟩] ∧
    ((load s0 ⟨0, 0, some (0, 0)⟩).any (fun s1 => match fetch s1 with
      | .ok (w, ws) => (match decode w ws with
        | .ok i => (match exec i s1 with
          | .next t => !t.stalled
          | _ => false)
        | _ => false)
      | _ => false)) = true ∧
    pipeCands State.reset 0 0 = [] ∧ State.reset.agenda = [] ∧ (Instr.packetTake).opcode = none := by decide +kernel

theorem witness_stepFaults :
    ((load (placeProgram State.reset [0x00400001]) ⟨0, 0, some (0, 0)⟩).any (fun s1 => match fetch s1 with
      | .ok (w, ws) => (match decode w ws with
        | .error e => !(undecodable e s1).stalled
        | _ => false)
      | _ => false)) = true ∧
    ((load (placeProgram State.reset []) ⟨0, 0, some (0, 0)⟩).any (fun s1 => match fetch (setPc s1 0x8000000000) with
      | .error f => !(takeFault s1 f).stalled
      | _ => false)) = true := by decide +kernel

theorem witness_decodeEncode : wellFormed (.xbtab .seq 3 [0x10, 0xFFFFFFF0]) = true ∧ (Instr.xbtab .seq 3 [0x10, 0xFFFFFFF0]).opcode ≠ none ∧
    (match decode 0x8C048418 [] with
      | .ok _ => true
      | .error _ => false) = true := by decide +kernel

theorem witness_memoryForm : State.reset.mem.wf = true ∧ (placeProgram State.reset [0x04C08418]).mem.wf = true ∧
    (match step (placeProgram State.reset [0x04C08418]) with
      | .next _ => true
      | _ => false) = true := by decide +kernel

/-! ### Hypotheses about gangs, samples, items and failures that the states above do not meet -/

theorem witness_sadv : gs.grp.sib = none ∧ (sibState true).grp.sib = some (6, 1) ∧ sgOf (sibState true) 0 6 = some (sgEntry true) ∧
    sgOf (sibState false) 0 6 = some (sgEntry false) := by decide +kernel

/-- Both siblings of an entry have arrived or are cancelled, or one of them is still awaited. -/
theorem witness_sampleCompletion :
    let all : SgEntry := { sgEntry false with arrived := 1, cancelled := 2 }
    all.complete = false ∧ all.g ≤ 64 ∧ (∀ i < all.g, all.arrived.getLsbD i = true ∨ all.cancelled.getLsbD i = true) ∧
    ¬ (∀ i < (sgEntry false).g, (sgEntry false).arrived.getLsbD i = true ∨ (sgEntry false).cancelled.getLsbD i = true) := by decide +kernel

theorem witness_sampleWaits : sgWait (sibState false) = none ∧ (sgWait { sibState false with shutPorts := [(true, 0)] }).isSome = true ∧
    sgWait forking = none ∧ (sgWait { forking with shutPorts := [(true, 0)] }).isSome = true ∧
    (sgEntry true).deadline ≠ some (ctxTime (sibState true)).toNat ∧ isStream forking = false := by decide +kernel

/-- The stream's guard is no matter, and a bounded line of another operation is not withheld. -/
theorem witness_reductionUpdates : boundMatches .add 6 ⟨0x3F800000, false⟩ = false ∧ boundMatches .min 6 ⟨0x3F800000, true⟩ = false ∧
    locsBound ms [.phys 0x1000 0 none] = none := by decide +kernel

theorem witness_splitOfSram : ∀ t ∈ [1023, 1024], let s : State := { State.reset with clock := BitVec.ofNat 64 t }
    crewsOn s 7 = [] ∧ (coreOf s 7).idleAt = 0 ∧ (coreCycles s 7 < 1024 ∨ 1024 ≤ coreCycles s 7) := by decide +kernel

/-- A gang that has ended but for the batch of its stream. -/
theorem witness_gangsLinger :
    let c := fun (x : Crew) => { x with strm := { x.strm with st := .ended, bat := ⟨1, [oneItem (.swunb 0)], []⟩ }, groups := [], recs := [] }
    (c es.crew).over = true ∧ (c es.crew).quiet = false := by decide +kernel

theorem witness_grantRound : (clusterOf (requesting [] 1) 0).roundAt < 1 ∧
    (List.range 24).all (fun m => let s := requesting [] 1
      let e := engOf (clusterOf s 0) m
      !e.lrel && decide (e.power = .dark)) = true ∧ 0 / 12 ∉ (requesting [] 1).dark ∧
    (requesting [] 0).clock.toNat ≤ (clusterOf (requesting [] 0) 0).roundAt := by decide +kernel

theorem witness_abortedWait : let s := setHold gs (.page 4 { fx .page with cause := .prot })
    isStream s = false ∧ s.stalled = false ∧ stagedFull s (dieOfCore s.crew.core) = false := by decide +kernel

/-- A key command that only waits for its end, and a slot with a dirty line. -/
theorem witness_keyCommands : let s := { (host 0 0 (fun s => s.setReg regKEYSTAT 1)) with keyRun := some (5, none) }
    s.reg regKEYSTAT % 2 = 1 ∧ s.keyRun = some (5, none) ∧ slotDirty s 5 = false ∧
    slotDirty { s with dirty := [(physKey 1 0, (5, 1))] } 5 = true := by decide +kernel

theorem witness_relocation : let s := { compressed 8 1 with cmpRun := [(0, (2 ^ 32 * 5 + 1, 0, 0x8888888888888888))] }
    aget s.cmpRun 0 = some (2 ^ 32 * 5 + 1, 0, 0x8888888888888888) ∧ 5 < s.field (regCMP 0 0) 1 9 * 262144 ∧
    bitsOf (2 ^ 32 * 5 + 1 : BitVec 64).toNat 0 2 = 1 ∧
    ((List.range 16).map (fun b => bitsOf (0x8888888888888888 : BitVec 64).toNat (4 * b) 4)).all (· = 8) = true := by decide +kernel

theorem witness_signals : dispStalls (finishedGrid 0x60000) = false ∧ msiMasked (finishedGrid 0x60000) 3 = true ∧
    msiMasked ((finishedGrid 0x60000).setField (0x300008 + 16 * 3) 32 1 0) 3 = false ∧ ctxAborts (finishedGrid 0x60000) 1 = false := by
  decide +kernel

/-- A line of holder 3, which lies on die 0. -/
theorem witness_discard : lineState.lines = [(40, ⟨1, 0, 0, ⟨1, 0⟩, [(3, ⟨0x8000, 0x7F00, [], 0⟩)]⟩)] ∧ holderDie 3 = 0 ∧ holderDie 3 ≠ 1 ∧
    darkRoom lineState 0 = true ∧ darkRoom { rested id .zero with staged := fullStage.staged } 0 = false ∧ 0 ∉ lineState.dark := by decide +kernel

/-- A sensor of cluster 0 has tripped; die 1 tripped in the same cycle, or not. -/
theorem witness_trips : let s := { hotState false 0 with trip0 := some (0, false), darkening := [(1, (0, some 0))] }
    let hot := s.setField (regCLSTAT 0) 13 8 110
    s.trip0 = some (0, false) ∧ stagedFull s 0 = false ∧ 0 ∉ s.dark ∧ aget s.darkening 0 = none ∧ 110 ≤ tjOf hot 0 ∧
    (aget s.darkening 1 = some (0, some s.clock.toNat)) ∧ aget (hotState false 0).darkening 1 = none ∧ (hotState false 0).trip0 = none ∧
    dieQuiet s 1 = true ∧ darkRoom s 1 = true := by decide +kernel

theorem witness_damage : (Cell.l2 9).lives gs = true ∧ (Cell.vreg 0 0 0 5).lives (rested id .zero) = true ∧
    gs.stalled = false ∧ stagedFull gs (dieOfCore gs.crew.core) = false ∧ .s 3 ∉ (uses gs (.sadd .seq 4 5 6)).writes ∧
    (uses gs (.vadd .seq 9 4 12 0)).writes ≠ [] := by decide +kernel

theorem witness_resets : let s := ambState imageSet imageSet false true false
    s.fresh < 2 ^ 64 ∧ s.corrected = [] ∧ s.amb.session = none ∧ s.amb.booted.isSome = true ∧ s.amb.mbox = none ∧
    (setAmb s (fun a => { a with session := some (true, true) })).amb.session = some (true, true) := by decide +kernel

theorem witness_bootSelect : let s := ambState (.empty 8) (.empty 8) false false false
    (bootSelect s).amb.recov = true ∧ ({ s with stage := some (1, 5) } : State).stage = some (1, 5) := by decide +kernel

/-- The digest and signature functions where they accept, as above: a slot is selected, and stage 1 goes on. -/
theorem witness_bootSelected (h : ∀ x, Config.sha384 x = List.replicate 48 0) (he : ∀ p m g, Config.edVerify p m g = true)
    (hm : ∀ p m g, Config.mlVerify p m g = true) : (bootSelect (ambState imageSet imageSet false false false)).amb.recov = false := by
  have hv := witness_verifies h he hm false (by simp)
  have hp : (ambState imageSet imageSet false false false).amb.pend = false := by decide +kernel
  have ht : (ambState imageSet imageSet false false false).amb.tried = false := by decide +kernel
  have hs : (ambState imageSet imageSet false false false).amb.slot (ambState imageSet imageSet false false false).amb.activeB = imageSet := by
    decide +kernel
  simp only [bootSelect, bootPlain, hs, hp, ht, hv, Bool.false_eq_true, false_and, if_false, if_true]
  rfl

theorem witness_mailboxRuns : let s := ambState (.empty 8) (.empty 8) false false false
    s.amb.mbox = none ∧ (mbRun s 0x500000001 mbOk).amb.mbox = some (5, mbOk) ∧ mbOk < 16 ∧ msiMasked s 1 = true ∧
    msiMasked (s.setField (0x300008 + 16) 32 1 0) 1 = false ∧ (setAmb s (fun a => { a with signed := [1] })).amb.signed ≠ [] ∧
    linkUp { s with regs := [] } 1 = false := by decide +kernel

theorem witness_retrains : let s := setLink (host 0 3 id) 3 ⟨0, true, [], 0⟩
    (3, (⟨0, true, [], 0⟩ : Link)) ∈ s.links ∧ s.field (regLSTAT 3) 0 3 = 0 ∧ (setLinkState s 3 1).field (regLSTAT 3) 0 3 = 1 := by
  decide +kernel

theorem witness_scrubs : let s := { ambState (.empty 8) (.empty 8) false false false with stage := some (2, 0) }
    scrubs s = true ∧ scrubs State.reset = false ∧
    scrubUnit { s with ev := { Ev.zero with n := 1, item := ⟨⟨0, 0, 0, false⟩, 0, 77⟩ } } 1 0 = some (.spad 0 0 77) ∧
    scrubUnit s 1 5 = some (.sram 5 0) ∧ scrubUnit s 1 192 = none ∧ scrubUnit s 2 0 = some (.l2 0) := by decide +kernel

/-- A split whose SLD waits for a page, and what it read at its issue; another that names its destination. -/
def twoSplits : State :=
  setGrp (setSplit gs (fun x => { x with mask := 0xFFFF })) (fun g => { g with splits := [{ Split.zero with
    mask := 0xFFFF0000, hold := .page 4 (fx .page), cap := some ⟨0x0A020008, [], g.v, g.k, g.s, g.mode, gs.crew.f, 0⟩ }] })

theorem witness_pendingWrites : pendingHit twoSplits (.sadd .seq 5 4 1) = true ∧ pendingHit twoSplits (.sadd .seq 5 6 1) = false ∧
    sourceBad { gs with damaged := [.sreg 0 0 0 4] } (.sadd .seq 5 4 1) = true ∧ sourceBad gs (.sadd .seq 5 4 1) = false := by decide +kernel

theorem witness_capture : let s := setSplit gs (fun x => { x with hold := .wait, cap := some ⟨0x22400100, [], gs.grp.v, gs.grp.k, gs.grp.s, 0, gs.crew.f, 0⟩ })
    s.split.cap.any (fun c => match decode c.word c.rest with
      | .ok i => decide (i = .fwait .seq 1)
      | .error _ => false) = true ∧ isStream s = false ∧ holdOf s = .wait := by decide +kernel

theorem witness_collectiveCases : clReady collState ⟨⟨0, 0, 0, true⟩, 1, 0⟩ collItem ≠ none ∧
    clHeld collState ⟨⟨0, 0, 0, true⟩, 1, 0⟩ collItem = none ∧ collFailed collState 1 7 0 0 = false ∧
    collFailed { collState with failedCl := [(1, 7, 0, [5])] } 1 7 0 0 = true := by decide +kernel

theorem witness_ringRoom : ringRoom gs 1 = true ∧ ringRoom { gs with ctxs := [(1, { progCtx with put := 63 })] } 1 = false := by decide +kernel

/-! ### Single steps -/

theorem test_residue_mismatch : let s := { placeProgram State.reset [0x04C08418] with agenda := [.residue 0 0] }
    (match step s with
    | .next t => decide (t.staged.map (fun r => r.cause) = [.residue])
    | _ => false) = true := by decide +kernel

theorem test_host_read : (match step { host 0 0 id with agenda := [.hostRead 0x4040 8] } with
    | .next t => decide (t.reply.length = 8)
    | _ => false) = true := by decide +kernel


/-- Two failed flits of link 3 in a window that has ended (R414 to R416). -/
theorem witness_windowEnds :
    let s := { ambState (.empty 8) (.empty 8) false false false with corrected := [(0x50003, ⟨2, 0, 0, 0, 1⟩)], clock := 1600000000, ambTime := 1600000000 }
    s.amb.serving = true ∧ windowEnded s (0x50003, ⟨2, 0, 0, 0, 1⟩) = true ∧
    (closeWindow s).log.map (fun r => (r.sev, r.cls, r.site, r.count, r.data)) = [(1, 5, 3, 2, 2)] ∧
    windowEnded { s with clock := 1599999999, ambTime := 1599999999 } (0x50003, ⟨2, 0, 0, 0, 1⟩) = false := by decide +kernel

/-- An uncorrectable error in the 64 bytes at SPACE 0 address 0x40 of stack 0, met by an access that names them through no translation, and
one in a register (R415). -/
theorem test_ecc_recorded :
    let s := { ambState (.empty 8) (.empty 8) false false false with bad := [1] }
    keySite s 0x48 = some (3, 0, 0x40) ∧ keySite s 0x88 = none ∧
    (noteEcc s (fx .eccUncorr) false).log.map (fun r => (r.sev, r.cls, r.site, r.count)) = [(3, 1, 0, 1)] := by decide +kernel

/-! ### The clauses added for the third review -/

/-- A loaded link register that is misaligned, and operands of the arming instructions that are out of range. -/
theorem witness_misalignedTargets :
    let s := { gsS 1 0x1000 with mem := memPut (gsS 1 0x1000).mem 8 0x1000 2 }
    accessFx s [⟨0xFF, 0x1000, 8⟩] .read = none ∧ loadAcc (drainAcc s [⟨0xFF, 0x1000, 8⟩] .read) ⟨0xFF, 0x1000, 8⟩ % 4 = 2 ∧
    (active (vput gs 9 3 1)).find? (fun q => decide ([(0 : Word)].length ≤ (vget (vput gs 9 3 1) 9 q).toNat)) = some 3 ∧
    (setSplit gs (fun x => { x with lk := 2 })).split.lk.toNat % 4 ≠ 0 := by decide +kernel

/-- The lanes below n are armed, each toward its own target. -/
def fanned (n : Nat) : State := setArmed gs (some ⟨false, (List.range n).map (fun p => (p, BitVec.ofNat 64 (0x100100 + 64 * p)))⟩)

theorem witness_transferSplits : [0, 1, 3, 4, 5].map (fun n => (pathsOf (fanned n).split ⟨false, (List.range n).map (fun p => (p, BitVec.ofNat 64 (0x100100 + 64 * p)))⟩
      (gs.split.pc + 4)).length) = [1, 2, 4, 5, 6] ∧ (fanned 4).grp.splits = [] ∧ (fanned 4).split.mask ≠ 0 ∧ isStream (fanned 4) = false ∧
    (fanned 4).gang.pkt.spawn * 1024 < ((fanned 4).crew.recs.length + 1) * (32 + 4 * regsOf (fanned 4)) := by decide +kernel

theorem test_transfer_splits : ((after .xfer 4 (fanned 3)).grp.splits.map (fun x => (x.mask, x.pc))).length = 3 ∧
    nxFault .xfer 4 (fanned 4) = some (fx .spawnFull) := by decide +kernel

/-- A former-built group of one lane, whose thread came from lane 5 of group 0, which waits in RWAIT at the same address or does not. -/
def lonely (waits : Bool) : State :=
  let at_ : Split := { Split.zero with mask := 2, pc := gs.split.pc, hold := if waits then .rwait 3 .seq 50 else .none }
  let home : Group := { Group.zero with key := 9, no := 7, lanes := [(5, ⟨7, 5, none⟩)], splits := [at_] }
  setOwn (setGrp (setSplit gs (fun x => { x with mask := 1 })) (fun g => { g with formed := true, splits := [], lanes := [(0, ⟨7, 5, none⟩)] }))
    (fun c => { c with groups := (9, home) :: c.groups })

theorem witness_rwaitHome : [true, false].all (fun w => (lonely w).grp.formed && decide (lanesOf (groupMask (lonely w)) = [0]) &&
      decide (aget (lonely w).grp.lanes 0 = some ⟨7, 5, none⟩) && decide ((lonely w).split.hold = .none) && decide (9 ≠ (lonely w).grp.key)) = true ∧
    (homeOf (lonely true) ⟨7, 5, none⟩ (lonely true).split.pc).map (fun o => o.key) = some 9 ∧
    homeOf (lonely false) ⟨7, 5, none⟩ (lonely false).split.pc = none ∧ nxFault .seq 4 (moveLanes (lonely true)) = none := by decide +kernel

theorem test_rwait_home : ((aget (moveLanes (lonely true)).crew.groups 9).map (fun h => h.splits.map (fun x => x.mask))) = some [0x22] := by
  decide +kernel

/-- Clusters 2 and 5 of die 0 claim at BPRIO 3, and 7 at BPRIO 6 when it joins, with n permits and a tie pointer (the trace of R393). -/
def boosting (joins : Bool) (n ptr : Nat) : State :=
  let s := ((gs.setReg (regBOOSTCTL 2) 7).setReg (regBOOSTCTL 5) 7).setReg (regBOOSTCTL 7) (if joins then 13 else 0)
  { s.setReg (regPERMIT 0) (n + 128 * ptr) with clock := 16000 }

theorem witness_boostTies : claims (boosting false 1 0) 0 = [2, 5] ∧ claims (boosting true 1 6) 0 = [2, 5, 7] ∧
    bprio (boosting true 1 6) 2 = 3 ∧ bprio (boosting true 1 6) 7 = 6 ∧ boosted (boosting true 1 6) 0 = false ∧
    (aget (boosting false 1 0).boostAt 0).all (fun t => t < (boosting false 1 0).clock.toNat / 16000) = true := by decide +kernel

/-- The rows of the trace of R393: the tie at PTR 0 goes to cluster 2 and leaves 3, the one at 3 to cluster 5 and leaves 6. -/
theorem test_boost_ties : grantBoost (boosting false 1 0) 0 [2, 5] 8 1 0 = ([2], 3) ∧ grantBoost (boosting false 1 3) 0 [2, 5] 8 1 3 = ([5], 6) ∧
    grantBoost (boosting true 1 6) 0 [2, 5, 7] 8 1 6 = ([7], 6) ∧ grantBoost (boosting false 3 0) 0 [2, 5] 8 3 0 = ([2, 5], 0) := by
  decide +kernel

/-- All eight powered engines of a cluster, dim or lit, leased at a priority or not; and a request for kind 2. -/
def eightPowered (p : Power) (l : Option Nat) : Cluster :=
  { Cluster.zero with engines := (List.range 8).map (fun n => (n, { Engine.zero with power := p, lease := l.map (fun q => (n, q, 0, ⟨0, 0, 0, false⟩, 2)) })) }

theorem witness_leaseOrder : poweredCount (eightPowered .dim none) = 8 ∧ spareEngine (eightPowered .dim none) = some 0 ∧
    spareEngine (eightPowered .lit (some 1)) = none ∧ freeEngine (eightPowered .lit (some 1)) 2 .dark = some 8 ∧
    victim { gs with clock := 16000 } (eightPowered .lit (some 1)) (List.range 24) 4 = some 0 ∧
    victim { gs with clock := 15999 } (eightPowered .lit (some 1)) (List.range 24) 4 = none ∧
    headReq [refusedReq, { refusedReq with prio := refusedReq.prio + 1 }, { refusedReq with prio := refusedReq.prio + 1, ent := 9 }] =
      some { refusedReq with prio := refusedReq.prio + 1 } := by decide +kernel

theorem witness_relocationEnds : let s := fun (a1 : BitVec 64) => { compressed 8 1 with cmpRun := [(0, (2 ^ 32 * 5 + 1, 0, a1))], forms := [(blkId 0 80, 3)] }
    (heldSectors (s 2) 0 80).length = 3 ∧ bitsOf (2 : BitVec 64).toNat 0 4 = 2 ∧ bitsOf (9 : BitVec 64).toNat 0 4 = 9 ∧
    ¬ (2 ^ 31 - 1 + 2 ≤ 2 ^ 31) := by decide +kernel

/-- A RELOC that leaves a block too few sectors ends TOOSMALL, and one with an allotment of 9 ends BADARG (R367). -/
theorem test_relocation_ends : let s := fun (a1 : BitVec 64) => { compressed 8 1 with cmpRun := [(0, (2 ^ 32 * 5 + 1, 0, a1))], forms := [(blkId 0 80, 3)] }
    (finishCmp (s 2) 0).field (regCMP 0 0x28) 1 2 = 1 ∧ (finishCmp (s 9) 0).field (regCMP 0 0x28) 1 2 = 2 := by decide +kernel

theorem witness_limits : let s := fun (t : Nat) => { State.reset with stage := some (4, 5), ambTime := t }
    (s (5 + 640000000)).ambTime ≤ 5 + stageLimit 4 ∧ 5 + stageLimit 4 < (s (6 + 640000000)).ambTime := by decide +kernel

theorem witness_portPeers : let s := setLink (host 0 6 (fun s => s.setField (regUALEXP 0) 16 48 5)) 6 ⟨0, true, [], 0⟩
    (linkOf s 6).auto = true ∧ s.field (regUALEXP 0) 16 48 = 5 ∧ unitId (natBytes 8 0 ++ natBytes 8 5) 0 = 5 ∧
    unitId (natBytes 8 0 ++ natBytes 8 6) 0 ≠ 5 := by decide +kernel

theorem witness_otherPackets : packetOk (goodPacket.set 0x28 17) 1 = false ∧
    (packetOf ((goodPacket.set 0x28 17).take 0x30 ++ natBytes 8 0 ++ natBytes 8 0)).canNotify = false := by decide +kernel

/-- A sensor of stack 5, which lies on die 1. -/
theorem witness_stackTrips : 0x100 ≤ 0x105 ∧ 0x105 < 0x108 ∧ siteDie 0x105 = 1 ∧ siteDie 23 = 1 ∧ siteDie 0x103 = 0 ∧
    siteTemp (readSite gs 0x105 1761) 0x105 = 1761 ∧ gs.stackTj.length = 8 := by decide +kernel

/-- The grid that has ended has an item open, and none. -/
theorem witness_gridDone : gridDone (finishedGrid 0x60000) 5 = true ∧
    (let c := fun (x : Crew) => { x with strm := { x.strm with st := .ended, bat := ⟨1, [oneItem (.swunb 0)], []⟩ }, groups := [], recs := [] }
     gridDone { finishedGrid 0x60000 with gangs := [(0, { Gang.zero with grid := 5, crews := [(0, c es.crew)] })] } 5 = false) := by decide +kernel

theorem witness_ambBusy : let s := setAmb (ambState (.empty 8) (.empty 8) false false false) (fun a => { a with mbox := some (7, mbOk) })
    s.amb.mbox ≠ none ∧ ambFree s = false ∧ s.amb.serving = true := by decide +kernel

theorem witness_heatAndKeyOps : bitsOf (3 : BitVec 64).toNat 0 1 = 1 ∧ bitsOf (3 : BitVec 64).toNat 1 1 = 1 ∧ bitsOf (0x300 : BitVec 64).toNat 8 2 = 3 := by
  decide +kernel

/-- The MODE of guard 8 may be held and that of guard 9 may not; a resident gang keeps it, and a step answers. -/
theorem witness_modesLegal : modeLegal 0x10000 = true ∧ modeLegal 0x12000 = false ∧ modeLegal 0x200000 = false ∧ gs.modesLegal = true ∧
    (placeProgram State.reset [0x04C08418]).modesLegal = true := by decide +kernel

/-! ### The clauses added for the fourth review -/

/-- A former-built group of three lanes of groups 7 and 8: group 7 waits in RWAIT at the same address, group 8 does not. -/
def threesome (n : Nat) : State :=
  let at_ : Split := { Split.zero with mask := 2, pc := gs.split.pc, hold := .rwait 3 .seq 50 }
  let home : Group := { Group.zero with key := 9, no := 7, lanes := [(4, ⟨7, 4, none⟩), (5, ⟨7, 5, none⟩)], splits := [{ at_ with hold := .none }, at_] }
  let far : Group := { Group.zero with key := 10, no := 8, lanes := [(6, ⟨8, 6, none⟩)], splits := [{ at_ with pc := 0 }] }
  setOwn (setGrp (setSplit (gsS 4 n) (fun x => { x with mask := 3 })) (fun g =>
      { g with formed := true, splits := [{ Split.zero with mask := 4 }], lanes := [(0, ⟨7, 4, none⟩), (1, ⟨8, 6, none⟩), (2, ⟨7, 5, none⟩)] }))
    (fun c => { c with groups := [(9, home), (10, far)] })

theorem witness_rwaitMovesSome : [0, 7].all (fun n => let s := threesome n
    s.grp.formed && !isStream s && decide (lanesOf (groupMask s) = [0, 1, 2]) && decide (s.split.hold = .none) &&
    s.crew.groups.all (fun x => decide (x.2.key = x.1) && decide (x.1 ≠ s.grp.key)) && decide ((s.crew.groups.map (·.1)).Nodup) &&
    (lanesOf (groupMask s)).all (fun l => (aget s.grp.lanes l).any (fun th => decide (th.lane < 32))) && decide ((s.grp.lanes.map (·.2)).Nodup) &&
    decide ((homeOf s ⟨7, 4, none⟩ s.split.pc).map (fun o => o.key) = some 9) && decide (homeOf s ⟨8, 6, none⟩ s.split.pc = none) &&
    decide ((moveLanes s).split.mask = 2) && decide (rwaitMissing (moveLanes s) = 0) &&
    decide (nxFault .seq 4 (rwaitDone (moveLanes s) 3) = none)) = true ∧
    rwaitMissing (moveLanes (setGrp (threesome 7) (fun g => { g with lanes := (3, ⟨8, 7, none⟩) :: g.lanes, splits := [{ Split.zero with mask := 12 }] }))) = 1 ∧
    sget (threesome 7) 4 ≠ 0 ∧ sget (threesome 0) 4 = 0 := by decide +kernel

/-- Two lanes arrive in the split of group 7 that waits, each at its own position. -/
theorem test_rwait_moves_some : ((aget (moveLanes (threesome 0)).crew.groups 9).map (fun h => h.splits.map (fun x => x.mask))) = some [2, 0x32] ∧
    (aget (moveLanes (threesome 0)).crew.groups 10) = aget (threesome 0).crew.groups 10 := by decide +kernel

theorem witness_predicateRegisters : (7 : BitVec 7).toNat < 8 ∧ (63 : BitVec 7).toNat < 64 ∧ (127 : BitVec 7).toNat < regsOf gs ∧
    isStream gs = false ∧ nxFault .seq 4 gs = none := by decide +kernel

/-- Holder 3 withholds 5 of element 31 of the line. -/
theorem witness_holderShares : keySpace (128 * (2 ^ 46 + 40)) = 2 ∧ ([(31, (5 : BitVec 32))].map (·.1)).Nodup ∧ (∀ e ∈ [(31, (5 : BitVec 32))], e.1 < 32) ∧
    aget [(31, (5 : BitVec 32))] 31 = some 5 ∧ aget [(31, (5 : BitVec 32))] 0 = none := by decide +kernel

theorem test_holder_drains : let s := { lineState with lines := [(40, ⟨1, 0, 0, ⟨1, 0⟩, [(3, ⟨0x8000, 0x7F00, [(31, 5)], 0⟩)]⟩)] }
    lineWord (drainHolder s 40 3) 0 40 31 = 5 ∧ lineWord (drainHolder s 40 3) 0 40 30 = 0 := by decide +kernel

/-- Of paths of one lane each, the one with the highest target is exiled first (R40). -/
theorem test_exile_ties : ((xferPlan (fanned 4) ⟨false, (List.range 4).map (fun p => (p, BitVec.ofNat 64 (0x100100 + 64 * p)))⟩
    (gs.split.pc + 4)).2.1.map (fun q => q.pc)) = [0x1001C0] := by decide +kernel

/-- The group with another split that waits in the instruction of word w, issued as access 0, before it. -/
def behind (w : BitVec 32) (h : Hold) : State :=
  setGrp { queued [1] with nextItem := 1 } (fun g => { g with splits := [{ Split.zero with
    mask := 0xFFFF0000, hold := h, cap := some ⟨w, [], g.v, g.k, g.s, g.mode, gs.crew.f, 0⟩ }] })

theorem witness_queueOrder : pushBehind (queued []) 2 = false ∧ pushEarly (queued []) = false ∧ pushBehind (behind 0x25430200 .wait) 2 = true ∧
    pushEarly (behind 0x5C0EDE62 (.page 4 (fx .page))) = true ∧ headEcc (queued [1]) ⟨0, 2, 1, 1, 0, [1]⟩ = none ∧
    (headEcc { queued [1] with damaged := [.spad gs.gid gs.crew.no 0] } ⟨0, 4, 1, 1, 0, [1]⟩).isSome = true := by decide +kernel

/-- A fence of weak accesses covers a load of another split that waits for its page. -/
theorem witness_fenceHeld : fenceHeld (behind 0x1DD26570 (.page 4 (fx .page))) 8 = [0] ∧ fenceHeld (behind 0x5C0EDE62 (.page 4 (fx .page))) 8 = [] ∧
    isStream (behind 0x1DD26570 .wait) = false ∧ heldStamps (behind 0x1DD26570 .wait).grp (fun _ => true) = [0] := by decide +kernel

theorem witness_fenceWaits : let s := { unfocusCrew (unfocusSplit (setGrp (behind 0x1DD26570 (.page 4 (fx .page))) (fun g =>
      { g with t := [(0, ⟨true, 0, none, false, some ⟨false, [], [0]⟩⟩), (1, ⟨true, 0, none, false, some ⟨false, [], [7]⟩⟩)] }))) with
        ev := { Ev.zero with who := ⟨0, 0, 0, false⟩ } }
    inCrew s (fun s1 => (groupOf s1 0).any (fun g => decide (heldStamps g (fun _ => true) = [0]) &&
      [0, 1].all (fun n => (aget g.t n).any (fun t => t.pending && t.fence.isSome)))) = true := by decide +kernel

/-- A barrier that has completed a phase in the turn. -/
theorem witness_barrierTouched : 15 ∉ gs.crew.touched ∧ 15 ∈ (setOwn gs (fun c => { c with touched := [15] })).crew.touched ∧
    gs.crew.joint = false := by decide +kernel

/-- Nothing of the package is damaged: a copy rewrites no unit in part. -/
theorem witness_wholeCopies : slotPart es 0 [(0, [1])] [] = false ∧ spadPart es ctlWord 8 = false ∧ spadBad es ctlWord 8 = false ∧
    slotPart { es with damaged := [.slot es.gid es.crew.no 0 0] } 0 [(0, [1])] [] = true := by decide +kernel

theorem witness_neededSectors : (compressed 8 0xA5).bad = [] ∧ needSectors (compressed 8 0) 0 3 (List.replicate 256 0) = 0 := by decide +kernel

/-- A cluster at its interval that reads 110 °C, with room in the staging store and without. -/
theorem witness_hotInterval : let s := { gs with clock := 16000, ev := { Ev.zero with n := 23, v := 1000, m := 110 } }
    (clusterOf s 23).rglAt < s.clock.toNat / 16000 ∧ 110 ≤ s.ev.m ∧ s.ev.m < 256 ∧ stagedFull s 0 = false ∧
    stagedFull { s with staged := fullStage.staged } 0 = true := by decide +kernel

theorem test_hot_interval : (trip { gs with clock := 16000 } 23 1760).dark = [1] := by decide +kernel

/-- A die that DIEOFF has stopped and that has not tripped. -/
theorem witness_stoppedTrips : tripping { gs with darkening := [(1, (0, none))] } 1 = false ∧ tripping { gs with darkening := [(1, (0, some 0))] } 1 = true ∧
    aget ({ gs with darkening := [(1, (0, none))] } : State).darkening (siteDie 23) = some (0, none) := by decide +kernel

/-- Stage 5 ends with die 1 failed, and no stage trains link 3. -/
theorem witness_dieStage : (2 : BitVec 64).toNat < 4 ∧ (2 : Nat).testBit 1 = true ∧ (2 : Nat).testBit (95 / 96) = false ∧
    (let s := setLinkState (host 0 3 id) 3 1; s.field (regLSTAT 3) 0 3 = 1 ∧ s.stage = none ∧ (linkStage 3, 5) = (7, 5)) := by decide +kernel

/-- A sample in which cluster 2 reads 110 °C, and one in which no sensor is read. -/
theorem witness_hotSamples : hotSites (List.replicate 2 0x8000 ++ [0x6E0] ++ List.replicate 93 0x8000) = [(2, 1760)] ∧
    hotSites (List.replicate 96 0x8000) = [] := by decide +kernel

/-- The stream of core 0 has a step to begin, and the engine has chosen none. -/
theorem witness_stepChosen : let s := setRun (stepState false false none) 0 (fun c => { c with nxt := none })
    (coreOf s 0).nxt = none ∧ (streamsOn s 0).map (fun y => oldestStep y.2.2.2 (fun _ => false)) = [some (1, 0)] ∧
    (streamsOn es 0).all (fun y => decide (oldestStep y.2.2.2 (fun _ => false) = none)) = true ∧
    (coreOf (stepState false false none) 0).nxt.isSome = true := by decide +kernel

/-- The window of the step has been open for less than 16 cycles. -/
theorem witness_latchEarly : (coreOf (stepState false false none) 0).nxt.any (fun x =>
    !passed { stepState false false none with clock := 5 } 0 x 16) = true := by decide +kernel

/-! ### The clauses added for the fifth review -/

/-- Two lanes of 3 and 1 terms, then of 1 and 1, in groups of two with D = 0: the second row starts at 3 for both, lane 1 waits 2 (R67). -/
theorem test_recurrence : (recurrence 2 0 [[3, 1], [1, 1]] (List.replicate 64 0) []).width = 4 ∧
    ranBy (recurrence 2 0 [[3, 1], [1, 1]] (List.replicate 64 0) []).terms 100 = 6 ∧
    ranBy (recurrence 2 0 [[3, 1], [1, 1]] (List.replicate 64 0) []).waits 100 = 2 ∧
    ranBy (recurrence 2 0 [[3, 1], [1, 1]] (List.replicate 64 0) []).waits 2 = 1 ∧
    (recurrence 1 0 [[3, 1], [1, 1]] (List.replicate 64 0) []).waits = [] := by decide +kernel

/-- A step runs from cycle 0 of its core, at cycle 3, with another chosen whose window opened in cycle 5. -/
def counting : State :=
  setRun { stepState true true none with clock := 2 } 0 (fun c => { c with nxt := c.run.map (fun x => { x with since := some 5 }) })

theorem witness_engineCounts : coreCycles counting 0 = 3 ∧ (coreOf counting 0).run.any (fun x => decide (x.since = some 0)) = true ∧
    (coreOf counting 0).nxt.any (fun x => decide (x.since = some 5)) = true ∧
    (coreOf (stepState true false none) 0).run = none ∧ (coreOf (stepState true true none) 0).nxt.all (fun y => y.since.isNone) = true := by
  decide +kernel

/-- In 20 cycles from cycle 3: the terms of cycles 4 and 5, none of the wait's first cycle that has passed, the two skipped rows, and of the load's
16 cycles from 5 the seven from the step's end in cycle 14 (R67, R87). -/
theorem test_engine_counts : ([0, 1, 2, 3].map (fun k => ((coreOf (countEngine counting 0 20) 0).cnt.get k - (coreOf counting 0).cnt.get k).toNat)) =
    [2, 1, 2, 7] := by decide +kernel

/-- The stream has a step that is not done and can issue; it has not issued, or has. -/
theorem witness_paces : dueStream { stepState true true none with agenda := [] } = some (0, 0) ∧
    dueStream { rested id .zero with agenda := [] } = none := by decide +kernel

theorem witness_quietContexts :
    ctxQuiet { rested id .zero with gangs := [] } 1 = true ∧ ctxQuiet (stepState true true none) 1 = false ∧
    (abortCtx { rested id .zero with gangs := [] } 1).visible = [] ∧ cmdOp 0x16 = 6 ∧ cmdOp 0x18 = 8 ∧ cmdCtx 0x16 = 1 := by decide +kernel

/-- A join of the ended stream whose e0 is damaged. -/
def tornJoin : State := { withStream .ended with damaged := [.ereg 0 0 0] }

theorem test_join_damaged : Cell.ereg tornJoin.gid tornJoin.crew.no 0 ∈ tornJoin.damaged ∧
    stopCause (nextOf (execEjoin .seq 3 tornJoin)) = some .eccUncorr ∧ stopCause (nextOf (execEjoin .seq 3 (withStream .ended))) = none ∧
    (streamStart tornJoin 5).damaged = [] := by decide +kernel

theorem witness_queueTable : let s := { dqState 0 with bad := [physKey 0 0x80000 / 64] }
    (aget s.ctxs s.gang.ctx).any (fun c => queueBad s c 0) = true ∧ (aget (dqState 0).ctxs 1).any (fun c => queueBad (dqState 0) c 0) = false ∧
    (queueCheck s 0).map (fun f => f.cause) = some .eccUncorr ∧ queueCheck (dqState 0) 0 = none ∧
    (queueCheck gs 0).map (fun f => f.cause) = some .prot := by decide +kernel

/-- A waiting packet in a damaged unit of its ring, and in a ring whose table entry is damaged. -/
theorem witness_badPackets : let r : PktRef := ⟨true, 1, 0, 0, some 0, 3, 0⟩
    let s := waitingPacket goodPacket
    pktBad s r = none ∧ pktBad { s with bad := [physKey 0 0x90000 / 64] } r = some (physKey 0 0x90000, 64) ∧
    pktBad { s with bad := [physKey 0 0x80000 / 64] } r = some (physKey 0 0x80000, 16) ∧
    nextPacket { s with bad := [physKey 0 0x90000 / 64] } 1 = some r := by decide +kernel

/-- A completion record of 32 bytes into a damaged unit of 64: it is read, and ECC_UNCORR is reported in its place. -/
def tornRecord : State := { finishedGrid 0x60000 with bad := [physKey 0 0x60000 / 64] }

theorem test_record_damaged : (match (List.range 32).mapM (fun i => translate tornRecord 1 (0x60000 + i) .write) with
      | .ok ls => readsBad tornRecord ls .write
      | .error _ => false) = true ∧
    (match (List.range 32).mapM (fun i => translate (finishedGrid 0x60000) 1 (0x60000 + i) .write) with
      | .ok ls => !readsBad (finishedGrid 0x60000) ls .write
      | .error _ => false) = true ∧
    ((aget tornRecord.grids 5).map (fun g => ((writeCompletion tornRecord 5 g).staged.map (fun q => (q.cause, q.src)), (writeCompletion tornRecord 5 g).bad))) =
      some ([(.eccUncorr, 9)], tornRecord.bad) := by decide +kernel

/-- Damage in a run of the pool that 16 bytes cover in part, in a descriptor, in the header of a ring. -/
theorem witness_tornTables : badPart { gs with bad := [0] } 0 16 = true ∧ badPart { gs with bad := [0] } 0 64 = false ∧ badPart gs 0 16 = false ∧
    (let s := compressed 8 1; badSpan { s with bad := [descrKey s 0 0 / 64] } (descrKey s 0 0) 16 = true ∧ badSpan s (descrKey s 0 0) 16 = false ∧
      badMem { s with bad := [descrKey s 0 0 / 64] } (blkByte 0 3 16) = true ∧ badMem { s with bad := [descrKey s 0 0 / 64] } (blkByte 0 3 17) = false) ∧
    (let s := stagedState 0; badSpan s (physKey 0 0x40000) 16 = false ∧ badSpan { s with bad := [physKey 0 0x40000 / 64] } (physKey 0 0x40000) 16 = true) := by
  decide +kernel

/-- A log of two records; a commit is refused while a trial is pending. -/
theorem witness_logRead : let s := { ambState (.empty 8) (.empty 8) false false false with log := [⟨7, 1, 2, 3, 4, 5, 6, 8⟩, ⟨9, 1, 2, 3, 4, 5, 6, 8⟩] }
    ((s.log.filter (fun r => memNat s.mbdata 8 0 ≤ r.seq)).take 1)[0]? = some ⟨7, 1, 2, 3, 4, 5, 6, 8⟩ ∧
    ((ambState (.empty 8) (.empty 8) false true false).amb.pend || (ambState (.empty 8) (.empty 8) false false true).amb.tried) = true ∧
    svnOf (.empty 8) ≤ s.fuseC := by decide +kernel

/-- The layout of R414. -/
theorem test_log_layout : let s := { ambState (.empty 8) (.empty 8) false false false with log := [⟨7, 1, 2, 3, 4, 5, 6, 8⟩] }
    let t := (readLog s 128).1
    [memNat t.mbdata 8 0, memNat t.mbdata 8 8, memNat t.mbdata 2 16, memNat t.mbdata 1 18, memNat t.mbdata 1 19, memNat t.mbdata 2 20,
      memNat t.mbdata 2 22, memNat t.mbdata 8 24] = [7, 1, 2, 3, 4, 5, 6, 8] := by decide +kernel

theorem witness_portDown : linkUp (linkState 9 7) 9 = true ∧ (linkOf (linkState 9 7) 9).replays = 7 ∧ portItems (linkState 9 7) (9 - 6) = [] ∧
    (focusCrew (itemState (.ecmd 0 3 0 0 0 0 0 0 0) id) 0 0).any (fun s1 => !stagedFull s1 (itemDie s1)) = true := by decide +kernel

/-- Each register whose write the statement names, at its first and last index. -/
theorem witness_registers : regHEATCFG = 0x100040 ∧ regCMP 7 0x28 = 0x1002E8 ∧ regWCTL 15 = 0x1004F0 ∧ regWTGT 15 = 0x1004F8 ∧ regKEYDATA 7 = 0x100848 ∧
    regBACKOFF 1 = 0x200048 ∧ regTHERM 1 = 0x200078 ∧ regHALTCFG 23 = 0x2022E0 ∧ regBOOSTCTL 23 = 0x2022F0 ∧ regUALEXP 15 = 0x101F8 ∧
    regLQ 63 0 = 0x201FC0 ∧ regLQ 63 0x18 = 0x201FD8 ∧ regCLSTAT 23 = 0x2022F8 ∧ regLSTAT 21 = 0x101E8 ∧ regUALPEER 15 = 0x101F0 ∧
    (lqState 0 0).field (regLQ 5 8) 0 1 = 1 ∧ (host 0 5 id).field (regLQ 5 8) 0 1 = 0 ∧ (2 : BitVec 64).toNat % 2 = 0 ∧
    msiPending (host 0 0 (fun s => s.setReg 0x310000 8)) 3 = true ∧ msiPending (host 0 0 id) 3 = false ∧ msiMasked (host 0 0 id) 3 = true ∧
    msiMasked (host 0 0 (fun s => s.setReg (0x300008 + 16 * 3) 0)) 3 = false := by decide +kernel

/-- THERM keeps its reserved bits clear, and a written 1 clears EMERG. -/
theorem test_therm_write : let s := host (BitVec.ofNat 64 (2 ^ 64 - 1)) (regTHERM 0) (fun s => s.setReg (regTHERM 0) 0x169645F)
    (nextOf (execRegisterWrite s)).reg (regTHERM 0) = 0xFFFFFF := by decide +kernel

end Sys2Proof.Tests
end

section
/-! PROOFS. The state after reset and the state in which groups and crews start (R35). -/
namespace Sys2Proof.Machine

/-! ## Entries numbered in a row -/

/-- Entries numbered by the members of a list, each with what `f` gives its number. -/
theorem aget_map_pair {α : Type} (f : Nat → α) (l : List Nat) (k : Nat) :
    aget (l.map fun i => (i, f i)) k = if k ∈ l then some (f k) else none := by
  induction l with
  | nil => rfl
  | cons i r ih =>
    simp only [List.map_cons, aget, ih, List.mem_cons]
    by_cases h : k = i <;> simp [h]

@[simp] theorem aget_range_map {α : Type} (f : Nat → α) (n k : Nat) :
    aget ((List.range n).map fun i => (i, f i)) k = if k < n then some (f k) else none := by
  simp [aget_map_pair]

/-! ## Host registers after reset -/

/-- Nothing has been written at reset, so a register reads as its reset column says. -/
@[simp] theorem reset_reg (off : Nat) : State.reset.reg off = (regReset off).toNat := rfl

/-- The reset columns of RWLEN0/1, BACKOFF0/1, PERMIT0/1 and THERM0/1 (R59, R356, R393, R394). -/
theorem regReset_ofDie : ∀ d < 2, regReset (mmBase + 0x20 + 8 * d) = 0x0100 ∧ regReset (regBACKOFF d) = 0x4040 ∧
    regReset (regPERMIT d) = 64 ∧ regReset (regTHERM d) = 0x69645F := by decide

/-- The bank of the launch queues (R381): of each queue only the register at 8 is not zero. -/
theorem regReset_launchQueueBank {off : Nat} (lo : wpBase + 0x1000 ≤ off) (hi : off < wpBase + 0x2000) :
    regReset off = if off % 0x40 = 8 then 0xFFFF00000000 else 0 := by
  simp only [wpBase] at lo hi
  simp only [regReset, wpBase, mmBase]
  simp (disch := omega) only [if_neg, lo, hi, true_and]

/-- The bank of the clusters (R139, R391): HALTCFG, CLPWR, BOOSTCTL and CLSTAT of each. -/
theorem regReset_clusterBank {off : Nat} (lo : wpBase + 0x2000 ≤ off) (hi : off < wpBase + 0x2300) :
    regReset off = if off % 0x20 = 0 then 0xA05002 else if off % 0x20 = 8 then 0xC8191000200
      else if off % 0x20 = 0x18 then 0x200 else 0 := by
  simp only [wpBase] at lo hi
  simp only [regReset, wpBase, mmBase]
  simp (disch := omega) only [if_neg, lo, hi, and_self, if_true]

theorem regReset_regLQ {q : Nat} (h : q < 64) : regReset (regLQ q 8) = 0xFFFF00000000 := by
  unfold regLQ
  have mod : (wpBase + 0x1000 + 0x40 * q + 8) % 0x40 = 8 := by simp only [wpBase]; omega
  rw [regReset_launchQueueBank (by omega) (by omega), if_pos mod]

theorem regReset_ofCluster {c : Nat} (h : c < 24) :
    regReset (regHALTCFG c) = 0xA05002 ∧ regReset (regCLPWR c) = 0xC8191000200 ∧ regReset (regCLSTAT c) = 0x200 := by
  unfold regHALTCFG regCLPWR regCLSTAT
  have mod0 : (wpBase + 0x2000 + 0x20 * c) % 0x20 = 0 := by simp only [wpBase]; omega
  have mod8 : (wpBase + 0x2008 + 0x20 * c) % 0x20 = 8 := by simp only [wpBase]; omega
  have mod24 : (wpBase + 0x2018 + 0x20 * c) % 0x20 = 0x18 := by simp only [wpBase]; omega
  refine ⟨?_, ?_, ?_⟩ <;> rw [regReset_clusterBank (by omega) (by omega)]
  · simp [mod0]
  · simp [mod8]
  · simp [mod24]

/-! ## Keys and heat generators after reset -/

/-- Key slot 0 alone is configured at reset (R373). -/
theorem reset_keySlot (k : Nat) : keySlot State.reset k = if k = 0 then plainSlot else ⟨0, []⟩ := by
  simp only [keySlot, State.reset, aget]
  split <;> rfl

/-- Each heat generator starts from its own seed (R368). -/
theorem reset_heat {u : Nat} (h : u < 12) : aget State.reset.heat u = some (0, 0xACE1 ^^^ BitVec.ofNat 16 u) := by
  simp [State.reset, h]

/-- The package at reset is as the reset columns and R5, R36, R106, R368 and R373 have it. -/
theorem packageAtReset : Claims.PackageAtReset :=
  ⟨rfl, Store.get_empty 8, rfl, rfl, rfl, rfl, rfl, rfl, rfl, fun _ => ⟨rfl, rfl⟩, fun _ => reset_heat,
    by simp [reset_keySlot], fun k h => by simp [reset_keySlot, h],
    fun d h => by simp [regReset_ofDie d h], fun d h => by simp [regReset_ofDie d h],
    fun d h => by simp [regReset_ofDie d h], fun d h => by simp [regReset_ofDie d h],
    fun q h => by simp [regReset_regLQ h], fun c h => by simp [regReset_ofCluster h]⟩

/-! ## Groups and crews at their start -/

theorem launchGroup_sget (p : Packet) (no slot i : Nat) :
    (launchGroup p no slot).s.get i = if i = 0 then p.param else 0 := by
  simp [launchGroup, Store.get_put]

theorem launchGroup_lane (p : Packet) (no slot : Nat) {l : Nat} (h : l < 32) :
    aget (launchGroup p no slot).lanes l = some ⟨no, l, none⟩ := by
  simp [launchGroup, h]

theorem groupAtLaunch : Claims.GroupAtLaunch := fun p no slot =>
  ⟨rfl, Store.get_empty 32, Store.get_empty 32, launchGroup_sget p no slot, fun _ => rfl, Store.get_empty 17, rfl, rfl,
    fun _ => launchGroup_lane p no slot⟩

theorem newCrew_barOf (p : Packet) (no core strm tag : Nat) (used : List Nat) {b : Nat} (h : b < 16) :
    barOf (newCrew p no core strm tag used) b = ⟨32 * p.crew, [], false, 0, 0⟩ := by
  simp [barOf, newCrew, h]

/-- No slot of a new crew is claimed, whether the packet asked for it or not. -/
theorem newCrew_slotOf_claimed (p : Packet) (no core strm tag : Nat) (used : List Nat) (n : Nat) :
    (slotOf (newCrew p no core strm tag used) n).claimed = false := by
  simp only [slotOf, newCrew, aget_range_map]
  split <;> rfl

/-- So every handle is stale in a new crew (R81), that of value 0 among them. -/
theorem newCrew_handle_stale (p : Packet) (no core strm tag : Nat) (used : List Nat) (h : BitVec 17) :
    handleOk (newCrew p no core strm tag used) h = false := by
  simp [handleOk, newCrew_slotOf_claimed]

theorem crewAtLaunch : Claims.CrewAtLaunch := fun p no core strm tag used =>
  ⟨fun _ => newCrew_barOf p no core strm tag used, rfl, fun _ => rfl, Store.get_empty 32, rfl, fun _ => rfl,
    Store.get_empty 17, Store.get_empty 64, rfl, rfl, newCrew_handle_stale p no core strm tag used 0⟩

/-- Settles O56: the package at reset, and groups and crews at their start, are as the reset columns and R35 have them. -/
theorem resetAndLaunchState : Obligations.ResetAndLaunchState :=
  ⟨packageAtReset, groupAtLaunch, crewAtLaunch⟩

end Sys2Proof.Machine
end

section
/-! PROOFS. Facts shared by the proofs that follow: fields of host registers, what folds keep, what a drain leaves alone. -/
namespace Sys2Proof.Machine

/-! ## Fields of host registers -/

/-- The bits above a field and those below it stay where they are. -/
theorem setBits_eq (x lo n v : Nat) : setBits x lo n v = 2 ^ lo * (2 ^ n * (x / 2 ^ lo / 2 ^ n) + v % 2 ^ n) + x % 2 ^ lo := by
  have hq := Nat.div_add_mod (x / 2 ^ lo) (2 ^ n)
  have hx := Nat.div_add_mod x (2 ^ lo)
  have hle : x / 2 ^ lo % 2 ^ n * 2 ^ lo ≤ x :=
    (Nat.mul_le_mul_right _ (Nat.mod_le _ _)).trans (Nat.div_mul_le_self x _)
  simp only [setBits, bitsOf]
  zify [hle] at *
  linear_combination (-1 : ℤ) * hx - 2 ^ lo * hq

theorem testBit_bitsOf (x lo n i : Nat) : (bitsOf x lo n).testBit i = (decide (i < n) && x.testBit (lo + i)) := by
  simp [bitsOf, Nat.testBit_mod_two_pow, Nat.testBit_div_two_pow, Nat.add_comm]

theorem testBit_setBits (x lo n v i : Nat) :
    (setBits x lo n v).testBit i = if lo ≤ i ∧ i < lo + n then v.testBit (i - lo) else x.testBit i := by
  rw [setBits_eq, Nat.testBit_two_pow_mul_add _ (Nat.mod_lt _ (Nat.two_pow_pos lo)),
    Nat.testBit_two_pow_mul_add _ (Nat.mod_lt _ (Nat.two_pow_pos n))]
  simp only [Nat.testBit_mod_two_pow, Nat.testBit_div_two_pow]
  by_cases h1 : i < lo
  · simp [h1]
  · by_cases h2 : i - lo < n
    · have h3 : lo ≤ i ∧ i < lo + n := by omega
      simp [h1, h2, h3]
    · have h3 : ¬(lo ≤ i ∧ i < lo + n) := by omega
      have h4 : i - lo - n + n + lo = i := by omega
      simp [h1, h2, h3, h4]

/-- A field of a register reads back what was written into it. -/
theorem State.field_setField_same (s : State) (off v : Nat) {lo n : Nat} (h : lo + n ≤ 64) :
    (s.setField off lo n v).field off lo n = v % 2 ^ n := by
  refine Nat.eq_of_testBit_eq fun i => ?_
  simp only [State.field, State.setField, State.reg_setReg, if_true, testBit_bitsOf, Nat.testBit_mod_two_pow, testBit_setBits]
  by_cases hi : i < n
  · have h64 : lo + i < 64 := by omega
    simp [hi, h64]
  · simp [hi]

/-- A field that ends before the one written, or begins after it, is as it was. -/
theorem State.field_setField_apart (s : State) (off v : Nat) {lo n lo' n' : Nat} (h : lo' + n' ≤ 64)
    (ha : lo' + n' ≤ lo ∨ lo + n ≤ lo') : (s.setField off lo n v).field off lo' n' = s.field off lo' n' := by
  refine Nat.eq_of_testBit_eq fun i => ?_
  simp only [State.field, State.setField, State.reg_setReg, if_true, testBit_bitsOf, Nat.testBit_mod_two_pow, testBit_setBits]
  by_cases hi : i < n'
  · have h64 : lo' + i < 64 := by omega
    have hout : ¬(lo ≤ lo' + i ∧ lo' + i < lo + n) := by omega
    simp [hi, h64, hout]
  · simp [hi]

/-! ## What a drain leaves alone (R131, R135) -/

/-- What a fold's steps each keep of a state, the fold keeps. -/
theorem foldl_keeps {σ α β : Type} (p : σ → β) (f : σ → α → σ) (h : ∀ s x, p (f s x) = p s) (l : List α) (s : σ) :
    p (l.foldl f s) = p s := by
  induction l generalizing s with
  | nil => rfl
  | cons x r ih => exact (ih (f s x)).trans (h s x)

/-- A state without what a drain can write: stored bytes with their seals and writes in waiting, and the lines withheld. -/
def State.unstored (s : State) : State := { s with mem := .empty 8, dirty := [], sealed := [], lines := [] }

theorem sealedPut_unstored (s : State) (k : Nat) (b : BitVec 8) (cur : KeySlot × Nat) :
    (sealedPut s k b cur).unstored = s.unstored := by
  simp only [sealedPut, reseal]
  split <;> rfl

theorem unitPut_unstored (s : State) (key kid : Nat) (b : BitVec 8) : (unitPut s key kid b).unstored = s.unstored := by
  unfold unitPut
  split
  · rfl
  · exact sealedPut_unstored s _ b _

theorem setLineWord_unstored (s : State) (kid ln e : Nat) (v : BitVec 32) : (setLineWord s kid ln e v).unstored = s.unstored :=
  foldl_keeps State.unstored _ (fun s _ => unitPut_unstored s _ _ _) _ s

theorem addHome_unstored (fp : Bool) (kid ln : Nat) (els : List (Nat × BitVec 32)) (s : State) :
    (addHome fp kid ln els s).unstored = s.unstored :=
  foldl_keeps State.unstored _ (fun s _ => setLineWord_unstored s _ _ _ _) _ s

theorem drainHolder_unstored (s : State) (ln h : Nat) : (drainHolder s ln h).unstored = s.unstored := by
  unfold drainHolder
  split
  · rfl
  · split
    · rfl
    · exact addHome_unstored _ _ _ _ _

theorem drainLine_unstored (s : State) (ln : Nat) : (drainLine s ln).unstored = s.unstored := by
  unfold drainLine
  split
  · rfl
  · exact foldl_keeps State.unstored _ (fun s _ => drainHolder_unstored s _ _) _ s

theorem drainCtx_unstored (s : State) (ctx : Nat) : (drainCtx s ctx).unstored = s.unstored := by
  refine foldl_keeps State.unstored _ (fun s l => ?_) _ s
  split
  · exact drainLine_unstored s _
  · rfl

end Sys2Proof.Machine
end

section
/-! PROOFS. The driver's memory side: walks, commands to invalidate, and what an invalidation leaves. -/
namespace Sys2Proof.Machine

/-! ## What leaves cached translations and waiting invalidations alone -/

/-- The cached translations and pointers, and the invalidations that wait. -/
def State.translations (s : State) : List TlbEnt × List PtrEnt × List (BitVec 64 × BitVec 64) := (s.tlb, s.ptrs, s.tlbi)

theorem State.translations_eq_iff (s : State) (a : List TlbEnt) (b : List PtrEnt) (c : List (BitVec 64 × BitVec 64)) :
    s.translations = (a, b, c) ↔ s.tlb = a ∧ s.ptrs = b ∧ s.tlbi = c := by
  simp [State.translations]

@[simp] theorem setReg_translations (s : State) (o v : Nat) : (s.setReg o v).translations = s.translations := rfl

@[simp] theorem setField_translations (s : State) (o lo n v : Nat) : (s.setField o lo n v).translations = s.translations := rfl

@[simp] theorem addLog_translations (s : State) (a b c d e : Nat) : (addLog s a b c d e).translations = s.translations := by
  unfold addLog logPut
  dsimp only
  split
  · simp only [State.translations]
  · split <;> simp only [State.translations]

@[simp] theorem noteSpan_translations (s : State) (k n : Nat) : (noteSpan s k n).translations = s.translations := by
  unfold noteSpan
  split <;> simp

@[simp] theorem noteMemRec_translations (s : State) (a : Nat) : (noteMemRec s a).translations = s.translations := by
  simp only [noteMemRec, apply_ite State.translations, noteSpan_translations, ite_self]

@[simp] theorem drainLine_translations (s : State) (ln : Nat) : (drainLine s ln).translations = s.translations :=
  (congrArg State.translations (drainLine_unstored s ln) :)

@[simp] theorem drainCtx_translations (s : State) (ctx : Nat) : (drainCtx s ctx).translations = s.translations :=
  (congrArg State.translations (drainCtx_unstored s ctx) :)

@[simp] theorem latchWindows_translations (s : State) : (latchWindows s).translations = s.translations :=
  foldl_keeps State.translations _ (fun s w => by simp only [setReg_translations]) _ s

/-! ## An invalidation (R353, R354) -/

/-- The lines that an invalidation covers drained before its translations go (R135, R354). -/
def drainCovered (s : State) (kind ctx : Nat) : State :=
  if kind = 2 then s.lines.foldl (fun s l => drainLine s l.1) s else drainCtx s ctx

@[simp] theorem drainCovered_translations (s : State) (kind ctx : Nat) : (drainCovered s kind ctx).translations = s.translations := by
  unfold drainCovered
  split
  · exact foldl_keeps State.translations _ (fun s (l : Nat × Line) => drainLine_translations s l.1) _ s
  · simp

/-- A command with a reserved KIND or page size sets ERR and shows its tag. -/
theorem finishTlbi_reserved {s : State} {v va : BitVec 64} {r : List (BitVec 64 × BitVec 64)} (hq : s.tlbi = (v, va) :: r)
    (hb : bitsOf v.toNat 12 2 = 3 ∨ (bitsOf v.toNat 12 2 = 0 ∧ 5 ≤ bitsOf v.toNat 14 3)) :
    finishTlbi s = (({ s with tlbi := r } : State).setField regTLBDONE 32 1 1).setField regTLBDONE 0 32 (bitsOf v.toNat 32 32) := by
  simp [finishTlbi, hq, hb]

/-- The translations and pointers that an invalidation covers dropped. -/
def dropCovered (s : State) (v va : BitVec 64) : State :=
  { s with tlb := s.tlb.filter (fun t => !tlbiCovers v va t), ptrs := s.ptrs.filter (fun p => !tlbiCoversPtr v va p) }

/-- The memory records of the contexts that KIND 1 and 2 cover read again, and for KIND 2 the window registers latched (R347, R371). -/
def rereadCovered (s : State) (kind ctx : Nat) : State :=
  let hit := fun (c : Nat × Ctx) => kind = 2 || c.1 = ctx
  let u := if kind = 0 then s
    else (s.ctxs.filter hit).foldl (fun s c => noteMemRec s c.2.memRec)
      { s with ctxs := s.ctxs.map (fun c => if hit c then (c.1, rereadCtx s c.2) else c) }
  if kind = 2 then latchWindows u else u

@[simp] theorem rereadCovered_translations (s : State) (kind ctx : Nat) :
    (rereadCovered s kind ctx).translations = s.translations := by
  have noted : ∀ (l : List (Nat × Ctx)) (u : State),
      (l.foldl (fun s c => noteMemRec s c.2.memRec) u).translations = u.translations :=
    foldl_keeps State.translations _ fun s c => noteMemRec_translations s c.2.memRec
  simp only [rereadCovered, apply_ite State.translations, latchWindows_translations, noted, ite_self]
  exact ite_self _

@[simp] theorem dropCovered_translations (s : State) (v va : BitVec 64) : (dropCovered s v va).translations =
    (s.translations.1.filter (fun e => !tlbiCovers v va e), s.translations.2.1.filter (fun p => !tlbiCoversPtr v va p), s.translations.2.2) :=
  rfl

/-- Any other command drains the lines of its contexts, drops the translations and pointers that it covers, reads the memory records again, and
shows its tag. -/
theorem finishTlbi_drops {s : State} {v va : BitVec 64} {r : List (BitVec 64 × BitVec 64)} (hq : s.tlbi = (v, va) :: r)
    (hb : ¬(bitsOf v.toNat 12 2 = 3 ∨ (bitsOf v.toNat 12 2 = 0 ∧ 5 ≤ bitsOf v.toNat 14 3))) :
    finishTlbi s = (rereadCovered (dropCovered (drainCovered { s with tlbi := r } (bitsOf v.toNat 12 2) (bitsOf v.toNat 0 12)) v va)
      (bitsOf v.toNat 12 2) (bitsOf v.toNat 0 12)).setField regTLBDONE 0 32 (bitsOf v.toNat 32 32) := by
  unfold finishTlbi
  rw [hq]
  exact if_neg hb

theorem invalidationCompletes : Claims.InvalidationCompletes := by
  intro s v va r hq kind bad
  have tag : ∀ u : State, (u.setField regTLBDONE 0 32 (bitsOf v.toNat 32 32)).field regTLBDONE 0 32 = bitsOf v.toNat 32 32 :=
    fun u => (u.field_setField_same _ _ (by decide)).trans (Nat.mod_mod _ _)
  refine ⟨finishTlbi s, rfl, ?_⟩
  by_cases hb : bad
  · have hd := finishTlbi_reserved hq hb
    have herr : (finishTlbi s).field regTLBDONE 32 1 = 1 := by
      rw [hd, State.field_setField_apart _ _ _ (by decide) (by decide), State.field_setField_same _ _ _ (by decide)]
      rfl
    have hkept : (finishTlbi s).translations = (s.tlb, s.ptrs, r) := by
      rw [hd, setField_translations, setField_translations]; rfl
    obtain ⟨ht, hp, hi⟩ := (State.translations_eq_iff _ _ _ _).mp hkept
    exact ⟨hi, hd ▸ tag _, fun h => absurd hb h, fun _ => ⟨ht, hp, herr⟩⟩
  · have hd := finishTlbi_drops hq hb
    have hdropped : (finishTlbi s).translations =
        (s.tlb.filter (fun e => !tlbiCovers v va e), s.ptrs.filter (fun p => !tlbiCoversPtr v va p), r) := by
      rw [hd, setField_translations, rereadCovered_translations, dropCovered_translations, drainCovered_translations]; rfl
    obtain ⟨ht, hp, hi⟩ := (State.translations_eq_iff _ _ _ _).mp hdropped
    exact ⟨hi, hd ▸ tag _, fun _ => ⟨ht, hp⟩, fun h => absurd h hb⟩

/-! ## Walks and queued commands (R10, R350, R352) -/

/-- A core's TLB never grows past 256 entries. -/
theorem tlbAdd_core_length (s : State) (t : TlbEnt) : ((tlbAdd s t).filter (fun x => x.core = t.core)).length ≤ 256 := by
  have hrest : (s.tlb.filter (fun x => x.core ≠ t.core)).filter (fun x => x.core = t.core) = [] := by
    simp [List.filter_filter]
  simp only [tlbAdd, List.cons_append, List.filter_cons, List.filter_append, hrest, List.append_nil, decide_true, if_true, List.length_cons]
  exact Nat.succ_le_succ ((List.length_filter_le _ _).trans (List.length_take_le _ _))

theorem kindOf_eq_write (m : Nat) : kindOf m = .write ↔ m = 1 := by
  match m with
  | 0 | 1 => simp [kindOf]
  | n + 2 => simp [kindOf]

/-- A TLBIC write of the event's KIND queues its command with TLBIA while the host link is up, and does nothing while it is down. -/
theorem tlbiEvent_queues (s : State) (kind : Nat) :
    (linkUp s 1 = true → bitsOf s.ev.v.toNat 12 2 = kind →
      tlbiEvent kind s = .next { s with tlbi := s.tlbi ++ [(s.ev.v, BitVec.ofNat 64 (s.reg regTLBIA))] }) ∧
    (linkUp s 1 = false → tlbiEvent kind s = .next s) :=
  ⟨fun hl hk => by simp only [tlbiEvent, onHost, hl, hk, if_true, startTlbi], fun hl => by simp [tlbiEvent, onHost, hl]⟩

/-- Where a walk starts: at the nearest pointer that the die's walk cache holds, or at the root when there is none or the walk is to start there. -/
def walkStart (s : State) (c : Ctx) (core ctx va : Nat) (atRoot : Bool) : Nat × Nat :=
  if atRoot then (4, physKey c.rootSpace c.root)
  else match ptrFind s.ptrs (dieOfCore core) ctx va with
    | some p => (p.level, p.tab)
    | none => (4, physKey c.rootSpace c.root)

/-- A walk from a table, for a context that exists. -/
def walkFrom (s : State) (c : Ctx) (core ctx va : Nat) (k : AccKind) (start : Nat × Nat) : State :=
  match walk s va (start.1 + 1) start.2 with
  | .leaf e lg (some a) =>
    match leafLoc s c va k e lg with
    | .error _ => s
    | .ok _ =>
      let dirty := k = .write ∧ bitsOf e 61 1 = 0
      let s1 := if dirty then devPut s 8 a (e + 2 ^ 61) else s
      bump { s1 with
        ptrs := ptrsAdd s core ctx va (walkPtrs s va (start.1 + 1) start.2),
        tlb := tlbAdd s ⟨core, ctx, va / 2 ^ lg, lg, BitVec.ofNat 64 (if dirty then e + 2 ^ 61 else e)⟩ } core 0x20 1
  | _ => s

theorem walkFor_eq {s : State} {core ctx va : Nat} {k : AccKind} {atRoot : Bool} {c : Ctx} (hc : aget s.ctxs ctx = some c) :
    walkFor s core ctx va k atRoot = walkFrom s c core ctx va k (walkStart s c core ctx va atRoot) := by
  unfold walkFor; rw [hc]; rfl

/-- A walk to a leaf that the access may use caches the leaf and the pointers; a write by which the page becomes dirty sets D in memory first. -/
theorem walkFor_leaf {s : State} {core ctx va e lg a : Nat} {k : AccKind} {atRoot : Bool} {c : Ctx} {l : Loc} (hc : aget s.ctxs ctx = some c)
    (hw : walk s va ((walkStart s c core ctx va atRoot).1 + 1) (walkStart s c core ctx va atRoot).2 = .leaf e lg (some a))
    (hl : leafLoc s c va k e lg = .ok l) :
    (walkFor s core ctx va k atRoot).ptrs =
      ptrsAdd s core ctx va (walkPtrs s va ((walkStart s c core ctx va atRoot).1 + 1) (walkStart s c core ctx va atRoot).2) ∧
    (walkFor s core ctx va k atRoot).tlb =
      tlbAdd s ⟨core, ctx, va / 2 ^ lg, lg, BitVec.ofNat 64 (if k = .write ∧ bitsOf e 61 1 = 0 then e + 2 ^ 61 else e)⟩ ∧
    (walkFor s core ctx va k atRoot).mem = (if k = .write ∧ bitsOf e 61 1 = 0 then devPut s 8 a (e + 2 ^ 61) else s).mem := by
  simp only [walkFor_eq hc, walkFrom, hw, hl]
  exact ⟨rfl, rfl, rfl⟩

theorem translationEvents : Claims.TranslationEvents := by
  intro s
  refine ⟨fun c e lg a l hva hcore hc hw hl => ?_, tlbAdd_core_length s, tlbiEvent_queues s 0, tlbiEvent_queues s 1, tlbiEvent_queues s 2⟩
  obtain ⟨hp, ht, hm⟩ := walkFor_leaf (atRoot := s.ev.flag) hc hw hl
  refine ⟨_, congrArg Host.Outcome.next (if_pos ⟨hva, hcore⟩), hp, fun h1 hD => ?_, fun hn => ?_⟩
  · have hdirty : kindOf s.ev.m = .write ∧ bitsOf e 61 1 = 0 := ⟨(kindOf_eq_write _).mpr h1, hD⟩
    rw [if_pos hdirty] at ht hm
    exact ⟨ht, hm⟩
  · have hclean : ¬(kindOf s.ev.m = .write ∧ bitsOf e 61 1 = 0) := by
      rw [kindOf_eq_write]; omega
    rw [if_neg hclean] at ht hm
    exact ⟨ht, hm⟩

/-- Settles O45: what a walk caches and what an invalidation leaves follow from their equations, since no drain, log entry or window register
touches a cached translation. -/
theorem translationsAndInvalidation : Obligations.TranslationsAndInvalidation :=
  ⟨translationEvents, invalidationCompletes⟩

end Sys2Proof.Machine
end

section
/-! PROOFS. Gangs placed and ended, a core's SRAM split, and refused entries sent again. -/
namespace Sys2Proof.Machine

/-! ## A gang placed (R13, R34) -/

theorem resplit_gangs (s : State) (n : Nat) : (resplit s n).gangs = s.gangs := rfl

theorem resplit_grids (s : State) (n : Nat) : (resplit s n).grids = s.grids := rfl

/-- A core's SRAM split after it is taken anew: what its crews need, in steps of 64 KiB (R18). -/
theorem resplit_spadKiB (s : State) (n : Nat) :
    (coreOf (resplit s n) n).spadKiB = (sumOn s n (fun q => q.spad + q.spawn) + 63) / 64 * 64 := by
  simp [resplit, coreOf_setCore]

theorem resplitAll_gangs (s : State) (core n : Nat) : (resplitAll s core n).gangs = s.gangs :=
  foldl_keeps State.gangs _ (fun s i => resplit_gangs s (core + i)) _ s

theorem resplitAll_grids (s : State) (core n : Nat) : (resplitAll s core n).grids = s.grids :=
  foldl_keeps State.grids _ (fun s i => resplit_grids s (core + i)) _ s

/-- Into a cluster that is not gated a placement is done at once. -/
theorem decide_open {s : State} {core : Nat} (f : State → State) (h : gated s (core / 8) = false) : decide_ s core f = f s := by
  simp [decide_, h]

/-- The crews of a new gang stand on consecutive cores. -/
theorem newGang_cores (s : State) (grid : Nat) (no : BitVec 64) (p : Packet) (core : Nat) :
    (newGang s grid no p core).crews.map (fun y => (y.1, y.2.core)) = (List.range p.gang).map (fun k => (k, core + k)) := by
  simp [newGang, newCrew]

/-- The state with the next gang of a grid placed on a core, and the cores' splits taken anew. -/
def withPlaced (s : State) (id core : Nat) (g : Grid) : State :=
  let s1 := placeGang s (newGang s id (BitVec.ofNat 64 g.next) g.pkt core)
  resplitAll { s1 with grids := aput id { g with next := g.next + 1 } s1.grids } core g.pkt.gang

/-- With no saved gang to resume, the next gang of the grid offered is placed on the lowest core from which it fits. -/
theorem placeNext_offered {s : State} {ctx id core : Nat} {c : Ctx} {g : Grid} (hi : c.image = []) (ho : offered s ctx = some (id, g))
    (hs : spotFor s (clustersOf s c.part) (wantNew g.pkt) = some core) (hg : gated s (core / 8) = false) :
    placeNext s ctx c = withPlaced s id core g := by
  have hsort : sortBy (fun (x : Nat × Gang) => x.2.no.toNat) c.image = [] := by rw [hi]; rfl
  simp only [placeNext, hsort, ho, hs, decide_open _ hg]
  rfl

theorem withPlaced_gangs (s : State) (id core : Nat) (g : Grid) :
    (withPlaced s id core g).gangs = aput s.nextGang (newGang s id (BitVec.ofNat 64 g.next) g.pkt core) s.gangs :=
  resplitAll_gangs _ core g.pkt.gang

theorem withPlaced_grids (s : State) (id core : Nat) (g : Grid) :
    (withPlaced s id core g).grids = aput id { g with next := g.next + 1 } s.grids :=
  resplitAll_grids _ core g.pkt.gang

theorem sumOn_noCrews {s : State} {n : Nat} (h : crewsOn s n = []) (f : Packet → Nat) : sumOn s n f = 0 := by
  simp [sumOn, h]

theorem gangsPlaced : Claims.GangsPlaced := by
  intro s c id core g
  refine ⟨fun hc hrun hhalt hstop himg hoff hspot hgate => ?_, fun hn hnone => ⟨fun hidle => ?_, fun hbusy => ?_⟩, resplit_spadKiB s⟩
  · refine ⟨withPlaced s id core g, ?_, ?_, fun k hk => ?_, ?_, newGang_cores _ _ _ _ _⟩
    · change execGangPlace s = _
      simp [execGangPlace, hc, hrun, hhalt, hstop, placeNext_offered himg hoff hspot hgate]
    · rw [withPlaced_gangs, aget_aput_self]
    · rw [withPlaced_gangs, aget_aput_ne _ _ hk]
    · rw [withPlaced_grids, aget_aput_self]
  · refine ⟨resplit s s.ev.n, congrArg Host.Outcome.next (if_pos ⟨hn, hnone, hidle⟩), ?_⟩
    rw [resplit_spadKiB, sumOn_noCrews hnone]
  · exact congrArg Host.Outcome.next (if_neg fun h => absurd h.2.2 (by omega))

/-! ## A gang ended (R54, R162) -/

theorem chooseNext_gangs (s : State) (n : Nat) : (chooseNext s n).gangs = s.gangs := by
  unfold chooseNext
  dsimp only
  split
  · rfl
  · split <;> rfl

theorem removeGang_gangs (s : State) (gid : Nat) : (removeGang s gid).gangs = adel gid s.gangs := by
  unfold removeGang
  refine foldl_keeps State.gangs _ (fun s c => ?_) _ _
  split
  · exact chooseNext_gangs _ _
  · rfl

theorem finishGrid_gangs (s : State) (id : Nat) (g : Grid) : (finishGrid s id g).gangs = s.gangs :=
  (congrArg State.gangs (drainCtx_unstored s g.ctx) :)

theorem countEnded_gangs (s : State) (id n m : Nat) : (countEnded s id n m).gangs = s.gangs := by
  unfold countEnded
  split
  · rfl
  · dsimp only
    split
    · exact finishGrid_gangs _ _ _
    · rfl

/-- A gang that has ended stays, marked, until the last of its batches. -/
theorem retireGang_gangs (s : State) (gid : Nat) (g : Gang) : (retireGang s gid g).gangs = aput gid { g with gone := true } s.gangs :=
  countEnded_gangs _ _ _ _

/-- What becomes of a gang whose lanes, records and stream have ended, its batches left aside: retired once. -/
theorem aget_retired {s : State} {gid : Nat} {g : Gang} (h : aget s.gangs gid = some g) (k : Nat) :
    aget (if g.gone then s else retireGang s gid g).gangs k = if k = gid then some { g with gone := true } else aget s.gangs k := by
  by_cases hg : g.gone = true
  · have hsame : ({ g with gone := true } : Gang) = g := by rw [← hg]
    rw [if_pos hg, hsame, ← h]
    split
    · subst_vars; rfl
    · rfl
  · rw [if_neg hg, retireGang_gangs, aget_aput]

theorem gangsEnd : Claims.GangsEnd := by
  intro s g hg ended quiet t
  have hend : exec .gangEnd s = .next (if ended then if quiet then removeGang t s.ev.n else t else s) := by
    change execGangEnd s = _
    simp only [execGangEnd, gangEnd, hg]
    rfl
  refine ⟨fun he hq => ⟨?_, ?_, fun k hk => ?_⟩, fun he hq => ⟨?_, ?_, fun k hk => ?_⟩, fun he => ?_⟩
  · rw [hend, if_pos he, if_pos hq]
  · rw [removeGang_gangs, aget_adel_self]
  · rw [removeGang_gangs, aget_adel_ne _ hk, aget_retired hg, if_neg hk]
  · rw [hend, if_pos he, if_neg hq]
  · rw [aget_retired hg, if_pos rfl]
  · rw [aget_retired hg, if_neg hk]
  · rw [hend, if_neg he]

/-! ## Refused entries sent again (R58, R59, R211) -/

/-- NAKREP of the core whose sender sent an entry counts n resends; a sender without a core has no such counter. -/
def countResends (s : State) (m : NakMsg) (n : Nat) : State :=
  match m.core with
  | some c => bump s c 0x23 n
  | none => s

theorem countResends_naks (s : State) (m : NakMsg) (n : Nat) : (countResends s m n).naks = s.naks := by
  unfold countResends; split <;> rfl

theorem countResends_clock (s : State) (m : NakMsg) (n : Nat) : (countResends s m n).clock = s.clock := by
  unfold countResends; split <;> rfl

/-- A flow with one entry: nothing before its back-off has passed, then the resend, counted. -/
theorem resendDue_single {s : State} {m : NakMsg} {n : Nak} (h : s.naks.filter (fun x => x.msg.sameFlow m) = [n]) :
    resendDue s m = if s.clock.toNat < n.due then s else resendFlow (countResends s m 1) [n] := by
  simp only [resendDue, h]
  rfl

theorem refusalsSentAgain : Claims.RefusalsSentAgain := by
  intro s n hn hflow s1
  have hs1 : s1 = countResends s n.msg 1 := rfl
  have hnaks : s1.naks = s.naks := countResends_naks s n.msg 1
  have hclock : s1.clock = s.clock := countResends_clock s n.msg 1
  have hexec : exec .replayResend s = .next (if s.clock.toNat < n.due then s else resendFlow s1 [n]) := by
    change execReplayResend s = _
    simp only [execReplayResend, hn, resendDue_single hflow, hs1]
  refine ⟨fun hearly => by rw [hexec, if_pos hearly], fun hdue => ?_, fun _ _ => rfl⟩
  rw [hexec, if_neg (Nat.not_lt.mpr hdue)]
  refine ⟨fun s2 haccept => ?_, fun hrefuse => ?_⟩
  · simp only [resendFlow, hnaks, haccept]
  · simp only [resendFlow, hnaks, hrefuse, ← hclock]

/-- Settles O43: the branches of the placement, of a gang's end and of a resend, and what each of them leaves of the other gangs. -/
theorem gangsComeAndGo : Obligations.GangsComeAndGo :=
  ⟨gangsPlaced, gangsEnd, refusalsSentAgain⟩

end Sys2Proof.Machine
end

section
/-! PROOFS. The matrix engine's choice, latch load, start and end of steps. -/
namespace Sys2Proof.Machine

/-! ## The choice of the next step (R20) -/

/-- A stream with a step to begin: its place in the turn, the stream (gang, crew, number, batches), its oldest step. -/
abbrev StepCand := Nat × (Nat × Nat × Nat × Batches) × (Nat × Nat)

/-- Of two candidates the one of the lower place, or else the earlier one. -/
def sooner (b : Option StepCand) (x : StepCand) : Option StepCand :=
  match b with
  | none => some x
  | some y => if x.1 < y.1 then some x else some y

/-- A candidate whose place is below every other's is found, from any start that is it or comes after it. -/
theorem foldl_sooner (z : StepCand) (l : List StepCand) (hmin : ∀ y ∈ l, y ≠ z → z.1 < y.1) (b : Option StepCand)
    (hb : b = some z ∨ (z ∈ l ∧ ∀ y, b = some y → z.1 < y.1)) : l.foldl sooner b = some z := by
  induction l generalizing b with
  | nil => simpa using hb
  | cons x r ih =>
    refine ih (fun y hy => hmin y (List.mem_cons_of_mem x hy)) _ ?_
    rcases hb with rfl | ⟨hz, hlow⟩
    · refine .inl ?_
      by_cases hx : x = z
      · simp [sooner, hx]
      · have := hmin x List.mem_cons_self hx
        simp [sooner, Nat.not_lt.mpr this.le]
    · by_cases hx : x = z
      · subst hx
        refine .inl ?_
        cases b with
        | none => rfl
        | some y => simp [sooner, hlow y rfl]
      · refine .inr ⟨(List.mem_cons.mp hz).resolve_left (Ne.symm hx), fun y hy => ?_⟩
        have hlt := hmin x List.mem_cons_self hx
        cases b with
        | none => cases hy; exact hlt
        | some w =>
          simp only [sooner] at hy
          split at hy <;> cases hy
          · exact hlt
          · exact hlow _ rfl

/-- The streams of a core that have a step to begin, each with its place in the turn and its oldest step. -/
def stepCands (s : State) (core : Nat) : List StepCand :=
  (streamsOn s core).filterMap (fun x =>
    (oldestStep x.2.2.2 (fun _ => false)).map (fun r => ((x.2.2.1 + 3 - (coreOf s core).lastStream) % 4, x, r)))

theorem mem_stepCands {s : State} {core : Nat} {z : StepCand} : z ∈ stepCands s core ↔
    z.2.1 ∈ streamsOn s core ∧ oldestStep z.2.1.2.2.2 (fun _ => false) = some z.2.2 ∧
      z.1 = (z.2.1.2.2.1 + 3 - (coreOf s core).lastStream) % 4 := by
  obtain ⟨p, x, r⟩ := z
  simp only [stepCands, List.mem_filterMap, Option.map_eq_some_iff, Prod.mk.injEq]
  constructor
  · rintro ⟨_, hx, _, hr, rfl, rfl, rfl⟩; exact ⟨hx, hr, rfl⟩
  · rintro ⟨hx, hr, rfl⟩; exact ⟨x, hx, r, hr, rfl, rfl, rfl⟩

theorem chooseNext_chosen {s : State} {n : Nat} (h : (coreOf s n).nxt.isSome = true) : chooseNext s n = s := by
  simp [chooseNext, h]

/-- The state with a core's next step the best candidate, if there is one. -/
def withChosen (s : State) (n : Nat) (b : Option StepCand) : State :=
  match b with
  | none => s
  | some (_, x, r) =>
    setCore s n { coreOf s n with nxt := some ⟨⟨⟨x.1, x.2.1, 0, true⟩, r.1, r.2⟩, none, none, false, none, .zero, none, []⟩ }

/-- An engine that has chosen none chooses the best of its candidates. -/
theorem chooseNext_free {s : State} {n : Nat} (h : (coreOf s n).nxt = none) :
    chooseNext s n = withChosen s n ((stepCands s n).foldl sooner none) := by
  simp only [chooseNext, h]
  rfl

theorem stepChosen : Claims.StepChosen := by
  intro s n x r c mine place
  refine ⟨chooseNext_chosen, fun hfree hnone => ?_, fun hfree hx hr hfirst => ?_, fun hr => ?_⟩
  · have hc : stepCands s n = [] := List.eq_nil_iff_forall_not_mem.mpr fun z hz => by
      obtain ⟨hz1, hz2, _⟩ := mem_stepCands.mp hz
      exact absurd ((hnone _ hz1).symm.trans hz2) (by simp)
    rw [chooseNext_free hfree, hc]
    rfl
  · have hbest : (stepCands s n).foldl sooner none = some (place x, x, r) := by
      refine foldl_sooner _ _ (fun y hy hne => ?_) none (.inr ⟨mem_stepCands.mpr ⟨hx, hr, rfl⟩, by simp⟩)
      obtain ⟨hy1, hy2, hy3⟩ := mem_stepCands.mp hy
      have hne' : y.2.1 ≠ x := by
        rintro rfl
        exact hne (Prod.ext hy3 (Prod.ext rfl (Option.some.inj (hy2.symm.trans hr))))
      calc place x < place y.2.1 := hfirst _ hy1 hne' (by rw [show mine y.2.1 = _ from hy2]; simp)
        _ = y.1 := hy3.symm
    rw [chooseNext_free hfree, hbest]
    rfl
  · obtain ⟨p, hp, rfl⟩ := Option.map_eq_some_iff.mp hr
    obtain ⟨hpred, l, l', hl, hbefore⟩ := List.find?_eq_some_iff_append.mp hp
    refine ⟨p.2, l, l', hl, rfl, fun q hq => ?_, ?_⟩
    · simpa only [Bool.not_eq_true', Bool.not_false, Bool.and_true] using hbefore q hq
    · simpa using hpred

end Sys2Proof.Machine
end

section
/-! PROOFS. The matrix engine: the latch load, the start and the end of a step. -/
namespace Sys2Proof.Machine

theorem onCrew_found {s s1 : State} {g c : Nat} (h : focusCrew s g c = some s1) (f : State → State) : onCrew s g c f = unfocusCrew (f s1) := by
  simp [onCrew, h]

/-! ## The latch load and the start of a step (R66, R68, R78, R82, R85) -/

theorem coreOf_setRun (s : State) (n : Nat) (f : Core → Core) : coreOf (setRun s n f) n = f (coreOf s n) := by
  simp [setRun, coreOf_setCore]

theorem latchLoad_early {s : State} {n : Nat} {x : Running} (hx : (coreOf s n).nxt = some x) (h : passed s n x 16 = false) :
    latchLoad s n = s := by
  simp [latchLoad, hx, h]

section
variable {s s1 : State} {n : Nat} {x : Running} {i : Item} (hx : (coreOf s n).nxt = some x)
  (hf : focusCrew s x.item.who.gang x.item.who.crew = some s1) (hi : itemOf s1 x.item = some i)
include hx hf hi

/-- The latches take what the B slot holds, once no earlier copy into it is pending. -/
theorem latchLoad_loads (hl : x.latch = none) (hp : passed s n x 16 = true) (hc : copied s1 x.item i i.op.slotsAB.2 = true) :
    latchLoad s n = unfocusCrew (setRun (updItem s1 x.item (fun j => { j with readB := true })) n (fun c => { c with nxt := some { x with
      latch := some ((slotOf s1.crew i.op.slotsAB.2).form, (slotOf s1.crew i.op.slotsAB.2).data, (slotOf s1.crew i.op.slotsAB.2).scales),
      badB := slotBad s1 i.op.slotsAB.2 (readsB i.op) } })) := by
  simp only [latchLoad, hx, hl, hp, onCrew_found hf, hi, hc, if_true]
  rfl

variable {l : SlotForm × Store 8 × Store 8} (hr : (coreOf s n).run = none) (hl : x.latch = some l)
  (hc : copied s1 x.item i i.op.slotsAB.1 = true) (hp : i.page = none) (ha : acqOk s1 x.item i = true)
include hr hl hc hp ha

/-- A step that may begin and whose metadata cannot be read begins, to fail with what their read found. -/
theorem startStep_badMeta {t : State} {st : Status} {f : Fx} {nm : Bool} (hm : fetchBudgets (atWork s1 i) i.op = (t, .fail st f nm)) :
    startStep s n = unfocusCrew (chooseNext (countMeta (beginStep s1 n x i.op (some (st, f, nm)) [] .zero) n i.op (st = .eccUncorr)) n) := by
  unfold atWork at hm
  simp only [startStep, hx, hr, hl, onCrew_found hf, hi, hc, hp, ha, hm]
  rfl

/-- A step that may begin and whose metadata are read begins with the cycles that its rows give, or to fail with what was wrong at cycle 0. -/
theorem startStep_go {t : State} {bs : List (Nat × List Nat)} {dat : StepData} (hm : fetchBudgets (atWork s1 i) i.op = (t, .go bs))
    (hd : prepStep t i.op l.1 x.badB bs = .go dat) :
    startStep s n = unfocusCrew (chooseNext (countMeta
      (beginStep { t with accStamp := none } n x i.op none bs (stepPlan i.op dat)) n i.op true) n) := by
  unfold atWork at hm
  simp only [startStep, hx, hr, hl, onCrew_found hf, hi, hc, hp, ha, hm, hd]
  rfl

theorem startStep_fails {t : State} {bs : List (Nat × List Nat)} {st : Status} {f : Fx} {nm : Bool}
    (hm : fetchBudgets (atWork s1 i) i.op = (t, .go bs)) (hd : prepStep t i.op l.1 x.badB bs = .fail st f nm) :
    startStep s n = unfocusCrew (chooseNext (countMeta
      (beginStep { t with accStamp := none } n x i.op (some (st, f, nm)) bs .zero) n i.op true) n) := by
  unfold atWork at hm
  simp only [startStep, hx, hr, hl, onCrew_found hf, hi, hc, hp, ha, hm, hd]
  rfl

end

/-- Cycle 0 of a step makes it the one that runs, with what its A slot then holds, and leaves none chosen. -/
theorem coreOf_beginStep (s : State) (n : Nat) (x : Running) (op : ItemOp) (fail : Option (Status × Fx × Bool)) (bs : List (Nat × List Nat))
    (p : StepPlan) :
    let a := slotOf s.crew op.slotsAB.1
    let c := coreOf (beginStep s n x op fail bs p) n
    c.run = some { x with fail := fail, budgets := bs, since := some (coreCycles s n), slotA := some (a.form, a.data, a.scales), plan := p } ∧
      c.nxt = none := by
  simp [beginStep, coreOf_setRun]

theorem stepsBegin : Claims.StepsBegin := by
  intro s s1 x i hx hf hi b y a
  refine ⟨fun _ hp => ?_, fun hl hp hc => ?_, fun l hr hl hc hp ha => ⟨fun t bs dat hm hd => ?_, fun t bs st f nm hm hd => ?_,
    fun t st f nm hm => ?_⟩, fun p => ?_⟩
  · exact congrArg Host.Outcome.next (latchLoad_early hx hp)
  · exact congrArg Host.Outcome.next (latchLoad_loads hx hf hi hl hp hc)
  · exact congrArg Host.Outcome.next (startStep_go hx hf hi hr hl hc hp ha hm hd)
  · exact congrArg Host.Outcome.next (startStep_fails hx hf hi hr hl hc hp ha hm hd)
  · exact congrArg Host.Outcome.next (startStep_badMeta hx hf hi hr hl hc hp ha hm)
  · exact coreOf_beginStep s1 s.ev.n x i.op none [] p

/-! ## The end of a step (R62, R67, R68, R85, R420) -/

/-- The engine of a core without the step that ran. -/
abbrev engineFreed (s : State) (n : Nat) : State := setRun s n (fun c => { c with run := none })

theorem completeStep_found {s s1 : State} {n : Nat} {x : Running} {i : Item} (hr : (coreOf s n).run = some x)
    (hf : focusCrew s x.item.who.gang x.item.who.crew = some s1) (hi : itemOf s1 x.item = some i) (mismatch : Bool) :
    completeStep s n mismatch = unfocusCrew (endStep s1 n x i mismatch) := by
  simp only [completeStep, hr, onCrew_found hf, hi]

section
variable {s : State} {n : Nat} {x : Running} {i : Item}

theorem endStep_early {m : Bool} (h : passed s n x x.plan.cycles = false) : endStep s n x i m = s := by
  simp [endStep, h]

/-- A step that failed at cycle 0 ends with that failure. -/
theorem endStep_failed {m : Bool} {st : Status} {f : Fx} {nm : Bool} (h : passed s n x x.plan.cycles = true) (hfail : x.fail = some (st, f, nm))
    (hroom : stagedFull s (itemDie s) = false) : endStep s n x i m =
      endItem (if st = .eccUncorr ∨ st = .linkDown then poisonTiles (engineFreed s n) false i.op.tiles
        else engineFreed s n) x.item i st f nm 0 := by
  simp [endStep, h, hfail, hroom]

variable {bf af : SlotForm} {bd bsc ad asc : Store 8} (h : passed s n x x.plan.cycles = true) (hok : x.fail = none)
  (hl : x.latch = some (bf, bd, bsc)) (ha : x.slotA = some (af, ad, asc))
include h hok hl ha

/-- A step with nothing wrong updates its tiles. -/
theorem endStep_ok {dat : StepData} (hd : prepRows i.op af ad x.budgets = .go dat) (ht : tilesBad s i.op = false) :
    endStep s n x i false = endItem (applyStep (engineFreed s n) i.op asc bd bsc dat) x.item i .ok (fx .stale) false 0 := by
  simp [endStep, h, hok, hl, ha, hd, ht]

/-- A step in which a mismatch was detected poisons its tiles and is recorded. -/
theorem endStep_mismatch (ht : tilesBad s i.op = false) (hroom : stagedFull s (itemDie s) = false) :
    endStep s n x i true = endItem (poisonTiles (addLog (engineFreed s n) 3 4 n 1 (1 + 2 ^ 8 * (s.ev.m % 256)))
      true i.op.tiles) x.item i .residue ⟨.residue, 3, 0xFF, 0, false, 0⟩ false 0 := by
  simp [endStep, h, hok, hl, ha, ht, hroom]

/-- A step one of whose accumulators is damaged leaves its tiles undefined. -/
theorem endStep_damaged {m : Bool} (ht : tilesBad s i.op = true) (hroom : stagedFull s (itemDie s) = false) :
    endStep s n x i m = endItem (poisonTiles (engineFreed s n) false i.op.tiles) x.item i .eccUncorr (eccFx 3) false 0 := by
  simp [endStep, h, hok, hl, ha, ht, hroom]

end

theorem stepsEnd : Claims.StepsEnd := by
  intro s s1 x i acc sa sb v lgG dep d sat fa fb ha hb hr hf hi hop s0 due ends
  have htiles : i.op.tiles = dTiles d acc := by rw [hop]; rfl
  have hexec : exec .mxStepComplete s = .next (unfocusCrew (endStep s1 s.ev.n x i s.ev.flag)) :=
    congrArg Host.Outcome.next (completeStep_found hr hf hi _)
  have hends : ∀ {u st f nm}, endStep s1 s.ev.n x i s.ev.flag = endItem u x.item i st f nm 0 → ends u st f nm := fun h => hexec.trans (by rw [h])
  refine ⟨fun hdue => ?_, fun bf bd bsc af ad asc hdue hok hl hA => ⟨fun dat hd ht hflag => hends ?_, fun hflag ht hroom => hends ?_,
    fun ht hroom => hends ?_⟩, fun st f nm hfail hroom hdue => hends ?_, rfl⟩
  · rw [hexec, endStep_early hdue]
  · rw [hflag, endStep_ok hdue hok hl hA hd ht]
  · rw [hflag, endStep_mismatch hdue hok hl hA ht hroom, htiles]
  · rw [endStep_damaged hdue hok hl hA ht hroom, htiles]
  · rw [endStep_failed hdue hfail hroom, htiles]

end Sys2Proof.Machine
end

section
/-! PROOFS. The matrix engine: what a step changes in its tiles (R62, R70, R71). -/
namespace Sys2Proof.Machine

/-! ## Tiles changed one after another -/

theorem tileOf_setTile (c : Crew) (n m : Nat) (t : Tile) : tileOf (setTile c n t) m = if m = n then t else tileOf c m := by
  simp only [tileOf, setTile, aget_aput]
  split <;> rfl

/-- Each of several tiles changed by its own operation: a tile outside the list is as it was. -/
theorem tileOf_foldl_setTile (g : Nat → Tile → Tile) (l : List Nat) (hl : l.Nodup) (c : Crew) (n : Nat) :
    tileOf (l.foldl (fun c t => setTile c t (g t (tileOf c t))) c) n = if n ∈ l then g n (tileOf c n) else tileOf c n := by
  induction l generalizing c with
  | nil => simp
  | cons t r ih =>
    obtain ⟨ht, hr⟩ := List.nodup_cons.mp hl
    rw [List.foldl_cons, ih hr, tileOf_setTile]
    by_cases h : n = t
    · subst h; simp [ht]
    · simp [h]

theorem dTiles_nodup (d : BitVec 64) (acc : Nat) : (dTiles d acc).Nodup := by
  unfold dTiles
  split <;> simp

/-! ## The elements of a tile -/

/-- Values put at consecutive keys. -/
theorem get_foldl_put_range {w : Nat} (base c : Nat) (val : Nat → BitVec w) (st : Store w) (k : Nat) :
    ((List.range c).foldl (fun st j => st.put (base + j) (val j)) st).get k =
      if base ≤ k ∧ k < base + c then val (k - base) else st.get k := by
  induction c with
  | zero => simp
  | succ c ih =>
    rw [List.range_succ, List.foldl_append, List.foldl_cons, List.foldl_nil, Store.get_put, ih]
    by_cases h : k = base + c
    · subst h; simp
    · have : (base ≤ k ∧ k < base + (c + 1)) ↔ (base ≤ k ∧ k < base + c) := by omega
      simp [h, this]

/-- What a step writes in row `r.2` of a tile: the columns `js`, each from what the tile held before; nothing for a skipped row. -/
def putRow (f : ARow → Nat → Nat → BitVec 32 → BitVec 32) (js : List (Nat × Nat)) (old st : Store 32) (r : Option ARow × Nat) : Store 32 :=
  match r.1 with
  | none => st
  | some row => js.foldl (fun st j => st.put (256 * r.2 + j.1) (f row r.2 j.2 (old.get (256 * r.2 + j.1)))) st

/-- The places of a tile's columns, and the step's columns that they are, `off` columns on. -/
def tileCols (c off : Nat) : List (Nat × Nat) := (List.range c).map (fun j => (j, j + off))

/-- An element of row m after a step, of which row the tile holds `c` columns from column `off` on: a row that is skipped or is not there
leaves it as it was. -/
def elemAfter (f : ARow → Nat → Nat → BitVec 32 → BitVec 32) (row : Option (Option ARow)) (c off m j : Nat) (old : BitVec 32) : BitVec 32 :=
  match row with
  | some (some row) => if j < c then f row m (j + off) old else old
  | _ => old

section
variable (f : ARow → Nat → Nat → BitVec 32 → BitVec 32) {c : Nat} (off : Nat) (old st : Store 32) (row : Option ARow) {m j : Nat}

theorem get_putRow_ne (hc : c ≤ 256) (hj : j < 256) {r : Nat} (h : m ≠ r) :
    (putRow f (tileCols c off) old st (row, r)).get (256 * m + j) = st.get (256 * m + j) := by
  cases row with
  | none => rfl
  | some row =>
    simp only [putRow, tileCols, List.foldl_map]
    rw [get_foldl_put_range (256 * r) c (fun j => f row r (j + off) (old.get (256 * r + j))), if_neg (by omega)]

theorem get_putRow_self (hst : st.get (256 * m + j) = old.get (256 * m + j)) :
    (putRow f (tileCols c off) old st (row, m)).get (256 * m + j) = elemAfter f (some row) c off m j (old.get (256 * m + j)) := by
  cases row with
  | none => exact hst
  | some row =>
    simp only [putRow, tileCols, List.foldl_map, elemAfter]
    rw [get_foldl_put_range (256 * m) c (fun j => f row m (j + off) (old.get (256 * m + j)))]
    have hiff : (256 * m ≤ 256 * m + j ∧ 256 * m + j < 256 * m + c) ↔ j < c := by omega
    simp only [hiff, Nat.add_sub_cancel_left, hst]

/-- Rows from `k` on put one after another: each element is what its own row gives it. -/
theorem get_foldl_putRow (hc : c ≤ 256) (hj : j < 256) (rows : List (Option ARow)) (k : Nat)
    (hst : k ≤ m → st.get (256 * m + j) = old.get (256 * m + j)) :
    ((rows.zipIdx k).foldl (putRow f (tileCols c off) old) st).get (256 * m + j) =
      if k ≤ m then elemAfter f rows[m - k]? c off m j (old.get (256 * m + j)) else st.get (256 * m + j) := by
  induction rows generalizing k st with
  | nil =>
    split
    · exact hst ‹_›
    · rfl
  | cons r rs ih =>
    have other : m ≠ k → (putRow f (tileCols c off) old st (r, k)).get (256 * m + j) = st.get (256 * m + j) :=
      get_putRow_ne f off old st r hc hj
    rw [List.zipIdx_cons, List.foldl_cons, ih _ _ fun h => (other (by omega)).trans (hst (by omega))]
    rcases lt_trichotomy m k with h | rfl | h
    · rw [if_neg (by omega), if_neg (by omega), other h.ne]
    · rw [if_neg (by omega), if_pos le_rfl, get_putRow_self f off old st r (hst le_rfl), Nat.sub_self, List.getElem?_cons_zero]
    · rw [if_pos (by omega), if_pos h.le, show m - k = m - (k + 1) + 1 by omega, List.getElem?_cons_succ]

end

/-! ## A step's tiles -/

/-- A tile after a step of N columns: `t` is its number, and the step's first tile is `acc`. -/
def stepTile (op : ItemOp) (asc bd bsc : Store 8) (rows : List (Option ARow)) (N acc t : Nat) (tl : Tile) : Tile :=
  let js := tileCols (min 256 (N - 256 * (t - acc))) (256 * (t - acc))
  { tl with acc := rows.zipIdx.foldl (putRow (stepElem op asc bd bsc) js tl.acc) tl.acc }

theorem get_stepTile (op : ItemOp) (asc bd bsc : Store 8) (rows : List (Option ARow)) (N acc t : Nat) (tl : Tile) (m : Nat) {j : Nat} (hj : j < 256) :
    (stepTile op asc bd bsc rows N acc t tl).acc.get (256 * m + j) =
      elemAfter (stepElem op asc bd bsc) rows[m]? (N - 256 * (t - acc)) (256 * (t - acc)) m j (tl.acc.get (256 * m + j)) := by
  have h := get_foldl_putRow (stepElem op asc bd bsc) (256 * (t - acc)) tl.acc tl.acc (Nat.min_le_left 256 (N - 256 * (t - acc))) hj rows 0
    (m := m) fun _ => rfl
  rw [if_pos (Nat.zero_le m), Nat.sub_zero] at h
  refine h.trans ?_
  have hmin : j < min 256 (N - 256 * (t - acc)) ↔ j < N - 256 * (t - acc) := by omega
  unfold elemAfter
  split
  · simp only [hmin]
  · rfl

theorem applyStep_eq (s : State) (acc sa sb v lgG dep : Nat) (d : BitVec 64) (sat : Bool) (fa fb : BitVec 32) (ha hb : BitVec 17)
    (asc bd bsc : Store 8) (x : StepData) :
    applyStep s (.mx acc d sa sb v lgG dep sat fa fb ha hb) asc bd bsc x = setOwn s (fun c => (dTiles d acc).foldl (fun c t =>
      setTile c t (stepTile (.mx acc d sa sb v lgG dep sat fa fb ha hb) asc bd bsc x.rows (dN d) acc t (tileOf c t))) c) := rfl

theorem stepUpdatesTiles : Claims.StepUpdatesTiles := by
  intro s acc sa sb v lgG dep d sat fa fb ha hb asc bd bsc dat op t
  have htile : ∀ n, tileOf t.crew n =
      if n ∈ dTiles d acc then stepTile op asc bd bsc dat.rows (dN d) acc n (tileOf s.crew n) else tileOf s.crew n := fun n => by
    rw [show t = _ from applyStep_eq s acc sa sb v lgG dep d sat fa fb ha hb asc bd bsc dat]
    exact tileOf_foldl_setTile (stepTile op asc bd bsc dat.rows (dN d) acc) (dTiles d acc) (dTiles_nodup d acc) s.crew n
  refine ⟨fun n hn m j hj => ?_, fun n hn => ?_, fun n hn => ?_⟩
  · rw [htile, if_pos hn, get_stepTile _ _ _ _ _ _ _ _ _ _ hj]
    rfl
  · rw [htile, if_neg hn]
  · rw [htile, if_pos hn]
    rfl

end Sys2Proof.Machine
end

section
/-! PROOFS. The matrix engine: the recurrence of R67, the cycles of a step and the counters that follow them (R87). -/
namespace Sys2Proof.Machine

/-! ## Runs of cycles counted -/

theorem ranBy_eq_sum (l : List (Nat × Nat)) (n : Nat) : ranBy l n = (l.map (fun x => min x.2 (n - x.1))).sum := by
  rw [ranBy, List.sum_eq_foldl]

theorem ranBy_append (l l' : List (Nat × Nat)) (n : Nat) : ranBy (l ++ l') n = ranBy l n + ranBy l' n := by
  simp [ranBy_eq_sum]

/-- Runs of no cycle count for nothing. -/
theorem ranBy_nonempty (l : List (Nat × Nat)) (n : Nat) : ranBy (l.filter (·.2 ≠ 0)) n = ranBy l n := by
  simp only [ranBy_eq_sum]
  induction l with
  | nil => rfl
  | cons x r ih =>
    rw [List.filter_cons]
    by_cases h : x.2 = 0 <;> simp [h] at ih ⊢ <;> exact ih

/-- The cycles i of the next n with a ≤ i < b. -/
theorem length_filter_range (a b n : Nat) : ((List.range n).filter (fun i => a ≤ i ∧ i < b)).length = min n b - a := by
  induction n with
  | zero => simp
  | succ n ih =>
    rw [List.range_succ, List.filter_append, List.length_append, ih]
    by_cases h : a ≤ n ∧ n < b <;> simp [h] <;> omega

/-! ## The recurrence row by row (R67) -/

/-- Before row m of a step: Finish of each lane on the row before, and the group completions of the rows before, latest first. -/
def laneState (G D : Nat) (grid : List (List Nat)) : Nat → List Nat × List (List Nat)
  | 0 => (List.replicate 64 0, [])
  | m + 1 =>
    let b := laneState G D grid m
    let fin := (rowStart G b.1 (b.2.getD D [])).zipIdx.map (fun x => x.1 + (grid.getD m []).getD x.2 0)
    (fin, groupMax G fin :: b.2)

section
variable (G D : Nat) (grid : List (List Nat))

/-- Finish of lane l on the row before row m, 0 before the first. -/
def laneBefore (m l : Nat) : Nat := (laneState G D grid m).1.getD l 0

/-- Start of lane l on row m. -/
def laneStart (m l : Nat) : Nat :=
  max (laneBefore G D grid m l) (((laneState G D grid m).2.getD D []).getD (l / G) 0)

theorem rowStart_eq (m : Nat) : rowStart G (laneState G D grid m).1 ((laneState G D grid m).2.getD D []) =
    (List.range 64).map (laneStart G D grid m) := rfl

/-- The entries of a list over the first n numbers, each with its number. -/
theorem zipIdx_map_range {α : Type} (f : Nat → α) (n : Nat) : ((List.range n).map f).zipIdx = (List.range n).map (fun l => (f l, l)) := by
  apply List.ext_getElem <;> simp

theorem getD_map_range (f : Nat → Nat) {n l : Nat} (h : l < n) : ((List.range n).map f).getD l 0 = f l := by
  simp [h]

theorem laneState_succ_fin (m : Nat) : (laneState G D grid (m + 1)).1 =
    (List.range 64).map (fun l => laneStart G D grid m l + (grid.getD m []).getD l 0) := by
  simp only [laneState, rowStart_eq, zipIdx_map_range, List.map_map]
  rfl

theorem laneState_succ_groups (m : Nat) : (laneState G D grid (m + 1)).2 =
    groupMax G (laneState G D grid (m + 1)).1 :: (laneState G D grid m).2 := rfl

/-- Finish of a lane on a row. -/
theorem laneBefore_succ (m : Nat) {l : Nat} (h : l < 64) :
    laneBefore G D grid (m + 1) l = laneStart G D grid m l + (grid.getD m []).getD l 0 := by
  rw [laneBefore, laneState_succ_fin, getD_map_range _ h]

theorem laneBefore_zero (l : Nat) : laneBefore G D grid 0 l = 0 := by
  simp only [laneBefore, laneState, List.getD_eq_getElem?_getD, List.getElem?_replicate]
  split <;> rfl

/-- The completions that row m looks back to are those of row m − 1 − d, when there is one. -/
theorem laneState_groups (m d : Nat) : (laneState G D grid m).2.getD d [] =
    if m < 1 + d then [] else groupMax G (laneState G D grid (m - d)).1 := by
  induction m generalizing d with
  | zero => simp [laneState]
  | succ m ih =>
    rw [laneState_succ_groups]
    cases d with
    | zero => simp
    | succ d =>
      rw [List.getD_cons_succ, ih, Nat.add_sub_add_right]
      have : m < 1 + d ↔ m + 1 < 1 + (d + 1) := by omega
      simp only [this]

end

/-! ## The terms and waits that the recurrence lists -/

/-- The lanes of some rows. -/
def rowLanes (ms : List Nat) : List (Nat × Nat) := ms.flatMap (fun m => (List.range 64).map (fun l => (m, l)))

/-- A quantity of each lane and row, summed. -/
def laneTotal (f : Nat → Nat → Nat) (ms : List Nat) : Nat := ((rowLanes ms).map (fun x => f x.1 x.2)).sum

theorem laneTotal_cons (f : Nat → Nat → Nat) (m : Nat) (ms : List Nat) :
    laneTotal f (m :: ms) = ((List.range 64).map (f m)).sum + laneTotal f ms := by
  simp only [laneTotal, rowLanes, List.flatMap_cons, List.map_append, List.map_map, List.sum_append]
  rfl

section
variable (G D : Nat) (grid : List (List Nat))

/-- One row of the recurrence: its terms and waits stand before those of the rows after it. -/
theorem recurrence_row (r : List (List Nat)) (m : Nat) :
    recurrence G D (grid.getD m [] :: r) (laneState G D grid m).1 (laneState G D grid m).2 =
      let p := recurrence G D r (laneState G D grid (m + 1)).1 (laneState G D grid (m + 1)).2
      { p with
        terms := ((List.range 64).map (fun l => (laneStart G D grid m l, (grid.getD m []).getD l 0))).filter (·.2 ≠ 0) ++ p.terms,
        waits := ((List.range 64).map (fun l => (laneBefore G D grid m l, laneStart G D grid m l - laneBefore G D grid m l))).filter (·.2 ≠ 0)
          ++ p.waits } := by
  simp only [recurrence, rowStart_eq, zipIdx_map_range, List.map_map]
  rw [laneState_succ_groups, laneState_succ_fin]
  rfl

/-- What the recurrence answers from row m on: W is the last row's latest Finish, and its lists count the terms and the waits of each lane and row. -/
theorem recurrence_from (rows : List (List Nat)) (m : Nat) (h : grid.drop m = rows) :
    let p := recurrence G D rows (laneState G D grid m).1 (laneState G D grid m).2
    p.width = (laneState G D grid (m + rows.length)).1.foldl max 0 ∧ ∀ n,
      ranBy p.terms n = laneTotal (fun m l => min ((grid.getD m []).getD l 0) (n - laneStart G D grid m l)) (List.range' m rows.length) ∧
      ranBy p.waits n = laneTotal (fun m l => min (laneStart G D grid m l - laneBefore G D grid m l) (n - laneBefore G D grid m l))
        (List.range' m rows.length) := by
  induction rows generalizing m with
  | nil => exact ⟨rfl, fun n => ⟨rfl, rfl⟩⟩
  | cons t r ih =>
    have ht : grid.getD m [] = t := by
      rw [List.getD_eq_getElem?_getD, ← List.head?_drop, h]; rfl
    obtain ⟨hw, hrest⟩ := ih (m + 1) (by rw [← List.tail_drop, h]; rfl)
    have hrow := recurrence_row G D grid r m
    rw [ht] at hrow
    rw [hrow]
    refine ⟨?_, fun n => ?_⟩
    · rw [List.length_cons, show m + (r.length + 1) = m + 1 + r.length by omega]
      exact hw
    · obtain ⟨hterms, hwaits⟩ := hrest n
      simp only [ranBy_append, ranBy_nonempty, hterms, hwaits, List.length_cons, List.range'_succ, laneTotal_cons, ht]
      simp only [ranBy_eq_sum, List.map_map]
      exact ⟨rfl, rfl⟩

theorem laneState_fin (m : Nat) : (laneState G D grid m).1 = (List.range 64).map (laneBefore G D grid m) := by
  cases m with
  | zero => rfl
  | succ m =>
    rw [laneState_succ_fin]
    exact List.map_congr_left fun l hl => (laneBefore_succ G D grid m (List.mem_range.mp hl)).symm

end

/-! ## Groups of lanes -/

/-- The numbers of one group of G. -/
theorem filter_div_range {G g n : Nat} (hG : 0 < G) (h : g * G + G ≤ n) :
    (List.range n).filter (fun j => j / G = g) = (List.range G).map (g * G + ·) := by
  obtain ⟨k, rfl⟩ := Nat.exists_eq_add_of_le h
  have hiff : ∀ j, j / G = g ↔ g * G ≤ j ∧ j < g * G + G := fun j => by
    rw [Nat.div_eq_iff hG]; omega
  have hbelow : (List.range (g * G)).filter (fun j => j / G = g) = [] := by
    simp only [List.filter_eq_nil_iff, List.mem_range, decide_eq_true_eq, hiff]
    omega
  have hin : ((List.range G).map (g * G + ·)).filter (fun j => j / G = g) = (List.range G).map (g * G + ·) := by
    simp only [List.filter_eq_self, List.mem_map, List.mem_range, decide_eq_true_eq, hiff]
    omega
  have habove : ((List.range k).map (g * G + G + ·)).filter (fun j => j / G = g) = [] := by
    simp only [List.filter_eq_nil_iff, List.mem_map, List.mem_range, decide_eq_true_eq, hiff]
    omega
  rw [List.range_add, List.range_add, List.filter_append, List.filter_append, hbelow, hin, habove, List.nil_append, List.append_nil]

/-- The completion of a lane's group: the latest Finish in it. -/
theorem getD_groupMax {G : Nat} (hG : G ∣ 64) (fin : Nat → Nat) {l : Nat} (hl : l < 64) :
    (groupMax G ((List.range 64).map fin)).getD (l / G) 0 =
      ((List.range 64).filter (fun j => j / G = l / G)).foldl (fun a j => max a (fin j)) 0 := by
  have hpos : 0 < G := Nat.pos_of_dvd_of_pos hG (by decide)
  have hlt : l / G < 64 / G := Nat.div_lt_div_of_lt_of_dvd hG hl
  have hin : l / G * G + G ≤ 64 := by
    rw [← Nat.succ_mul]
    exact (Nat.mul_le_mul_right G hlt).trans (Nat.div_mul_le_self 64 G)
  rw [groupMax, getD_map_range _ hlt, filter_div_range hpos hin, List.foldl_map]
  refine List.foldl_ext _ _ _ fun a j hj => ?_
  have := List.mem_range.mp hj
  rw [getD_map_range _ (by omega)]

/-! ## The cycles of a step -/

theorem stepCycles : Claims.StepCycles := by
  intro acc sa sb v lgG dep d sat fa fb ha hb dat hlg p rows t all total
  have hG : 2 ^ lgG ∣ 64 := (pow_dvd_pow 2 (show lgG ≤ 6 by omega)).trans (by decide)
  obtain ⟨hw, hrest⟩ := recurrence_from (2 ^ lgG) dep dat.grid dat.grid 0 rfl
  have htotal : ∀ f, total f = laneTotal f (List.range' 0 rows) := fun f => by
    rw [← List.range_eq_range', laneTotal, List.sum_eq_foldl]; rfl
  have hwidth : p.width = (laneState (2 ^ lgG) dep dat.grid (0 + rows)).1.foldl max 0 := hw
  refine ⟨laneStart (2 ^ lgG) dep dat.grid, fun m l => laneBefore (2 ^ lgG) dep dat.grid (m + 1) l, ?_⟩
  intro before group
  have hbefore : before = laneBefore (2 ^ lgG) dep dat.grid := by
    funext m l
    cases m with
    | zero => exact (laneBefore_zero _ _ _ l).symm
    | succ m => rfl
  have hgroup : ∀ m l, l < 64 → ((laneState (2 ^ lgG) dep dat.grid m).2.getD dep []).getD (l / 2 ^ lgG) 0 = group m l := fun m l hl => by
    rw [laneState_groups]
    by_cases hm : m < 1 + dep
    · simp [group, hm]
    · rw [if_neg hm, laneState_fin, getD_groupMax hG _ hl]
      simp only [group, if_neg hm]
      rw [show m - 1 - dep + 1 = m - dep by omega]
  rw [hbefore]
  refine ⟨fun m l _ hl => ⟨?_, laneBefore_succ _ _ _ m hl⟩, ?_, rfl, ?_, fun n => ?_, fun n => ?_⟩
  · rw [laneStart, hgroup m l hl]
  · rw [hwidth, laneState_fin, List.foldl_map, Nat.zero_add]
  · rfl
  · exact (hrest n).1.trans (htotal _).symm
  · exact (hrest n).2.trans (htotal _).symm

/-! ## The counters of the engine (R87) -/

theorem bump_cnt (s : State) (c ix n k : Nat) :
    (coreOf (bump s c ix n) c).cnt.get k = if k = ix then (coreOf s c).cnt.get k + BitVec.ofNat 64 n else (coreOf s c).cnt.get k := by
  simp only [bump, coreOf_setCore, if_true, Store.get_put]
  split
  · subst_vars; rfl
  · rfl

/-- The cycles, of the next `cyc`, of the chosen step's latch load in which no step runs. -/
def latchCycles (s : State) (n cyc : Nat) : Nat :=
  let now := coreCycles s n
  match (coreOf s n).nxt.bind (fun x => x.since) with
  | none => 0
  | some w =>
    let free := ((coreOf s n).run.bind (fun x => x.since.map (fun t => t + x.plan.cycles))).getD 0
    min (now + cyc) (w + 16) - max now (max w free)

/-- The cycles of some runs, from a step's cycle 0 at cycle t of a core, that lie in the next `cyc` cycles of the core. -/
def grownBy (s : State) (n cyc t : Nat) (l : List (Nat × Nat)) : Nat :=
  ranBy l (coreCycles s n + cyc - t) - ranBy l (coreCycles s n - t)

theorem countEngine_latch (s : State) (n cyc : Nat) :
    (coreOf (countEngine s n cyc) n).cnt.get 3 = (coreOf s n).cnt.get 3 + BitVec.ofNat 64 (latchCycles s n cyc) := by
  simp only [countEngine, latchCycles]
  cases (coreOf s n).run.bind (fun x => x.since.map (fun t => (x.plan, t))) <;>
    cases (coreOf s n).nxt.bind (fun x => x.since) <;> simp [bump_cnt]

/-- With no step running, the counters of steps stand still. -/
theorem countEngine_idle {s : State} {n : Nat} (cyc : Nat) (h : (coreOf s n).run = none) {k : Nat} (hk : k ≠ 3) :
    (coreOf (countEngine s n cyc) n).cnt.get k = (coreOf s n).cnt.get k := by
  simp only [countEngine, h, Option.bind_none]
  cases (coreOf s n).nxt.bind (fun x => x.since) <;> simp [bump_cnt, hk]

/-- The running step's terms, waits and skipped rows are counted as its cycles pass. -/
theorem countEngine_running {s : State} {n : Nat} (cyc : Nat) {x : Running} {t : Nat} (h : (coreOf s n).run = some x) (ht : x.since = some t) :
    (coreOf (countEngine s n cyc) n).cnt.get 0 = (coreOf s n).cnt.get 0 + BitVec.ofNat 64 (grownBy s n cyc t x.plan.terms) ∧
    (coreOf (countEngine s n cyc) n).cnt.get 1 = (coreOf s n).cnt.get 1 + BitVec.ofNat 64 (grownBy s n cyc t x.plan.waits) ∧
    (coreOf (countEngine s n cyc) n).cnt.get 2 =
      (coreOf s n).cnt.get 2 + BitVec.ofNat 64 (grownBy s n cyc t [(x.plan.width, x.plan.skip)]) := by
  simp only [countEngine, grownBy, h, ht, Option.bind_some, Option.map_some]
  cases (coreOf s n).nxt.bind (fun x => x.since) <;> simp [bump_cnt]

theorem latchCycles_none {s : State} {n : Nat} (cyc : Nat) (h : (coreOf s n).nxt.all (fun y => y.since.isNone) = true) :
    latchCycles s n cyc = 0 := by
  have hnone : (coreOf s n).nxt.bind (fun x => x.since) = none := by
    cases hy : (coreOf s n).nxt with
    | none => rfl
    | some y => simpa [hy] using h
  simp only [latchCycles, hnone]

/-- The latch window that opened in cycle w counts its 16 cycles, from the first in which no step runs. -/
theorem latchCycles_open {s : State} {n : Nat} (cyc : Nat) {y : Running} {w : Nat} (hy : (coreOf s n).nxt = some y) (hw : y.since = some w) :
    let now := coreCycles s n
    let free := ((coreOf s n).run.bind (fun x => x.since.map (fun t => t + x.plan.cycles))).getD 0
    latchCycles s n cyc = ((List.range cyc).filter (fun i => w ≤ now + i ∧ now + i < w + 16 ∧ free ≤ now + i)).length := by
  intro now free
  have hiff : ∀ i, (w ≤ now + i ∧ now + i < w + 16 ∧ free ≤ now + i) ↔ (max w free - now ≤ i ∧ i < w + 16 - now) := fun i => by omega
  simp only [hiff, length_filter_range, latchCycles, hy, Option.bind_some, hw]
  change min (now + cyc) (w + 16) - max now (max w free) = _
  omega

theorem engineCounts : Claims.EngineCounts := by
  intro s n cyc c now grows
  have still : ∀ k, (coreOf (countEngine s n cyc) n).cnt.get k = c.cnt.get k → grows k 0 := fun k h => h.trans (BitVec.add_zero _).symm
  have latch := countEngine_latch s n cyc
  refine ⟨fun hr => ?_, fun x t hr ht _ => countEngine_running cyc hr ht, fun hn => ?_, fun y w hy hw => ⟨fun hr => ?_, fun x t hr ht => ?_⟩⟩
  · exact ⟨still 0 (countEngine_idle cyc hr (by decide)), still 1 (countEngine_idle cyc hr (by decide)),
      still 2 (countEngine_idle cyc hr (by decide))⟩
  · rwa [latchCycles_none cyc hn] at latch
  · rw [latchCycles_open cyc hy hw, hr] at latch
    simpa using latch
  · rw [latchCycles_open cyc hy hw, hr, Option.bind_some, ht] at latch
    exact latch

/-- Settles O41: the engine's events by their branches, the tiles by the rows written one after another, the cycles by the state of the lanes before
each row of the recurrence. -/
theorem matrixStepsAct : Obligations.MatrixStepsAct :=
  ⟨stepChosen, stepsBegin, stepsEnd, stepUpdatesTiles, stepCycles, engineCounts⟩

end Sys2Proof.Machine
end

section
/-! PROOFS. Items as they complete: accumulator transfers (R86, R131, R287, R288, R325) and shadow windows (R114, R300, R301, R361, R420). -/
namespace Sys2Proof.Machine

/-! ## The end of an item at hand (R118, R276, R358) -/

theorem engFx_eq_none {s : State} {src : Nat} {rs ws : List LaneAcc} :
    engFx s src rs ws = none ↔ engAddr s src rs ws = none ∧ engData s src rs ws = none := by
  cases ha : engAddr s src rs ws <;> cases hd : engData s src rs ws <;> simp [engFx, firstFx, ha, hd]

section
variable {kind : ItemOp → Bool} {work : State → ItemRef → Item → ItemRes} {s s1 : State} {i : Item} (h : itemAtHand kind s s1 i)
include h

/-- The event of an item at hand records the result of the item's work, and puts its crew back. -/
theorem itemEvent_atHand : itemEvent kind work s =
    unfocusCrew { finishItem (atWork s1 i) s.ev.item i (work (atWork s1 i) s.ev.item i) with accStamp := none } := by
  obtain ⟨hcrew, hitem, hkind, hstatus, hdrained, hpage, hacq⟩ := h
  simp [itemEvent, onCrew_found hcrew, hitem, hkind, hstatus, hdrained, hpage, hacq, atWork]

theorem itemEvent_ok {t : State} (hw : work (atWork s1 i) s.ev.item i = .ok t) : .next (itemEvent kind work s) = itemDone s t i := by
  rw [itemEvent_atHand h, hw]
  rfl

/-- A failed item ends with its status and record, as long as the staging store has room for the record. -/
theorem itemEvent_fail {st : Status} {f : Fx} {named : Bool} {aux : Nat} {t : State}
    (hw : work (atWork s1 i) s.ev.item i = .fail st f named aux t) (hroom : stagedFull (atWork s1 i) (itemDie (atWork s1 i)) = false) :
    .next (itemEvent kind work s) = itemEnds s t i st f named aux := by
  rw [itemEvent_atHand h, hw]
  simp only [finishItem, hroom]
  rfl

end

/-! ## The work of accumulator transfers -/

section
variable {s : State} {r : ItemRef} {i : Item} {addr w : BitVec 64} {tile : Store 32} {poison bad : Bool}
  (hop : i.op = .acst addr w tile poison bad) (hturn : acstBehind s r i (acAccs addr w) = false)
include hop hturn

theorem acstWork_stores (hp : poison = false) (hb : bad = false) (haos : acAos w = false) (hfx : engFx s 4 [] (acAccs addr w) = none) :
    acstWork s r i = .ok (countBar (writeRun s ((acAccs addr w).zip (((tileKeys w).map (fun k => tile.get k)).map BitVec.toNat)))
      (acBar w) (4 * acRows w * acCols w : Nat)) := by
  obtain ⟨haddr, hdata⟩ := engFx_eq_none.mp hfx
  simp [acstWork, hop, hturn, hp, hb, haos, haddr, hdata, withBar]

/-- An add-on-store also reads the words it adds to, so that its data check covers them as reads. -/
theorem acstWork_adds (hp : poison = false) (hb : bad = false) (haos : acAos w = true) (haddr : engAddr s 4 [] (acAccs addr w) = none)
    (hdata : engData s 4 (acAccs addr w) (acAccs addr w) = none) :
    acstWork s r i = .ok (countBar
      (((storeOrder ((acAccs addr w).zip ((tileKeys w).map (fun k => tile.get k)))).map (fun q => ((q.1, locsOr s q.1 .write), q.2))).foldl
        (fun t y => addOnStore t (acFt w) y.1 y.2) s) (acBar w) (4 * acRows w * acCols w : Nat)) := by
  simp [acstWork, hop, hturn, hp, hb, haos, haddr, hdata, withBar]

theorem acstWork_poisoned (hp : poison = true) :
    acstWork s r i = .fail .residue ⟨.residue, 4, 0xFF, 0, false, 0⟩ false 0 (countBar s (acBar w) (4 * acRows w * acCols w : Nat)) := by
  simp [acstWork, hop, hturn, hp, withBar, failPlain, ItemOp.src, Status.cause]

end

theorem acldWork_loads {s : State} {r : ItemRef} {i : Item} {acc : Nat} {addr w : BitVec 64} (hop : i.op = .acld acc addr w)
    (hfx : engFx s 4 (acAccs addr w) [] = none) :
    let y := drainAcc s (acAccs addr w) .read
    acldWork s r i = .ok (countBar (putTile y acc ((tileKeys w).zip ((acAccs addr w).map (fun a => BitVec.ofNat 32 (loadAcc y a)))))
      (acBar w) (4 * acRows w * acCols w : Nat)) := by
  simp [acldWork, hop, hfx, withBar]

theorem tileTransfersComplete : Claims.TileTransfersComplete := by
  intro s s1 i addr w acc tile p bad x as vs counted
  refine ⟨fun hhand hop hturn => ⟨fun hp hb haos hfx => ?_, fun hp hb haos haddr hdata => ?_, fun hp hroom => ?_⟩, fun hhand hop hfx => ?_⟩
  · exact itemEvent_ok hhand (acstWork_stores hop hturn hp hb haos hfx)
  · exact itemEvent_ok hhand (acstWork_adds hop hturn hp hb haos haddr hdata)
  · exact itemEvent_fail hhand (acstWork_poisoned hop hturn hp) hroom
  · exact itemEvent_ok hhand (acldWork_loads hop hfx)

/-! ## The work of window items -/

/-- The runs of the context's pool that its windows other than w hold (R361). -/
def runsBeside (c : Ctx) (w : Nat) : List (Nat × Nat) :=
  (c.windows.filter (fun b => b.1 ≠ w)).map (fun b => (b.2.run, bindUnits b.2.idx.length))

theorem fillPool_of_ctx {s : State} {c : Ctx} (h : aget s.ctxs s.gang.ctx = some c) (a : Nat) (idx : List (BitVec 32)) :
    fillPool s a idx = devPutBytes s (physKey 0 (c.pool + 4096 * a)) (idx.flatMap (fun v => natBytes 4 v.toNat)) := by
  simp only [fillPool, h]

/- A SWBIND that may act: `x` is what its reads see, the windows that it closes itself closed to them too (R300), and `y` the state after their
drains. -/
section
variable {s x y : State} {r : ItemRef} {i : Item} {w z n : Nat} {base ixaddr : BitVec 64} {c : Ctx}
  (hop : i.op = .swbind w z base ixaddr n) (hx : { s with accStamp := some (i.stamp + 1) } = x) (hidle : windowIdle x r i w = true)
  (hfx : engFx x 6 (runAcc ixaddr.toNat 4 n) [] = none) (hy : drainAcc x (runAcc ixaddr.toNat 4 n) .read = y)
  (hc : aget y.ctxs y.gang.ctx = some c)
include hop hx hidle hfx hy hc

theorem swbindWork_noRun (hrun : poolRun (runsBeside c w) c.poolUnits (bindUnits n) = none) :
    swbindWork s r i = .fail .slotExhausted ⟨.slotExhausted, 6, 0xFF, 0, false, 0⟩ false 0 (setWindow y w i.stamp none) := by
  unfold runsBeside at hrun
  simp only [swbindWork, hop, hx, hidle, hfx, hy, hc, hrun, Option.map_some, Option.getD_some, failPlain, ItemOp.src, Status.cause]
  rfl

variable {a : Nat} (hrun : poolRun (runsBeside c w) c.poolUnits (bindUnits n) = some a)
include hrun

theorem swbindWork_badRun (hbad : badPart y (physKey 0 (c.pool + 4096 * a)) (4 * n) = true) :
    swbindWork s r i =
      .fail .eccUncorr ⟨.eccUncorr, 6, 0xFF, physKey 0 (c.pool + 4096 * a) + 4, true, 0⟩ false 0 (setWindow y w i.stamp none) := by
  unfold runsBeside at hrun
  simp only [swbindWork, hop, hx, hidle, hfx, hy, hc, hrun, hbad, Option.map_some, Option.getD_some]
  rfl

/-- The indices that a binding holds are copied into its run of the pool. -/
theorem swbindWork_binds (hwhole : badPart y (physKey 0 (c.pool + 4096 * a)) (4 * n) = false) :
    let idx := (runAcc ixaddr.toNat 4 n).map (fun q => BitVec.ofNat 32 (loadAcc y q))
    swbindWork s r i = .ok (setWindow (devPutBytes y (physKey 0 (c.pool + 4096 * a)) (idx.flatMap (fun v => natBytes 4 v.toNat)))
      w i.stamp (some ⟨base, z, a, idx⟩)) := by
  unfold runsBeside at hrun
  simp only [swbindWork, hop, hx, hidle, hfx, hy, hc, hrun, hwhole, Option.map_some, Option.getD_some, fillPool_of_ctx hc]
  rfl

end

theorem swunbWork_unbinds {s : State} {r : ItemRef} {i : Item} {w : Nat} (hop : i.op = .swunb w) (hidle : windowIdle s r i w = true) :
    swunbWork s r i = .ok (setWindow s w i.stamp none) := by
  simp [swunbWork, hop, hidle]

theorem windowItemsComplete : Claims.WindowItemsComplete := by
  intro s s1 i w z n base ixaddr c x as
  refine ⟨fun hhand hop hidle hfx => ?bind, fun hhand hop hidle => itemEvent_ok hhand (swunbWork_unbinds hop hidle)⟩
  intro y hc runs idx
  refine ⟨fun a hrun hbad hroom => ?_, fun a hrun hwhole => ?_, fun hrun hroom => ?_⟩
  · exact itemEvent_fail hhand (swbindWork_badRun hop rfl hidle hfx rfl hc hrun hbad) hroom
  · exact itemEvent_ok hhand (swbindWork_binds hop rfl hidle hfx rfl hc hrun hwhole)
  · exact itemEvent_fail hhand (swbindWork_noRun hop rfl hidle hfx rfl hc hrun) hroom

/-- Settles O36: an item at hand ends with what its work gives, and the work of a transfer or of a window item is its branch once the checks before
it are passed. -/
theorem tileAndWindowItemsComplete : Obligations.TileAndWindowItemsComplete :=
  ⟨tileTransfersComplete, windowItemsComplete⟩

end Sys2Proof.Machine
end

section
/-! PROOFS. Vector, tile and bounded loads (R110, R131, R246, R249 to R251, R326). -/
namespace Sys2Proof.Machine

/-! ## What the drains before a load leave alone (R131, R132) -/

theorem drainFor_unstored (s : State) (ls : List Loc) : (drainFor s ls).unstored = s.unstored := by
  unfold drainFor
  split
  · rfl
  · refine foldl_keeps State.unstored _ (fun s l => ?_) _ s
    split
    · exact drainLine_unstored s _
    · rfl

theorem drainAcc_unstored (s : State) (as : List LaneAcc) (k : AccKind) : (drainAcc s as k).unstored = s.unstored := by
  unfold drainAcc
  split
  · rfl
  · exact drainFor_unstored s _

theorem drainTo_unstored (ln : Nat) (limit t : Dy) (n : Nat) (s : State) : (drainTo ln limit t n s).unstored = s.unstored := by
  induction n generalizing s with
  | zero => rfl
  | succ n ih =>
    unfold drainTo
    repeat' split
    · rfl
    · rfl
    · exact (ih _).trans (drainHolder_unstored s ln _)
    · rfl

theorem drainWithin_unstored (s : State) (b : Bound) (ln : Nat) (t : BitVec 32) : (drainWithin s b ln t).unstored = s.unstored := by
  unfold drainWithin
  dsimp only
  split
  · rfl
  · exact drainTo_unstored _ _ _ _ s

/-- The forced drains of LDB at one location: those of its line, where the line is bounded and its bound is known. -/
def drainLoc (t : BitVec 32) (s : State) (l : Loc) : State :=
  match l with
  | .phys key _ (some i) => (match boundOf s i with
    | some b => drainWithin s b (lineKey key) t
    | none => s)
  | _ => s

theorem drainLoc_unstored (t : BitVec 32) (s : State) (l : Loc) : (drainLoc t s l).unstored = s.unstored := by
  unfold drainLoc
  split
  · split
    · exact drainWithin_unstored s _ _ t
    · rfl
  · rfl

/-! ## What an unstored state decides -/

theorem nxFault_of_unstored {s t : State} (h : t.unstored = s.unstored) (nx : NX) (len : Nat) : nxFault nx len t = nxFault nx len s := by
  have hu : ∀ x : State, nxFault nx len x = nxFault nx len x.unstored := fun _ => (nxFault_congr rfl rfl rfl rfl rfl rfl).symm
  rw [hu t, h, ← hu]

theorem active_of_unstored {s t : State} (h : t.unstored = s.unstored) : active t = active s :=
  (congrArg active h :)

theorem vget_of_unstored {s t : State} (h : t.unstored = s.unstored) (r p : Nat) : vget t r p = vget s r p :=
  (congrArg (fun x => vget x r p) h :)

theorem LanesHold.of_unstored {s t : State} (h : t.unstored = s.unstored) {d n : Nat} {f : Nat → Nat} {v : Store 32}
    (hv : LanesHold t d n f v) : LanesHold s d n f v := fun r p hp => by
  rw [hv r p hp, active_of_unstored h, vget_of_unstored h]

/-- Bank conflicts are counted in the cores' counters, on which no fault of NX depends. -/
theorem nxFault_countBanks (nx : NX) (len : Nat) (ls : List Loc) (s : State) : nxFault nx len (countBanks ls s) = nxFault nx len s := by
  refine foldl_keeps (nxFault nx len) _ (fun s c => ?_) _ s
  split
  · rfl
  · split
    · rfl
    · exact nxFault_congr rfl rfl rfl rfl rfl rfl

/-! ## A load that passes its checks -/

theorem typeAndRange_ok {s : State} {ok : Bool} (ht : ty s ≤ 13) (hok : ok = true) : firstFx [tyCheck s, range ok] = none := by
  have hlt : ty s < 14 := by omega
  simp [firstFx, tyCheck, range, check, hlt, hok]

/-- A load of a group whose checks pass answers the registers it filled, in the state that its drains left, with the bank conflicts counted. -/
theorem retire_load {op : Nat} {nx : NX} {s s1 d : State} {e f a : Option Fx} {ls : List Loc} {v : Store 32} (hop : classOf op = .groups)
    (hready : groupReady nx s) (hs : s1.unstored = s.unstored) (he : e = none) (hf : f = none) (ha : a = none) (hd : d = withV s1 v) :
    retire op nx { early := e, fault := f, access := a, done := countBanks ls d } s = .next (after nx 4 (countBanks ls (withV s1 v))) := by
  obtain ⟨hgroup, hnx⟩ := hready
  have hclass : classOk op s = true := by rw [classOk_groups hop, hgroup]; rfl
  have hfault : nxFault nx 4 (countBanks ls d) = none := by
    rw [nxFault_countBanks, hd, nxFault_withV, nxFault_of_unstored hs, hnx]
  subst hd
  exact retire_next hclass he (fun hguard => nomatch hguard) rfl hf hfault ha rfl

/-! ## Loads of one access per lane (R246, R249, R251) -/

/-- What a function gives for each lane's access, put into the lane's operand. -/
theorem foldl_laneAccs_holds {s s1 : State} (hs : s1.unstored = s.unstored) (t d w : Nat) (addr : Nat → Nat) (g : LaneAcc → Nat) :
    ∃ v, (laneAccs s w addr).foldl (fun x a => vopPut t d a.lane (g a) x) s1 = withV s1 v ∧
      LanesHold s d (tyRegs t) (fun p => g ⟨p, addr p, w⟩) v := by
  obtain ⟨v, hv, hheld⟩ := lanes_vopPut s1 t d (fun p => g ⟨p, addr p, w⟩)
  refine ⟨v, ?_, hheld.of_unstored hs⟩
  rw [laneAccs, List.foldl_map, ← active_of_unstored hs]
  exact hv

theorem retire_loadPlan {op : Nat} {nx : NX} {s : State} {ok : Bool} {d : Nat} {addr : Nat → Nat} (hop : classOf op = .groups)
    (hready : groupReady nx s) (ht : ty s ≤ 13) (hok : ok = true) (hd : vOk s (ty s) d = true) (hfmt : memFmtCheck s = none)
    (hacc : accessFx s (laneAccs s (memWidth s) addr) .read = none) :
    let s1 := drainAcc s (laneAccs s (memWidth s) addr) .read
    ∃ v, retire op nx (loadPlan s ok d addr) s =
        .next (after nx 4 (countBanks (allLocs s (laneAccs s (memWidth s) addr) .read) (withV s1 v))) ∧
      LanesHold s d (tyRegs (ty s)) (fun p => loadValue s (loadAcc s1 ⟨p, addr p, memWidth s⟩)) v := by
  intro s1
  have hs : s1.unstored = s.unstored := drainAcc_unstored s _ _
  obtain ⟨v, hv, hheld⟩ := foldl_laneAccs_holds hs (ty s) d (memWidth s) addr (fun a => loadValue s (loadAcc s1 a))
  exact ⟨v, retire_load hop hready hs (typeAndRange_ok ht (by simp [hok, hd])) hfmt hacc hv, hheld⟩

theorem vectorLoads : Claims.VectorLoads := by
  intro nx d a b i s hready ht hd ha hfmt w put gather
  have hs : sOk a.toNat = true := decide_eq_true ha
  refine ⟨fun hb => ?_, fun hacc => retire_loadPlan rfl hready ht hs hd hfmt hacc⟩
  have hregs : (sOk a.toNat && vRun s b.toNat 1) = true := by rw [hs, vRun]; simpa using hb
  exact ⟨fun hacc => retire_loadPlan rfl hready ht hregs hd hfmt hacc, fun hacc => retire_loadPlan rfl hready ht hregs hd hfmt hacc⟩

/-! ## Tiles (R250) -/

/-- Parts put into runs of operands, each part of a lane once: part j of a lane fills the operand that starts j operands from d. -/
theorem foldl_vopPut_parts (s : State) (t d : Nat) (f : Nat → Nat → Nat) (l : List (Nat × Nat)) (hl : ∀ e ∈ l, e.1 < 32) (v : Store 32) :
    ∃ w, l.foldl (fun x e => vopPut t (d + e.2 * tyRegs t) e.1 (f e.1 e.2) x) (withV s v) = withV s w ∧
      (∀ e ∈ l, ∀ r < tyRegs t, w.get (32 * (d + e.2 * tyRegs t + r) + e.1) = BitVec.ofNat 32 (f e.1 e.2 / 2 ^ (32 * r))) ∧
      (∀ r p, p < 32 → (∀ e ∈ l, e.1 = p → r < d + e.2 * tyRegs t ∨ d + e.2 * tyRegs t + tyRegs t ≤ r) →
        w.get (32 * r + p) = v.get (32 * r + p)) := by
  induction l generalizing v with
  | nil => exact ⟨v, rfl, by simp, fun _ _ _ _ => rfl⟩
  | cons e l ih =>
    obtain ⟨he, hrest⟩ := List.forall_mem_cons.mp hl
    obtain ⟨u, hu, hget⟩ := foldl_vopPut s t (d + e.2 * tyRegs t) (fun p => f p e.2) [e.1] (by simpa using he) v
    obtain ⟨w, hw, hfill, hframe⟩ := ih hrest u
    refine ⟨w, ?_, fun x hx r hr => ?_, fun r p hp hout => ?_⟩
    · rw [List.foldl_cons, ← hw, ← hu]
      rfl
    · by_cases hmem : x ∈ l
      · exact hfill x hmem r hr
      · obtain rfl : x = e := (List.mem_cons.mp hx).resolve_right hmem
        have hapart : ∀ y ∈ l, y.1 = x.1 → d + x.2 * tyRegs t + r < d + y.2 * tyRegs t ∨
            d + y.2 * tyRegs t + tyRegs t ≤ d + x.2 * tyRegs t + r := fun y hy hlane => by
          have hne : y.2 ≠ x.2 := fun h => hmem (Prod.ext hlane h ▸ hy)
          rcases Nat.lt_or_gt_of_ne hne with h | h
          · have := Nat.mul_le_mul_right (tyRegs t) (Nat.succ_le_of_lt h)
            rw [Nat.succ_mul] at this
            omega
          · have := Nat.mul_le_mul_right (tyRegs t) (Nat.succ_le_of_lt h)
            rw [Nat.succ_mul] at this
            omega
        rw [hframe _ _ he hapart, hget _ _ he, if_pos ⟨by simp, by omega, by omega⟩, Nat.add_sub_cancel_left]
    · obtain ⟨hout1, hout2⟩ := List.forall_mem_cons.mp hout
      rw [hframe r p hp hout2, hget r p hp, if_neg]
      rintro ⟨hpe, hlo, hhi⟩
      have := hout1 (List.mem_singleton.mp hpe).symm
      omega

/-- The access of part j of a tile in the lane at position p. -/
def tileAcc (s : State) (a : Nat) (x : BitVec 64) (p j : Nat) : LaneAcc :=
  ⟨p, (sget s a + BitVec.ofInt 64 ((p : Int) * tilePitch x + (j * memWidth s : Nat))).toNat, memWidth s⟩

/-- The lanes and parts of a tile, in the order of its accesses. -/
def tileParts (s : State) (x : BitVec 64) : List (Nat × Nat) :=
  (active s).flatMap (fun p => (List.range (tileN x)).map (fun j => (p, j)))

theorem tileAccs_eq (s : State) (a : Nat) (x : BitVec 64) :
    tileAccs s a x = (tileParts s x).map (fun e => (tileAcc s a x e.1 e.2, e.2)) := by
  simp only [tileAccs, tileParts, tileAcc, List.map_flatMap, List.map_map, Function.comp_def]

theorem mem_tileParts {s : State} {x : BitVec 64} {e : Nat × Nat} : e ∈ tileParts s x ↔ e.1 ∈ active s ∧ e.2 < tileN x := by
  obtain ⟨p, j⟩ := e
  simp [tileParts]

/-- What a function gives for each access of a tile, put into the operand of the access's lane and part. -/
theorem foldl_tileAccs_holds {s s1 : State} (hs : s1.unstored = s.unstored) (t d a : Nat) (x : BitVec 64) (g : LaneAcc → Nat) :
    ∃ v, (tileAccs s a x).foldl (fun y e => vopPut t (d + e.2 * tyRegs t) e.1.lane (g e.1) y) s1 = withV s1 v ∧
      (∀ j < tileN x, ∀ r < tyRegs t, ∀ p ∈ active s,
        v.get (32 * (d + j * tyRegs t + r) + p) = BitVec.ofNat 32 (g (tileAcc s a x p j) / 2 ^ (32 * r))) ∧
      (∀ r p, p < 32 → (p ∉ active s ∨ r < d ∨ d + tileN x * tyRegs t ≤ r) → v.get (32 * r + p) = vget s r p) := by
  obtain ⟨v, hv, hfill, hframe⟩ := foldl_vopPut_parts s1 t d (fun p j => g (tileAcc s a x p j)) (tileParts s x)
    (fun e he => active_lt (mem_tileParts.mp he).1) s1.grp.v
  refine ⟨v, ?_, fun j hj r hr p hp => hfill (p, j) (mem_tileParts.mpr ⟨hp, hj⟩) r hr, fun r p hp hout => ?_⟩
  · rw [tileAccs_eq, List.foldl_map]
    exact hv
  · rw [← vget_of_unstored hs]
    refine hframe r p hp fun e he hlane => ?_
    obtain ⟨hact, hj⟩ := mem_tileParts.mp he
    rw [hlane] at hact
    have hlast := Nat.mul_le_mul_right (tyRegs t) (Nat.succ_le_of_lt hj)
    rw [Nat.succ_mul] at hlast
    rcases hout with h | h | h
    · exact absurd hact h
    · exact .inl (by omega)
    · exact .inr (by omega)

theorem tileCheck_ok {s : State} {d : Nat} {x : BitVec 64} (hx : x.toNat < 2 ^ 36) (hrun : d + tileN x * tyRegs (ty s) ≤ regsOf s) :
    tileCheck s d x = none := by
  simp only [tileCheck, check, vRun, hx, hrun, decide_true, Bool.and_self, if_true]

theorem tileAndBoundedLoads : Claims.TileAndBoundedLoads := by
  intro nx d a b s hready ht
  refine ⟨fun ha hb hd hfmt => ?tile, fun ha hb hd => ?bounded⟩
  case tile =>
    intro x as hx hrun hacc s1
    have hs : s1.unstored = s.unstored := drainAcc_unstored s _ _
    obtain ⟨v, hv, hheld⟩ := foldl_tileAccs_holds hs (ty s) d.toNat a.toNat x (fun c => loadValue s (loadAcc s1 c))
    have hregs : (sOk a.toNat && sOk b.toNat && vOk s (ty s) d.toNat) = true := by simp [sOk, ha, hb, hd]
    have hfault : firstFx [memFmtCheck s, tileCheck s d.toNat x] = none := by rw [hfmt, tileCheck_ok hx hrun]; rfl
    exact ⟨v, retire_load rfl hready hs (typeAndRange_ok ht hregs) hfault hacc hv, hheld⟩
  case bounded =>
    intro as hacc s1
    have hs1 : s1 = (allLocs s as .read).foldl (drainLoc ((sget s (a.toNat + 1)).setWidth 32)) s := rfl
    have hs : s1.unstored = s.unstored := hs1 ▸ foldl_keeps State.unstored _ (drainLoc_unstored _) _ s
    -- LDB fills one register whatever the type in force (R251), as an operand of type 0 is.
    obtain ⟨v, hv, hheld⟩ := foldl_laneAccs_holds hs 0 d.toNat 4 (gatherAddr s a.toNat b.toNat) (loadAcc s1)
    have hregs : (sOk a.toNat && vRun s b.toNat 1 && vRun s d.toNat 1) = true := by
      simp only [sOk, vRun, Bool.and_eq_true, decide_eq_true_eq]; omega
    have hpair : range (a.toNat < 63) = none := by simp [range, check, ha]
    exact ⟨v, retire_load rfl hready hs (typeAndRange_ok ht hregs) hpair hacc hv, hheld⟩

/-- Settles O16: the drains before a load leave everything but stored bytes and lines as it was, and the writes of its registers go lane by lane, those
of a tile part by part. -/
theorem vectorAndTileLoads : Obligations.VectorAndTileLoads :=
  ⟨vectorLoads, tileAndBoundedLoads⟩

end Sys2Proof.Machine
end

section
/-! PROOFS. Copies as they complete (R87, R95, R114, R293 to R299). -/
namespace Sys2Proof.Machine

/-- Address checks that pass find every access aligned. -/
theorem engAlign_of_engAddr {s : State} {src : Nat} {rs ws : List LaneAcc} (h : engAddr s src rs ws = none) :
    engAlign s src rs false = none ∧ engAlign s src ws true = none := by
  cases hr : engAlign s src rs false <;> cases hw : engAlign s src ws true <;> simp [engAddr, firstFx, hr, hw] at h ⊢

/-! ## The parts of a copy's work (R293, R295, R296, R297) -/

theorem spadAlign_eq_none {s : State} {i : Item} {w : BitVec 64} (h : ccSoff w % 4 = 0) : spadAlign s i w = none := by
  simp [spadAlign, h]

theorem spadExtent_eq_none {s : State} {i : Item} {w : BitVec 64} {bits : Nat}
    (h : ccSoff w + ccPitch w bits * (ccRows w - 1) + (ccCols w * bits + 7) / 8 ≤ s.gang.pkt.spad * 1024) : spadExtent s i w bits = none := by
  simp [spadExtent, h]

section
variable {s : State} {i : Item} {l : Layout} {w : BitVec 64} {f : Store 32} {r0 c0 : Nat}

theorem cpldDense_misaligned {n : Nat} {cls : Bool} (h : ccSoff w % 4 ≠ 0) : cpldDense s i n cls l w f r0 c0 = failPlain s i .align := by
  simp [cpldDense, spadAlign, h, firstRes]

/-- A dense copy into a slot whose checks pass fills the rows of the slot. -/
theorem cpldDense_fills {n : Nat} {cls : Bool} {rows : List (List (Option (LaneAcc × Nat)))} {sc : List (Nat × LaneAcc)} {as : List LaneAcc}
    {data : List (Nat × List (BitVec 8))} {y : State}
    (hrows : denseElems l (l.bits f) r0 c0 (ccRows w) (ccCols w) = rows)
    (hsc : (if l.scaled f then scaleAccs l cls r0 c0 (ccRows w) (ccCols w) else []) = sc)
    (has : elemAccs rows ++ sc.map (·.2) = as) (hy : drainAcc s as .read = y)
    (hdata : rows.zipIdx.map (fun q => (256 * q.2, packCodes (l.bits f) (codesOf y l f q.1))) = data)
    (hoff : ccSoff w % 4 = 0) (hfx : engFx s i.op.src as [] = none) (hfit : (ccCols w * l.bits f + 7) / 8 ≤ 256)
    (hwhole : slotPart y n data sc = false) : cpldDense s i n cls l w f r0 c0 = .ok (fillSlot y n .dense data sc) := by
  obtain ⟨haddr, hdat⟩ := engFx_eq_none.mp hfx
  simp only [cpldDense, hrows, hsc, has, spadAlign_eq_none hoff, haddr, hdat, hy, hdata, Option.map_none, firstRes, if_neg (Nat.not_lt.mpr hfit),
    fillOr, hwhole]
  rfl

/-- What `g` gives for each row stored in the row's place in the scratchpad. -/
def putSpadRows (w : BitVec 64) (bits : Nat) (s : State) (g : Nat → List (BitVec 8)) : State :=
  (List.range (ccRows w)).foldl (fun t k => (g k).zipIdx.foldl (fun t b =>
    locPut t (.spad t.crew.no (ccSoff w + ccPitch w bits * k + b.2)) b.1) t) s

theorem cpldSp_fills {rows : List (List (Option (LaneAcc × Nat)))} {y : State}
    (hrows : denseElems l (l.bits f) r0 c0 (ccRows w) (ccCols w) = rows) (hy : drainAcc s (elemAccs rows) .read = y) (hoff : ccSoff w % 4 = 0)
    (hext : ccSoff w + ccPitch w (l.bits f) * (ccRows w - 1) + (ccCols w * l.bits f + 7) / 8 ≤ s.gang.pkt.spad * 1024)
    (hfx : engFx s i.op.src (elemAccs rows) [] = none) (hwhole : spadPart s w (l.bits f) = false) :
    cpldSp s i l w f r0 c0 = .ok (putSpadRows w (l.bits f) y (fun k => packCodes (l.bits f) (codesOf y l f (rows.getD k [])))) := by
  obtain ⟨haddr, hdat⟩ := engFx_eq_none.mp hfx
  simp only [cpldSp, hrows, spadAlign_eq_none hoff, (engAlign_of_engAddr haddr).1, spadExtent_eq_none hext, haddr, hdat, hy, hwhole,
    Option.map_none, firstRes]
  rfl

theorem cpstDense_stores {ws : List (LaneAcc × Nat × Nat)} {y : State}
    (hws : (denseElems l (l.bits f) r0 c0 (ccRows w) (ccCols w)).zipIdx.flatMap (fun q => q.1.zipIdx.filterMap (fun e =>
      e.1.map (fun a => (a.1, a.2, l.clean f (spadCode s w (l.bits f) q.2 e.2))))) = ws)
    (hy : drainAcc s (ws.map (·.1)) .write = y) (hoff : ccSoff w % 4 = 0)
    (hext : ccSoff w + ccPitch w (l.bits f) * (ccRows w - 1) + (ccCols w * l.bits f + 7) / 8 ≤ s.gang.pkt.spad * 1024)
    (hwhole : spadBad s w (l.bits f) = false) (haddr : engAddr s i.op.src [] (ws.map (·.1)) = none)
    (hdata : engData s i.op.src (if l.bits f = 4 then ws.map (·.1) else []) (ws.map (·.1)) = none) :
    cpstDense s i l w f r0 c0 = .ok (((storeOrder ws).map (fun q => (locsOr y q.1 .write, q.2))).foldl
      (fun t q => putCode t (l.bits f) q) ((ws.map (·.1)).foldl dirtyAcc y)) := by
  simp only [cpstDense, hws, spadAlign_eq_none hoff, (engAlign_of_engAddr haddr).2, spadExtent_eq_none hext, haddr, hdata, hy, hwhole,
    Option.map_none, firstRes]
  rfl

end

/-! ## The work of a CPLD (R82, R87, R296) -/

section
variable {s : State} {r : ItemRef} {i : Item} {n : Nat} {h : BitVec 17} {recd org w : BitVec 64} {f : Store 32} {l : Layout}

section
variable (hop : i.op = .cpld (some n) h recd org w f) (hturn : ((batOf s r.who).before i).any (fun j => j.op.fills n || j.reads n) = false)
  (hlost : (slotOf s.crew n).lost = false) (hrec : readLayout s i recd org w f (some (hCls h)) (fun _ => true) = .inr l)
include hop hturn hlost hrec

/-- The work of a copy into a slot whose turn it is: that of its record's kind, counted on its barrier. -/
theorem cpldWork_slot : cpldWork s r i = withBar (ccBar w) (copySize s i recd w f)
    (if l.kind = 2 then cpldTl s i n (hCls h) l w f (orgRow org) (orgCol org)
     else if l.kind = 3 then cpldSparse s i n (hCls h) l w f (orgRow org) (orgCol org)
     else cpldDense s i n (hCls h) l w f (orgRow org) (orgCol org)) := by
  simp only [cpldWork, hop, hturn, hlost, hrec, Option.map_some, Option.any_some, Option.isSome_some, Bool.true_or]
  rfl

theorem cpldWork_tl (hk : l.kind = 2) : cpldWork s r i =
    withBar (ccBar w) (copySize s i recd w f) (cpldTl s i n (hCls h) l w f (orgRow org) (orgCol org)) := by
  rw [cpldWork_slot hop hturn hlost hrec, if_pos hk]

theorem cpldWork_sparse (hk : l.kind = 3) : cpldWork s r i =
    withBar (ccBar w) (copySize s i recd w f) (cpldSparse s i n (hCls h) l w f (orgRow org) (orgCol org)) := by
  rw [cpldWork_slot hop hturn hlost hrec, if_neg (by omega), if_pos hk]

theorem cpldWork_dense (hk : l.kind ≤ 1) : cpldWork s r i =
    withBar (ccBar w) (copySize s i recd w f) (cpldDense s i n (hCls h) l w f (orgRow org) (orgCol org)) := by
  rw [cpldWork_slot hop hturn hlost hrec, if_neg (by omega), if_neg (by omega)]

end

theorem cpldWork_spad (hop : i.op = .cpld none h recd org w f) (hrec : readLayout s i recd org w f none (fun k => k.kind ≤ 1) = .inr l) :
    cpldWork s r i = withBar (ccBar w) (copySize s i recd w f) (cpldSp s i l w f (orgRow org) (orgCol org)) := by
  simp only [cpldWork, hop, Option.map_none, Option.any_none, Option.isSome_none, Bool.false_or, hrec]
  rfl

/-! ## The work of a CPST (R297) -/

theorem cpstWork_record (hop : i.op = .cpst recd org w f)
    (hrec : readLayout s i recd org w f none (fun k => k.kind ≤ 2 && (ccTl w = (k.kind = 2))) = .inr l) :
    cpstWork s r i = withBar (ccBar w) (copySize s i recd w f)
      (if l.kind = 2 then cpstTl s i l w f (orgRow org) (orgCol org) else cpstDense s i l w f (orgRow org) (orgCol org)) := by
  simp only [cpstWork, hop, hrec]

end

/-! ## Copies at hand -/

/-- The work of a CPLD item, with the wait before it counted (R87, R322). -/
abbrev cpldEventWork (s : State) (r : ItemRef) (i : Item) : ItemRes := countWait i (cpldWork s r i)

section
variable {s s1 : State} {i : Item} (hhand : itemAtHand ItemOp.isCpld s s1 i)
include hhand

theorem cpldItem_ok {bn : Option Nat} {size : Int} {t : State}
    (hw : cpldWork (atWork s1 i) s.ev.item i = withBar bn size (.ok t)) :
    exec .cpldItemComplete s = itemDone s (endInterlock (countBar t bn size) i) i :=
  itemEvent_ok (work := cpldEventWork) hhand (congrArg (countWait i) hw)

theorem cpldItem_fail {bn : Option Nat} {size : Int} {st : Status} {x : Fx} {named : Bool} {aux : Nat} {t : State}
    (hw : cpldWork (atWork s1 i) s.ev.item i = withBar bn size (.fail st x named aux t))
    (hroom : stagedFull (atWork s1 i) (itemDie (atWork s1 i)) = false) :
    exec .cpldItemComplete s = itemEnds s (endInterlock (countBar t bn size) i) i st x named aux :=
  itemEvent_fail (work := cpldEventWork) hhand (congrArg (countWait i) hw) hroom

end

theorem copiesComplete : Claims.CopiesComplete := by
  intro s s1 i sl h recd org w f l x r0 c0 bits size rows inSpad loaded
  refine ⟨fun hhand hop => ⟨fun n hsl hturn hlost hrec => ?slot, fun hsl hrec hin hfx hwhole => ?spad⟩, fun hhand hop hrec hin hsound => ?store⟩
  case slot =>
    subst hsl
    intro sc as y
    have hsrc : i.op.src = 2 := by rw [hop]; rfl
    refine ⟨fun hk hoff hfx hfit => ?_, fun t hk ht => ?_, fun hk hoff hroom => ?_, fun t hk ht => ?_⟩
    · intro data hwhole
      refine cpldItem_ok hhand ?_
      rw [cpldWork_dense hop hturn hlost hrec hk, cpldDense_fills rfl rfl rfl rfl rfl hoff (hsrc ▸ hfx) hfit hwhole]
    · refine cpldItem_ok hhand ?_
      rw [cpldWork_tl hop hturn hlost hrec hk, ht]
    · have hfail : ItemRes.fail .align ⟨.align, 2, 0xFF, 0, false, 0⟩ false 0 x = failPlain x i .align := by rw [failPlain, hsrc]; rfl
      refine cpldItem_fail hhand ?_ hroom
      rw [cpldWork_dense hop hturn hlost hrec hk, cpldDense_misaligned hoff, hfail]
    · refine cpldItem_ok hhand ?_
      rw [cpldWork_sparse hop hturn hlost hrec hk, ht]
  case spad =>
    subst hsl
    have hsrc : i.op.src = 2 := by rw [hop]; rfl
    refine cpldItem_ok hhand ?_
    rw [cpldWork_spad hop hrec, cpldSp_fills rfl rfl hin.1 hin.2 (hsrc ▸ hfx) hwhole]
    rfl
  case store =>
    intro ws as y
    have hsrc : i.op.src = 2 := by rw [hop]; rfl
    refine ⟨fun hk haddr hdata => itemEvent_ok (work := cpstWork) hhand ?_, fun t hk ht => itemEvent_ok (work := cpstWork) hhand ?_⟩
    · rw [cpstWork_record hop hrec, if_neg (by omega), cpstDense_stores rfl rfl hin.1 hin.2 hsound (hsrc ▸ haddr) (hsrc ▸ hdata)]
      rfl
    · rw [cpstWork_record hop hrec, if_pos hk, ht]
      rfl

/-! ## Copies of bytes (R114, R298) -/

/-- Where no source byte is a destination, each pair's byte is the one its source holds. -/
theorem cpssByte_apart (s : State) (pairs : List ((Loc × Loc) × Nat)) (fuel : Nat) (p : (Loc × Loc) × Nat)
    (h : ∀ q ∈ pairs, p.1.2 ≠ q.1.1) : cpssByte s pairs fuel p = locGet s p.1.2 := by
  cases fuel with
  | zero => rfl
  | succ fuel =>
    have hnone : pairs.filter (fun q => q.1.1 = p.1.2) = [] :=
      List.filter_eq_nil_iff.mpr fun q hq => by simpa using (h q hq).symm
    simp [cpssByte, hnone]

/-- So the bytes of the pairs are stored as their sources held them. -/
theorem foldl_cpssByte {s t : State} {pairs : List (Loc × Loc)} (h : ∀ p ∈ pairs, ∀ q ∈ pairs, p.2 ≠ q.1) :
    pairs.zipIdx.foldl (fun u p => locPut u p.1.1 (cpssByte s pairs.zipIdx pairs.zipIdx.length p)) t =
      pairs.foldl (fun u p => locPut u p.1 (locGet s p.2)) t := by
  have hmem : ∀ p ∈ pairs.zipIdx, p.1 ∈ pairs := fun p hp => List.fst_mem_of_mem_zipIdx hp
  rw [List.foldl_ext _ (fun u (p : (Loc × Loc) × Nat) => locPut u p.1.1 (locGet s p.1.2)) t fun u p hp => by
    rw [cpssByte_apart s _ _ p fun q hq => h p.1 (hmem p hp) q.1 (hmem q hq)]]
  rw [← List.foldl_map (f := Prod.fst) (g := fun u (p : Loc × Loc) => locPut u p.1 (locGet s p.2)), List.zipIdx_map_fst]

section
variable {s : State} {r : ItemRef} {i : Item} {src dst pitch w : BitVec 64} {sp dp : Int} {rs ws : List LaneAcc}

/-- A copy of bytes whose addresses and pitches are multiples of 4 and whose accesses pass their checks stores pair after pair. -/
theorem cpssWork_stores (hop : i.op = .cpss src dst pitch w) (hsp : signExt (bitsOf pitch.toNat 0 32) 32 = sp)
    (hdp : signExt (bitsOf pitch.toNat 32 32) 32 = dp) (hrs : (List.range (csRows w)).flatMap (csRow src.toNat sp (csLen w)) = rs)
    (hws : (List.range (csRows w)).flatMap (csRow dst.toNat dp (csLen w)) = ws)
    (haligned : src.toNat % 4 = 0 ∧ dst.toNat % 4 = 0 ∧ sp % 4 = 0 ∧ dp % 4 = 0) (hfx : engFx s 2 rs ws = none) :
    let y := drainAcc (drainAcc s rs .read) ws .write
    let pairs := ((storeOrder (ws.zip rs)).flatMap (fun q => (locsOr y q.1 .write).zip (locsOr y q.2 .read))).zipIdx
    cpssWork s r i = withBar (csBar w) (csRows w * csLen w : Nat) (.ok
      (pairs.foldl (fun t p => locPut t p.1.1 (cpssByte y pairs pairs.length p)) (ws.foldl dirtyAcc y)).freshen) := by
  obtain ⟨haddr, hdata⟩ := engFx_eq_none.mp hfx
  obtain ⟨hsrc, hdst, hsp4, hdp4⟩ := haligned
  simp [cpssWork, hop, hsp, hdp, hrs, hws, hsrc, hdst, hsp4, hdp4, haddr, hdata]

end

theorem byteCopiesComplete : Claims.ByteCopiesComplete := by
  intro s s1 i src dst pitch w hhand hop x sp dp rs ws y pairs hsrc hdst hsp hdp hfx hapart
  refine itemEvent_ok (work := cpssWork) hhand ?_
  rw [cpssWork_stores hop rfl rfl rfl rfl ⟨hsrc, hdst, hsp, hdp⟩ hfx, foldl_cpssByte hapart]
  rfl

/-- Settles O37: an item at hand ends with what its work gives; the work of a copy is that of its record's kind, and its checks passed, what it
stores. -/
theorem copyItemsComplete : Obligations.CopyItemsComplete :=
  ⟨copiesComplete, byteCopiesComplete⟩

end Sys2Proof.Machine
end

section
/-! PROOFS. What the bytes of memory and of the scratchpads are read from, and what faults, NX and counters leave of it. -/
namespace Sys2Proof.Machine

/-- What the bytes of memory and of the gang's scratchpads are read from, and the registers that no store and no fault writes: v, k, s and MODE of the
group, format registers, tiles and slots of the crew, and the host registers. -/
def State.held (s : State) : State :=
  { State.reset with
    mem := s.mem, dirty := s.dirty, sealed := s.sealed, regs := s.regs, keys := s.keys, overflow := s.overflow, forms := s.forms, gang := s.gang,
    crew := { Crew.zero with no := s.crew.no, spad := s.crew.spad, f := s.crew.f, tiles := s.crew.tiles, slots := s.crew.slots },
    grp := { Group.zero with v := s.grp.v, k := s.grp.k, s := s.grp.s, mode := s.grp.mode } }

theorem locGet_held (s : State) (l : Loc) : locGet s.held l = locGet s l := by
  cases l with
  | phys key kid bnd => rfl
  | spad c o =>
    by_cases h : c = s.crew.no <;> simp [locGet, crewOf, State.held, h]

theorem bytesSame_of_held {s t : State} (h : t.held = s.held) : bytesSame s t := fun l => by rw [← locGet_held t, h, locGet_held]

/-! ## Taking a fault (R171, R357, R359) -/

theorem addLog_held (s : State) (a b c d e : Nat) : (addLog s a b c d e).held = s.held := by
  unfold addLog logPut State.held
  dsimp only
  split
  · rfl
  · split <;> rfl

theorem noteEcc_held (s : State) (f : Fx) (n : Bool) : (noteEcc s f n).held = s.held := by
  rcases noteEcc_cases s f n with h | ⟨c, x, d, h⟩
  · rw [h]
  · rw [h, addLog_held]

theorem pushRec_held (s : State) (g c : Option Nat) (r : FRec) : (pushRec s g c r).held = s.held := by
  unfold pushRec
  dsimp only
  split <;> split <;> rfl

theorem setStrm_held (s : State) (f : Stream → Stream) : (setStrm s f).held = s.held := rfl
theorem setSplit_held (s : State) (f : Split → Split) : (setSplit s f).held = s.held := rfl

theorem setHold_held (s : State) (h : Hold) : (setHold s h).held = s.held := by
  unfold setHold
  split <;> rfl

theorem raise_held (s : State) (f : Fx) : (raise s f).held = s.held := by
  have hrec : ∀ n g c r, (pushRec (noteEcc s f n) g c r).freshen.held = s.held := fun n g c r => (pushRec_held _ g c r).trans (noteEcc_held s f n)
  unfold raise raiseNow
  dsimp only
  split
  · rfl
  · split
    · exact (setStrm_held _ _).trans (hrec _ _ _ _)
    · exact (setSplit_held _ _).trans (hrec _ _ _ _)

theorem joinPage_held (s : State) (die ctx va : Nat) (record : Nat → State → State) (h : ∀ n x, (record n x).held = x.held) :
    (joinPage s die ctx va record).2.held = s.held := by
  unfold joinPage
  split
  · rfl
  · exact h _ _

theorem suspend_held (s : State) (f : Fx) : (suspend s f).held = s.held := by
  unfold suspend
  dsimp only
  split
  · rfl
  · exact (setHold_held _ _).trans (joinPage_held s _ _ _ _ fun _ _ => pushRec_held _ _ _ _)

theorem takeFault_held (s : State) (f : Fx) : (takeFault s f).held = s.held := by
  unfold takeFault
  split
  · exact suspend_held s f
  · exact raise_held s f

/-! ## The next-address selector (R38, R161) -/

theorem setPc_held (s : State) (v : BitVec 64) : (setPc s v).held = s.held := by
  unfold setPc
  split <;> rfl

theorem setLc_held (s : State) (v : BitVec 64) : (setLc s v).held = s.held := by
  unfold setLc
  split <;> rfl

theorem setArmed_held (s : State) (a : Option Armed) : (setArmed s a).held = s.held := by
  unfold setArmed
  split <;> rfl

theorem clearGuard_held (s : State) : (clearGuard s).held = s.held := by
  unfold clearGuard
  split <;> rfl

/-- What a crew's barriers and ended threads are apart from. -/
def Crew.apartBars (c : Crew) : Crew := { c with bars := [], ended := [], touched := [] }

theorem barTest_apartBars (c : Crew) (n : Nat) : (barTest c n).apartBars = c.apartBars := by
  have hcomplete : (barComplete c n).apartBars = c.apartBars := by
    unfold barComplete
    dsimp only
    split <;> rfl
  unfold barTest
  split
  · rfl
  · split
    · cases hj : c.joint
      · exact hcomplete
      · rfl
    · rfl

theorem endThreads_apartBars (c : Crew) (ts : List Thread) : (endThreads c ts).apartBars = c.apartBars := by
  unfold endThreads
  split
  · rfl
  · exact foldl_keeps Crew.apartBars _ (fun c (b : Nat × Bar) => barTest_apartBars c b.1) _ _

theorem endSplit_held (s : State) : (endSplit s).held = s.held := by
  have h := endThreads_apartBars s.crew (threadsOf s.grp s.split.mask)
  simp only [Crew.apartBars, Crew.mk.injEq] at h
  simp only [endSplit, State.held, h]

theorem updGroup_held (s : State) (k : Nat) (f : Group → Group)
    (h : ∀ g, (f g).v = g.v ∧ (f g).k = g.k ∧ (f g).s = g.s ∧ (f g).mode = g.mode) : (updGroup s k f).held = s.held := by
  obtain ⟨hv, hk, hs, hm⟩ := h s.grp
  unfold updGroup
  split
  · simp only [State.held, hv, hk, hs, hm]
  · split <;> rfl

theorem updBat_held (s : State) (w : Who) (f : Batches → Batches) : (updBat s w f).held = s.held := by
  unfold updBat
  split
  · rfl
  · exact updGroup_held s _ _ fun _ => ⟨rfl, rfl, rfl, rfl⟩

theorem streamEnd_held (s : State) : (streamEnd s).held = s.held := by
  unfold streamEnd
  dsimp only
  split
  · rfl
  · exact (setStrm_held _ _).trans (updBat_held s _ _)

theorem xferGroup_held (s : State) (a : Armed) (len : Nat) : (xferGroup s a len).held = s.held := by
  have hleaves : ∀ m : BitVec 32, (s.grp.without m).v = s.grp.v ∧ (s.grp.without m).k = s.grp.k ∧ (s.grp.without m).s = s.grp.s ∧
      (s.grp.without m).mode = s.grp.mode := fun m => by
    unfold Group.without
    split <;> exact ⟨rfl, rfl, rfl, rfl⟩
  unfold xferGroup bump State.held
  dsimp only
  split <;> split <;> split <;> simp only [setCore_mem, hleaves] <;> rfl

theorem nxApply_held (nx : NX) (len : Nat) (s : State) : (nxApply nx len s).held = s.held := by
  have hpc : ∀ v, (setPc (setHold s .none) v).held = s.held := fun v => (setPc_held _ v).trans (setHold_held s _)
  unfold nxApply
  dsimp only
  split
  · exact hpc _
  · split
    · exact hpc _
    · exact (setPc_held _ _).trans ((setLc_held _ _).trans (setHold_held s _))
  · split
    · exact setHold_held s _
    · split
      · exact (setArmed_held _ _).trans (hpc _)
      · exact (xferGroup_held _ _ _).trans (setHold_held s _)
  · split
    · exact (streamEnd_held _).trans (setHold_held s _)
    · exact (endSplit_held _).trans (setHold_held s _)

theorem after_held (nx : NX) (len : Nat) (s : State) : (after nx len s).held = s.held :=
  (clearGuard_held _).trans (nxApply_held nx len s)

/-! ## Counters and generators of the cores (R106, R326) -/

theorem countBanks_held (ls : List Loc) (s : State) : (countBanks ls s).held = s.held := by
  refine foldl_keeps State.held _ (fun s c => ?_) _ s
  split
  · rfl
  · split <;> rfl

theorem storeAdvance_held (s t : State) : (storeAdvance s t).held = t.held := by
  unfold storeAdvance advance
  split
  · split <;> rfl
  · rfl

end Sys2Proof.Machine
end

section
/-! PROOFS. What an access that waits for a page leaves: of an instruction (R117, R359) and of an item (R118, R276, R358). -/
namespace Sys2Proof.Machine

/-! ## Records and replay identities (R357, R359) -/

/-- A record is one record more in the staging store. -/
theorem pushRec_staged_length (s : State) (g c : Option Nat) (r : FRec) : (pushRec s g c r).staged.length = s.staged.length + 1 := by
  unfold pushRec
  dsimp only
  split <;> split <;> exact List.length_append

theorem pushRec_pageWaits (s : State) (g c : Option Nat) (r : FRec) : (pushRec s g c r).pageWaits = s.pageWaits := by
  unfold pushRec
  dsimp only
  split <;> split <;> rfl

/-- A record touches neither the crew in execution nor its issuer. -/
theorem pushRec_issuer (s : State) (g c : Option Nat) (r : FRec) :
    (pushRec s g c r).cur = s.cur ∧ (pushRec s g c r).crew = s.crew ∧ (pushRec s g c r).grp = s.grp ∧ (pushRec s g c r).split = s.split := by
  unfold pushRec
  dsimp only
  split <;> split <;> exact ⟨rfl, rfl, rfl, rfl⟩

section
variable {s : State} {die ctx va : Nat} {record : Nat → State → State}

theorem joinPage_joins {w : PageWait} (h : s.pageWaits.find? (fun w => w.die = die && w.ctx = ctx && w.page = va / 4096) = some w) :
    joinPage s die ctx va record = (w.rid, s) := by
  simp only [joinPage, h]

theorem joinPage_makes (h : s.pageWaits.find? (fun w => w.die = die && w.ctx = ctx && w.page = va / 4096) = none) :
    joinPage s die ctx va record = (die * 2 ^ 31 + s.nextRid % 2 ^ 31, record (die * 2 ^ 31 + s.nextRid % 2 ^ 31)
      { s with nextRid := s.nextRid + 1, pageWaits := s.pageWaits ++ [⟨die * 2 ^ 31 + s.nextRid % 2 ^ 31, die, ctx, va / 4096⟩] }) := by
  simp only [joinPage, h]

end

/-! ## An instruction that waits for a page (R117) -/

theorem setHold_apart (s : State) (h : Hold) : pcOf (setHold s h) = pcOf s ∧ holdOf (setHold s h) = h ∧ (setHold s h).grp = s.grp ∧
    (setHold s h).staged = s.staged ∧ (setHold s h).pageWaits = s.pageWaits := by
  cases hs : isStream s <;> simp only [setHold, hs, if_true, if_false, Bool.false_eq_true]
  · have hs' : isStream (setSplit s fun x => { x with hold := h }) = false := hs
    simp [pcOf, holdOf, hs, hs']
  · have hs' : isStream (setStrm s fun x => { x with hold := h }) = true := hs
    simp [pcOf, holdOf, hs, hs']

/-- The wait of an instruction for a page: the identity and the state that joining the page gives, and the hold. -/
def pageHeld (s : State) (f : Fx) : Nat × State :=
  joinPage s (dieOfCore s.crew.core) s.gang.ctx f.addr (fun rid s => pushRec s (some s.gang.grid) (some s.gang.ctx) (issuerRec s f (some rid)))

theorem takeFault_page {s : State} {f : Fx} (hpage : f.cause = .page) (hbusy : f.busy = false)
    (hroom : stagedFull s (dieOfCore s.crew.core) = false) :
    takeFault s f = setHold (bump (pageHeld s f).2 s.crew.core 0x22 1) (.page (pageHeld s f).1 f) := by
  simp [takeFault, hpage, suspend, hroom, hbusy, pageHeld]

theorem pageHeld_issuer (s : State) (f : Fx) : (pageHeld s f).2.cur = s.cur ∧ (pageHeld s f).2.crew = s.crew ∧ (pageHeld s f).2.grp = s.grp ∧
    (pageHeld s f).2.split = s.split := by
  unfold pageHeld joinPage
  split
  · exact ⟨rfl, rfl, rfl, rfl⟩
  · exact pushRec_issuer _ _ _ _

theorem pcOf_congr {s t : State} (hc : t.cur = s.cur) (hcrew : t.crew = s.crew) (hsplit : t.split = s.split) : pcOf t = pcOf s := by
  unfold pcOf isStream
  rw [hc, hcrew, hsplit]

theorem pageSuspends : Claims.PageSuspends := by
  intro s f hpage hbusy hroom die t
  have ht : t = setHold (bump (pageHeld s f).2 s.crew.core 0x22 1) (.page (pageHeld s f).1 f) := takeFault_page hpage hbusy hroom
  obtain ⟨hcur, hcrew, hgrp, hsplit⟩ := pageHeld_issuer s f
  obtain ⟨hpc, hhold, hgrp', hstaged, hwaits⟩ := setHold_apart (bump (pageHeld s f).2 s.crew.core 0x22 1) (.page (pageHeld s f).1 f)
  rw [← ht] at hpc hhold hgrp' hstaged hwaits
  refine ⟨hpc.trans (pcOf_congr hcur hcrew hsplit), hgrp'.trans hgrp, bytesSame_of_held (takeFault_held s f), fun w hw => ?joins, fun hnone => ?makes⟩
  case joins =>
    have hj : pageHeld s f = (w.rid, s) := joinPage_joins hw
    rw [hj] at hhold hstaged hwaits
    exact ⟨hhold, hstaged, hwaits⟩
  case makes =>
    intro rid
    have hj := joinPage_makes (record := fun rid s => pushRec s (some s.gang.grid) (some s.gang.ctx) (issuerRec s f (some rid))) hnone
    change pageHeld s f = _ at hj
    rw [hj] at hhold hstaged hwaits
    refine ⟨hhold, hwaits.trans (pushRec_pageWaits _ _ _ _), ?_⟩
    rw [hstaged]
    exact pushRec_staged_length _ _ _ _

/-- Settles O9: the fault joins the page's identity or makes the next one with one record, and holds its issuer under it; nothing of that is stored. -/
theorem pageFaultSuspends : Obligations.PageFaultSuspends :=
  pageSuspends

/-! ## An item that fails or waits for a page (R118) -/

theorem batOf_countMisses (s : State) (core : Nat) (w : Who) : batOf (countMisses s core) w = batOf s w := rfl

theorem devNat_of_cores (s : State) (c : List (Nat × Core)) (m n k : Nat) : devNat { s with cores := c, fresh := m } n k = devNat s n k := by
  induction n generalizing k with
  | zero => rfl
  | succ n ih =>
    simp only [devNat, ih]
    rfl

theorem badSpan_of_cores (s : State) (c : List (Nat × Core)) (m n k : Nat) : badSpan { s with cores := c, fresh := m } n k = badSpan s n k := by
  have hunit : ∀ x, badUnit { s with cores := c, fresh := m } x = badUnit s x := fun x => by
    unfold badUnit
    congr 1
  simp only [badSpan, hunit]

theorem countMisses_apart (s : State) (core : Nat) : (countMisses s core).mem = s.mem ∧ (countMisses s core).pageWaits = s.pageWaits ∧
    (countMisses s core).staged = s.staged := ⟨rfl, rfl, rfl⟩

/-- The counters that an item's misses grow are no part of a ring. -/
theorem ringRoom_countMisses (s : State) (core ctx : Nat) : ringRoom (countMisses s core) ctx = ringRoom s ctx := by
  obtain ⟨c, m, h⟩ : ∃ c m, countMisses s core = { s with cores := c, fresh := m } := ⟨_, _, rfl⟩
  simp only [h, ringRoom, ringHas, devNat_of_cores, badSpan_of_cores]

/-- An item whose failure nothing delays but room in its ring leaves one record and the status, at once or with the record (R276, R358). -/
theorem endItem_fails {y z : State} {r : ItemRef} {i : Item} {st : Status} (f : Fx) (nm : Bool) (aux : Nat) (hz : countMisses y y.crew.core = z)
    (hok : st ≠ .ok) (hev : st ≠ .evicted) (hrel : i.rel → i.op.src = 3 → (batOf y r.who).before i = []) :
    endItem y r i st f nm aux = settleAll (updItem (touchEngine (stageItem (noteEcc z f nm) (itemRec z r i.pc f aux none nm)) i.op) r
      (fun j => { j with status := if ringRoom y y.gang.ctx then some st else none, drained := some st, page := none })) r.who := by
  have hbad : st ≠ .ok ∧ st ≠ .evicted := ⟨hok, hev⟩
  have hroom : ringRoom z z.gang.ctx = ringRoom y y.gang.ctx := hz ▸ ringRoom_countMisses y _ _
  have hprior : (i.rel && i.op.src = 3 && (batOf z r.who).before i ≠ []) = false := by
    rw [← hz, batOf_countMisses]
    cases h : i.rel
    · rfl
    · by_cases h3 : i.op.src = 3 <;> simp [h3, hrel h]
  have hstatus : (if ((st ≠ .ok ∧ st ≠ .evicted) && !ringRoom z z.gang.ctx || (i.rel && i.op.src = 3 && (batOf z r.who).before i ≠ [])) = true
      then none else some st) = if ringRoom y y.gang.ctx then some st else none := by
    rw [hprior, hroom, decide_eq_true hbad]
    cases ringRoom y y.gang.ctx <;> rfl
  unfold endItem
  dsimp only
  rw [hz, if_pos hbad]
  simp only [hstatus]

/-- The identity under which an item waits for a page, and the state that joining the page gives. -/
def itemPage (s : State) (r : ItemRef) (i : Item) (f : Fx) : Nat × State :=
  joinPage s (itemDie s) s.gang.ctx f.addr (fun rid s => stageItem s (itemRec s r i.pc f 0 (some rid) true))

section
variable {s : State} {r : ItemRef} {i : Item} {f : Fx}

theorem finishItem_fails {st : Status} {nm : Bool} {aux : Nat} {t : State} (h : stagedFull s (itemDie s) = false) :
    finishItem s r i (.fail st f nm aux t) = endItem t r i st f nm aux := by
  simp only [finishItem, h, Bool.false_eq_true, if_false]

theorem finishItem_waits (h : stagedFull s (itemDie s) = false) (hbusy : f.busy = false) :
    finishItem s r i (.page f) = updItem (countMisses (bump (itemPage s r i f).2 s.crew.core 0x22 1) s.crew.core) r
      (fun j => { j with page := some ((itemPage s r i f).1, f) }) := by
  simp only [finishItem, h, hbusy, Bool.false_eq_true, or_self, if_false, itemPage]

theorem finishItem_later (h : stagedFull s (itemDie s) = true ∨ f.busy = true) : finishItem s r i (.page f) = s := by
  simp only [finishItem, h, if_true]

/-- With no page waited for yet, the item's page gets the next identity and one record, and stores nothing (R359). -/
theorem itemPage_first (h : s.pageWaits = []) :
    let rid := itemDie s * 2 ^ 31 + s.nextRid % 2 ^ 31
    (itemPage s r i f).1 = rid ∧ (itemPage s r i f).2.mem = s.mem ∧
      (itemPage s r i f).2.pageWaits = [⟨rid, itemDie s, s.gang.ctx, f.addr / 4096⟩] ∧
      (itemPage s r i f).2.staged.length = s.staged.length + 1 := by
  intro rid
  unfold itemPage
  rw [joinPage_makes (by rw [h]; rfl)]
  exact ⟨rfl, pushRec_mem _ _ _ _, (pushRec_pageWaits _ _ _ _).trans (congrArg (· ++ [_]) h), pushRec_staged_length _ _ _ _⟩

end

theorem itemFailures : Claims.ItemFailures := by
  intro kind work s s1 i hhand x r
  refine ⟨fun st f nm aux y hw hroom hok hev hrel => ?fails, fun f hw hbusy hroom hnone => ?waits, fun f hw hlater => ?later⟩
  case fails =>
    intro z
    rw [itemEvent_atHand hhand, hw, finishItem_fails hroom, endItem_fails f nm aux rfl hok hev hrel]
  case waits =>
    intro rid
    obtain ⟨hrid, hmem, hwaits, hstaged⟩ := itemPage_first (r := r) (i := i) (f := f) hnone
    obtain ⟨hmem', hwaits', hstaged'⟩ := countMisses_apart (bump (itemPage x r i f).2 x.crew.core 0x22 1) x.crew.core
    refine ⟨_, ?_, hmem'.trans hmem, hwaits'.trans hwaits, (congrArg List.length hstaged').trans hstaged⟩
    rw [itemEvent_atHand hhand, hw, finishItem_waits hroom hbusy, hrid]
  case later =>
    rw [itemEvent_atHand hhand, hw, finishItem_later hlater]

/-- Settles O40: the event of an item at hand records its work's failure by the end of the item, its page by an identity and a record, and neither where
the staging store is full. -/
theorem failedItemsReport : Obligations.FailedItemsReport :=
  itemFailures

end Sys2Proof.Machine
end

section
/-! PROOFS. Fences, prefetch, and the events of streams, of logical time and of fences (R51, R53, R122 to R126, R258 to R260). -/
namespace Sys2Proof.Machine

/-! ## What a fence covers (R125, R126) -/

theorem mem_heldStamps {g : Group} {p : Capture → Bool} {n : Nat} :
    n ∈ heldStamps g p ↔ ∃ x ∈ g.splits, x.stop = none ∧ ∃ h, x.cap = some h ∧ p h = true ∧ h.stamp = n := by
  unfold heldStamps
  rw [List.mem_filterMap]
  refine exists_congr fun x => and_congr_right fun _ => ?_
  by_cases hstop : x.stop = none
  · simp [hstop, Option.filter_eq_some_iff, and_assoc]
  · simp [hstop]

theorem mem_fenceHeld {s : State} {i : BitVec 8} {n : Nat} :
    n ∈ fenceHeld s i ↔ isStream s = false ∧ ∃ x ∈ s.grp.splits, x.stop = none ∧ ∃ h, x.cap = some h ∧ h.stamp = n ∧
      h.stamp < issueStamp s ∧ fenceKind i (opcodeOf h.word) = true := by
  unfold fenceHeld
  cases hs : isStream s
  · simp only [Bool.false_eq_true, if_false, mem_heldStamps, Bool.and_eq_true, decide_eq_true_eq, true_and]
    refine exists_congr fun x => and_congr_right fun _ => and_congr_right fun _ => exists_congr fun h => ?_
    tauto
  · simp

theorem addsOn_iff (op : ItemOp) : op.addsOn = true ↔ ∃ addr w tile p bad, op = .acst addr w tile p bad ∧ acAos w = true := by
  cases op <;> simp [ItemOp.addsOn, acAos]

/-! ## Fences and prefetch issue (R258 to R260) -/

theorem nxFault_tput (nx : NX) (len : Nat) (s : State) (n : Nat) (t : Tok) : nxFault nx len (tput s n t) = nxFault nx len s := by
  unfold tput
  split <;> exact nxFault_congr rfl rfl rfl rfl rfl rfl

theorem fences : Claims.Fences := by
  intro nx d a b i s hnx hd
  have hregs : ∀ h : Bool, h = true → range (c16Ok d.toNat && h) = none := fun h hh => by simp [range, check, c16Ok, hd, hh]
  have hfnc : i.toNat < 64 → i.toNat % 8 ≤ 4 → fncOk i = true := fun h64 h4 => by simp [fncOk, h64, h4]
  have hfwait : range (c16Ok d.toNat) = none := by simp [range, check, c16Ok, hd]
  have hboth : ∀ op, classOf op = .both → classOk op s = true := fun _ => classOk_both
  refine ⟨fun h64 h4 hdone => ?token, fun n => mem_fenceHeld, addsOn_iff, fun hpend h64 h4 => ?stalls, fun hdone => ?goes, fun hpend => ?waits,
    fun hgroup hd1 ha hb => ?prefetch⟩
  case token =>
    exact retire_next (hboth 0x88 rfl) (hregs _ (hfnc h64 h4)) (fun h => nomatch h) hdone rfl ((nxFault_tput _ _ _ _ _).trans hnx) rfl rfl
  case stalls => exact retire_stall (hboth 0x88 rfl) (hregs _ (hfnc h64 h4)) (fun h => nomatch h) hpend
  case goes =>
    exact retire_next (hboth 0x89 rfl) hfwait (fun h => nomatch h) rfl rfl hnx rfl (if_neg (by simp [hdone]))
  case waits => exact retire_wait (hboth 0x89 rfl) hfwait (fun h => nomatch h) rfl rfl hnx rfl (if_pos hpend)
  case prefetch =>
    have hclass : classOk 0x8A s = true := by rw [classOk_groups rfl, hgroup]; rfl
    have hrange : range (sOk a.toNat && vRun s b.toNat 1) = none := by
      have : b.toNat + 1 ≤ regsOf s := hb
      simp [range, check, sOk, vRun, ha, this]
    have hhint : check (decide (d.toNat ≤ 1)) .illegalOp = none := by simp [check, hd1]
    exact retire_next hclass hrange (fun h => nomatch h) rfl hhint hnx rfl rfl

/-! ## Events of a crew (R51, R53, R122, R126) -/

theorem focusCrew_ev {s s1 : State} {g c : Nat} (h : focusCrew s g c = some s1) : s1.ev = s.ev := by
  unfold focusCrew at h
  split at h
  · cases h
  · split at h
    · cases h
    · cases h; rfl

/-- The tokens of an issuer of the crew loaded. -/
def toksOf (s : State) (w : Who) : List (Nat × Tok) := if w.stream then s.crew.strm.t else ((groupOf s w.grp).map (fun g => g.t)).getD []

/-- The stamps that the splits of an issuer hold: none of a stream. -/
def stampsOf (s : State) (w : Who) : List Nat :=
  if w.stream then [] else ((groupOf s w.grp).map (fun g => heldStamps g (fun _ => true))).getD []

section
variable {s : State} {w : Who} {n : Nat} {t : Tok} {b : Bool} {items : List (Nat × Nat)} {held : List Nat}
  (ht : aget (toksOf s w) n = some t) (hpend : t.pending = true) (hf : t.fence = some ⟨b, items, held⟩)
include ht hpend hf

/-- A pending fence completes, its drains done, when all that it covers is done, and is left pending until then. -/
theorem fenceDone_pending [Decidable ((∀ k ∈ items, k ∉ openItems (batOf s w)) ∧ ∀ m ∈ held, m ∉ stampsOf s w)] : fenceDone s w n =
    if (∀ k ∈ items, k ∉ openItems (batOf s w)) ∧ ∀ m ∈ held, m ∉ stampsOf s w then
      updTok (if b then fenceDrain s w else s) w n (fun _ => .zero) else s := by
  have hcovered : (items.all (fun i => !(openItems (batOf s w)).contains i) && held.all (fun m => !(stampsOf s w).contains m)) = true ↔
      (∀ k ∈ items, k ∉ openItems (batOf s w)) ∧ ∀ m ∈ held, m ∉ stampsOf s w := by
    simp only [Bool.and_eq_true, List.all_eq_true, Bool.not_eq_true', List.contains_eq_mem, decide_eq_false_iff_not]
  unfold toksOf at ht
  simp only [← hcovered, fenceDone, ht, Option.getD_some, hf, hpend, Bool.true_and]
  rfl

end

theorem streamAndFenceEvents : Claims.StreamAndFenceEvents := by
  intro s s1 hfocus x
  have hev : s1.ev = s.ev := focusCrew_ev hfocus
  have hcrew : ∀ f, onCrew s s.ev.who.gang s.ev.who.crew f = unfocusCrew (f s1) := onCrew_found hfocus
  refine ⟨fun v hrun hwait hnone hguard hslot => ?guard, ⟨fun hend hquiet => ?ended, fun hend hopen => ?stays⟩, ?time, fun t b items held hpend hf => ?fence⟩
  case guard =>
    have hrel : releaseGuard s1 = setStrm s1 (fun y => { y with guard := some (v != ginvOf x.mode), hold := .none }) := by
      simp only [releaseGuard, x] at *
      rw [if_pos ⟨hrun, hwait, hnone, hguard⟩, hslot]
      rfl
    exact congrArg Host.Outcome.next ((hcrew releaseGuard).trans (congrArg unfocusCrew hrel))
  case ended =>
    exact congrArg Host.Outcome.next ((hcrew endStream).trans (congrArg unfocusCrew (if_pos ⟨hend, hquiet⟩)))
  case stays =>
    exact congrArg Host.Outcome.next ((hcrew endStream).trans (congrArg unfocusCrew (if_neg fun h => hopen h.2)))
  case time => exact congrArg Host.Outcome.next (hcrew _)
  case fence =>
    intro kept ht
    have hdone : exec .fenceComplete s = .next (unfocusCrew (fenceDone s1 s.ev.who s.ev.n)) := by
      rw [← hev]
      exact congrArg Host.Outcome.next (hcrew _)
    classical
    rw [hdone, fenceDone_pending ht hpend hf]
    refine ⟨fun hitems hheld => by rw [if_pos ⟨hitems, hheld⟩], fun hopen => ?_⟩
    have hpends : ¬((∀ k ∈ items, k ∉ openItems (batOf s1 s.ev.who)) ∧ ∀ m ∈ held, m ∉ stampsOf s1 s.ev.who) := fun ⟨hitems, hheld⟩ =>
      hopen.elim (fun ⟨k, hk, hko⟩ => hitems k hk hko) (fun ⟨m, hm, hmo⟩ => hheld m hm hmo)
    rw [if_neg hpends]

/-- Settles O20: a fence's token is the plan of FNC, FWAIT waits on it, and its event tests what it covers; the other events are their branches. -/
theorem fencesComplete : Obligations.FencesComplete :=
  ⟨fences, streamAndFenceEvents⟩

end Sys2Proof.Machine
end

section
/-! PROOFS. RDX and the barrier that it counts on (R45, R47, R256, R257). -/
namespace Sys2Proof.Machine

/-- A group of two lanes of a crew whose barrier 0 still waits for 4 bytes. s0 holds an address in the scratchpad, and s1 the control word of an RDX
that adds and counts its bytes on barrier 0; every v register is zero, so that both lanes deliver to the start of the crew's own scratchpad. -/
def rdxState : State :=
  { State.reset with
    cur := .group, gang := { Gang.zero with pkt := { Packet.zero with regs := 1, crew := 1, gang := 1, spad := 1 } },
    crew := { Crew.zero with bars := [(0, ⟨0, [], false, 4, 0⟩)] },
    grp := { Group.zero with s := ((Store.empty 64).put 0 0x0FFFFFFF00000000).put 1 8 },
    split := { Split.zero with mask := 3 } }

/-- The number of the phase in which barrier 0 of the loaded crew is. -/
def phaseOf (s : State) : Nat := (barOf s.crew 0).phase

/-- The lanes of `rdxState` as RDX accesses them. -/
def rdxAccs : List LaneAcc :=
  laneAccs rdxState (if ty rdxState = 11 then 8 else 4)
    (fun p => (sget rdxState (0 : BitVec 7).toNat + (vget rdxState (0 : BitVec 7).toNat p).signExtend 64).toNat)

theorem rdxState_admits : groupReady .seq rdxState ∧ ty rdxState ≤ 13 ∧ vOk rdxState (ty rdxState) 1 = true ∧ rdxAccs.map (·.lane) = [0, 1] ∧
    accessRW rdxState rdxAccs = none := by
  unfold groupReady
  decide +kernel

/-- What `Claims.Reductions` has RDX leave: each lane's bytes come off the barrier as that lane is taken. -/
def rdxByLane : State :=
  let s := rdxState
  let off := fun (p : Nat) => (vget s ((1 : BitVec 7).toNat + tyRegs (ty s)) p).toNat
  let del := fun (p : Nat) => (⟨p, gangBase + off p, if ty s = 11 then 8 else 4⟩ : LaneAcc)
  after .seq 4 (countBanks (allLocs s (rdxAccs ++ (active s).map del) .write) ((rdxAccs.map (fun x => (x, locsOr s x .write))).foldl (fun t x =>
    let r := reduceAcc t .add x (vop s (ty s) (1 : BitVec 7).toNat x.1.lane)
    let u := locsPut r.1 (locsOr s (del x.1.lane) .write) r.2
    if (sget s ((0 : BitVec 7).toNat + 1)).getLsbD 3 then
      subtractP u (off x.1.lane / 0x80000) (if ty s = 11 then 8 else 4) (bitsOf (sget s ((0 : BitVec 7).toNat + 1)).toNat 4 4)
    else u) s))

/-- Lane by lane the count passes through 0 between the two lanes, and the barrier's phase ends there. -/
theorem rdxByLane_phase : phaseOf rdxByLane = 1 := by decide +kernel

/-- RDX takes all its bytes off in one operation (R45, R256): the count goes from 4 to -4, and the phase does not end. -/
theorem exec_rdx_phase : (match exec (.rdx .seq 1 0 0) rdxState with
    | .next t => phaseOf t
    | _ => 2) = 0 := by decide +kernel

theorem not_reductions : ¬ Claims.Reductions := by
  intro h
  obtain ⟨hready, hty, hd, -, hacc⟩ := rdxState_admits
  obtain ⟨-, -, -, -, -, -, hrdx⟩ := h .seq 1 0 0 rdxState hready hty hd (by decide) (by decide) (by decide +kernel) hacc
  have hlanes : exec (.rdx .seq 1 0 0) rdxState = .next rdxByLane :=
    hrdx .add (by decide +kernel) (by decide +kernel) (by decide +kernel) (by decide) (by decide +kernel) (by decide +kernel)
  have hphase := exec_rdx_phase
  rw [hlanes] at hphase
  exact absurd (rdxByLane_phase.symm.trans hphase) (by decide)

/-- Refutes O18: its clause on RDX takes each lane's bytes off the barrier by themselves, where the count of two lanes of 4 bytes on a barrier that
waits for 4 passes through 0 and ends a phase; the instruction takes the 8 bytes off at once, and no phase ends. -/
theorem not_atomicsAndReductions : ¬ Obligations.AtomicsAndReductions := fun ⟨_, hreductions, _⟩ => not_reductions hreductions

end Sys2Proof.Machine
end

section
/-! PROOFS. What a stored byte reads as after another is written: units of encryption, keys of memory, locations (R5, R371, R373, R374). -/
namespace Sys2Proof.Machine

/-! ## Little-endian bytes (R5) -/

@[simp] theorem natBytes_length (n v : Nat) : (natBytes n v).length = n := by
  induction n generalizing v with
  | zero => rfl
  | succ n ih => simp [natBytes, ih]

theorem bytesNat_natBytes (n v : Nat) : bytesNat (natBytes n v) = v % 256 ^ n := by
  induction n generalizing v with
  | zero => simp [natBytes, bytesNat, Nat.mod_one]
  | succ n ih => rw [natBytes, bytesNat, ih, BitVec.toNat_ofNat, pow_succ' 256, Nat.mod_mul]

theorem get_memPutBytes (m : Store 8) (k : Nat) (bs : List (BitVec 8)) (j : Nat) :
    (memPutBytes m k bs).get j = if k ≤ j ∧ j < k + bs.length then bs.getD (j - k) 0 else m.get j := by
  suffices h : ∀ n (m : Store 8), ((bs.zipIdx n).foldl (fun m b => m.put (k + b.2) b.1) m).get j =
      if k + n ≤ j ∧ j < k + n + bs.length then bs.getD (j - (k + n)) 0 else m.get j from h 0 m
  induction bs with
  | nil => intro n m; simp
  | cons b bs ih =>
    intro n m
    rw [List.zipIdx_cons, List.foldl_cons, ih, Store.get_put]
    by_cases hj : j = k + n
    · subst hj; simp
    · by_cases hin : k + n ≤ j ∧ j < k + n + (b :: bs).length
      · have hnext : k + (n + 1) ≤ j ∧ j < k + (n + 1) + bs.length := by simp only [List.length_cons] at hin; omega
        have hix : j - (k + n) = j - (k + (n + 1)) + 1 := by omega
        rw [if_pos hnext, if_pos hin, hix, List.getD_cons_succ]
      · have hnext : ¬(k + (n + 1) ≤ j ∧ j < k + (n + 1) + bs.length) := by simp only [List.length_cons] at hin; omega
        rw [if_neg hnext, if_neg hj, if_neg hin]

/-! ## A unit of encryption (R373, R374) -/

theorem resealed_length (s : State) (u : Nat) (c : KeySlot × Nat) : (resealed s u c).length = 32 := natBytes_length _ _

/-- Under its own seal a unit reads as memory holds it. -/
theorem sealedByte_own {s : State} {j : Nat} {c : KeySlot × Nat} (h : c = unitSeal s (j / 32)) : sealedByte s j c = s.mem.get j := if_pos h

/-- What a byte reads as hangs on its unit alone: its seal and its 32 bytes. -/
theorem sealedByte_congr {s t : State} {j : Nat} (c : KeySlot × Nat) (hseal : unitSeal t (j / 32) = unitSeal s (j / 32))
    (hmem : ∀ i < 32, t.mem.get (32 * (j / 32) + i) = s.mem.get (32 * (j / 32) + i)) : sealedByte t j c = sealedByte s j c := by
  have hbytes : memBytes t.mem 32 (32 * (j / 32)) = memBytes s.mem 32 (32 * (j / 32)) :=
    List.map_congr_left fun i hi => hmem i (List.mem_range.mp hi)
  have hj := hmem (j % 32) (Nat.mod_lt _ (by omega))
  rw [Nat.div_add_mod] at hj
  simp only [sealedByte, resealed, hseal, hbytes, hj]

theorem unitSeal_reseal (s : State) (k u : Nat) (c : KeySlot × Nat) : unitSeal (reseal s k c) u = if u = k / 32 then c else unitSeal s u := by
  by_cases hc : c = unitSeal s (k / 32)
  · rw [reseal, if_pos hc]
    split
    · subst_vars; rfl
    · rfl
  · rw [reseal, if_neg hc]
    by_cases hu : u = k / 32 <;> by_cases hp : c = (plainSlot, 0)
    · simp [unitSeal, hu, hp]
    · simp [unitSeal, hu, hp]
    · simp [unitSeal, hu, hp, aget_adel_ne _ hu]
    · simp [unitSeal, hu, hp, aget_aput_ne _ _ hu]

theorem reseal_mem_apart (s : State) {k j : Nat} (c : KeySlot × Nat) (h : j / 32 ≠ k / 32) : (reseal s k c).mem.get j = s.mem.get j := by
  unfold reseal
  split
  · rfl
  · dsimp only
    rw [get_memPutBytes, resealed_length, if_neg (by omega)]

/-- Bytes of the unit under the new seal are what a reader under that seal saw. -/
theorem reseal_mem_unit (s : State) {k j : Nat} (c : KeySlot × Nat) (h : j / 32 = k / 32) : (reseal s k c).mem.get j = sealedByte s j c := by
  by_cases hc : c = unitSeal s (k / 32)
  · rw [sealedByte_own (by rw [h]; exact hc), reseal, if_pos hc]
  · rw [reseal, if_neg hc, sealedByte, h, if_neg hc]
    dsimp only
    have hoff : j - k / 32 * 32 = j % 32 := by omega
    rw [get_memPutBytes, resealed_length, if_pos (by omega), hoff]

section
variable (s : State) (k : Nat) (b : BitVec 8) (c : KeySlot × Nat)

theorem unitSeal_sealedPut (u : Nat) : unitSeal (sealedPut s k b c) u = if u = k / 32 then c else unitSeal s u := unitSeal_reseal s k u c

theorem sealedPut_mem (j : Nat) : (sealedPut s k b c).mem.get j = if j = k then b else (reseal s k c).mem.get j := Store.get_put _ _ _ _

theorem sealedByte_sealedPut_self : sealedByte (sealedPut s k b c) k c = b := by
  rw [sealedByte_own (by rw [unitSeal_sealedPut, if_pos rfl]), sealedPut_mem, if_pos rfl]

/-- Another byte reads as it did, one of the same unit under the seal that was written. -/
theorem sealedByte_sealedPut_ne {j : Nat} {e : KeySlot × Nat} (hne : j ≠ k) (hseal : j / 32 = k / 32 → e = c) :
    sealedByte (sealedPut s k b c) j e = sealedByte s j e := by
  by_cases hunit : j / 32 = k / 32
  · obtain rfl := hseal hunit
    rw [sealedByte_own (by rw [unitSeal_sealedPut, if_pos hunit]), sealedPut_mem, if_neg hne, reseal_mem_unit s e hunit]
  · refine sealedByte_congr e (by rw [unitSeal_sealedPut, if_neg hunit]) fun i hi => ?_
    have hi' : (32 * (j / 32) + i) / 32 = j / 32 := by omega
    rw [sealedPut_mem, if_neg (fun h => hunit (by rw [← h, hi'])), reseal_mem_apart s c (by rw [hi']; exact hunit)]

end

/-! ## What a store leaves of the rest of the state -/

/-- A state without what a drain or a store can write: beside what a drain can, the scratchpads and the marks of damaged units. -/
def State.unwritten (s : State) : State :=
  { s.unstored with bad := [], damaged := [], gang := { s.gang with crews := [] }, crew := { s.crew with spad := .empty 8 } }

theorem unwritten_of_unstored {s t : State} (h : t.unstored = s.unstored) : t.unwritten = s.unwritten :=
  (congrArg State.unwritten h :)

theorem sealedPut_unwritten (s : State) (k : Nat) (b : BitVec 8) (c : KeySlot × Nat) : (sealedPut s k b c).unwritten = s.unwritten :=
  unwritten_of_unstored (sealedPut_unstored s k b c)

theorem setCrew_spad_unwritten (s : State) (c o : Nat) (b : BitVec 8) :
    (setCrew s c (fun cr => { cr with spad := cr.spad.put o b })).unwritten = s.unwritten := by
  unfold setCrew
  split
  · rfl
  · split <;> rfl

theorem mend_unwritten (s : State) (l : Loc) : (mend s l).unwritten = s.unwritten := by
  unfold mend
  split <;> split <;> rfl

theorem locPut_unwritten (s : State) (l : Loc) (b : BitVec 8) : (locPut s l b).unwritten = s.unwritten := by
  cases l with
  | spad c o => exact (mend_unwritten _ _).trans (setCrew_spad_unwritten s c o b)
  | phys key kid bnd => exact (mend_unwritten _ _).trans (unwritten_of_unstored (unitPut_unstored s key kid b))

theorem locsPut_unwritten (s : State) (ls : List Loc) (v : Nat) : (locsPut s ls v).unwritten = s.unwritten :=
  foldl_keeps State.unwritten _ (fun s _ => locPut_unwritten s _ _) _ s

theorem mendCovered_unwritten (s : State) (k n : Nat) : (mendCovered s k n).unwritten = s.unwritten := by
  unfold mendCovered
  split <;> rfl

theorem devPut_unwritten (s : State) (n k v : Nat) : (devPut s n k v).unwritten = s.unwritten :=
  (foldl_keeps State.unwritten _ (fun s _ => sealedPut_unwritten s _ _ _) _ _).trans (mendCovered_unwritten s _ _)

theorem setDirty_unwritten (s : State) (ctx va : Nat) : (setDirty s ctx va).unwritten = s.unwritten := by
  unfold setDirty
  split
  · rfl
  · split
    · split
      · exact devPut_unwritten s _ _ _
      · rfl
    · rfl

theorem dirtyAcc_unwritten (s : State) (a : LaneAcc) : (dirtyAcc s a).unwritten = s.unwritten := by
  unfold dirtyAcc
  split
  · exact setDirty_unwritten s _ _
  · refine foldl_keeps State.unwritten _ (fun s i => ?_) _ s
    split
    · rfl
    · exact setDirty_unwritten s _ _
  · rfl

theorem storeAll_unwritten (s : State) (l : List (LaneAcc × Nat)) : (storeAll s l).unwritten = s.unwritten :=
  (foldl_keeps State.unwritten _ (fun s _ => locsPut_unwritten s _ _) _ _).trans
    (foldl_keeps State.unwritten _ (fun s _ => dirtyAcc_unwritten s _) _ s)

theorem drainAcc_unwritten (s : State) (as : List LaneAcc) (k : AccKind) : (drainAcc s as k).unwritten = s.unwritten :=
  unwritten_of_unstored (drainAcc_unstored s as k)

/-- No fault of NX hangs on what a store can write. -/
theorem nxFault_of_unwritten {s t : State} (h : t.unwritten = s.unwritten) (nx : NX) (len : Nat) : nxFault nx len t = nxFault nx len s := by
  have hu : ∀ x : State, nxFault nx len x = nxFault nx len x.unwritten := fun x => by cases nx <;> rfl
  rw [hu t, h, ← hu]

/-! ## Where a location is stored, and under which seal -/

theorem place_of_unwritten {s t : State} (h : t.unwritten = s.unwritten) (l : Loc) : l.place t = l.place s := by
  have hu : ∀ x : State, l.place x = l.place x.unwritten := fun x => by cases l <;> rfl
  rw [hu t, h, ← hu]

theorem sealed_of_unwritten {s t : State} (h : t.unwritten = s.unwritten) (l : Loc) : l.sealed t = l.sealed s := by
  have hu : ∀ x : State, l.sealed x = l.sealed x.unwritten := fun x => by cases l <;> rfl
  rw [hu t, h, ← hu]

theorem spares_of_unwritten {s t : State} (h : t.unwritten = s.unwritten) (x : Stored) (l : Loc) : x.spares t l ↔ x.spares s l := by
  simp only [Stored.spares, place_of_unwritten h, sealed_of_unwritten h]

/-! ## A byte at a location after another is written -/

theorem crewOf_setCrew (s : State) (c c' : Nat) (f : Crew → Crew) (hf : ∀ x, (f x).no = x.no) :
    crewOf (setCrew s c f) c' = if c' = c then (crewOf s c).map f else crewOf s c' := by
  unfold setCrew crewOf
  by_cases hc : c = s.crew.no
  · simp only [hc, if_true, hf]
    split <;> rfl
  · simp only [hc, if_false]
    cases hg : aget s.gang.crews c with
    | none => by_cases h : c' = c <;> simp [h, hc, hg]
    | some x =>
      by_cases h : c' = c
      · simp [h, hc]
      · simp [h, aget_aput_ne _ _ h]

/-- A byte of memory outside the compressed aperture reads as its unit of encryption does. -/
theorem locGet_phys {key : Nat} (h : keySpace key ≠ 1) (s : State) (kid : Nat) (bnd : Option Nat) :
    locGet s (.phys key kid bnd) = sealedByte s ((Loc.phys key kid bnd).place s).2 ((Loc.phys key kid bnd).sealed s) := if_neg h

theorem locPut_phys {key : Nat} (h : keySpace key ≠ 1) (s : State) (kid : Nat) (bnd : Option Nat) (b : BitVec 8) :
    locPut s (.phys key kid bnd) b =
      mend (sealedPut s ((Loc.phys key kid bnd).place s).2 b ((Loc.phys key kid bnd).sealed s)) (.phys key kid bnd) :=
  congrArg (mend · (.phys key kid bnd)) (if_neg h)

theorem locGet_mend (s : State) (m l : Loc) : locGet (mend s m) l = locGet s l := by
  refine bytesSame_of_held ?_ l
  unfold mend
  split <;> split <;> rfl

section
variable {s : State} {l : Loc} (hplain : l.plain)
include hplain

theorem locGet_sealedPut_spared {k : Nat} {c : KeySlot × Nat} (b : BitVec 8) (h : Stored.spares ((0, k), c) s l) :
    locGet (sealedPut s k b c) l = locGet s l := by
  have hu := sealedPut_unwritten s k b c
  cases l with
  | spad c' o => exact (congrArg (fun x => locGet x (.spad c' o)) (sealedPut_unstored s k b c) :)
  | phys key kid bnd =>
    obtain ⟨hne, hseal⟩ := h
    rw [locGet_phys hplain, locGet_phys hplain, place_of_unwritten hu, sealed_of_unwritten hu]
    refine sealedByte_sealedPut_ne s k b c (fun hk => hne (Prod.ext rfl hk.symm)) fun hunit => (hseal rfl hunit.symm).symm

theorem locGet_locPut_spared {m : Loc} (b : BitVec 8) (h : Stored.spares (m.place s, m.sealed s) s l) : locGet (locPut s m b) l = locGet s l := by
  cases m with
  | spad c o =>
    refine (locGet_mend _ _ _).trans ?_
    cases l with
    | phys key kid bnd =>
      unfold setCrew
      split
      · rfl
      · split <;> rfl
    | spad c' o' =>
      simp only [locGet, crewOf_setCrew s c c' (fun cr => { cr with spad := cr.spad.put o b }) fun _ => rfl]
      by_cases hc : c' = c
      · have ho : o' ≠ o := fun ho => h.1 (by rw [hc, ho])
        simp only [hc, if_true, Option.map_map, Function.comp_def, Store.get_put_ne _ b ho]
      · rw [if_neg hc]
  | phys key kid bnd =>
    by_cases hspace : keySpace key = 1
    · refine (locGet_mend _ _ _).trans ?_
      rw [unitPut, if_pos hspace]
      cases l with
      | spad c o => rfl
      | phys key' kid' bnd' =>
        rw [locGet_phys hplain, locGet_phys hplain]
        rfl
    · rw [locPut_phys hspace, locGet_mend]
      exact locGet_sealedPut_spared hplain b h

theorem locGet_locPut_self (b : BitVec 8) (hcrew : ∀ c o, l = .spad c o → (crewOf s c).isSome = true) : locGet (locPut s l b) l = b := by
  cases l with
  | spad c o =>
    obtain ⟨x, hx⟩ := Option.isSome_iff_exists.mp (hcrew c o rfl)
    rw [locPut, locGet_mend]
    simp [locGet, crewOf_setCrew s c c (fun cr => { cr with spad := cr.spad.put o b }) fun _ => rfl, hx]
  | phys key kid bnd =>
    have hu := sealedPut_unwritten s ((Loc.phys key kid bnd).place s).2 b ((Loc.phys key kid bnd).sealed s)
    rw [locPut_phys hplain, locGet_mend, locGet_phys hplain, place_of_unwritten hu, sealed_of_unwritten hu]
    exact sealedByte_sealedPut_self s _ b _

end

/-- What writes leave of a byte that each of them spares. -/
theorem foldl_spared {α : Type} (f : State → α → State) (l : Loc) (hu : ∀ t x, (f t x).unwritten = t.unwritten) (xs : List α) (s : State)
    (h : ∀ x ∈ xs, ∀ t, t.unwritten = s.unwritten → locGet (f t x) l = locGet t l) : locGet (xs.foldl f s) l = locGet s l := by
  induction xs generalizing s with
  | nil => rfl
  | cons x xs ih =>
    obtain ⟨hx, hxs⟩ := List.forall_mem_cons.mp h
    exact (ih (f s x) fun y hy t ht => hxs y hy t (ht.trans (hu s x))).trans (hx s rfl)

theorem locGet_locsPut_spared {s : State} {l : Loc} (hplain : l.plain) (ls : List Loc) (v : Nat)
    (h : ∀ m ∈ ls, Stored.spares (m.place s, m.sealed s) s l) : locGet (locsPut s ls v) l = locGet s l := by
  refine foldl_spared _ l (fun t x => locPut_unwritten t _ _) _ s fun x hx t ht => locGet_locPut_spared hplain x.1 ?_
  rw [place_of_unwritten ht, sealed_of_unwritten ht, spares_of_unwritten ht]
  exact h x.2 (List.of_mem_zip hx).2

/-! ## A store read back (R5, R116) -/

/-- A location that a store writes and a load reads: plain, and of a crew that is there. -/
def Loc.writable (s : State) (l : Loc) : Prop := l.plain ∧ ∀ c o, l = .spad c o → (crewOf s c).isSome = true

theorem crewOf_mend (s : State) (l : Loc) (c : Nat) : crewOf (mend s l) c = crewOf s c := by
  unfold mend
  split <;> split <;> rfl

theorem crewOf_locPut (s : State) (m : Loc) (b : BitVec 8) (c : Nat) : (crewOf (locPut s m b) c).isSome = (crewOf s c).isSome := by
  cases m with
  | spad c' o =>
    rw [locPut, crewOf_mend, crewOf_setCrew s c' c (fun cr => { cr with spad := cr.spad.put o b }) fun _ => rfl]
    split
    · subst_vars; simp
    · rfl
  | phys key kid bnd =>
    rw [locPut, crewOf_mend]
    exact (congrArg (fun x => (crewOf x c).isSome) (unitPut_unstored s key kid b) :)

theorem writable_locPut {s : State} {l m : Loc} (b : BitVec 8) (h : l.writable s) : l.writable (locPut s m b) :=
  ⟨h.1, fun c o hl => (crewOf_locPut s m b c).trans (h.2 c o hl)⟩

/-- Bytes put one after another at locations apart are what their locations read then. -/
theorem foldl_locPut_reads (ps : List (BitVec 8 × Loc)) (s : State) (hw : ∀ p ∈ ps, p.2.writable s)
    (hapart : ps.Pairwise (fun p q => Stored.spares (q.2.place s, q.2.sealed s) s p.2)) :
    ∀ p ∈ ps, locGet (ps.foldl (fun s p => locPut s p.2 p.1) s) p.2 = p.1 := by
  induction ps generalizing s with
  | nil => simp
  | cons q ps ih =>
    obtain ⟨hq, hps⟩ := List.forall_mem_cons.mp hw
    obtain ⟨hfirst, hrest⟩ := List.pairwise_cons.mp hapart
    have hu := locPut_unwritten s q.2 q.1
    refine List.forall_mem_cons.mpr ⟨?_, ih _ (fun p hp => writable_locPut q.1 (hps p hp)) ?_⟩
    · refine (foldl_spared _ q.2 (fun t x => locPut_unwritten t _ _) ps _ fun p hp t ht => locGet_locPut_spared hq.1 p.1 ?_).trans
        (locGet_locPut_self hq.1 q.1 hq.2)
      have ht' := ht.trans hu
      rw [place_of_unwritten ht', sealed_of_unwritten ht', spares_of_unwritten ht']
      exact hfirst p hp
    · simpa only [place_of_unwritten hu, sealed_of_unwritten hu, spares_of_unwritten hu] using hrest

theorem storeThenLoad : Claims.StoreThenLoad := by
  intro s ls v hplain hcrew hplaces hseals
  refine ⟨?reads, fun l hl hspared => locGet_locsPut_spared hl ls v hspared⟩
  have hzip : ((natBytes ls.length v).zip ls).map Prod.snd = ls := List.map_snd_zip (by simp)
  have hapart : ls.Pairwise (fun l m => Stored.spares (m.place s, m.sealed s) s l) :=
    (List.pairwise_map.mp hplaces).imp_of_mem fun hl hm hne => ⟨hne.symm, fun hfst hunit => (hseals _ hm _ hl hfst hunit)⟩
  have hread := foldl_locPut_reads ((natBytes ls.length v).zip ls) s
    (fun p hp => ⟨hplain _ (List.of_mem_zip hp).2, fun c o hl => hcrew c o (hl ▸ (List.of_mem_zip hp).2)⟩)
    (List.pairwise_map.mp (hzip.symm ▸ hapart))
  have hbytes : ls.map (locGet (locsPut s ls v)) = natBytes ls.length v := by
    calc ls.map (locGet (locsPut s ls v)) = ((natBytes ls.length v).zip ls).map (fun p => locGet (locsPut s ls v) p.2) := by
          conv_lhs => rw [← hzip, List.map_map]
          rw [hzip]
          rfl
      _ = ((natBytes ls.length v).zip ls).map Prod.fst := List.map_congr_left hread
      _ = natBytes ls.length v := List.map_fst_zip (by simp)
  rw [locsNat, hbytes, bytesNat_natBytes]

end Sys2Proof.Machine
end

section
/-! PROOFS. Stores of SIMT instructions: what they write, and every byte that they spare (R116, R249, R250, R352). -/
namespace Sys2Proof.Machine

/-! ## The order of the stores (R114) -/

theorem mem_insertBy {α : Type} {key : α → Nat} {x y : α} {l : List α} (h : y ∈ insertBy key x l) : y = x ∨ y ∈ l := by
  induction l with
  | nil => exact .inl (List.mem_singleton.mp h)
  | cons z r ih =>
    unfold insertBy at h
    split at h
    · exact List.mem_cons.mp h
    · rcases List.mem_cons.mp h with rfl | h
      · exact .inr List.mem_cons_self
      · exact (ih h).imp_right (List.mem_cons_of_mem z)

theorem mem_sortBy {α : Type} {key : α → Nat} {y : α} {l : List α} (h : y ∈ sortBy key l) : y ∈ l := by
  induction l with
  | nil => exact h
  | cons x r ih => exact (mem_insertBy h).elim (fun hx => hx ▸ List.mem_cons_self) fun hr => List.mem_cons_of_mem x (ih hr)

theorem mem_sortWindow {α : Type} {w : Nat} {y : LaneAcc × α} {l : List (LaneAcc × α)} (h : y ∈ sortWindow w l) : y ∈ l := by
  -- What is put out, and what is left of the sorted stores of the window, are stores of the list.
  refine (List.foldlRecOn (motive := fun (z : List (LaneAcc × α) × List (LaneAcc × α)) => (∀ x ∈ z.1, x ∈ l) ∧ ∀ x ∈ z.2, x ∈ l) l _ ⟨by simp, fun x hx => ?_⟩ fun z hz x hx => ?_).1 y h
  · exact List.mem_of_mem_filter (mem_sortBy hx)
  · obtain ⟨hout, hleft⟩ := hz
    have hput : ∀ u ∈ l, ∀ v ∈ z.1 ++ [u], v ∈ l := fun u hu v hv => (List.mem_append.mp hv).elim (hout v) fun h => List.mem_singleton.mp h ▸ hu
    split
    · split
      · rename_i v r hz
        rw [hz] at hleft
        exact ⟨hput v (hleft v List.mem_cons_self), fun u hu => hleft u (List.mem_cons_of_mem v hu)⟩
      · exact ⟨hput x hx, by simp⟩
    · exact ⟨hput x hx, hleft⟩

/-- The stores act in another order, but they are the same stores. -/
theorem mem_storeOrder {α : Type} {y : LaneAcc × α} {l : List (LaneAcc × α)} (h : y ∈ storeOrder l) : y ∈ l := by
  unfold storeOrder at h
  split at h
  · exact h
  · exact List.foldlRecOn (motive := fun (z : List (LaneAcc × α)) => ∀ x ∈ z, x ∈ l) _ _ (fun x hx => hx) (fun z hz w _ x hx => hz x (mem_sortWindow hx)) y h

theorem storeOrder_singleton {α : Type} (x : LaneAcc × α) : storeOrder [x] = [x] := by
  cases h : x.1.window <;> simp [storeOrder, h, sortWindow, sortBy, insertBy, List.eraseDups_cons]

theorem storeAcc_eq_storeAll (s : State) (a : LaneAcc) (v : Nat) : storeAcc s a v = storeAll s [(a, v)] := by
  simp only [storeAll, storeOrder_singleton]
  rfl

/-! ## The entries in which a store sets D (R352) -/

/-- Writes, each with the bytes that it writes listed, that spare a byte: it reads as it did. -/
theorem foldl_traced {α : Type} (f : State → α → State) (g : State → α → List Stored) (l : Loc) (hu : ∀ t x, (f t x).unwritten = t.unwritten)
    (hf : ∀ t x, (∀ y ∈ g t x, y.spares t l) → locGet (f t x) l = locGet t l) (xs : List α) (s : State) (acc : List Stored)
    (h : ∀ y ∈ (xs.foldl (fun z x => (f z.1 x, z.2 ++ g z.1 x)) (s, acc)).2, y.spares s l) : locGet (xs.foldl f s) l = locGet s l := by
  have hkept : ∀ (xs : List α) (z : State × List Stored), ∀ y ∈ z.2, y ∈ (xs.foldl (fun z x => (f z.1 x, z.2 ++ g z.1 x)) z).2 := by
    intro xs
    induction xs with
    | nil => exact fun z y hy => hy
    | cons x xs ih => exact fun z y hy => ih _ y (List.mem_append_left _ hy)
  induction xs generalizing s acc with
  | nil => rfl
  | cons x xs ih =>
    refine (ih (f s x) (acc ++ g s x) fun y hy => (spares_of_unwritten (hu s x) y l).mpr (h y hy)).trans (hf s x fun y hy => h y ?_)
    exact hkept xs (f s x, acc ++ g s x) y (List.mem_append_right _ hy)

section
variable {s : State} {l : Loc} (hplain : l.plain)
include hplain

theorem locGet_devPut_spared {n k v : Nat} (h : ∀ i < n, Stored.spares ((0, k + i), (plainSlot, 0)) s l) : locGet (devPut s n k v) l = locGet s l := by
  have hmend := mendCovered_unwritten s k (natBytes n v).length
  have hput : ∀ x ∈ (natBytes n v).zipIdx, ∀ t : State, t.unwritten = (mendCovered s k (natBytes n v).length).unwritten →
      locGet (sealedPut t (k + x.2) x.1 (plainSlot, 0)) l = locGet t l := fun x hx t ht => by
    have hlt : x.2 < n := by simpa using List.snd_lt_of_mem_zipIdx hx
    exact locGet_sealedPut_spared hplain x.1 ((spares_of_unwritten (ht.trans hmend) _ _).mpr (h x.2 hlt))
  have hmended : (mendCovered s k (natBytes n v).length).held = s.held := by
    unfold mendCovered
    split <;> rfl
  exact (foldl_spared _ l (fun t x => sealedPut_unwritten t _ _ _) _ _ hput).trans (bytesSame_of_held hmended l)

theorem locGet_setDirty_spared {va : Nat} (h : ∀ x ∈ leafBytes s va, x.spares s l) : locGet (setDirty s s.gang.ctx va) l = locGet s l := by
  unfold leafBytes at h
  unfold setDirty
  cases hc : aget s.ctxs s.gang.ctx with
  | none => rfl
  | some c =>
    simp only [hc] at h ⊢
    split
    · rename_i e lg a hleaf
      simp only [hleaf] at h
      split
      · rw [if_pos ‹_›] at h
        exact locGet_devPut_spared hplain fun i hi => h _ (List.mem_map.mpr ⟨i, List.mem_range.mpr hi, rfl⟩)
      · rfl
    · rfl

end

/-- D set for byte i of an access through a window, and the bytes of the entry in which it is set. -/
def setShadowDirty (va : Nat) (s : State) (i : Nat) : State := (shadowTarget s (va + i)).elim s (fun g => setDirty s s.gang.ctx g)
def shadowLeafBytes (va : Nat) (s : State) (i : Nat) : List Stored := (shadowTarget s (va + i)).elim [] (leafBytes s)

theorem setShadowDirty_unwritten (va : Nat) (s : State) (i : Nat) : (setShadowDirty va s i).unwritten = s.unwritten := by
  unfold setShadowDirty
  cases shadowTarget s (va + i)
  · rfl
  · exact setDirty_unwritten s _ _

theorem dirtyAcc_shadow {a : LaneAcc} {w : Nat} (h : regionOf a.va = .shadow w) (s : State) :
    dirtyAcc s a = (List.range a.w).foldl (setShadowDirty a.va) s := by
  simp only [dirtyAcc, h]
  refine List.foldl_ext _ _ s fun t i _ => ?_
  unfold setShadowDirty
  cases shadowTarget t (a.va + i) <;> rfl

theorem dirtyBytes_shadow {a : LaneAcc} {w : Nat} (h : regionOf a.va = .shadow w) (s : State) :
    dirtyBytes s a = ((List.range a.w).foldl (fun z i => (setShadowDirty a.va z.1 i, z.2 ++ shadowLeafBytes a.va z.1 i)) (s, [])).2 := by
  simp only [dirtyBytes, h]
  refine congrArg Prod.snd (List.foldl_ext _ _ _ fun z i _ => ?_)
  unfold setShadowDirty shadowLeafBytes
  cases shadowTarget z.1 (a.va + i) <;> simp

theorem locGet_dirtyAcc_spared {s : State} {l : Loc} (hplain : l.plain) {a : LaneAcc} (h : ∀ x ∈ dirtyBytes s a, x.spares s l) :
    locGet (dirtyAcc s a) l = locGet s l := by
  cases hr : regionOf a.va with
  | global =>
    simp only [dirtyBytes, hr] at h
    simp only [dirtyAcc, hr]
    exact locGet_setDirty_spared hplain h
  | shadow w =>
    rw [dirtyBytes_shadow hr] at h
    rw [dirtyAcc_shadow hr]
    refine foldl_traced (setShadowDirty a.va) (shadowLeafBytes a.va) l (setShadowDirty_unwritten a.va) (fun t i ht => ?_) _ s [] h
    unfold shadowLeafBytes at ht
    unfold setShadowDirty
    cases hg : shadowTarget t (a.va + i) with
    | none => rfl
    | some g => exact locGet_setDirty_spared hplain (by simpa [hg] using ht)
  | gang c => simp only [dirtyAcc, hr]
  | spad => simp only [dirtyAcc, hr]
  | reserved => simp only [dirtyAcc, hr]

/-- The stores of one instruction leave every byte that they spare. -/
theorem locGet_storeAll_spared {s : State} {l : Loc} (hplain : l.plain) {as : List (LaneAcc × Nat)} (h : ∀ x ∈ storedBytes s as, x.spares s l) :
    locGet (storeAll s as) l = locGet s l := by
  obtain ⟨hstored, hleaves⟩ := List.forall_mem_append.mp h
  have hdirty : (as.foldl (fun t x => dirtyAcc t x.1) s).unwritten = s.unwritten := foldl_keeps State.unwritten _ (fun t _ => dirtyAcc_unwritten t _) _ s
  have hread : locGet (as.foldl (fun t x => dirtyAcc t x.1) s) l = locGet s l :=
    foldl_traced (fun t (x : LaneAcc × Nat) => dirtyAcc t x.1) (fun t x => dirtyBytes t x.1) l (fun t _ => dirtyAcc_unwritten t _)
      (fun t x hx => locGet_dirtyAcc_spared hplain hx) as s [] hleaves
  rw [← hread, storeAll]
  refine foldl_spared (fun t (x : List Loc × Nat) => locsPut t x.1 x.2) l (fun t x => locsPut_unwritten t _ _) _ _ fun x hx t ht =>
    locGet_locsPut_spared hplain _ _ fun m hm => ?_
  obtain ⟨y, hy, rfl⟩ := List.mem_map.mp hx
  have ht' := ht.trans hdirty
  rw [place_of_unwritten ht', sealed_of_unwritten ht', spares_of_unwritten ht']
  exact hstored _ (List.mem_flatMap.mpr ⟨y, mem_storeOrder hy, List.mem_map.mpr ⟨m, hm, rfl⟩⟩)

end Sys2Proof.Machine
end

section
/-! PROOFS. The instructions SST, ST, STI, STW and STT (R116, R205, R249, R250). -/
namespace Sys2Proof.Machine

/-! ## The stores of an instruction -/

/-- The stores of one access per lane, each of the value that its register gives memory. -/
def laneStores (s : State) (d w : Nat) (addr : Nat → Nat) : List (LaneAcc × Nat) :=
  (active s).map (fun p => (⟨p, addr p, w⟩, storeValue s p (vop s (ty s) d p)))

/-- The stores of a tile. -/
def tileStores (s : State) (d a : Nat) (x : BitVec 64) : List (LaneAcc × Nat) :=
  (tileAccs s a x).map (fun e => (e.1, storeValue s e.1.lane (vop s (ty s) (d + e.2 * tyRegs (ty s)) e.1.lane)))

/-- The plan of a vector store: its checks, and its stores after their drains. -/
def storesPlan (s : State) (early fault : Option Fx) (as : List (LaneAcc × Nat)) : Plan :=
  { early := early, fault := fault, access := accessFx s (as.map (·.1)) .write,
    done := countBanks (allLocs s (as.map (·.1)) .write) (storeAdvance s (storeAll (drainAcc s (as.map (·.1)) .write) as)) }

theorem storePlan_eq (s : State) (ok : Bool) (d : Nat) (addr : Nat → Nat) :
    storePlan s ok d addr = storesPlan s (firstFx [tyCheck s, range (ok && vOk s (ty s) d)]) (memFmtCheck s) (laneStores s d (memWidth s) addr) := by
  have hstores : (laneAccs s (memWidth s) addr).map (fun a => (a, storeValue s a.lane (vop s (ty s) d a.lane))) = laneStores s d (memWidth s) addr := by
    simp only [laneAccs, laneStores, List.map_map, Function.comp_def]
  have haccs : (laneStores s d (memWidth s) addr).map (·.1) = laneAccs s (memWidth s) addr := by
    simp only [laneAccs, laneStores, List.map_map, Function.comp_def]
  simp only [storePlan, storesPlan, hstores, haccs]

theorem execStt_eq (nx : NX) (d a b : BitVec 7) (s : State) : execStt nx d a b s =
    retire 0x75 nx (storesPlan s (firstFx [tyCheck s, range (sOk a.toNat && sOk b.toNat && vOk s (ty s) d.toNat)])
      (firstFx [memFmtCheck s, tileCheck s d.toNat (sget s b.toNat)]) (tileStores s d.toNat a.toNat (sget s b.toNat))) s := by
  have haccs : (tileStores s d.toNat a.toNat (sget s b.toNat)).map (·.1) = (tileAccs s a.toNat (sget s b.toNat)).map (·.1) := by
    simp only [tileStores, List.map_map, Function.comp_def]
  simp only [execStt, storesPlan, haccs]
  rfl

/-! ## A store that passes its checks (R249, R250) -/

theorem nxFault_storeAdvance (nx : NX) (len : Nat) (s t : State) : nxFault nx len (storeAdvance s t) = nxFault nx len t := by
  unfold storeAdvance advance
  split
  · split
    · exact nxFault_congr rfl rfl rfl rfl rfl rfl
    · rfl
  · rfl

/-- A store of a group whose checks pass answers the state in which its stores have acted. -/
theorem retire_storesPlan {op : Nat} {nx : NX} {s : State} {e f : Option Fx} {as : List (LaneAcc × Nat)} (hop : classOf op = .groups)
    (hready : groupReady nx s) (he : e = none) (hf : f = none) (hacc : accessFx s (as.map (·.1)) .write = none) :
    retire op nx (storesPlan s e f as) s = .next (after nx 4 (countBanks (allLocs s (as.map (·.1)) .write)
      (storeAdvance s (storeAll (drainAcc s (as.map (·.1)) .write) as)))) := by
  obtain ⟨hgroup, hnx⟩ := hready
  have hclass : classOk op s = true := by rw [classOk_groups hop, hgroup]; rfl
  have hfault : nxFault nx 4 (storesPlan s e f as).done = none := by
    rw [storesPlan, nxFault_countBanks, nxFault_storeAdvance, nxFault_of_unwritten ((storeAll_unwritten _ _).trans (drainAcc_unwritten s _ _)), hnx]
  exact retire_next hclass he (fun h => nomatch h) rfl hf hfault hacc rfl

theorem vectorStores : Claims.VectorStores := by
  intro nx d a b i s hready ht hd ha hfmt w put one gather
  have hs : sOk a.toNat = true := decide_eq_true ha
  have hlanes : ∀ (op : Nat) (ok : Bool) (addr : Nat → Nat), classOf op = .groups → ok = true →
      accessFx s ((one addr).map (·.1)) .write = none → retire op nx (storePlan s ok d.toNat addr) s =
        .next (after nx 4 (countBanks (allLocs s ((one addr).map (·.1)) .write)
          (storeAdvance s (storeAll (drainAcc s ((one addr).map (·.1)) .write) (one addr))))) := fun op ok addr hop hok hacc => by
    rw [storePlan_eq]
    exact retire_storesPlan hop hready (typeAndRange_ok ht (by simp [hok, hd])) hfmt hacc
  refine ⟨fun hb => ?gathered, hlanes 0x73 _ _ rfl hs, fun hb => ?tile⟩
  case gathered =>
    have hregs : (sOk a.toNat && vRun s b.toNat 1) = true := by rw [hs, vRun]; simpa using hb
    exact ⟨hlanes 0x71 _ _ rfl hregs, hlanes 0x78 _ _ rfl hregs⟩
  case tile =>
    intro x hx hrun hacc
    have hregs : (sOk a.toNat && sOk b.toNat && vOk s (ty s) d.toNat) = true := by simp [sOk, ha, hb, hd]
    have hfault : firstFx [memFmtCheck s, tileCheck s d.toNat x] = none := by rw [hfmt, tileCheck_ok hx hrun]; rfl
    have hstores : tileStores s d.toNat a.toNat x = (active s).flatMap (fun p => (List.range (tileN x)).map (fun j =>
        ((⟨p, (sget s a.toNat + BitVec.ofInt 64 ((p : Int) * tilePitch x + (j * w : Nat))).toNat, w⟩ : LaneAcc),
          storeValue s p (vop s (ty s) (d.toNat + j * tyRegs (ty s)) p)))) := by
      simp only [tileStores, tileAccs, List.map_flatMap, List.map_map, Function.comp_def]
      rfl
    rw [← hstores] at hacc ⊢
    exact (execStt_eq nx d a b s).trans (retire_storesPlan rfl hready (typeAndRange_ok ht hregs) hfault hacc)

/-- Settles O17: a vector store that passes its checks is its plan's effect, and bytes put at locations apart are read back, a unit of encryption under
its seal. -/
theorem vectorStoresAndReadBack : Obligations.VectorStoresAndReadBack :=
  ⟨vectorStores, storeThenLoad⟩

/-! ## Every byte that a store spares (R116, R352, R374) -/

/-- An instruction of a group with no wait and nothing after its NX takes a fault, or passes its access checks and has its effect. -/
theorem retire_cases {op : Nat} {nx : NX} {p : Plan} {s t : State} (hop : classOf op = .groups) (hgroup : isStream s = false)
    (hstall : p.stall = false) (hwait : p.wait = none) (hpost : p.post = id) (h : retire op nx p s = .next t) :
    (∃ f, t = takeFault s f) ∨ (p.access = none ∧ t = after nx p.len p.done) := by
  have hclass : classOk op s = true := by rw [classOk_groups hop, hgroup]; rfl
  cases he : p.early with
  | some f => exact .inl ⟨f, (Host.Outcome.next.inj ((retire_early hclass he).symm.trans h)).symm⟩
  | none =>
    have hrest := Host.Outcome.next.inj ((retire_rest hclass he fun _ hs => absurd hs (by simp [hgroup])).symm.trans h)
    cases hf : p.fault with
    | some f => exact .inl ⟨f, by rw [← hrest]; simp [retireRest, hstall, hf]⟩
    | none =>
      cases hn : nxFault nx p.len p.done with
      | some f => exact .inl ⟨f, by rw [← hrest]; simp [retireRest, hstall, hf, hn]⟩
      | none =>
        cases ha : p.access with
        | some f => exact .inl ⟨f, by rw [← hrest]; simp [retireRest, hstall, hf, hn, ha]⟩
        | none => exact .inr ⟨rfl, by rw [← hrest]; simp [retireRest, hstall, hf, hn, ha, hwait, hpost, after]⟩

/-- The registers that no store writes, and the host registers. -/
theorem registers_of_held {s t : State} (h : t.held = s.held) : t.grp.v = s.grp.v ∧ t.grp.k = s.grp.k ∧ t.grp.s = s.grp.s ∧ t.grp.mode = s.grp.mode ∧
    t.crew.f = s.crew.f ∧ t.crew.tiles = s.crew.tiles ∧ t.crew.slots = s.crew.slots ∧ t.regs = s.regs :=
  ⟨(congrArg (·.grp.v) h :), (congrArg (·.grp.k) h :), (congrArg (·.grp.s) h :), (congrArg (·.grp.mode) h :), (congrArg (·.crew.f) h :),
    (congrArg (·.crew.tiles) h :), (congrArg (·.crew.slots) h :), (congrArg (·.regs) h :)⟩

theorem registers_of_unwritten {s t : State} (h : t.unwritten = s.unwritten) : t.grp.v = s.grp.v ∧ t.grp.k = s.grp.k ∧ t.grp.s = s.grp.s ∧
    t.grp.mode = s.grp.mode ∧ t.crew.f = s.crew.f ∧ t.crew.tiles = s.crew.tiles ∧ t.crew.slots = s.crew.slots ∧ t.regs = s.regs :=
  ⟨(congrArg (·.grp.v) h :), (congrArg (·.grp.k) h :), (congrArg (·.grp.s) h :), (congrArg (·.grp.mode) h :), (congrArg (·.crew.f) h :),
    (congrArg (·.crew.tiles) h :), (congrArg (·.crew.slots) h :), (congrArg (·.regs) h :)⟩

/-- What an instruction that passes its access checks stores, or the fault that it takes, leaves the registers and every byte that its stores spare. -/
theorem retire_stores_frame {op : Nat} {nx : NX} {p : Plan} {s t : State} {as : List (LaneAcc × Nat)} (hop : classOf op = .groups)
    (hgroup : isStream s = false) (hstall : p.stall = false) (hwait : p.wait = none) (hpost : p.post = id)
    (hacc : p.access = accessFx s (as.map (·.1)) .write) (hdone : p.done.held = (storeAll (drainAcc s (as.map (·.1)) .write) as).held)
    (h : retire op nx p s = .next t) :
    t.grp.v = s.grp.v ∧ t.grp.k = s.grp.k ∧ t.grp.s = s.grp.s ∧ t.grp.mode = s.grp.mode ∧ t.crew.f = s.crew.f ∧
      t.crew.tiles = s.crew.tiles ∧ t.crew.slots = s.crew.slots ∧ t.regs = s.regs ∧
      ((∃ f, t = takeFault s f ∧ bytesSame s t) ∨ (accessFx s (as.map (·.1)) .write = none ∧ ∀ l : Loc, l.plain →
        (∀ x ∈ storedBytes (drainAcc s (as.map (·.1)) .write) as, x.spares (drainAcc s (as.map (·.1)) .write) l) →
        locGet t l = locGet (drainAcc s (as.map (·.1)) .write) l)) := by
  rcases retire_cases hop hgroup hstall hwait hpost h with ⟨f, rfl⟩ | ⟨hpass, rfl⟩
  · have hheld := takeFault_held s f
    obtain ⟨hv, hk, hs, hmode, hf, htiles, hslots, hregs⟩ := registers_of_held hheld
    exact ⟨hv, hk, hs, hmode, hf, htiles, hslots, hregs, .inl ⟨f, rfl, bytesSame_of_held hheld⟩⟩
  · have hheld := (after_held nx p.len p.done).trans hdone
    obtain ⟨hv, hk, hs, hmode, hf, htiles, hslots, hregs⟩ := registers_of_held hheld
    obtain ⟨hv', hk', hs', hmode', hf', htiles', hslots', hregs'⟩ :=
      registers_of_unwritten ((storeAll_unwritten _ _).trans (drainAcc_unwritten s (as.map (·.1)) .write))
    exact ⟨hv.trans hv', hk.trans hk', hs.trans hs', hmode.trans hmode', hf.trans hf', htiles.trans htiles', hslots.trans hslots', hregs.trans hregs',
      .inr ⟨hacc.symm.trans hpass, fun l hplain hspare => (bytesSame_of_held hheld l).trans (locGet_storeAll_spared hplain hspare)⟩⟩

theorem storesPlan_done_held (s : State) (e f : Option Fx) (as : List (LaneAcc × Nat)) :
    (storesPlan s e f as).done.held = (storeAll (drainAcc s (as.map (·.1)) .write) as).held :=
  (countBanks_held _ _).trans (storeAdvance_held s _)

/-- Settles O21: a store takes a fault, which writes no byte, or has its stores' effect, each byte put at a location that spares the rest. -/
theorem storesChangeOnlyTheirBytes : Obligations.StoresChangeOnlyTheirBytes := by
  intro nx d a b i s t hgroup
  have hplan : ∀ {op : Nat} {e f : Option Fx} (as : List (LaneAcc × Nat)), classOf op = .groups →
      retire op nx (storesPlan s e f as) s = .next t → _ :=
    fun as hop h => retire_stores_frame (as := as) hop hgroup rfl rfl rfl rfl (storesPlan_done_held s _ _ as) h
  have hlanes : ∀ {op : Nat} {ok : Bool} (addr : Nat → Nat), classOf op = .groups → retire op nx (storePlan s ok d.toNat addr) s = .next t → _ :=
    fun addr hop h => hplan (laneStores s d.toNat (memWidth s) addr) hop ((congrArg (retire _ nx · s) (storePlan_eq s _ d.toNat addr)).symm.trans h)
  refine ⟨fun h => ?scalar, hlanes (op := 0x71) _ rfl, hlanes (op := 0x78) _ rfl, hlanes (op := 0x73) _ rfl, fun h => ?tile⟩
  case scalar => exact retire_stores_frame rfl hgroup rfl rfl rfl rfl (congrArg State.held (storeAcc_eq_storeAll _ _ _)) h
  case tile => exact hplan (tileStores s d.toNat a.toNat (sget s b.toNat)) rfl ((execStt_eq nx d a b s).symm.trans h)

end Sys2Proof.Machine
end

section
/-! PROOFS. Drains of bounded lines (R130–R135): the elements of a line at its home, and its bookkeeping. -/
namespace Sys2Proof.Machine

/-! ## Where the bytes of a line are stored (R371)

A line lies within one window of the second tier, since windows begin at multiples of 2^28, and its bytes lie side by side at the device. -/

theorem windowOf_line (s : State) {a j : Nat} (ha : a % 128 = 0) (hj : j < 128) (f w : Nat) : windowOf s (a + j) f w = windowOf s a f w := by
  induction f generalizing w with
  | zero => rfl
  | succ f ih =>
    have hinside : ∀ b n : Nat, (b * 2 ^ 28 ≤ a + j ∧ a + j < b * 2 ^ 28 + n * 2 ^ 28) ↔ (b * 2 ^ 28 ≤ a ∧ a < b * 2 ^ 28 + n * 2 ^ 28) := by
      intro b n; omega
    simp only [windowOf, ih, hinside]

theorem windowOf_base_le {s : State} {a f w v : Nat} (h : windowOf s a f w = some v) : bitsOf (s.reg (winUse + regWCTL v)) 16 13 * 2 ^ 28 ≤ a := by
  induction f generalizing w with
  | zero => exact absurd h (by simp [windowOf])
  | succ f ih =>
    rw [windowOf] at h
    split at h
    · rename_i hin
      obtain ⟨-, -, hbase, -⟩ := hin
      exact Option.some.inj h ▸ hbase
    · exact ih h

theorem portOf_line (s : State) {a j : Nat} (ha : a % 128 = 0) (hj : j < 128) : portOf s (a + j) = portOf s a := by
  have hchunk : ∀ b : Nat, (a + j - b * 2 ^ 28) / 65536 = (a - b * 2 ^ 28) / 65536 := by intro b; omega
  simp only [portOf, windowOf_line s ha hj, hchunk]

theorem deviceAddr_line {s : State} {w a j : Nat} (ha : a % 128 = 0) (hw : bitsOf (s.reg (winUse + regWCTL w)) 16 13 * 2 ^ 28 ≤ a) (hj : j < 128) :
    deviceAddr s w (a + j) = deviceAddr s w a + j := by
  have hchunk : ∀ b : Nat, (a + j - b * 2 ^ 28) / 65536 = (a - b * 2 ^ 28) / 65536 := by intro b; omega
  have hoffset : ∀ b : Nat, b * 2 ^ 28 ≤ a → (a + j - b * 2 ^ 28) % 65536 = (a - b * 2 ^ 28) % 65536 + j := by intro b hb; omega
  simp only [deviceAddr, ← Nat.div_div_eq_div_mul, hchunk, hoffset _ hw, Nat.add_assoc]

theorem deviceAddr_aligned (s : State) (w : Nat) {a : Nat} (ha : a % 128 = 0) : deviceAddr s w a % 128 = 0 := by
  have hsum : ∀ b c d : Nat, (2 ^ 28 * c + 65536 * d + (a - b * 2 ^ 28) % 65536) % 128 = 0 := by intro b c d; omega
  exact hsum _ _ _

theorem keyAddr_line (ln : Nat) {j : Nat} (hj : j < 128) : keyAddr (ln * 128 + j) = keyAddr (ln * 128) + j := by
  unfold keyAddr; omega

theorem keyAddr_line_aligned (ln : Nat) : keyAddr (ln * 128) % 128 = 0 := by
  unfold keyAddr; omega

theorem keySpace_line (ln : Nat) {j : Nat} (hj : j < 128) : keySpace (ln * 128 + j) = keySpace (ln * 128) := by
  unfold keySpace; omega

theorem storeKey_line (s : State) (ln : Nat) {j : Nat} (hj : j < 128) : storeKey s (ln * 128 + j) = storeKey s (ln * 128) + j := by
  have ha := keyAddr_line_aligned ln
  unfold storeKey
  simp only [keySpace_line ln hj, keyAddr_line ln hj, windowOf_line s ha hj, portOf_line s ha hj]
  split
  · split
    · rename_i w hw
      rw [deviceAddr_line ha (windowOf_base_le hw) hj]
      exact (Nat.add_assoc _ _ _).symm
    · rfl
  · rfl

theorem storeKey_line_aligned (s : State) (ln : Nat) : storeKey s (ln * 128) % 128 = 0 := by
  unfold storeKey
  split
  · split
    · rename_i w _
      have hdev := deviceAddr_aligned s w (keyAddr_line_aligned ln)
      unfold portKey
      omega
    · omega
  · omega

/-! ## The elements of a line (R131, R373) -/

theorem storeKey_unitPut (s : State) (k kid : Nat) (b : BitVec 8) (key : Nat) : storeKey (unitPut s k kid b) key = storeKey s key :=
  (congrArg (storeKey · key) (unitPut_unstored s k kid b) :)

theorem keySlot_unitPut (s : State) (k kid : Nat) (b : BitVec 8) (n : Nat) : keySlot (unitPut s k kid b) n = keySlot s n :=
  (congrArg (keySlot · n) (unitPut_unstored s k kid b) :)

/-- A byte of a line written under a key slot: it reads so under that slot, and every other byte of the line as before. -/
theorem unitByte_unitPut_line (s : State) (ln kid : Nat) (b : BitVec 8) {i j : Nat} (hi : i < 128) (hj : j < 128) :
    unitByte (unitPut s (ln * 128 + i) kid b) (ln * 128 + j) kid = if j = i then b else unitByte s (ln * 128 + j) kid := by
  by_cases hspace : keySpace (ln * 128) = 1
  · have hput : unitPut s (ln * 128 + i) kid b = { s with dirty := aput (ln * 128 + i) (kid, b) s.dirty } :=
      if_pos ((keySpace_line ln hi).trans hspace)
    rw [hput]
    by_cases hij : j = i
    · subst hij
      simp [unitByte, keySpace_line ln hj, hspace]
    · have hne : ln * 128 + j ≠ ln * 128 + i := by omega
      rw [if_neg hij]
      unfold unitByte
      rw [aget_aput_ne _ _ hne]
      rfl
  · have hsi : keySpace (ln * 128 + i) ≠ 1 := by rwa [keySpace_line ln hi]
    have hsj : keySpace (ln * 128 + j) ≠ 1 := by rwa [keySpace_line ln hj]
    rw [unitByte, unitByte, if_neg hsj, if_neg hsj, storeKey_unitPut, keySlot_unitPut, unitPut, if_neg hsi]
    by_cases hij : j = i
    · subst hij
      rw [if_pos rfl]
      exact sealedByte_sealedPut_self s _ b _
    · rw [if_neg hij]
      have hline := storeKey_line_aligned s ln
      have haddr := keyAddr_line_aligned ln
      rw [storeKey_line s ln hi, storeKey_line s ln hj, keyAddr_line ln hi, keyAddr_line ln hj]
      refine sealedByte_sealedPut_ne s _ b _ (by omega) fun hunit => ?_
      have htweak : (keyAddr (ln * 128) + j) / 32 = (keyAddr (ln * 128) + i) / 32 := by omega
      rw [htweak]

/-- The same of byte i of element e and byte j of element f. -/
theorem unitByte_unitPut_element (s : State) (ln kid : Nat) (b : BitVec 8) {e f i j : Nat} (he : e < 32) (hf : f < 32) (hi : i < 4) (hj : j < 4) :
    unitByte (unitPut s (ln * 128 + 4 * e + i) kid b) (ln * 128 + 4 * f + j) kid =
      if f = e ∧ j = i then b else unitByte s (ln * 128 + 4 * f + j) kid := by
  rw [Nat.add_assoc, Nat.add_assoc, unitByte_unitPut_line s ln kid b (by omega) (by omega)]
  exact if_congr (by omega) rfl rfl

theorem lineWord_setLineWord (s : State) (kid ln : Nat) (v : BitVec 32) {e f : Nat} (he : e < 32) (hf : f < 32) :
    lineWord (setLineWord s kid ln e v) kid ln f = if f = e then v else lineWord s kid ln f := by
  have hbyte : ∀ i < 4, unitByte (setLineWord s kid ln e v) (ln * 128 + 4 * f + i) kid =
      if f = e then (natBytes 4 v.toNat).getD i 0 else unitByte s (ln * 128 + 4 * f + i) kid := by
    intro i hi
    simp only [setLineWord, natBytes, List.zipIdx_cons, List.zipIdx_nil, List.foldl_cons, List.foldl_nil]
    obtain rfl | rfl | rfl | rfl : i = 0 ∨ i = 1 ∨ i = 2 ∨ i = 3 := by omega
    all_goals simp (disch := omega) only [unitByte_unitPut_element]; simp
  have hbytes : (List.range 4).map (fun i => unitByte (setLineWord s kid ln e v) (ln * 128 + 4 * f + i) kid) =
      if f = e then natBytes 4 v.toNat else (List.range 4).map (fun i => unitByte s (ln * 128 + 4 * f + i) kid) := by
    rw [List.map_congr_left fun i hi => hbyte i (List.mem_range.mp hi)]
    split <;> rfl
  rw [lineWord, hbytes]
  split
  · rw [bytesNat_natBytes, show 256 ^ 4 = 2 ^ 32 from rfl, Nat.mod_eq_of_lt v.isLt, BitVec.ofNat_toNat, BitVec.setWidth_eq]
  · rfl

theorem aget_eq_none {α : Type} {l : List (Nat × α)} {k : Nat} (h : k ∉ l.map (·.1)) : aget l k = none := by
  induction l with
  | nil => rfl
  | cons x l ih =>
    obtain ⟨hx, hl⟩ := not_or.mp (mt List.mem_cons.mpr h)
    exact (if_neg hx).trans (ih hl)

/-- Contributions to elements that are all different: each is added to its element, and every other element reads as before. -/
theorem lineWord_addHome (fp : Bool) (kid ln : Nat) (els : List (Nat × BitVec 32)) (s : State) (hnodup : (els.map (·.1)).Nodup)
    (hels : ∀ x ∈ els, x.1 < 32) {e : Nat} (he : e < 32) : lineWord (addHome fp kid ln els s) kid ln e =
      match aget els e with
      | none => lineWord s kid ln e
      | some v => boundAdd fp (lineWord s kid ln e) v := by
  induction els generalizing s with
  | nil => rfl
  | cons x els ih =>
    obtain ⟨hx, hrest⟩ := List.forall_mem_cons.mp hels
    obtain ⟨hfresh, hnodup'⟩ := List.nodup_cons.mp hnodup
    rw [addHome, List.foldl_cons]
    refine (ih _ hnodup' hrest).trans ?_
    rw [lineWord_setLineWord s kid ln _ hx he, aget]
    by_cases hk : e = x.1
    · subst hk
      rw [if_pos rfl, if_pos rfl, aget_eq_none hfresh]
    · rw [if_neg hk, if_neg hk]

/-! ## The bookkeeping of a line (R131, R135) -/

theorem addHome_lines (fp : Bool) (kid ln : Nat) (els : List (Nat × BitVec 32)) (s : State) : (addHome fp kid ln els s).lines = s.lines := by
  refine foldl_keeps State.lines _ (fun s e => foldl_keeps State.lines _ (fun s b => ?_) _ s) _ s
  unfold unitPut sealedPut reseal
  split
  · rfl
  · dsimp only
    split <;> rfl

section
variable {s : State} {ln h : Nat} {x : Line} {sh : Share}

theorem drainHolder_eq (hx : aget s.lines ln = some x) (hsh : aget x.shares h = some sh) : drainHolder s ln h =
    dropShare (addHome (((aget s.ctxs x.ctx).bind (fun c => aget c.bounds x.bidx)).any (fun b => b.fp)) x.kid ln sh.deltas s) ln h x sh := by
  simp only [drainHolder, hx, hsh]

theorem aget_dropShare_last (hlast : adel h x.shares = []) : aget (dropShare s ln h x sh).lines ln = none := by
  simp [dropShare, hlast]

theorem aget_dropShare_self (hmore : adel h x.shares ≠ []) :
    aget (dropShare s ln h x sh).lines ln = some { x with u := x.u.add (e8m8 sh.s), shares := adel h x.shares } := by
  simp [dropShare, hmore]

theorem aget_dropShare_ne {k : Nat} (hk : k ≠ ln) : aget (dropShare s ln h x sh).lines k = aget s.lines k := by
  unfold dropShare
  dsimp only
  split
  · exact aget_adel_ne _ hk
  · exact aget_aput_ne _ _ hk

end

theorem holdersDrain : Claims.HoldersDrain := by
  intro s x sh hx hsh fp
  have hlines := addHome_lines fp x.kid s.ev.n sh.deltas s
  have hunstored := drainHolder_unstored s s.ev.n s.ev.m
  rw [drainHolder_eq hx hsh] at hunstored
  refine ⟨_, congrArg Host.Outcome.next (drainHolder_eq hx hsh), fun hnodup hels e he => ?_, aget_dropShare_last, aget_dropShare_self, fun k hk => ?_,
    (congrArg (·.gangs) hunstored :), (congrArg (·.regs) hunstored :)⟩
  · exact lineWord_addHome fp x.kid s.ev.n sh.deltas s hnodup hels he
  · rw [aget_dropShare_ne hk, hlines]

/-! ## Forced drains (R132) -/

theorem exists_aget_of_mem {α : Type} {l : List (Nat × α)} {x : Nat × α} (h : x ∈ l) : ∃ v, aget l x.1 = some v := by
  induction l with
  | nil => exact absurd h List.not_mem_nil
  | cons y l ih =>
    by_cases hk : x.1 = y.1
    · exact ⟨y.2, if_pos hk⟩
    · obtain ⟨v, hv⟩ := ih ((List.mem_cons.mp h).resolve_left fun hxy => hk (congrArg Prod.fst hxy))
      exact ⟨v, (if_neg hk).trans hv⟩

theorem length_adel_le {α : Type} (l : List (Nat × α)) (k : Nat) : (adel k l).length ≤ l.length := by
  induction l with
  | nil => exact Nat.le_refl 0
  | cons y l ih =>
    rw [adel, List.length_cons]
    split
    · omega
    · rw [List.length_cons]; omega

theorem length_adel_lt {α : Type} {l : List (Nat × α)} {k : Nat} {v : α} (h : aget l k = some v) : (adel k l).length < l.length := by
  induction l with
  | nil => exact absurd h (by simp [aget])
  | cons y l ih =>
    rw [adel, List.length_cons]
    by_cases hk : k = y.1
    · rw [if_pos hk]
      exact Nat.lt_succ_of_le (length_adel_le l k)
    · rw [if_neg hk, List.length_cons]
      exact Nat.succ_lt_succ (ih ((if_neg hk).symm.trans h))

/-- The holder drained next has a share of the line. -/
theorem largestHolder_of_shares {x : Line} (h : x.shares ≠ []) : ∃ n sh, largestHolder x = some n ∧ aget x.shares n = some sh := by
  unfold largestHolder
  cases hs : x.shares with
  | nil => exact absurd hs h
  | cons y l =>
    refine List.foldlRecOn (motive := fun b => ∃ n sh, b = some n ∧ aget (y :: l) n = some sh) l _ ⟨y.1, y.2, rfl, if_pos rfl⟩ ?_
    rintro b ⟨n, sh, rfl, hn⟩ z hz
    simp only [hn]
    obtain ⟨v, hv⟩ := exists_aget_of_mem (List.mem_cons_of_mem y hz)
    split
    · exact ⟨z.1, v, rfl, hv⟩
    · exact ⟨n, sh, rfl, hn⟩

theorem drainTo_of_no_line {s : State} {ln : Nat} (h : aget s.lines ln = none) (limit tol : Dy) (n : Nat) : drainTo ln limit tol n s = s := by
  cases n with
  | zero => rfl
  | succ n => simp only [drainTo, h]

theorem drainsReachTolerance : Claims.DrainsReachTolerance := by
  intro s ln n limit tol x x' hx hshares hn h
  induction n generalizing s x with
  | zero => exact absurd (List.length_eq_zero_iff.mp (Nat.le_zero.mp hn)) hshares
  | succ n ih =>
    obtain ⟨m, sh, hlargest, hsh⟩ := largestHolder_of_shares hshares
    simp only [drainTo, hx, hlargest] at h
    split at h
    · rw [drainHolder_eq hx hsh] at h
      by_cases hmore : adel m x.shares = []
      · rw [drainTo_of_no_line (aget_dropShare_last hmore), aget_dropShare_last hmore] at h
        exact absurd h (by simp)
      · have hlen := length_adel_lt hsh
        exact ih _ _ (aget_dropShare_self hmore) hmore (by dsimp only; omega) h
    · rename_i hwithin
      rw [hx] at h
      obtain rfl := Option.some.inj h
      exact Bool.eq_false_iff.mpr hwithin

/-- Settles O19: each forced drain takes a share out of the line, and a drain adds its holder's contributions to elements that are all different. -/
theorem boundedLinesDrain : Obligations.BoundedLinesDrain :=
  ⟨drainsReachTolerance, holdersDrain⟩

end Sys2Proof.Machine
end

section
/-! PROOFS. Facts shared by the proofs of sample groups and leases: clusters, what leaves their halter units alone, and checks in their order. -/
namespace Sys2Proof.Machine

/-! ## Clusters and their engines -/

@[simp] theorem clusterOf_setCluster_self (s : State) (cl : Nat) (c : Cluster) : clusterOf (setCluster s cl c) cl = c := by
  simp [clusterOf, setCluster]

theorem clusterOf_setCluster (s : State) (cl k : Nat) (c : Cluster) :
    clusterOf (setCluster s cl c) k = if k = cl then c else clusterOf s k := by
  split
  · subst_vars; simp
  · rename_i hk; simp [clusterOf, setCluster, aget_aput_ne _ _ hk]

/-- An engine of a cluster after one of them is changed. -/
theorem engOf_updEngine (s : State) (cl n m : Nat) (f : Engine → Engine) : engOf (clusterOf (updEngine s cl n f) cl) m =
    if m = n then f (engOf (clusterOf s cl) n) else engOf (clusterOf s cl) m := by
  simp only [engOf, updEngine, clusterOf_setCluster_self, aget_aput]
  split <;> rfl

/-- A cluster apart from its sample-group table: what its halter unit keeps. -/
def Cluster.halter (c : Cluster) : Cluster := { c with sg := [] }

theorem clusterOf_of_clusters {s t : State} (h : t.clusters = s.clusters) (k : Nat) : clusterOf t k = clusterOf s k := by
  simp only [clusterOf, h]

theorem spoilSave_clusters (s : State) (c : Ctx) : (spoilSave s c).clusters = s.clusters := by
  unfold spoilSave
  split <;> rfl

theorem saveThrough_clusters (s : State) (gid : Nat) : (saveThrough s gid).clusters = s.clusters := by
  unfold saveThrough
  split
  · rfl
  · exact spoilSave_clusters s _

/-- The sweep of the sample groups of a gang changes tables of sample groups alone. -/
theorem sgSweep_halter (s : State) (gid k : Nat) : (clusterOf (sgSweep s gid) k).halter = (clusterOf s k).halter := by
  unfold sgSweep
  split
  · rfl
  · split
    · rfl
    · split
      · rfl
      · dsimp only
        split
        · rfl
        · rw [clusterOf_setCluster]
          split
          · subst_vars; rfl
          · rw [clusterOf_of_clusters (saveThrough_clusters s gid)]

theorem unfocusSplit_clusters (s : State) : (unfocusSplit s).clusters = s.clusters := by
  unfold unfocusSplit
  split <;> rfl

theorem unfocusCrew_halter (s : State) (k : Nat) : (clusterOf (unfocusCrew s) k).halter = (clusterOf s k).halter :=
  (sgSweep_halter _ _ k).trans (congrArg Cluster.halter (clusterOf_of_clusters (unfocusSplit_clusters s) k))

theorem focusCrew_clusters {s s1 : State} {gid crew : Nat} (h : focusCrew s gid crew = some s1) : s1.clusters = s.clusters := by
  unfold focusCrew at h
  split at h
  · cases h
  · split at h
    · cases h
    · cases h; rfl

/-- An operation on a crew that leaves the clusters leaves their halter units. -/
theorem onCrew_halter (s : State) (gid crew k : Nat) (f : State → State) (h : ∀ s, (f s).clusters = s.clusters) :
    (clusterOf (onCrew s gid crew f) k).halter = (clusterOf s k).halter := by
  unfold onCrew
  split
  · rfl
  · rename_i s1 hs1
    rw [unfocusCrew_halter, clusterOf_of_clusters ((h s1).trans (focusCrew_clusters hs1))]

theorem updGroup_clusters (s : State) (k : Nat) (f : Group → Group) : (updGroup s k f).clusters = s.clusters := by
  unfold updGroup
  split
  · rfl
  · split <;> rfl

theorem updTok_clusters (s : State) (w : Who) (n : Nat) (f : Tok → Tok) : (updTok s w n f).clusters = s.clusters := by
  unfold updTok
  dsimp only
  split
  · rfl
  · exact updGroup_clusters s _ _

theorem updLeaseTok_halter (s : State) (w : Who) (n req k : Nat) (f : Tok → Tok) :
    (clusterOf (updLeaseTok s w n req f) k).halter = (clusterOf s k).halter :=
  onCrew_halter s _ _ k _ fun s1 => updTok_clusters s1 _ _ _

/-! ## Checks in their order (R171) -/

/-- A list of checks fails with the failure of one of them. -/
theorem firstFx_mem {l : List (Option Fx)} {f : Fx} (h : firstFx l = some f) : some f ∈ l := by
  induction l with
  | nil => cases h
  | cons x r ih =>
    cases x with
    | none => exact List.mem_cons_of_mem _ (ih h)
    | some g => cases h; exact List.mem_cons_self

theorem firstFx_eq_none {l : List (Option Fx)} (h : firstFx l = none) : ∀ x ∈ l, x = none := by
  induction l with
  | nil => exact fun _ hx => nomatch hx
  | cons x r ih =>
    cases x with
    | none => exact List.forall_mem_cons.mpr ⟨rfl, ih h⟩
    | some g => cases h

theorem check_eq_none {ok : Bool} {c : Cause} : check ok c = none ↔ ok = true := by
  cases ok <;> simp [check]

theorem check_cause {ok : Bool} {c : Cause} {f : Fx} (h : check ok c = some f) : f.cause = c := by
  unfold check at h
  split at h
  · cases h
  · cases h; rfl

/-- A check that fails before any access raises its fault. -/
theorem retire_raises {op : Nat} {nx : NX} {p : Plan} {s : State} {f : Fx} (hc : classOk op s = true) (he : p.early = none)
    (hg : p.admits s) (hs : p.stall = false) (hf : p.fault = some f) (hpage : f.cause ≠ .page) : retire op nx p s = .next (raise s f) :=
  (retire_fault hc he hg hs hf).trans (congrArg Host.Outcome.next (if_neg hpage))

end Sys2Proof.Machine
end

section
/-! PROOFS. Sample groups: SFORK and the deadline of an entry (R149 to R152). -/
namespace Sys2Proof.Machine

/-! ## The checks of SFORK (R150) -/

section
variable {s : State} {a : BitVec 7}

/-- What an SFORK that passes its checks forks: 2 to 64 siblings, of a group that is no sibling. -/
theorem forkCheck_passed (h : forkCheck s a = none) : 2 ≤ forkG s a ∧ forkG s a ≤ 64 ∧ s.grp.sib = none := by
  have hall := firstFx_eq_none h
  simp only [List.forall_mem_cons, check_eq_none] at hall
  obtain ⟨hg, hsib, -⟩ := hall
  simp only [Bool.and_eq_true, decide_eq_true_eq] at hg hsib
  exact ⟨hg.1, hg.2, hsib⟩

/-- No check of SFORK is one of an access. -/
theorem forkCheck_cause {f : Fx} (h : forkCheck s a = some f) : f.cause ≠ .page := by
  have hmem := firstFx_mem h
  simp only [List.mem_cons, List.not_mem_nil, or_false] at hmem
  rcases hmem with hc | hc | hc | hc | hc <;> rw [check_cause hc.symm] <;> decide

theorem forkCheck_illegalOp (h : forkG s a < 2 ∨ 64 < forkG s a) : forkCheck s a = some (fx .illegalOp) := by
  have hg : ¬ (2 ≤ forkG s a ∧ forkG s a ≤ 64) := by omega
  simp [forkCheck, firstFx, check, hg]

section
variable (hlo : 2 ≤ forkG s a) (hhi : forkG s a ≤ 64)
include hlo hhi

theorem forkCheck_illegalContext (h : s.grp.sib ≠ none) : forkCheck s a = some (fx .illegalContext) := by
  simp [forkCheck, firstFx, check, hlo, hhi, h]

theorem forkCheck_nonuniform (hsib : s.grp.sib = none) (h : s.grp.splits ≠ []) : forkCheck s a = some (fx .nonuniform) := by
  simp [forkCheck, firstFx, check, hlo, hhi, hsib, h]

end
end

/-! ## The entry that SFORK opens (R149, R150) -/

theorem sgOf_of_clusters {s t : State} (h : t.clusters = s.clusters) (cl ix : Nat) : sgOf t cl ix = sgOf s cl ix := by
  simp only [sgOf, clusterOf_of_clusters h]

@[simp] theorem sgOf_setSg_self (s : State) (cl ix : Nat) (e : SgEntry) : sgOf (setSg s cl ix e) cl ix = some e := by
  simp [sgOf, setSg]

theorem setCrew_clusters (s : State) (c : Nat) (f : Crew → Crew) : (setCrew s c f).clusters = s.clusters := by
  unfold setCrew
  split
  · rfl
  · split <;> rfl

theorem carryBad_clusters (s : State) (l : List (Cell × Cell)) : (carryBad s l).clusters = s.clusters := by
  unfold carryBad
  split <;> rfl

theorem placeSib_clusters (s : State) (e i c : Nat) : (placeSib s e i c).clusters = s.clusters := by
  unfold placeSib
  split
  · rfl
  · exact (setCrew_clusters _ _ _).trans (carryBad_clusters s _)

/-- The entry of an SFORK: G siblings of the issuer's gang, none arrived and none cancelled, and the deadline of sB. -/
def forkEntry (s : State) (a b : BitVec 7) : SgEntry :=
  let eps := (sget s a.toNat).toNat / 2 ^ 32
  let v := (decodeFlt eps fmtF32).val
  let dl := (sget s b.toNat).toNat
  ⟨forkG s a, s.gid, 0, 0, .empty 32, if v = .nan ∨ v.isNeg then 0 else BitVec.ofNat 32 eps,
    if dl = 0 then none else some ((ctxTime s).toNat + dl), .empty 32, false, false, 0, false, 0⟩

/-- Placing the siblings leaves the entry as it was opened. -/
theorem sgOf_forkDone {s : State} {e : Nat} (he : freeEntry s = some e) (a b : BitVec 7) :
    sgOf (forkDone s a b) (s.crew.core / 8) e = some (forkEntry s a b) := by
  have hplaced : (forkDone s a b).clusters = (setSg s (s.crew.core / 8) ((freeEntry s).getD 0) (forkEntry s a b)).clusters :=
    foldl_keeps State.clusters _ (fun t x => placeSib_clusters t _ _ _) _ _
  rw [sgOf_of_clusters hplaced, he]
  exact sgOf_setSg_self _ _ _ _

theorem forkDone_sib {s : State} {e : Nat} (he : freeEntry s = some e) (a b : BitVec 7) : (forkDone s a b).grp.sib = some (e, 0) := by
  simp [forkDone, he]

theorem sampleFork : Claims.SampleFork := by
  intro nx a b s hgroup ha hb g dl t
  have hclass : classOk 0xA0 s = true := by rw [classOk_groups rfl, hgroup]; rfl
  have hregs : range (sOk a.toNat && sOk b.toNat) = none := by simp [range, check, sOk, ha, hb]
  refine ⟨fun e hcheck he hwait hfits hnx => ?opens, fun f hcheck => ?raises, forkCheck_illegalOp, forkCheck_illegalContext, forkCheck_nonuniform,
    fun w hcheck hfits hnx hwait => ?waits⟩
  case opens =>
    have hexec : exec (.sfork nx a b) s = .next (sibNx nx ((freeEntry s).getD 0) s.split.pc (after nx 4 t)) :=
      retire_next hclass hregs (fun h => nomatch h) rfl hcheck hnx (check_eq_none.mpr hfits) hwait
    rw [he] at hexec
    obtain ⟨hlo, hhi, hsib⟩ := forkCheck_passed hcheck
    exact ⟨hexec, forkDone_sib he a b, hlo, hhi, hsib, _, sgOf_forkDone he a b, rfl, rfl, rfl, rfl, rfl, rfl⟩
  case raises => exact retire_raises hclass hregs (fun h => nomatch h) rfl hcheck (forkCheck_cause hcheck)
  case waits => exact retire_wait hclass hregs (fun h => nomatch h) rfl hcheck hnx (check_eq_none.mpr hfits) hwait

/-! ## The deadline (R152) -/

theorem setBit64_getLsbD (x : BitVec 64) {i : Nat} (hi : i < 64) (b : Bool) (j : Nat) :
    (setBit64 x i b).getLsbD j = if j = i then b else x.getLsbD j := by
  by_cases hj : j < 64
  · have hbit : (BitVec.ofNat 64 (2 ^ i)).getLsbD j = decide (j = i) := by
      rw [BitVec.getLsbD_ofNat, Nat.testBit_two_pow]; simp [hj, eq_comm]
    cases b
    · have hclear : (setBit64 x i false).getLsbD j = (x.getLsbD j && !decide (j = i)) := by
        simp only [setBit64, Bool.false_eq_true, if_false, BitVec.getLsbD_and, BitVec.getLsbD_not, hbit, hj, decide_true, Bool.true_and]
      rw [hclear]
      by_cases h : j = i <;> simp [h]
    · have hset : (setBit64 x i true).getLsbD j = (x.getLsbD j || decide (j = i)) := by
        simp only [setBit64, if_true, BitVec.getLsbD_or, hbit]
      rw [hset]
      by_cases h : j = i <;> simp [h]
  · rw [BitVec.getLsbD_of_ge _ _ (not_lt.mp hj), BitVec.getLsbD_of_ge _ _ (not_lt.mp hj), if_neg (by omega)]

/-- A bitmap filled bit by bit from the lowest. -/
theorem foldl_setBit64_getLsbD (b : Nat → Bool) (g : Nat) (hg : g ≤ 64) (j : Nat) :
    ((List.range g).foldl (fun x i => setBit64 x i (b i)) 0).getLsbD j = (decide (j < g) && b j) := by
  induction g with
  | zero => simp
  | succ g ih =>
    rw [List.range_succ, List.foldl_append, List.foldl_cons, List.foldl_nil, setBit64_getLsbD _ (by omega), ih (by omega)]
    by_cases h : j = g
    · simp [h]
    · have : j < g + 1 ↔ j < g := by omega
      simp [h, this]

/-- At completion every sibling that has not arrived is absent. -/
theorem complete'_absent {x : SgEntry} (hg : x.g ≤ 64) {i : Nat} (hi : i < x.g) : x.complete'.absent.getLsbD i = !x.arrived.getLsbD i :=
  (foldl_setBit64_getLsbD (fun i => !x.arrived.getLsbD i) x.g hg i).trans (by simp [hi])

theorem sampleDeadline : Claims.SampleDeadline := by
  intro s x g c dl hx hgang hctx hdl hopen hg
  have hexec : exec .sgDeadline s = .next (if !x.complete ∧ dl ≤ c.ctxtime.toNat then setSg s s.ev.n s.ev.m x.complete' else s) := by
    refine congrArg Host.Outcome.next ?_
    simp only [hx, hgang, Option.bind_some, hctx, Option.map_some, Option.getD_some, hdl]
  rw [hexec]
  refine ⟨fun hdue => ⟨?_, rfl, fun i hi => complete'_absent hg hi⟩, fun hearly => ?_⟩
  · rw [if_pos ⟨by simp [hopen], hdue⟩]
  · rw [if_neg fun h => absurd h.2 (not_le.mpr hearly)]

/-- Settles O27: SFORK is its plan, whose checks come in R150's order, and placing siblings leaves the new entry as it was; the deadline's event
completes an entry that is not complete. -/
theorem sampleGroupsFork : Obligations.SampleGroupsFork :=
  ⟨sampleFork, sampleDeadline⟩

end Sys2Proof.Machine
end

section
/-! PROOFS. Lease requests and releases, the bound of a request queue, and the commands of leased engines and shadow windows (R58, R140, R141, R144,
R300 to R304). -/
namespace Sys2Proof.Machine

/-! ## Faults of NX depend on no batch, cluster or entry kept by a sender -/

theorem nxFault_setCluster (nx : NX) (len : Nat) (s : State) (cl : Nat) (c : Cluster) : nxFault nx len (setCluster s cl c) = nxFault nx len s :=
  nxFault_congr rfl rfl rfl rfl rfl rfl

theorem nxFault_refuse (nx : NX) (len : Nat) (s : State) (m : NakMsg) : nxFault nx len (refuse s m) = nxFault nx len s :=
  nxFault_congr rfl rfl rfl rfl rfl rfl

theorem nxFault_updBat (nx : NX) (len : Nat) (s : State) (w : Who) (f : Batches → Batches) : nxFault nx len (updBat s w f) = nxFault nx len s := by
  unfold updBat
  split
  · exact nxFault_congr rfl rfl rfl rfl rfl rfl
  · unfold updGroup
    split
    · exact nxFault_congr rfl rfl rfl rfl rfl rfl
    · split
      · rfl
      · exact nxFault_congr rfl rfl rfl rfl rfl rfl

theorem nxFault_pushItem (nx : NX) (len : Nat) (s : State) (w : Who) (op : ItemOp) (acq rel : Bool) (scope : Nat) (st : Option Status) :
    nxFault nx len (pushItem s w op acq rel scope st) = nxFault nx len s :=
  (nxFault_updBat nx len _ w _).trans (nxFault_congr rfl rfl rfl rfl rfl rfl)

theorem nxFault_newItem (nx : NX) (len : Nat) (s : State) (op : ItemOp) (acq rel : Bool) : nxFault nx len (newItem s op acq rel) = nxFault nx len s :=
  nxFault_pushItem nx len s _ _ _ _ _ _

theorem nxFault_submitLease (nx : NX) (len : Nat) (s : State) (r : LeaseReq) : nxFault nx len (submitLease s r) = nxFault nx len s := by
  unfold submitLease
  dsimp only
  split
  · exact nxFault_refuse nx len s _
  · split
    · exact nxFault_setCluster nx len s _ _
    · exact nxFault_refuse nx len s _

theorem nxFault_markRelease (nx : NX) (len : Nat) (s : State) (cl req : Nat) : nxFault nx len (markRelease s cl req) = nxFault nx len s := by
  unfold markRelease
  split
  · rfl
  · exact nxFault_setCluster nx len s _ _

theorem nxFault_wakeFor (nx : NX) (len : Nat) (s : State) (cl req : Nat) : nxFault nx len (wakeFor s cl req) = nxFault nx len s := by
  unfold wakeFor
  split
  · rfl
  · split
    · exact nxFault_setCluster nx len s _ _
    · rfl

theorem nxFault_swbindDone (nx : NX) (len : Nat) (s : State) (a g ixa n : BitVec 64) :
    nxFault nx len (swbindDone s a g ixa n) = nxFault nx len s := by
  unfold swbindDone
  dsimp only
  split
  · exact nxFault_newItem nx len s _ _ _
  · exact (nxFault_congr rfl rfl rfl rfl rfl rfl).trans (nxFault_newItem nx len s _ _ _)

theorem nxFault_ecmdDone (nx : NX) (len : Nat) (s : State) (t : Tok) (op p0 p1 p2 p3 : BitVec 64) :
    nxFault nx len (ecmdDone s t op p0 p1 p2 p3) = nxFault nx len s := by
  unfold ecmdDone
  split
  · rfl
  · exact (nxFault_wakeFor nx len _ _ _).trans (foldl_keeps (nxFault nx len) _ (fun u row => nxFault_pushItem nx len u _ _ _ _ _ _) _ s)

/-! ## Requests and releases (R58, R140, R144) -/

theorem bitsOf_lowest (x n : Nat) : bitsOf x 0 n = x % 2 ^ n := by
  simp [bitsOf]

theorem leases : Claims.Leases := by
  intro nx d a b s hnx hd hpend kind cl x r
  have htok : range (c16Ok d.toNat) = none := by simp [range, check, c16Ok, hd]
  refine ⟨fun ha hb => ?lease, fun req k hlease => ?releases, fun hnone => ?unleased⟩
  case lease =>
    have hexec : exec (.lease nx d a b) s = retire 0xBD nx
        { early := range (c16Ok d.toNat && iOk s a.toNat && iOk s b.toNat), stall := x.pending || flowFull s (leaseMsg s r),
          fault := check (kind ≤ 5) .illegalOp,
          done := submitLease { tput s d.toNat ⟨true, 0, some (s.nextReq, cl), false, none⟩ with nextReq := s.nextReq + 1 } r } s := by
      change execLease nx d a b s = _
      simp only [execLease, bitsOf_lowest]
      rfl
    have hregs : range (c16Ok d.toNat && iOk s a.toNat && iOk s b.toNat) = none := by simp [range, check, c16Ok, iOk, hd, ha, hb]
    have hnxDone : nxFault nx 4
        (submitLease { tput s d.toNat ⟨true, 0, some (s.nextReq, cl), false, none⟩ with nextReq := s.nextReq + 1 } r) = none :=
      (nxFault_submitLease nx 4 _ r).trans ((nxFault_congr rfl rfl rfl rfl rfl rfl).trans ((nxFault_tput nx 4 s _ _).trans hnx))
    rw [hexec]
    refine ⟨fun hroom => ?_, fun hfull => ?_⟩
    · have hstall : (x.pending || flowFull s (leaseMsg s r)) = false := by simp [x, hpend, flowFull, hroom]
      refine ⟨fun hkind => ?_, fun hkind => ?_⟩
      · exact retire_next (classOk_both rfl) hregs (fun h => nomatch h) hstall (check_eq_none.mpr (decide_eq_true hkind)) hnxDone rfl rfl
      · have hreserved : check (kind ≤ 5) .illegalOp = some (fx .illegalOp) := if_neg (by simpa using hkind)
        exact retire_raises (classOk_both rfl) hregs (fun h => nomatch h) hstall hreserved (by decide)
    · exact retire_stall (classOk_both rfl) hregs (fun h => nomatch h) (by simp [flowFull, hfull])
  case releases =>
    have hexec : exec (.lrel nx d) s = retire 0xBE nx
        { early := range (c16Ok d.toNat), fault := check (x.pending || x.lease.isSome) .illegalOp,
          wait := if x.pending then some (waitAs s .wait) else none,
          done := markRelease (tput s d.toNat { x with released := true }) k req } s := by
      change execLrel nx d s = _
      simp only [execLrel, x] at hlease ⊢
      simp only [hlease]
    have hheld : check (x.pending || x.lease.isSome) .illegalOp = none := check_eq_none.mpr (by simp [hlease])
    rw [hexec]
    exact retire_next (classOk_both rfl) htok (fun h => nomatch h) rfl hheld
      ((nxFault_markRelease nx 4 _ _ _).trans ((nxFault_tput nx 4 s _ _).trans hnx)) rfl (if_neg (Bool.eq_false_iff.mp hpend))
  case unleased =>
    have hheld : check (x.pending || x.lease.isSome) .illegalOp = some (fx .illegalOp) := if_neg (by simp [x, hpend, hnone])
    exact retire_raises (classOk_both rfl) htok (fun h => nomatch h) rfl hheld (by decide)

/-! ## The bound of a queue (R58, R59, R141) -/

/-- The requests that wait in the queue for which a request of the issuer is. -/
def requestsAhead (s : State) (r : LeaseReq) : List LeaseReq := (aget (clusterOf s (s.crew.core / 8)).queues r.kind).getD []

section
variable {s : State} {r : LeaseReq}

theorem submitLease_behind (h : flowBusy s (leaseMsg s r) = true) : submitLease s r = refuse s (leaseMsg s r) := if_pos h

section
variable (h : flowBusy s (leaseMsg s r) = false)
include h

theorem submitLease_enters (hroom : (requestsAhead s r).length < 16) :
    submitLease s r = setCluster s (s.crew.core / 8) { clusterOf s (s.crew.core / 8) with
      queues := aput r.kind (requestsAhead s r ++ [{ r with ent := s.clock.toNat }]) (clusterOf s (s.crew.core / 8)).queues } := by
  unfold requestsAhead at hroom ⊢
  simp [submitLease, h, enterQueue, hroom]

theorem submitLease_refused (hfull : 16 ≤ (requestsAhead s r).length) : submitLease s r = refuse s (leaseMsg s r) := by
  unfold requestsAhead at hfull
  simp [submitLease, h, enterQueue, not_lt.mpr hfull]

end
end

/-- After its first NAK an entry is due again after BASE slate cycles. -/
theorem backoff_first (s : State) (die : Nat) : backoff s die 1 = max 1 (s.reg (regBACKOFF die) % 2 ^ 12) := by
  simp [backoff, bitsOf_lowest]

theorem leaseQueueBound : Claims.LeaseQueueBound := by
  intro s r cl q t q' m x
  refine ⟨fun hroom hfree => ?enters, fun hbusy => ?behind, fun hfull hfree => ?refused⟩
  case enters =>
    have ht : t = _ := submitLease_enters hfree hroom
    refine ⟨?_, by rw [ht]; rfl⟩
    simp only [q', ht, clusterOf_setCluster_self, aget_aput_self, cl]
    rfl
  case behind =>
    have ht : t = refuse s m := submitLease_behind hbusy
    refine ⟨by simp only [q', ht]; rfl, ?_⟩
    rw [ht, refuse, if_pos hbusy]
  case refused =>
    have ht : t = refuse s m := submitLease_refused hfree hfull
    refine ⟨by simp only [q', ht]; rfl, ?_⟩
    rw [ht, refuse, if_neg (by simp [hfree]), backoff_first]
    rfl

/-! ## Commands of engines and windows (R300, R301, R304) -/

theorem engineAndWindowCommands : Claims.EngineAndWindowCommands := by
  intro nx d a b s hnx hruns A P t kind sub
  have hadmits : ∀ p : Plan, p.admits s := fun _ _ => hruns
  refine ⟨fun req cl hd ha hb hpend hlease hheld hsub hop hargs hroom hflags => ?ecmd,
    fun ha hroom => ⟨fun hb hok => ?binds, fun hw => ?unbinds, fun hw => ?reserved⟩⟩
  case ecmd =>
    have hregs : range (c16Ok d.toNat && iOk s a.toNat && iRun s b.toNat 4) = none := by simp [range, check, c16Ok, iOk, hd, ha, hb]
    have hsub8 : bitsOf A.toNat 0 8 = sub := bitsOf_lowest _ _
    have hchecks : (if t.pending then none else firstFx [check (t.lease.isSome && !t.released) .illegalOp,
        check (subOk kind (bitsOf A.toNat 0 8) && A.toNat < 2 ^ 10 && argsOk kind (bitsOf A.toNat 0 8) (P 2) (P 3)) .illegalOp,
        batchRoom s (cmdItems kind (bitsOf A.toNat 0 8) (P 2)), flagCheck s (A.getLsbD 8) (A.getLsbD 9)]) = none := by
      rw [hsub8, hpend, hroom, hflags, hsub, hargs, decide_eq_true hop]
      simp [firstFx, check, hlease, hheld]
    have hdone : ecmdDone s t A (P 0) (P 1) (P 2) (P 3) = wakeFor ((List.range (cmdItems kind sub (P 2))).foldl (fun x row =>
        pushItem x (curWho x) (.ecmd cl req kind sub row (P 0) (P 1) (P 2) (P 3)) (A.getLsbD 8) (A.getLsbD 9) (scopeOf (modeOf x))
          (if leaseEvicted t.val then some .evicted else none)) s) cl req := by
      unfold ecmdDone
      rw [hlease]
      dsimp only
      rw [hsub8]
    rw [← hdone]
    exact retire_next (classOk_both rfl) hregs (hadmits _) rfl hchecks ((nxFault_ecmdDone nx 4 s _ _ _ _ _ _).trans hnx) rfl
      (if_neg (Bool.eq_false_iff.mp hpend))
  case binds =>
    have hregs : range (iOk s a.toNat && iRun s b.toNat 3) = none := by simp [range, check, iOk, ha, hb]
    have hchecks : firstFx [check (swOk A (P 2)) .illegalOp, batchRoom s 1] = none := by simp [firstFx, check, hok, hroom]
    exact retire_next (classOk_both rfl) hregs (hadmits _) rfl hchecks ((nxFault_swbindDone nx 4 s _ _ _ _).trans hnx) rfl rfl
  case unbinds =>
    have hregs : range (iOk s a.toNat) = none := by simp [range, check, iOk, ha]
    have hchecks : firstFx [check (decide (A.toNat < 64)) .illegalOp, batchRoom s 1] = none := by simp [firstFx, check, hw, hroom]
    exact retire_next (classOk_both rfl) hregs (hadmits _) rfl hchecks ((nxFault_newItem nx 4 s _ _ _).trans hnx) rfl rfl
  case reserved =>
    have hregs : range (iOk s a.toNat) = none := by simp [range, check, iOk, ha]
    have hchecks : firstFx [check (decide (A.toNat < 64)) .illegalOp, batchRoom s 1] = some (fx .illegalOp) := by
      simp [firstFx, check, not_lt.mpr hw]
    exact retire_raises (classOk_both rfl) hregs (hadmits _) rfl hchecks (by decide)

/-- Settles O35: each instruction is its plan, whose effect leaves what the faults of NX depend on; a request enters its queue, or its sender keeps it
behind what it keeps already or until its back-off has passed. -/
theorem leasesAndEngineCommands : Obligations.LeasesAndEngineCommands :=
  ⟨leases, leaseQueueBound, engineAndWindowCommands⟩

end Sys2Proof.Machine
end

section
/-! PROOFS. The halter unit: its rounds, its grants and the timers of its engines (R137 to R144). -/
namespace Sys2Proof.Machine

/-! ## Requests in their order (R140, R141) -/

theorem headReq_concat (q : List LeaseReq) (x : LeaseReq) : headReq (q ++ [x]) = match headReq q with
    | none => some x
    | some y => if y.prio < x.prio then some x else some y := by
  rw [headReq, List.foldl_concat]
  rfl

theorem headReq_eq_none {q : List LeaseReq} (h : headReq q = none) : q = [] := by
  induction q using List.reverseRecOn with
  | nil => rfl
  | append_singleton q x =>
    rw [headReq_concat] at h
    split at h
    · cases h
    · split at h <;> cases h

/-- The head of a queue is its first request of the highest priority. -/
theorem headReq_splits {q : List LeaseReq} {r : LeaseReq} (h : headReq q = some r) :
    ∃ a b, q = a ++ r :: b ∧ (∀ x ∈ a, x.prio < r.prio) ∧ ∀ x ∈ b, x.prio ≤ r.prio := by
  induction q using List.reverseRecOn generalizing r with
  | nil => cases h
  | append_singleton q x ih =>
    rw [headReq_concat] at h
    split at h
    next hnone =>
      cases h
      exact ⟨[], [], by simp [headReq_eq_none hnone], by simp, by simp⟩
    next y hy =>
      obtain ⟨a, b, hq, ha, hb⟩ := ih hy
      split at h
      next hlt =>
        cases h
        refine ⟨q, [], by simp, fun z hz => ?_, by simp⟩
        have hle : z.prio ≤ y.prio := by
          rw [hq, List.mem_append, List.mem_cons] at hz
          rcases hz with hz | rfl | hz
          · exact (ha z hz).le
          · exact le_rfl
          · exact hb z hz
        exact lt_of_le_of_lt hle hlt
      next hge =>
        cases h
        refine ⟨a, b ++ [x], by simp [hq], ha, fun z hz => ?_⟩
        rcases List.mem_append.mp hz with hz | hz
        · exact hb z hz
        · rw [List.mem_singleton.mp hz]; exact not_lt.mp hge

/-- Request a is served no later than b: by descending priority, then earlier entry, then kind. -/
abbrev LeaseReq.before (a b : LeaseReq) : Prop :=
  b.prio < a.prio ∨ (a.prio = b.prio ∧ (a.ent < b.ent ∨ (a.ent = b.ent ∧ a.kind ≤ b.kind)))

/-- The waiting heads of a cluster's queues are those of each kind's queue, in the order of `LeaseReq.before`. -/
theorem headsOf_eq (c : Cluster) (now : Nat) : headsOf c now = List.insertionSort LeaseReq.before
    ((List.range 6).filterMap fun k => headReq (((aget c.queues k).getD []).filter fun r => r.ent < now)) := by
  have hlater : ∀ r x : LeaseReq, decide (¬ r.before x) =
      (r.prio < x.prio || (x.prio = r.prio && (x.ent < r.ent || (x.ent = r.ent && x.kind < r.kind)))) := by
    intro r x
    rw [Bool.eq_iff_iff]
    simp only [LeaseReq.before, decide_eq_true_eq, Bool.or_eq_true, Bool.and_eq_true]
    omega
  unfold headsOf List.insertionSort
  refine congrArg (fun f => List.foldr f [] _) (funext fun r => funext fun l => ?_)
  rw [List.orderedInsert_eq_take_drop]
  simp only [hlater r]

theorem headsOf_pairwise (c : Cluster) (now : Nat) : (headsOf c now).Pairwise LeaseReq.before := by
  have htotal : Std.Total LeaseReq.before := ⟨fun a b => by unfold LeaseReq.before; omega⟩
  have htrans : IsTrans LeaseReq LeaseReq.before := ⟨fun a b c hab hbc => by unfold LeaseReq.before at *; omega⟩
  exact headsOf_eq c now ▸ List.pairwise_insertionSort LeaseReq.before _

theorem mem_headsOf (c : Cluster) (now : Nat) (r : LeaseReq) : r ∈ headsOf c now ↔
    ∃ k < 6, headReq (((aget c.queues k).getD []).filter fun r => r.ent < now) = some r := by
  rw [headsOf_eq, List.mem_insertionSort, List.mem_filterMap]
  simp only [List.mem_range]

/-! ## A round of the halter unit (R141, R142) -/

/-- The cluster's round of this slate cycle has begun. -/
def roundBegun (s : State) (cl : Nat) : State := setCluster s cl { clusterOf s cl with roundAt := s.clock.toNat }

@[simp] theorem roundBegun_cluster (s : State) (cl : Nat) :
    clusterOf (roundBegun s cl) cl = { clusterOf s cl with roundAt := s.clock.toNat } :=
  clusterOf_setCluster_self s cl _

theorem usCycles_hundred (n : Nat) : usCycles (100 * n) = 160000 * n := by
  unfold usCycles; omega

/-- With no release and no timer of an engine due, a slate cycle changes nothing of it. -/
theorem settleEngine_quiet {s : State} {cl n : Nat} (h : noTimerDue s cl) (hn : n < 24) : settleEngine s cl n = s := by
  obtain ⟨hrel, hdim, hlinger, hdark⟩ := h n hn
  have hnorel : lrelEffect s cl n = s := if_neg fun ⟨hl, hidle⟩ => Bool.false_ne_true ((hrel hl).symm.trans hidle)
  have hnodim : dimIdle s cl n = s := if_neg fun ⟨hlit, hwake, hleased, hidle, hon, hdue⟩ =>
    absurd hdue (not_le.mpr (hdim hlit (by simpa using hwake) hleased hidle hon))
  have hnolinger : lingerExpire s cl n = s := if_neg fun ⟨hlit, hfree, hdue⟩ => absurd hdue (not_le.mpr (hlinger hlit hfree))
  have hnodark : darkIdle s cl n = s := if_neg fun ⟨hpow, hfree, hdue⟩ =>
    absurd hdue (not_le.mpr (usCycles_hundred _ ▸ hdark hpow hfree))
  rw [settleEngine, hnorel, hnodim, hnolinger, hnodark]

theorem noTimerDue_roundBegun {s : State} {cl : Nat} (h : noTimerDue s cl) : noTimerDue (roundBegun s cl) cl := by
  unfold noTimerDue
  rw [roundBegun_cluster]
  exact h

theorem haltRound_over {s : State} {cl : Nat} (h : s.clock.toNat ≤ (clusterOf s cl).roundAt) : haltRound s cl = s := if_pos h

/-- A round settles every engine first, and serves the heads that are then waiting. -/
theorem haltRound_settles {s : State} {cl : Nat} (h : (clusterOf s cl).roundAt < s.clock.toNat) : haltRound s cl =
    (headsOf (clusterOf ((List.range 24).foldl (fun v m => settleEngine v cl m) (roundBegun s cl)) cl) s.clock.toNat).foldl
      (fun v r => serve v cl r) ((List.range 24).foldl (fun v m => settleEngine v cl m) (roundBegun s cl)) :=
  if_neg (not_le.mpr h)

theorem foldl_settleEngine_quiet {s : State} {cl : Nat} (h : noTimerDue s cl) :
    (List.range 24).foldl (fun v m => settleEngine v cl m) s = s :=
  List.foldlRecOn (motive := fun v => v = s) _ _ rfl fun v hv m hm => by
    subst hv; exact settleEngine_quiet h (List.mem_range.mp hm)

/-- With nothing to settle a round serves the heads alone. -/
theorem haltRound_quiet {s : State} {cl : Nat} (h : (clusterOf s cl).roundAt < s.clock.toNat) (hq : noTimerDue s cl) :
    haltRound s cl = (headsOf (clusterOf s cl) s.clock.toNat).foldl (fun v r => serve v cl r) (roundBegun s cl) := by
  rw [haltRound_settles h, foldl_settleEngine_quiet (noTimerDue_roundBegun hq), roundBegun_cluster]
  rfl

theorem execLeaseGrant_round {s : State} (hn : s.ev.n < 24) (hd : s.ev.n / 12 ∉ s.dark) :
    exec .leaseGrant s = .next (haltRound s s.ev.n) := by
  have hlit : s.ev.n < 24 ∧ !s.dark.contains (s.ev.n / 12) := ⟨hn, by simpa using hd⟩
  exact congrArg Host.Outcome.next (if_pos hlit)

/-! ## Which engine a request is served with (R141) -/

section
variable {s : State} {cl m : Nat} {r : LeaseReq}

theorem serve_lit (h : freeEngine (clusterOf s cl) r.kind .lit = some m) : serve s cl r = grant s cl r m := by
  simp [serve, h]

theorem serve_dim (hl : freeEngine (clusterOf s cl) r.kind .lit = none) (h : freeEngine (clusterOf s cl) r.kind .dim = some m) :
    serve s cl r = grant s cl r m := by
  simp [serve, hl, h]

theorem serve_outranks (h : ∀ p, freeEngine (clusterOf s cl) r.kind p = none)
    (hv : victim s (clusterOf s cl) ((List.range 4).map fun j => 4 * r.kind + j) r.prio = some m) :
    serve s cl r = grant (updEngine (evictLease s cl m .evicted) cl m fun e =>
      { e with power := (engOf (clusterOf s cl) m).power, waking := (engOf (clusterOf s cl) m).waking }) cl r m := by
  simp [serve, h, hv]

section
variable (hl : freeEngine (clusterOf s cl) r.kind .lit = none) (hd : freeEngine (clusterOf s cl) r.kind .dim = none)
  (h : freeEngine (clusterOf s cl) r.kind .dark = some m)
include hl hd h

theorem serve_dark (hp : poweredCount (clusterOf s cl) < 8) : serve s cl r = grant s cl r m := by
  simp [serve, hl, hd, h, hp]

section
variable {x : Nat} (hp : 8 ≤ poweredCount (clusterOf s cl))
include hp

theorem serve_spare (hx : spareEngine (clusterOf s cl) = some x) : serve s cl r = grant (darken s cl x) cl r m := by
  simp [serve, hl, hd, h, hx, not_lt.mpr hp]

theorem serve_evicts (hx : spareEngine (clusterOf s cl) = none)
    (hv : victim s (clusterOf s cl) (List.range 24) r.prio = some x) :
    serve s cl r = grant (evictLease s cl x .evicted) cl r m := by
  simp [serve, hl, hd, h, hx, hv, not_lt.mpr hp]

theorem serve_waits (hx : spareEngine (clusterOf s cl) = none) (hv : victim s (clusterOf s cl) (List.range 24) r.prio = none) :
    serve s cl r = s := by
  simp [serve, hl, hd, h, hx, hv, not_lt.mpr hp]

end
end
end

/-- The engine darkened for another is unleased, and dim unless no unleased engine is. -/
theorem spareEngine_spec {c : Cluster} {x : Nat} (h : spareEngine c = some x) : (engOf c x).lease = none ∧
    ((engOf c x).power = .dim ∨ ((engOf c x).power = .lit ∧ ∀ y < 24, (engOf c y).lease = none → (engOf c y).power ≠ .dim)) := by
  have hfree : ∀ p, (List.range 24).find? (fun n => (engOf c n).lease = none && (engOf c n).power = p) = some x →
      (engOf c x).lease = none ∧ (engOf c x).power = p := fun p hp => by simpa using List.find?_some hp
  unfold spareEngine at h
  split at h
  next n hdim =>
    obtain rfl := Option.some.inj h
    obtain ⟨hl, hp⟩ := hfree .dim hdim
    exact ⟨hl, .inl hp⟩
  next hnodim =>
    obtain ⟨hl, hp⟩ := hfree .lit h
    refine ⟨hl, .inr ⟨hp, fun y hy hyl hyp => ?_⟩⟩
    exact absurd (List.find?_eq_none.mp hnodim y (List.mem_range.mpr hy)) (by simp [hyl, hyp])

/-- A victim is one of the engines looked at, and its lease has been held for 10 µs. -/
theorem victim_held {s : State} {c : Cluster} {ns : List Nat} {p m : Nat} (h : victim s c ns p = some m) :
    m ∈ ns ∧ (engOf c m).lease.any (fun l => l.2.2.1 + holdCycles ≤ s.clock.toNat) = true := by
  obtain ⟨b, hb, rfl⟩ := Option.map_eq_some_iff.mp h
  clear h
  revert b
  refine List.foldlRecOn (motive := fun best => ∀ b : Nat × Nat × Nat, best = some b → b.2.2 ∈ ns ∧
    (engOf c b.2.2).lease.any (fun l => l.2.2.1 + holdCycles ≤ s.clock.toNat) = true) ns _ (fun _ h => nomatch h) ?_
  intro best ih n hn b hb
  split at hb
  next => exact ih b hb
  next req pr t w tok hlease =>
    have hself : pr < p ∧ t + holdCycles ≤ s.clock.toNat → n ∈ ns ∧
        (engOf c n).lease.any (fun l => l.2.2.1 + holdCycles ≤ s.clock.toNat) = true := fun hheld => ⟨hn, by simp [hlease, hheld.2]⟩
    split at hb
    next hheld =>
      split at hb
      next => cases hb; exact hself hheld
      next b' =>
        split at hb
        next => cases hb; exact hself hheld
        next => exact ih b hb
    next => exact ih b hb

theorem leasesGranted : Claims.LeasesGranted := by
  intro s r hn hheads c s0
  have hbegun : roundBegun s s.ev.n = s0 := rfl
  have hserved : c.roundAt < s.clock.toNat → noTimerDue s s.ev.n → haltRound s s.ev.n = serve s0 s.ev.n r := fun hround hq => by
    rw [haltRound_quiet hround hq, hheads, hbegun]; rfl
  have hcluster : clusterOf s0 s.ev.n = { c with roundAt := s.clock.toNat } := roundBegun_cluster s _
  have hfree : ∀ p, freeEngine (clusterOf s0 s.ev.n) r.kind p = freeEngine c r.kind p := fun p => by rw [hcluster]; rfl
  refine ⟨fun hover => ?served, fun hround hq => ⟨fun hdark => ?grants, fun m hkind hnone hv => ?outranks⟩⟩
  case served =>
    refine congrArg Host.Outcome.next ?_
    rw [haltRound_over hover]; exact ite_self _
  case grants =>
    rw [execLeaseGrant_round hn hdark, hserved hround hq]
    refine ⟨fun m hl => ?_, fun m hl hd => ?_, fun m hl hd h hp => ?_⟩
    · rw [serve_lit ((hfree _).trans hl)]
    · rw [serve_dim ((hfree _).trans hl) ((hfree _).trans hd)]
    · rw [serve_dark ((hfree _).trans hl) ((hfree _).trans hd) ((hfree _).trans h) (by rw [hcluster]; exact hp)]
  case outranks =>
    obtain ⟨hm, hheld⟩ := victim_held hv
    have hm24 : m < 24 := by
      obtain ⟨j, hj, rfl⟩ := List.mem_map.mp hm
      have := List.mem_range.mp hj
      omega
    have hripe : (List.range 24).any (fun n => (engOf c n).lease.any (fun l => l.2.2.1 + holdCycles ≤ s.clock.toNat)) = true :=
      List.any_eq_true.mpr ⟨m, List.mem_range.mpr hm24, hheld⟩
    have hexec : exec .leaseHoldExpire s = .next (haltRound s s.ev.n) := congrArg Host.Outcome.next (if_pos hripe)
    have hvictim : victim s0 (clusterOf s0 s.ev.n) ((List.range 4).map fun j => 4 * r.kind + j) r.prio = some m := by
      rw [hcluster]; exact hv
    rw [hexec, hserved hround hq, serve_outranks (fun p => (hfree p).trans (hnone p)) hvictim, hcluster]
    rfl

theorem darken_power (s : State) (cl n : Nat) : (engOf (clusterOf (darken s cl n) cl) n).power = .dark := by
  rw [darken, engOf_updEngine, if_pos rfl]; rfl

theorem leaseOrder : Claims.LeaseOrder := by
  intro s hn c now hs queue
  refine ⟨headsOf_pairwise c now, mem_headsOf c now, fun q r => headReq_splits, fun hround hq hdark => ?quiet, fun hround hdark => ?settles,
    fun m => rfl, fun r m hl hd h hp => ⟨fun x hx => ?spare, fun x hx hv => ?evicts, fun hx hv => ?waits⟩⟩
  case quiet => rw [execLeaseGrant_round hn hdark, haltRound_quiet hround hq]; rfl
  case settles => exact (execLeaseGrant_round hn hdark).trans (congrArg Host.Outcome.next (haltRound_settles hround))
  case spare => exact ⟨serve_spare hl hd h hp hx, darken_power s _ x, spareEngine_spec hx⟩
  case evicts => exact serve_evicts hl hd h hp hx hv
  case waits => exact serve_waits hl hd h hp hx hv

/-! ## A granted engine (R137, R140, R141) -/

theorem get_foldl_put_even {w : Nat} (v : BitVec w) (st : Store w) (n j : Nat) :
    ((List.range n).foldl (fun st k => st.put (2 * k) v) st).get j = if j % 2 = 0 ∧ j < 2 * n then v else st.get j := by
  induction n with
  | zero => simp
  | succ n ih =>
    rw [List.range_succ, List.foldl_append, List.foldl_cons, List.foldl_nil, Store.get_put, ih]
    by_cases h : j = 2 * n
    · subst h; simp
    · have : (j % 2 = 0 ∧ j < 2 * (n + 1)) ↔ (j % 2 = 0 ∧ j < 2 * n) := by omega
      simp [h, this]

/-- Every slot of a fresh engine holds m = −∞ and S = 0. -/
theorem freshXf_get {k : Nat} (hk : k < 64) : freshXf.get (2 * k) = 0xFF800000 ∧ freshXf.get (2 * k + 1) = 0 := by
  have hodd : ¬((2 * k + 1) % 2 = 0 ∧ 2 * k + 1 < 2 * 64) := by omega
  have heven : (2 * k) % 2 = 0 ∧ 2 * k < 2 * 64 := by omega
  unfold freshXf
  rw [get_foldl_put_even, get_foldl_put_even, if_pos heven, if_neg hodd]
  exact ⟨rfl, rfl⟩

/-- A granted engine: lit or waking, leased to the request, its internal state fresh. -/
def engineAtGrant (s : State) (cl : Nat) (r : LeaseReq) (n : Nat) : Engine :=
  let e := engOf (clusterOf s cl) n
  ⟨.lit, !(e.power = .lit && !e.waking), some (r.req, r.prio, s.clock.toNat, r.who, r.tok), false, s.clock.toNat, freshXf, 1⟩

/-- A grant in its cluster: the engine granted, the request out of every queue, the serial counted up. -/
theorem grant_halter (s : State) (cl n : Nat) (r : LeaseReq) : (clusterOf (grant s cl r n) cl).halter = Cluster.halter
    { clusterOf s cl with
      engines := aput n (engineAtGrant s cl r n) (clusterOf s cl).engines,
      queues := (clusterOf s cl).queues.map (fun q => (q.1, q.2.filter (fun x => x.req ≠ r.req))),
      serial := (clusterOf s cl).serial + 1 } := by
  unfold grant
  dsimp only
  rw [updLeaseTok_halter]
  simp only [clusterOf_setCluster_self, updEngine, dropReq]
  rfl

theorem grantedEngine : Claims.GrantedEngine := by
  intro s cl n r t e
  have hgrant := grant_halter s cl n r
  have hengines : ∀ m, engOf (clusterOf t cl) m = (aget (aput n (engineAtGrant s cl r n) (clusterOf s cl).engines) m).getD .zero := fun m =>
    congrArg (fun c => engOf c m) hgrant
  have hself : e = engineAtGrant s cl r n := (hengines n).trans (by rw [aget_aput_self]; rfl)
  have hqueues : (clusterOf t cl).queues =
      (clusterOf s cl).queues.map (fun q => (q.1, q.2.filter (fun x => x.req ≠ r.req))) := congrArg (fun c => c.queues) hgrant
  have hserial : (clusterOf t cl).serial = (clusterOf s cl).serial + 1 := congrArg (fun c => c.serial) hgrant
  have hrequest : ∀ q ∈ (clusterOf t cl).queues, ∀ x ∈ q.2, x.req ≠ r.req := by
    intro q hq x hx
    rw [hqueues] at hq
    obtain ⟨p, -, rfl⟩ := List.mem_map.mp hq
    simpa using (List.mem_filter.mp hx).2
  refine hself ▸ ⟨rfl, rfl, rfl, rfl, fun k hk => freshXf_get hk, hrequest, hserial, fun m hm => ?_⟩
  rw [hengines, aget_aput_ne _ _ hm]
  rfl

/-! ## Wakes, idle timers and releases (R138, R139, R144) -/

section
variable {s : State} {cl n : Nat}

theorem engineLit_awake (hw : (engOf (clusterOf s cl) n).waking = false) : engineLit s cl n = s := by
  simp [engineLit, hw]

section
variable (hw : (engOf (clusterOf s cl) n).waking = true)
include hw

theorem engineLit_free (hfree : (engOf (clusterOf s cl) n).lease = none) : engineLit s cl n =
    updEngine s cl n (fun e => { e with power := .lit, waking := false, since := s.clock.toNat }) := by
  simp [engineLit, hw, hfree]

/-- The token of the lease for which the engine woke is pending no longer. -/
theorem engineLit_leased {req pr g tok : Nat} {w : Who} (hleased : (engOf (clusterOf s cl) n).lease = some (req, pr, g, w, tok)) :
    engineLit s cl n =
      updLeaseTok (updEngine s cl n fun e => { e with power := .lit, waking := false, since := s.clock.toNat }) w tok req
        (fun t => { t with pending := false }) := by
  simp [engineLit, hw, hleased]

end
end

theorem engineTimers : Claims.EngineTimers := by
  intro s cl n e upd now
  have hnext : ∀ {x y : State}, x = y → (Host.Outcome.next x : Out) = .next y := congrArg _
  refine ⟨fun hw hfree => ?wakesFree, fun req pr g w tok hw hleased => ?wakesLeased, fun hw => ?awake,
    fun hlit hw hleased hidle hon => ⟨fun hdue => ?dims, fun hearly => ?staysLit⟩,
    fun hlit hfree => ⟨fun hdue => ?lingers, fun hearly => ?staysLingering⟩,
    fun hdim hfree => ⟨fun hdue => ?darkens, fun hearly => ?staysDim⟩,
    fun hrel => ⟨fun hidle => ⟨?releases, ?unleased⟩, fun hbusy => ?holds⟩⟩
  case wakesFree => exact hnext (engineLit_free hw hfree)
  case wakesLeased => exact hnext (engineLit_leased hw hleased)
  case awake => exact hnext (engineLit_awake hw)
  case dims => exact hnext (if_pos ⟨hlit, by simpa using hw, hleased, hidle, hon, hdue⟩)
  case staysLit => exact hnext (if_neg fun ⟨_, _, _, _, _, hdue⟩ => absurd hdue (not_le.mpr hearly))
  case lingers => exact hnext (if_pos ⟨hlit, hfree, hdue⟩)
  case staysLingering => exact hnext (if_neg fun ⟨_, _, hdue⟩ => absurd hdue (not_le.mpr hearly))
  case darkens => exact hnext (if_pos ⟨hdim, hfree, usCycles_hundred _ ▸ hdue⟩)
  case staysDim => exact hnext (if_neg fun ⟨_, _, hdue⟩ => absurd hdue (not_le.mpr (usCycles_hundred _ ▸ hearly)))
  case releases => exact hnext (if_pos ⟨hrel, hidle⟩)
  case unleased => exact (engOf_updEngine s cl n n _).trans (if_pos rfl)
  case holds => exact hnext (if_neg fun ⟨_, hidle⟩ => Bool.false_ne_true (hbusy.symm.trans hidle))

/-- Settles O44: a round settles the engines and serves the waiting heads in their order, a grant changes one engine of its cluster and the queues,
and the timers are their branches. -/
theorem leaseLifecycle : Obligations.LeaseLifecycle :=
  ⟨leasesGranted, leaseOrder, grantedEngine, engineTimers⟩

end Sys2Proof.Machine
end

section
/-! Decoding inverts encoding (R155 to R168). A word is its NX, its opcode and its body of 22 bits, and a field of the body is a
quotient and a remainder of it: from this each instruction's word decodes to it, and each row of the opcode map reads every bit. -/
namespace Sys2Proof
open Laws.WordCarriesOpcode (opcodeOf_mkWord)

/-! ## Words and their fields -/

theorem NX.bits_lt (nx : NX) : nx.bits < 4 := by cases nx <;> decide

@[simp] theorem NX.ofBits_bits (nx : NX) : NX.ofBits nx.bits = nx := by cases nx <;> rfl

theorem NX.bits_ofBits {n : Nat} (h : n < 4) : (NX.ofBits n).bits = n := by
  interval_cases n <;> rfl

@[simp] theorem toNat_fld (w : Word) (lo n : Nat) : (fld w lo n).toNat = fldN w lo n := BitVec.toNat_ofNat _ _

@[simp] theorem fld_eq_iff {w : Word} {lo n : Nat} {x : BitVec n} : fld w lo n = x ↔ fldN w lo n = x.toNat := by
  rw [← BitVec.toNat_inj, toNat_fld]

section
variable {nx : NX} {op body : Nat} (ho : op < 2 ^ 8) (hb : body < 2 ^ 22)
include ho hb

theorem toNat_mkWord : (mkWord nx op body).toNat = nx.bits * 2 ^ 30 + op * 2 ^ 22 + body := by
  have := nx.bits_lt
  rw [mkWord, BitVec.toNat_ofNat, Nat.mod_eq_of_lt (by omega)]

theorem nxOf_mkWord : nxOf (mkWord nx op body) = nx := by
  have := nx.bits_lt
  have h : fldN (mkWord nx op body) 30 2 = nx.bits := by rw [fldN, toNat_mkWord ho hb]; omega
  rw [nxOf, h, NX.ofBits_bits]

theorem fldN_mkWord {lo n : Nat} (h : lo + n ≤ 22) : fldN (mkWord nx op body) lo n = body / 2 ^ lo % 2 ^ n := by
  have hk : (2 : Nat) ^ 22 = 2 ^ lo * (2 ^ n * 2 ^ (22 - lo - n)) := by rw [← pow_add, ← pow_add]; congr 1; omega
  have split : nx.bits * 2 ^ 30 + op * 2 ^ 22 + body = body + 2 ^ lo * (2 ^ n * (2 ^ (22 - lo - n) * (nx.bits * 2 ^ 8 + op))) := by
    rw [← mul_assoc, ← mul_assoc, mul_assoc (2 ^ lo), ← hk]; ring
  rw [fldN, toNat_mkWord ho hb, split, Nat.add_mul_div_left _ _ (by positivity), Nat.add_mul_mod_self_left]

end

/-- A word is put together again from its NX, its opcode and its body. -/
theorem mkWord_nxOf {w : Word} {op body : Nat} (ho : opcodeOf w = op) (hb : body = fldN w 0 22) : mkWord (nxOf w) op body = w := by
  have h4 : fldN w 30 2 < 4 := Nat.mod_lt _ (by decide)
  have hw := w.isLt
  apply BitVec.eq_of_toNat_eq
  rw [mkWord, nxOf, NX.bits_ofBits h4, BitVec.toNat_ofNat, hb, ← ho]
  simp only [opcodeOf, fldN]
  omega

/-! ## Each instruction decodes back from its words -/

/-- The instruction has words, which decode to it whatever words follow, and the first of them carries its opcode. -/
def Instr.decodesBack (i : Instr) : Prop :=
  ∀ tail, ∃ w r, encode i = w :: r ∧ decode w (r ++ tail) = .ok i ∧ i.opcode = some (opcodeOf w)

/-- An instruction of one word decodes back when every word with its NX, its opcode and the fields of its body decodes to it. -/
theorem decodesBack_word {i : Instr} {nx : NX} {op body : Nat} (he : encode i = [mkWord nx op body]) (hb : body < 2 ^ 22)
    (hd : ∀ w tail, nxOf w = nx → opcodeOf w = op → (∀ lo n, lo + n ≤ 22 → fldN w lo n = body / 2 ^ lo % 2 ^ n) → decode w tail = .ok i)
    (ho : op < 2 ^ 8 := by decide) (hop : i.opcode = some op := by rfl) : i.decodesBack :=
  have h := opcodeOf_mkWord nx op body ho hb
  fun _ => ⟨_, _, he, hd _ _ (nxOf_mkWord ho hb) h (fun _ _ h => fldN_mkWord ho hb h), hop.trans (congrArg some h.symm)⟩

namespace Instr.decodesBack

-- One theorem after another: each thread that checks one takes a large stack.
set_option Elab.async false

theorem nop {nx} : decodesBack (.nop nx) := decodesBack_word rfl (by omega) fun _ _ hn ho hf => by
  simp (disch := omega) [decode, decodeRow0, hn, ho, hf]
theorem xj {nx k o} : decodesBack (.xj nx k o) := decodesBack_word rfl (by omega) fun _ _ hn ho hf => by
  simp (disch := omega) [decode, decodeRow0, hn, ho, hf]; omega
theorem xju {nx k o} : decodesBack (.xju nx k o) := decodesBack_word rfl (by omega) fun _ _ hn ho hf => by
  simp (disch := omega) [decode, decodeRow0, hn, ho, hf]; omega
theorem xcall {nx o} : decodesBack (.xcall nx o) := decodesBack_word rfl (by omega) fun _ _ hn ho hf => by
  simp (disch := omega) [decode, decodeRow0, hn, ho, hf, if_pos]; omega
theorem xret {nx} : decodesBack (.xret nx) := decodesBack_word rfl (by omega) fun _ _ hn ho hf => by
  simp (disch := omega) [decode, decodeRow0, hn, ho, hf]
theorem xjr {nx a} : decodesBack (.xjr nx a) := decodesBack_word rfl (by omega) fun _ _ hn ho hf => by
  simp (disch := omega) [decode, decodeRow0, hn, ho, hf, if_pos]; omega
theorem lpsImm {nx i} : decodesBack (.lpsImm nx i) := decodesBack_word rfl (by omega) fun _ _ hn ho hf => by
  simp (disch := omega) [decode, decodeRow0, hn, ho, hf, if_pos]; omega
theorem lpsReg {nx a} : decodesBack (.lpsReg nx a) := decodesBack_word rfl (by omega) fun _ _ hn ho hf => by
  simp (disch := omega) [decode, decodeRow0, hn, ho, hf, if_pos, if_neg]; omega
theorem rwait {nx d a} : decodesBack (.rwait nx d a) := decodesBack_word rfl (by omega) fun _ _ hn ho hf => by
  simp (disch := omega) [decode, decodeRow0, hn, ho, hf, if_pos]; omega
theorem setmode {nx f i} : decodesBack (.setmode nx f i) := decodesBack_word rfl (by omega) fun _ _ hn ho hf => by
  simp (disch := omega) [decode, decodeRow0, hn, ho, hf]; omega
theorem setmodev {nx a} : decodesBack (.setmodev nx a) := decodesBack_word rfl (by omega) fun _ _ hn ho hf => by
  simp (disch := omega) [decode, decodeRow0, hn, ho, hf, if_pos]; omega
theorem getmode {nx d} : decodesBack (.getmode nx d) := decodesBack_word rfl (by omega) fun _ _ hn ho hf => by
  simp (disch := omega) [decode, decodeRow0, hn, ho, hf]; omega
theorem trap {nx c} : decodesBack (.trap nx c) := decodesBack_word rfl (by omega) fun _ _ hn ho hf => by
  simp (disch := omega) [decode, decodeRow0, hn, ho, hf]; omega
theorem brk {nx c} : decodesBack (.brk nx c) := decodesBack_word rfl (by omega) fun _ _ hn ho hf => by
  simp (disch := omega) [decode, decodeRow0, hn, ho, hf]; omega
theorem yield {nx} : decodesBack (.yield nx) := decodesBack_word rfl (by omega) fun _ _ hn ho hf => by
  simp (disch := omega) [decode, decodeRow0, hn, ho, hf]
theorem sadd {nx d a b} : decodesBack (.sadd nx d a b) := decodesBack_word rfl (by omega) fun _ _ hn ho hf => by
  simp (disch := omega) [decode, decodeRow1, hn, ho, hf, if_pos]; omega
theorem ssub {nx d a b} : decodesBack (.ssub nx d a b) := decodesBack_word rfl (by omega) fun _ _ hn ho hf => by
  simp (disch := omega) [decode, decodeRow1, hn, ho, hf, if_pos]; omega
theorem smul {nx d a b} : decodesBack (.smul nx d a b) := decodesBack_word rfl (by omega) fun _ _ hn ho hf => by
  simp (disch := omega) [decode, decodeRow1, hn, ho, hf, if_pos]; omega
theorem smulh {nx d a b x} : decodesBack (.smulh nx d a b x) := decodesBack_word rfl (by omega) fun _ _ hn ho hf => by
  simp (disch := omega) [decode, decodeRow1, hn, ho, hf]; omega
theorem sdiv {nx d a b x} : decodesBack (.sdiv nx d a b x) := decodesBack_word rfl (by omega) fun _ _ hn ho hf => by
  simp (disch := omega) [decode, decodeRow1, hn, ho, hf]; omega
theorem srem {nx d a b x} : decodesBack (.srem nx d a b x) := decodesBack_word rfl (by omega) fun _ _ hn ho hf => by
  simp (disch := omega) [decode, decodeRow1, hn, ho, hf]; omega
theorem sand {nx d a b} : decodesBack (.sand nx d a b) := decodesBack_word rfl (by omega) fun _ _ hn ho hf => by
  simp (disch := omega) [decode, decodeRow1, hn, ho, hf, if_pos]; omega
theorem sor {nx d a b} : decodesBack (.sor nx d a b) := decodesBack_word rfl (by omega) fun _ _ hn ho hf => by
  simp (disch := omega) [decode, decodeRow1, hn, ho, hf, if_pos]; omega
theorem sxor {nx d a b} : decodesBack (.sxor nx d a b) := decodesBack_word rfl (by omega) fun _ _ hn ho hf => by
  simp (disch := omega) [decode, decodeRow1, hn, ho, hf, if_pos]; omega
theorem sshl {nx d a b} : decodesBack (.sshl nx d a b) := decodesBack_word rfl (by omega) fun _ _ hn ho hf => by
  simp (disch := omega) [decode, decodeRow1, hn, ho, hf, if_pos]; omega
theorem sshr {nx d a b} : decodesBack (.sshr nx d a b) := decodesBack_word rfl (by omega) fun _ _ hn ho hf => by
  simp (disch := omega) [decode, decodeRow1, hn, ho, hf, if_pos]; omega
theorem ssra {nx d a b} : decodesBack (.ssra nx d a b) := decodesBack_word rfl (by omega) fun _ _ hn ho hf => by
  simp (disch := omega) [decode, decodeRow1, hn, ho, hf, if_pos]; omega
theorem smin {nx d a b x} : decodesBack (.smin nx d a b x) := decodesBack_word rfl (by omega) fun _ _ hn ho hf => by
  simp (disch := omega) [decode, decodeRow1, hn, ho, hf]; omega
theorem smax {nx d a b x} : decodesBack (.smax nx d a b x) := decodesBack_word rfl (by omega) fun _ _ hn ho hf => by
  simp (disch := omega) [decode, decodeRow1, hn, ho, hf]; omega
theorem scmp {nx c k a b x} : decodesBack (.scmp nx c k a b x) := decodesBack_word rfl (by omega) fun _ _ hn ho hf => by
  simp (disch := omega) [decode, decodeRow1, hn, ho, hf, if_pos]; omega
theorem ssel {nx d a b} : decodesBack (.ssel nx d a b) := decodesBack_word rfl (by omega) fun _ _ hn ho hf => by
  simp (disch := omega) [decode, decodeRow1, hn, ho, hf, if_pos]; omega
theorem saddi {nx d a i} : decodesBack (.saddi nx d a i) := decodesBack_word rfl (by omega) fun _ _ hn ho hf => by
  simp (disch := omega) [decode, decodeRow2, hn, ho, hf]; omega
theorem sli {nx d i} : decodesBack (.sli nx d i) := decodesBack_word rfl (by omega) fun _ _ hn ho hf => by
  simp (disch := omega) [decode, decodeRow2, hn, ho, hf]; omega
theorem slih {nx d i} : decodesBack (.slih nx d i) := decodesBack_word rfl (by omega) fun _ _ hn ho hf => by
  simp (disch := omega) [decode, decodeRow2, hn, ho, hf]; omega
theorem smov {nx d a} : decodesBack (.smov nx d a) := decodesBack_word rfl (by omega) fun _ _ hn ho hf => by
  simp (disch := omega) [decode, decodeRow2, hn, ho, hf, if_pos]; omega
theorem sclz {nx d a} : decodesBack (.sclz nx d a) := decodesBack_word rfl (by omega) fun _ _ hn ho hf => by
  simp (disch := omega) [decode, decodeRow2, hn, ho, hf, if_pos]; omega
theorem spopc {nx d a} : decodesBack (.spopc nx d a) := decodesBack_word rfl (by omega) fun _ _ hn ho hf => by
  simp (disch := omega) [decode, decodeRow2, hn, ho, hf, if_pos]; omega
theorem srd {nx d i} : decodesBack (.srd nx d i) := decodesBack_word rfl (by omega) fun _ _ hn ho hf => by
  simp (disch := omega) [decode, decodeRow2, hn, ho, hf]; omega
theorem swr {nx d i} : decodesBack (.swr nx d i) := decodesBack_word rfl (by omega) fun _ _ hn ho hf => by
  simp (disch := omega) [decode, decodeRow2, hn, ho, hf]; omega
theorem sld {nx d a i} : decodesBack (.sld nx d a i) := decodesBack_word rfl (by omega) fun _ _ hn ho hf => by
  simp (disch := omega) [decode, decodeRow2, hn, ho, hf]; omega
theorem sst {nx d a i} : decodesBack (.sst nx d a i) := decodesBack_word rfl (by omega) fun _ _ hn ho hf => by
  simp (disch := omega) [decode, decodeRow2, hn, ho, hf]; omega
theorem saddr {nx d a b x} : decodesBack (.saddr nx d a b x) := decodesBack_word rfl (by omega) fun _ _ hn ho hf => by
  simp (disch := omega) [decode, decodeRow2, hn, ho, hf]; omega
theorem ssext {nx d a i} : decodesBack (.ssext nx d a i) := decodesBack_word rfl (by omega) fun _ _ hn ho hf => by
  simp (disch := omega) [decode, decodeRow2, hn, ho, hf]; omega
theorem sbfx {nx d a l w} : decodesBack (.sbfx nx d a l w) := decodesBack_word rfl (by omega) fun _ _ hn ho hf => by
  simp (disch := omega) [decode, decodeRow2, hn, ho, hf]; omega
theorem sbfi {nx d a l w} : decodesBack (.sbfi nx d a l w) := decodesBack_word rfl (by omega) fun _ _ hn ho hf => by
  simp (disch := omega) [decode, decodeRow2, hn, ho, hf]; omega
theorem sshli {nx d a c} : decodesBack (.sshli nx d a c) := decodesBack_word rfl (by omega) fun _ _ hn ho hf => by
  simp (disch := omega) [decode, decodeRow2, hn, ho, hf, if_pos]; omega
theorem sshri {nx d a c} : decodesBack (.sshri nx d a c) := decodesBack_word rfl (by omega) fun _ _ hn ho hf => by
  simp (disch := omega) [decode, decodeRow2, hn, ho, hf, if_pos]; omega
theorem ssrai {nx d a c} : decodesBack (.ssrai nx d a c) := decodesBack_word rfl (by omega) fun _ _ hn ho hf => by
  simp (disch := omega) [decode, decodeRow2, hn, ho, hf, if_pos, if_neg]; omega
theorem vadd {nx d a b x} : decodesBack (.vadd nx d a b x) := decodesBack_word rfl (by omega) fun _ _ hn ho hf => by
  simp (disch := omega) [decode, decodeRow3, hn, ho, hf]; omega
theorem vsub {nx d a b x} : decodesBack (.vsub nx d a b x) := decodesBack_word rfl (by omega) fun _ _ hn ho hf => by
  simp (disch := omega) [decode, decodeRow3, hn, ho, hf]; omega
theorem vmul {nx d a b x} : decodesBack (.vmul nx d a b x) := decodesBack_word rfl (by omega) fun _ _ hn ho hf => by
  simp (disch := omega) [decode, decodeRow3, hn, ho, hf]; omega
theorem vmad {nx d a b x} : decodesBack (.vmad nx d a b x) := decodesBack_word rfl (by omega) fun _ _ hn ho hf => by
  simp (disch := omega) [decode, decodeRow3, hn, ho, hf]; omega
theorem vmsb {nx d a b x} : decodesBack (.vmsb nx d a b x) := decodesBack_word rfl (by omega) fun _ _ hn ho hf => by
  simp (disch := omega) [decode, decodeRow3, hn, ho, hf]; omega
theorem vmin {nx d a b x} : decodesBack (.vmin nx d a b x) := decodesBack_word rfl (by omega) fun _ _ hn ho hf => by
  simp (disch := omega) [decode, decodeRow3, hn, ho, hf]; omega
theorem vmax {nx d a b x} : decodesBack (.vmax nx d a b x) := decodesBack_word rfl (by omega) fun _ _ hn ho hf => by
  simp (disch := omega) [decode, decodeRow3, hn, ho, hf]; omega
theorem vabs {nx d a} : decodesBack (.vabs nx d a) := decodesBack_word rfl (by omega) fun _ _ hn ho hf => by
  simp (disch := omega) [decode, decodeRow3, hn, ho, hf, if_pos]; omega
theorem vneg {nx d a} : decodesBack (.vneg nx d a) := decodesBack_word rfl (by omega) fun _ _ hn ho hf => by
  simp (disch := omega) [decode, decodeRow3, hn, ho, hf, if_pos]; omega
theorem vand {nx d a b x} : decodesBack (.vand nx d a b x) := decodesBack_word rfl (by omega) fun _ _ hn ho hf => by
  simp (disch := omega) [decode, decodeRow3, hn, ho, hf]; omega
theorem vor {nx d a b x} : decodesBack (.vor nx d a b x) := decodesBack_word rfl (by omega) fun _ _ hn ho hf => by
  simp (disch := omega) [decode, decodeRow3, hn, ho, hf]; omega
theorem vxor {nx d a b x} : decodesBack (.vxor nx d a b x) := decodesBack_word rfl (by omega) fun _ _ hn ho hf => by
  simp (disch := omega) [decode, decodeRow3, hn, ho, hf]; omega
theorem vnot {nx d a} : decodesBack (.vnot nx d a) := decodesBack_word rfl (by omega) fun _ _ hn ho hf => by
  simp (disch := omega) [decode, decodeRow3, hn, ho, hf, if_pos]; omega
theorem vshl {nx d a b x} : decodesBack (.vshl nx d a b x) := decodesBack_word rfl (by omega) fun _ _ hn ho hf => by
  simp (disch := omega) [decode, decodeRow3, hn, ho, hf]; omega
theorem vshr {nx d a b x} : decodesBack (.vshr nx d a b x) := decodesBack_word rfl (by omega) fun _ _ hn ho hf => by
  simp (disch := omega) [decode, decodeRow3, hn, ho, hf]; omega
theorem vsra {nx d a b x} : decodesBack (.vsra nx d a b x) := decodesBack_word rfl (by omega) fun _ _ hn ho hf => by
  simp (disch := omega) [decode, decodeRow3, hn, ho, hf]; omega
theorem vcmp {nx c y k a b x} : decodesBack (.vcmp nx c y k a b x) := decodesBack_word rfl (by omega) fun _ _ hn ho hf => by
  simp (disch := omega) [decode, decodeRow4, hn, ho, hf]; omega
theorem vsel {nx d a b x} : decodesBack (.vsel nx d a b x) := decodesBack_word rfl (by omega) fun _ _ hn ho hf => by
  simp (disch := omega) [decode, decodeRow4, hn, ho, hf]; omega
theorem vmovV {nx d a} : decodesBack (.vmovV nx d a) := decodesBack_word rfl (by omega) fun _ _ hn ho hf => by
  simp (disch := omega) [decode, decodeRow4, hn, ho, hf, if_pos]; omega
theorem vmovS {nx d b} : decodesBack (.vmovS nx d b) := decodesBack_word rfl (by omega) fun _ _ hn ho hf => by
  simp (disch := omega) [decode, decodeRow4, hn, ho, hf, if_pos, if_neg]; omega
theorem vli {nx d i} : decodesBack (.vli nx d i) := decodesBack_word rfl (by omega) fun _ _ hn ho hf => by
  simp (disch := omega) [decode, decodeRow4, hn, ho, hf]; omega
theorem vbcsImm {nx d a p} : decodesBack (.vbcsImm nx d a p) := decodesBack_word rfl (by omega) fun _ _ hn ho hf => by
  simp (disch := omega) [decode, decodeRow4, hn, ho, hf, if_pos]; omega
theorem vbcsReg {nx d a b} : decodesBack (.vbcsReg nx d a b) := decodesBack_word rfl (by omega) fun _ _ hn ho hf => by
  simp (disch := omega) [decode, decodeRow4, hn, ho, hf, if_pos, if_neg]; omega
theorem vdot4 {nx d a b x} : decodesBack (.vdot4 nx d a b x) := decodesBack_word rfl (by omega) fun _ _ hn ho hf => by
  simp (disch := omega) [decode, decodeRow4, hn, ho, hf]; omega
theorem vdot2 {nx d a b x} : decodesBack (.vdot2 nx d a b x) := decodesBack_word rfl (by omega) fun _ _ hn ho hf => by
  simp (disch := omega) [decode, decodeRow4, hn, ho, hf]; omega
theorem vsad {nx d a b x} : decodesBack (.vsad nx d a b x) := decodesBack_word rfl (by omega) fun _ _ hn ho hf => by
  simp (disch := omega) [decode, decodeRow4, hn, ho, hf]; omega
theorem vclz {nx d a} : decodesBack (.vclz nx d a) := decodesBack_word rfl (by omega) fun _ _ hn ho hf => by
  simp (disch := omega) [decode, decodeRow4, hn, ho, hf, if_pos]; omega
theorem vpopc {nx d a} : decodesBack (.vpopc nx d a) := decodesBack_word rfl (by omega) fun _ _ hn ho hf => by
  simp (disch := omega) [decode, decodeRow4, hn, ho, hf, if_pos]; omega
theorem vrcp {nx d a} : decodesBack (.vrcp nx d a) := decodesBack_word rfl (by omega) fun _ _ hn ho hf => by
  simp (disch := omega) [decode, decodeRow4, hn, ho, hf, if_pos]; omega
theorem vrsq {nx d a} : decodesBack (.vrsq nx d a) := decodesBack_word rfl (by omega) fun _ _ hn ho hf => by
  simp (disch := omega) [decode, decodeRow4, hn, ho, hf, if_pos]; omega
theorem vexp2 {nx d a} : decodesBack (.vexp2 nx d a) := decodesBack_word rfl (by omega) fun _ _ hn ho hf => by
  simp (disch := omega) [decode, decodeRow4, hn, ho, hf, if_pos]; omega
theorem vlog2 {nx d a} : decodesBack (.vlog2 nx d a) := decodesBack_word rfl (by omega) fun _ _ hn ho hf => by
  simp (disch := omega) [decode, decodeRow4, hn, ho, hf, if_pos]; omega
theorem vsin {nx d a} : decodesBack (.vsin nx d a) := decodesBack_word rfl (by omega) fun _ _ hn ho hf => by
  simp (disch := omega) [decode, decodeRow4, hn, ho, hf, if_pos]; omega
theorem vcos {nx d a} : decodesBack (.vcos nx d a) := decodesBack_word rfl (by omega) fun _ _ hn ho hf => by
  simp (disch := omega) [decode, decodeRow4, hn, ho, hf, if_pos]; omega
theorem vcvt {nx d a s t} : decodesBack (.vcvt nx d a s t) := decodesBack_word rfl (by omega) fun _ _ hn ho hf => by
  simp (disch := omega) [decode, decodeRow5, hn, ho, hf, if_pos]; omega
theorem vpack {nx d a b x} : decodesBack (.vpack nx d a b x) := decodesBack_word rfl (by omega) fun _ _ hn ho hf => by
  simp (disch := omega) [decode, decodeRow5, hn, ho, hf]; omega
theorem vunpk {nx d a} : decodesBack (.vunpk nx d a) := decodesBack_word rfl (by omega) fun _ _ hn ho hf => by
  simp (disch := omega) [decode, decodeRow5, hn, ho, hf, if_pos]; omega
theorem vrq {nx d a b x} : decodesBack (.vrq nx d a b x) := decodesBack_word rfl (by omega) fun _ _ hn ho hf => by
  simp (disch := omega) [decode, decodeRow5, hn, ho, hf]; omega
theorem vrshr {nx d a b x} : decodesBack (.vrshr nx d a b x) := decodesBack_word rfl (by omega) fun _ _ hn ho hf => by
  simp (disch := omega) [decode, decodeRow5, hn, ho, hf]; omega
theorem vscl {nx d a b x} : decodesBack (.vscl nx d a b x) := decodesBack_word rfl (by omega) fun _ _ hn ho hf => by
  simp (disch := omega) [decode, decodeRow5, hn, ho, hf]; omega
theorem vshfl {nx d a b x} : decodesBack (.vshfl nx d a b x) := decodesBack_word rfl (by omega) fun _ _ hn ho hf => by
  simp (disch := omega) [decode, decodeRow5, hn, ho, hf]; omega
theorem vshfli {nx d a m c} : decodesBack (.vshfli nx d a m c) := decodesBack_word rfl (by omega) fun _ _ hn ho hf => by
  simp (disch := omega) [decode, decodeRow5, hn, ho, hf]; omega
theorem vred {nx d a o} : decodesBack (.vred nx d a o) := decodesBack_word rfl (by omega) fun _ _ hn ho hf => by
  simp (disch := omega) [decode, decodeRow5, hn, ho, hf, if_pos]; omega
theorem vscan {nx d a e o} : decodesBack (.vscan nx d a e o) := decodesBack_word rfl (by omega) fun _ _ hn ho hf => by
  simp (disch := omega) [decode, decodeRow5, hn, ho, hf, if_pos]; omega
theorem vprune {nx d a b x} : decodesBack (.vprune nx d a b x) := decodesBack_word rfl (by omega) fun _ _ hn ho hf => by
  simp (disch := omega) [decode, decodeRow5, hn, ho, hf]; omega
theorem vspdot {nx d a b x} : decodesBack (.vspdot nx d a b x) := decodesBack_word rfl (by omega) fun _ _ hn ho hf => by
  simp (disch := omega) [decode, decodeRow5, hn, ho, hf]; omega
theorem vnzc {nx d a} : decodesBack (.vnzc nx d a) := decodesBack_word rfl (by omega) fun _ _ hn ho hf => by
  simp (disch := omega) [decode, decodeRow5, hn, ho, hf, if_pos]; omega
theorem vnzb {nx d a} : decodesBack (.vnzb nx d a) := decodesBack_word rfl (by omega) fun _ _ hn ho hf => by
  simp (disch := omega) [decode, decodeRow5, hn, ho, hf, if_pos]; omega
theorem vterm {nx d a} : decodesBack (.vterm nx d a) := decodesBack_word rfl (by omega) fun _ _ hn ho hf => by
  simp (disch := omega) [decode, decodeRow5, hn, ho, hf, if_pos]; omega
theorem vlane {nx d s} : decodesBack (.vlane nx d s) := decodesBack_word rfl (by omega) fun _ _ hn ho hf => by
  simp (disch := omega) [decode, decodeRow5, hn, ho, hf, if_pos]; omega
theorem kand {nx d a b x} : decodesBack (.kand nx d a b x) := decodesBack_word rfl (by omega) fun _ _ hn ho hf => by
  simp (disch := omega) [decode, decodeRow6, hn, ho, hf]; omega
theorem kor {nx d a b x} : decodesBack (.kor nx d a b x) := decodesBack_word rfl (by omega) fun _ _ hn ho hf => by
  simp (disch := omega) [decode, decodeRow6, hn, ho, hf]; omega
theorem kxor {nx d a b x} : decodesBack (.kxor nx d a b x) := decodesBack_word rfl (by omega) fun _ _ hn ho hf => by
  simp (disch := omega) [decode, decodeRow6, hn, ho, hf]; omega
theorem knot {nx d a} : decodesBack (.knot nx d a) := decodesBack_word rfl (by omega) fun _ _ hn ho hf => by
  simp (disch := omega) [decode, decodeRow6, hn, ho, hf, if_pos]; omega
theorem kmov {nx d a} : decodesBack (.kmov nx d a) := decodesBack_word rfl (by omega) fun _ _ hn ho hf => by
  simp (disch := omega) [decode, decodeRow6, hn, ho, hf, if_pos]; omega
theorem kany {nx d a} : decodesBack (.kany nx d a) := decodesBack_word rfl (by omega) fun _ _ hn ho hf => by
  simp (disch := omega) [decode, decodeRow6, hn, ho, hf, if_pos]; omega
theorem kall {nx d a} : decodesBack (.kall nx d a) := decodesBack_word rfl (by omega) fun _ _ hn ho hf => by
  simp (disch := omega) [decode, decodeRow6, hn, ho, hf, if_pos]; omega
theorem kcnt {nx d a} : decodesBack (.kcnt nx d a) := decodesBack_word rfl (by omega) fun _ _ hn ho hf => by
  simp (disch := omega) [decode, decodeRow6, hn, ho, hf, if_pos]; omega
theorem kbits {nx d a} : decodesBack (.kbits nx d a) := decodesBack_word rfl (by omega) fun _ _ hn ho hf => by
  simp (disch := omega) [decode, decodeRow6, hn, ho, hf, if_pos, if_neg]; omega
theorem kfromv {nx d a} : decodesBack (.kfromv nx d a) := decodesBack_word rfl (by omega) fun _ _ hn ho hf => by
  simp (disch := omega) [decode, decodeRow6, hn, ho, hf, if_pos]; omega
theorem ktov {nx d a} : decodesBack (.ktov nx d a) := decodesBack_word rfl (by omega) fun _ _ hn ho hf => by
  simp (disch := omega) [decode, decodeRow6, hn, ho, hf, if_pos]; omega
theorem ld {nx d a b} : decodesBack (.ld nx d a b) := decodesBack_word rfl (by omega) fun _ _ hn ho hf => by
  simp (disch := omega) [decode, decodeRow7, hn, ho, hf, if_pos]; omega
theorem st {nx d a b} : decodesBack (.st nx d a b) := decodesBack_word rfl (by omega) fun _ _ hn ho hf => by
  simp (disch := omega) [decode, decodeRow7, hn, ho, hf, if_pos]; omega
theorem ldi {nx d a i} : decodesBack (.ldi nx d a i) := decodesBack_word rfl (by omega) fun _ _ hn ho hf => by
  simp (disch := omega) [decode, decodeRow7, hn, ho, hf]; omega
theorem sti {nx d a i} : decodesBack (.sti nx d a i) := decodesBack_word rfl (by omega) fun _ _ hn ho hf => by
  simp (disch := omega) [decode, decodeRow7, hn, ho, hf]; omega
theorem ldt {nx d a b} : decodesBack (.ldt nx d a b) := decodesBack_word rfl (by omega) fun _ _ hn ho hf => by
  simp (disch := omega) [decode, decodeRow7, hn, ho, hf, if_pos]; omega
theorem stt {nx d a b} : decodesBack (.stt nx d a b) := decodesBack_word rfl (by omega) fun _ _ hn ho hf => by
  simp (disch := omega) [decode, decodeRow7, hn, ho, hf, if_pos]; omega
theorem ldb {nx d a b} : decodesBack (.ldb nx d a b) := decodesBack_word rfl (by omega) fun _ _ hn ho hf => by
  simp (disch := omega) [decode, decodeRow7, hn, ho, hf, if_pos]; omega
theorem ldw {nx d a b} : decodesBack (.ldw nx d a b) := decodesBack_word rfl (by omega) fun _ _ hn ho hf => by
  simp (disch := omega) [decode, decodeRow7, hn, ho, hf, if_pos]; omega
theorem stw {nx d a b} : decodesBack (.stw nx d a b) := decodesBack_word rfl (by omega) fun _ _ hn ho hf => by
  simp (disch := omega) [decode, decodeRow7, hn, ho, hf, if_pos]; omega
theorem aadd {nx d a b} : decodesBack (.aadd nx d a b) := decodesBack_word rfl (by omega) fun _ _ hn ho hf => by
  simp (disch := omega) [decode, decodeRow7, hn, ho, hf, if_pos]; omega
theorem amin {nx d a b} : decodesBack (.amin nx d a b) := decodesBack_word rfl (by omega) fun _ _ hn ho hf => by
  simp (disch := omega) [decode, decodeRow7, hn, ho, hf, if_pos]; omega
theorem amax {nx d a b} : decodesBack (.amax nx d a b) := decodesBack_word rfl (by omega) fun _ _ hn ho hf => by
  simp (disch := omega) [decode, decodeRow7, hn, ho, hf, if_pos]; omega
theorem aand {nx d a b} : decodesBack (.aand nx d a b) := decodesBack_word rfl (by omega) fun _ _ hn ho hf => by
  simp (disch := omega) [decode, decodeRow7, hn, ho, hf, if_pos]; omega
theorem aor {nx d a b} : decodesBack (.aor nx d a b) := decodesBack_word rfl (by omega) fun _ _ hn ho hf => by
  simp (disch := omega) [decode, decodeRow7, hn, ho, hf, if_pos]; omega
theorem axor {nx d a b} : decodesBack (.axor nx d a b) := decodesBack_word rfl (by omega) fun _ _ hn ho hf => by
  simp (disch := omega) [decode, decodeRow7, hn, ho, hf, if_pos]; omega
theorem axch {nx d a b} : decodesBack (.axch nx d a b) := decodesBack_word rfl (by omega) fun _ _ hn ho hf => by
  simp (disch := omega) [decode, decodeRow7, hn, ho, hf, if_pos]; omega
theorem acas {nx d a b} : decodesBack (.acas nx d a b) := decodesBack_word rfl (by omega) fun _ _ hn ho hf => by
  simp (disch := omega) [decode, decodeRow8, hn, ho, hf, if_pos]; omega
theorem rdadd {nx d a b} : decodesBack (.rdadd nx d a b) := decodesBack_word rfl (by omega) fun _ _ hn ho hf => by
  simp (disch := omega) [decode, decodeRow8, hn, ho, hf, if_pos]; omega
theorem rdmin {nx d a b} : decodesBack (.rdmin nx d a b) := decodesBack_word rfl (by omega) fun _ _ hn ho hf => by
  simp (disch := omega) [decode, decodeRow8, hn, ho, hf, if_pos]; omega
theorem rdmax {nx d a b} : decodesBack (.rdmax nx d a b) := decodesBack_word rfl (by omega) fun _ _ hn ho hf => by
  simp (disch := omega) [decode, decodeRow8, hn, ho, hf, if_pos]; omega
theorem rdand {nx d a b} : decodesBack (.rdand nx d a b) := decodesBack_word rfl (by omega) fun _ _ hn ho hf => by
  simp (disch := omega) [decode, decodeRow8, hn, ho, hf, if_pos]; omega
theorem rdor {nx d a b} : decodesBack (.rdor nx d a b) := decodesBack_word rfl (by omega) fun _ _ hn ho hf => by
  simp (disch := omega) [decode, decodeRow8, hn, ho, hf, if_pos]; omega
theorem rdxor {nx d a b} : decodesBack (.rdxor nx d a b) := decodesBack_word rfl (by omega) fun _ _ hn ho hf => by
  simp (disch := omega) [decode, decodeRow8, hn, ho, hf, if_pos]; omega
theorem rdx {nx d a b} : decodesBack (.rdx nx d a b) := decodesBack_word rfl (by omega) fun _ _ hn ho hf => by
  simp (disch := omega) [decode, decodeRow8, hn, ho, hf, if_pos]; omega
theorem fnc {nx d i} : decodesBack (.fnc nx d i) := decodesBack_word rfl (by omega) fun _ _ hn ho hf => by
  simp (disch := omega) [decode, decodeRow8, hn, ho, hf, if_pos]; omega
theorem fwait {nx a} : decodesBack (.fwait nx a) := decodesBack_word rfl (by omega) fun _ _ hn ho hf => by
  simp (disch := omega) [decode, decodeRow8, hn, ho, hf, if_pos]; omega
theorem pref {nx d a b} : decodesBack (.pref nx d a b) := decodesBack_word rfl (by omega) fun _ _ hn ho hf => by
  simp (disch := omega) [decode, decodeRow8, hn, ho, hf, if_pos]; omega
theorem bara {nx a} : decodesBack (.bara nx a) := decodesBack_word rfl (by omega) fun _ _ hn ho hf => by
  simp (disch := omega) [decode, decodeRow9, hn, ho, hf, if_pos]; omega
theorem barw {nx a} : decodesBack (.barw nx a) := decodesBack_word rfl (by omega) fun _ _ hn ho hf => by
  simp (disch := omega) [decode, decodeRow9, hn, ho, hf, if_pos]; omega
theorem baraw {nx a} : decodesBack (.baraw nx a) := decodesBack_word rfl (by omega) fun _ _ hn ho hf => by
  simp (disch := omega) [decode, decodeRow9, hn, ho, hf, if_pos]; omega
theorem barx {nx a b} : decodesBack (.barx nx a b) := decodesBack_word rfl (by omega) fun _ _ hn ho hf => by
  simp (disch := omega) [decode, decodeRow9, hn, ho, hf, if_pos]; omega
theorem bari {nx a b} : decodesBack (.bari nx a b) := decodesBack_word rfl (by omega) fun _ _ hn ho hf => by
  simp (disch := omega) [decode, decodeRow9, hn, ho, hf, if_pos]; omega
theorem qpush {nx d a} : decodesBack (.qpush nx d a) := decodesBack_word rfl (by omega) fun _ _ hn ho hf => by
  simp (disch := omega) [decode, decodeRow9, hn, ho, hf, if_pos]; omega
theorem qpop {nx d a} : decodesBack (.qpop nx d a) := decodesBack_word rfl (by omega) fun _ _ hn ho hf => by
  simp (disch := omega) [decode, decodeRow9, hn, ho, hf, if_pos]; omega
theorem qpeek {nx d a b} : decodesBack (.qpeek nx d a b) := decodesBack_word rfl (by omega) fun _ _ hn ho hf => by
  simp (disch := omega) [decode, decodeRow9, hn, ho, hf, if_pos]; omega
theorem qcfg {nx a b} : decodesBack (.qcfg nx a b) := decodesBack_word rfl (by omega) fun _ _ hn ho hf => by
  simp (disch := omega) [decode, decodeRow9, hn, ho, hf, if_pos]; omega
theorem gset {nx a} : decodesBack (.gset nx a) := decodesBack_word rfl (by omega) fun _ _ hn ho hf => by
  simp (disch := omega) [decode, decodeRow9, hn, ho, hf, if_pos]; omega
theorem gclr {nx a} : decodesBack (.gclr nx a) := decodesBack_word rfl (by omega) fun _ _ hn ho hf => by
  simp (disch := omega) [decode, decodeRow9, hn, ho, hf, if_pos]; omega
theorem gclrUnres {nx a} : decodesBack (.gclrUnres nx a) := decodesBack_word rfl (by omega) fun _ _ hn ho hf => by
  simp (disch := omega) [decode, decodeRow9, hn, ho, hf, if_pos]; omega
theorem estart {nx a} : decodesBack (.estart nx a) := decodesBack_word rfl (by omega) fun _ _ hn ho hf => by
  simp (disch := omega) [decode, decodeRow9, hn, ho, hf, if_pos]; omega
theorem ejoin {nx d} : decodesBack (.ejoin nx d) := decodesBack_word rfl (by omega) fun _ _ hn ho hf => by
  simp (disch := omega) [decode, decodeRow9, hn, ho, hf]; omega
theorem launch {nx d a} : decodesBack (.launch nx d a) := decodesBack_word rfl (by omega) fun _ _ hn ho hf => by
  simp (disch := omega) [decode, decodeRow9, hn, ho, hf, if_pos]; omega
theorem sfork {nx a b} : decodesBack (.sfork nx a b) := decodesBack_word rfl (by omega) fun _ _ hn ho hf => by
  simp (disch := omega) [decode, decodeRowA, hn, ho, hf, if_pos]; omega
theorem sreward {nx d a} : decodesBack (.sreward nx d a) := decodesBack_word rfl (by omega) fun _ _ hn ho hf => by
  simp (disch := omega) [decode, decodeRowA, hn, ho, hf, if_pos]; omega
theorem sbar {nx} : decodesBack (.sbar nx) := decodesBack_word rfl (by omega) fun _ _ hn ho hf => by
  simp (disch := omega) [decode, decodeRowA, hn, ho, hf]
theorem scancel {nx d a} : decodesBack (.scancel nx d a) := decodesBack_word rfl (by omega) fun _ _ hn ho hf => by
  simp (disch := omega) [decode, decodeRowA, hn, ho, hf, if_pos]; omega
theorem sginfo {nx d} : decodesBack (.sginfo nx d) := decodesBack_word rfl (by omega) fun _ _ hn ho hf => by
  simp (disch := omega) [decode, decodeRowA, hn, ho, hf]; omega
theorem sgabs {nx d} : decodesBack (.sgabs nx d) := decodesBack_word rfl (by omega) fun _ _ hn ho hf => by
  simp (disch := omega) [decode, decodeRowA, hn, ho, hf]; omega
theorem sgadv {nx a} : decodesBack (.sgadv nx a) := decodesBack_word rfl (by omega) fun _ _ hn ho hf => by
  simp (disch := omega) [decode, decodeRowA, hn, ho, hf, if_pos]; omega
theorem mxg {nx s d g} : decodesBack (.mxg nx s d g) := decodesBack_word rfl (by omega) fun _ _ hn ho hf => by
  simp (disch := omega) [decode, decodeRowB, hn, ho, hf, if_pos]; omega
theorem mx {nx c s a b v q r} : decodesBack (.mx nx c s a b v q r) := decodesBack_word rfl (by omega) fun _ _ hn ho hf => by
  simp (disch := omega) [decode, decodeRowB, hn, ho, hf]; omega
theorem mxbound {nx d a} : decodesBack (.mxbound nx d a) := decodesBack_word rfl (by omega) fun _ _ hn ho hf => by
  simp (disch := omega) [decode, decodeRowB, hn, ho, hf, if_pos]; omega
theorem mxz {nx d} : decodesBack (.mxz nx d) := decodesBack_word rfl (by omega) fun _ _ hn ho hf => by
  simp (disch := omega) [decode, decodeRowB, hn, ho, hf]; omega
theorem acst {nx d a b} : decodesBack (.acst nx d a b) := decodesBack_word rfl (by omega) fun _ _ hn ho hf => by
  simp (disch := omega) [decode, decodeRowB, hn, ho, hf, if_pos]; omega
theorem acld {nx d a b} : decodesBack (.acld nx d a b) := decodesBack_word rfl (by omega) fun _ _ hn ho hf => by
  simp (disch := omega) [decode, decodeRowB, hn, ho, hf, if_pos]; omega
theorem hclaim {nx d x} : decodesBack (.hclaim nx d x) := decodesBack_word rfl (by omega) fun _ _ hn ho hf => by
  simp (disch := omega) [decode, decodeRowB, hn, ho, hf, if_pos]; omega
theorem hrel {nx a} : decodesBack (.hrel nx a) := decodesBack_word rfl (by omega) fun _ _ hn ho hf => by
  simp (disch := omega) [decode, decodeRowB, hn, ho, hf, if_pos]; omega
theorem cpldSlot {nx d a b} : decodesBack (.cpldSlot nx d a b) := decodesBack_word rfl (by omega) fun _ _ hn ho hf => by
  simp (disch := omega) [decode, decodeRowB, hn, ho, hf, if_pos]; omega
theorem cpldSp {nx a b} : decodesBack (.cpldSp nx a b) := decodesBack_word rfl (by omega) fun _ _ hn ho hf => by
  simp (disch := omega) [decode, decodeRowB, hn, ho, hf, if_pos, if_neg]; omega
theorem cpst {nx a b} : decodesBack (.cpst nx a b) := decodesBack_word rfl (by omega) fun _ _ hn ho hf => by
  simp (disch := omega) [decode, decodeRowB, hn, ho, hf, if_pos]; omega
theorem cpss {nx a b} : decodesBack (.cpss nx a b) := decodesBack_word rfl (by omega) fun _ _ hn ho hf => by
  simp (disch := omega) [decode, decodeRowB, hn, ho, hf, if_pos]; omega
theorem bseal {nx d} : decodesBack (.bseal nx d) := decodesBack_word rfl (by omega) fun _ _ hn ho hf => by
  simp (disch := omega) [decode, decodeRowB, hn, ho, hf]; omega
theorem bsealStatus {nx d a} : decodesBack (.bsealStatus nx d a) := decodesBack_word rfl (by omega) fun _ _ hn ho hf => by
  simp (disch := omega) [decode, decodeRowB, hn, ho, hf, if_pos, if_neg]; omega
theorem bwaitImm {nx i} : decodesBack (.bwaitImm nx i) := decodesBack_word rfl (by omega) fun _ _ hn ho hf => by
  simp (disch := omega) [decode, decodeRowB, hn, ho, hf, if_pos]; omega
theorem bwaitReg {nx a} : decodesBack (.bwaitReg nx a) := decodesBack_word rfl (by omega) fun _ _ hn ho hf => by
  simp (disch := omega) [decode, decodeRowB, hn, ho, hf, if_pos, if_neg]; omega
theorem lease {nx d a b} : decodesBack (.lease nx d a b) := decodesBack_word rfl (by omega) fun _ _ hn ho hf => by
  simp (disch := omega) [decode, decodeRowB, hn, ho, hf, if_pos]; omega
theorem lrel {nx a} : decodesBack (.lrel nx a) := decodesBack_word rfl (by omega) fun _ _ hn ho hf => by
  simp (disch := omega) [decode, decodeRowB, hn, ho, hf, if_pos]; omega
theorem ecmd {nx d a b} : decodesBack (.ecmd nx d a b) := decodesBack_word rfl (by omega) fun _ _ hn ho hf => by
  simp (disch := omega) [decode, decodeRowB, hn, ho, hf, if_pos]; omega
theorem swbind {nx a b} : decodesBack (.swbind nx a b) := decodesBack_word rfl (by omega) fun _ _ hn ho hf => by
  simp (disch := omega) [decode, decodeRowC, hn, ho, hf, if_pos]; omega
theorem swunb {nx a} : decodesBack (.swunb nx a) := decodesBack_word rfl (by omega) fun _ _ hn ho hf => by
  simp (disch := omega) [decode, decodeRowC, hn, ho, hf, if_pos]; omega
theorem eadd {nx d a b} : decodesBack (.eadd nx d a b) := decodesBack_word rfl (by omega) fun _ _ hn ho hf => by
  simp (disch := omega) [decode, decodeRowC, hn, ho, hf, if_pos]; omega
theorem esub {nx d a b} : decodesBack (.esub nx d a b) := decodesBack_word rfl (by omega) fun _ _ hn ho hf => by
  simp (disch := omega) [decode, decodeRowC, hn, ho, hf, if_pos]; omega
theorem eli {nx d i} : decodesBack (.eli nx d i) := decodesBack_word rfl (by omega) fun _ _ hn ho hf => by
  simp (disch := omega) [decode, decodeRowC, hn, ho, hf]; omega
theorem elih {nx d i} : decodesBack (.elih nx d i) := decodesBack_word rfl (by omega) fun _ _ hn ho hf => by
  simp (disch := omega) [decode, decodeRowC, hn, ho, hf]; omega
theorem emov {nx d a} : decodesBack (.emov nx d a) := decodesBack_word rfl (by omega) fun _ _ hn ho hf => by
  simp (disch := omega) [decode, decodeRowC, hn, ho, hf, if_pos]; omega
theorem eshl {nx d a c} : decodesBack (.eshl nx d a c) := decodesBack_word rfl (by omega) fun _ _ hn ho hf => by
  simp (disch := omega) [decode, decodeRowC, hn, ho, hf, if_pos]; omega
theorem eshr {nx d a c} : decodesBack (.eshr nx d a c) := decodesBack_word rfl (by omega) fun _ _ hn ho hf => by
  simp (disch := omega) [decode, decodeRowC, hn, ho, hf, if_pos, if_neg]; omega
theorem xjz {nx d i} : decodesBack (.xjz nx d i) := decodesBack_word rfl (by omega) fun _ _ hn ho hf => by
  simp (disch := omega) [decode, decodeRowC, hn, ho, hf]; omega
theorem xjnz {nx d i} : decodesBack (.xjnz nx d i) := decodesBack_word rfl (by omega) fun _ _ hn ho hf => by
  simp (disch := omega) [decode, decodeRowC, hn, ho, hf]; omega
theorem efroms {nx d i} : decodesBack (.efroms nx d i) := decodesBack_word rfl (by omega) fun _ _ hn ho hf => by
  simp (disch := omega) [decode, decodeRowC, hn, ho, hf]; omega
theorem csrr {nx d i} : decodesBack (.csrr nx d i) := decodesBack_word rfl (by omega) fun _ _ hn ho hf => by
  simp (disch := omega) [decode, decodeRowE, hn, ho, hf]; omega
theorem csrw {nx d i} : decodesBack (.csrw nx d i) := decodesBack_word rfl (by omega) fun _ _ hn ho hf => by
  simp (disch := omega) [decode, decodeRowE, hn, ho, hf]; omega
theorem cntr {nx d i} : decodesBack (.cntr nx d i) := decodesBack_word rfl (by omega) fun _ _ hn ho hf => by
  simp (disch := omega) [decode, decodeRowE, hn, ho, hf]; omega
theorem clk {nx d i} : decodesBack (.clk nx d i) := decodesBack_word rfl (by omega) fun _ _ hn ho hf => by
  simp (disch := omega) [decode, decodeRowE, hn, ho, hf]; omega
theorem seed {nx a} : decodesBack (.seed nx a) := decodesBack_word rfl (by omega) fun _ _ hn ho hf => by
  simp (disch := omega) [decode, decodeRowE, hn, ho, hf, if_pos]; omega

theorem xbtab {nx : NX} {a : BitVec 7} {targets : List (BitVec 32)} (h : wellFormed (.xbtab nx a targets) = true) :
    decodesBack (.xbtab nx a targets) := fun tail => by
  simp only [wellFormed, Bool.and_eq_true, decide_eq_true_eq] at h
  have hb : 0 * 2 ^ 15 + a.toNat * 2 ^ 8 + (targets.length - 1) < 2 ^ 22 := by omega
  refine ⟨_, targets, rfl, ?_, ?_⟩
  case refine_2 => exact congrArg some (opcodeOf_mkWord nx 0x07 _ (by decide) hb).symm
  have ho := opcodeOf_mkWord nx 0x07 _ (by decide) hb
  have hn := nxOf_mkWord (nx := nx) (op := 0x07) (by decide) hb
  have hf : ∀ lo n, lo + n ≤ 22 → _ := fun _ _ => fldN_mkWord (nx := nx) (op := 0x07) (by decide) hb
  generalize mkWord nx 0x07 _ = w at ho hn hf ⊢
  have count : fldN w 0 8 + 1 = targets.length := by rw [hf 0 8 (by decide)]; omega
  have zero : fldN w 15 7 = 0 := by rw [hf 15 7 (by decide)]; omega
  have index : fld w 8 7 = a := fld_eq_iff.mpr (by rw [hf 8 7 (by decide)]; omega)
  simp [decode, decodeRow0, ho, hn, count, zero, index]

/-! ### Reserved opcodes (R169) -/

theorem decodeRow0_reserved {w : Word} {rest : List Word} (h : opcodeOf w % 16 = 0) : decodeRow0 w rest = .ok (.reservedOpcode w) := by
  unfold decodeRow0
  split
  case h_16 => rfl
  all_goals omega

theorem decodeRow6_reserved {w : Word} (h : 10 ≤ opcodeOf w % 16) : decodeRow6 w = .ok (.reservedOpcode w) := by
  unfold decodeRow6
  split
  case h_11 => rfl
  all_goals omega

theorem decodeRow8_reserved {w : Word} (h : 11 ≤ opcodeOf w % 16) : decodeRow8 w = .ok (.reservedOpcode w) := by
  unfold decodeRow8
  split
  case h_12 => rfl
  all_goals omega

theorem decodeRow9_reserved {w : Word} (h : 14 ≤ opcodeOf w % 16) : decodeRow9 w = .ok (.reservedOpcode w) := by
  unfold decodeRow9
  split
  case h_15 => rfl
  all_goals omega

theorem decodeRowA_reserved {w : Word} (h : 6 ≤ opcodeOf w % 16) : decodeRowA w = .ok (.reservedOpcode w) := by
  unfold decodeRowA
  split
  case h_7 => rfl
  all_goals omega

theorem decodeRowC_reserved {w : Word} (h : 11 ≤ opcodeOf w % 16) : decodeRowC w = .ok (.reservedOpcode w) := by
  unfold decodeRowC
  split
  case h_12 => rfl
  all_goals omega

theorem decodeRowE_reserved {w : Word} (h : 5 ≤ opcodeOf w % 16) : decodeRowE w = .ok (.reservedOpcode w) := by
  unfold decodeRowE
  split
  case h_6 => rfl
  all_goals omega

theorem reservedOpcode {w : Word} (h : wellFormed (.reservedOpcode w) = true) : decodesBack (.reservedOpcode w) := fun tail => by
  refine ⟨w, [], rfl, ?_, rfl⟩
  have hop : opcodeOf w = w.toNat / 2 ^ 22 % 256 := rfl
  have hlt : opcodeOf w < 256 := Nat.mod_lt _ (by decide)
  simp only [wellFormed, ← hop, reservedOp, Bool.or_eq_true, Bool.and_eq_true, decide_eq_true_eq] at h
  unfold decode
  split
  · exact decodeRow0_reserved (by omega)
  case h_7 => exact decodeRow6_reserved (by omega)
  case h_9 => exact decodeRow8_reserved (by omega)
  case h_10 => exact decodeRow9_reserved (by omega)
  case h_11 => exact decodeRowA_reserved (by omega)
  case h_13 => exact decodeRowC_reserved (by omega)
  case h_14 => exact decodeRowE_reserved (by omega)
  case h_15 => rfl
  all_goals omega

/-- Every well-formed instruction decodes back; an event has no opcode. -/
theorem of_wellFormed : ∀ (i : Instr), wellFormed i = true → i.opcode ≠ none → i.decodesBack
  | .nop .., _, _ => nop | .xj .., _, _ => xj | .xju .., _, _ => xju | .xcall .., _, _ => xcall
  | .xret .., _, _ => xret | .xjr .., _, _ => xjr | .xbtab .., h, _ => xbtab h | .lpsImm .., _, _ => lpsImm
  | .lpsReg .., _, _ => lpsReg | .rwait .., _, _ => rwait | .setmode .., _, _ => setmode | .setmodev .., _, _ => setmodev
  | .getmode .., _, _ => getmode | .trap .., _, _ => trap | .brk .., _, _ => brk | .yield .., _, _ => yield
  | .sadd .., _, _ => sadd | .ssub .., _, _ => ssub | .smul .., _, _ => smul | .smulh .., _, _ => smulh
  | .sdiv .., _, _ => sdiv | .srem .., _, _ => srem | .sand .., _, _ => sand | .sor .., _, _ => sor
  | .sxor .., _, _ => sxor | .sshl .., _, _ => sshl | .sshr .., _, _ => sshr | .ssra .., _, _ => ssra
  | .smin .., _, _ => smin | .smax .., _, _ => smax | .scmp .., _, _ => scmp | .ssel .., _, _ => ssel
  | .saddi .., _, _ => saddi | .sli .., _, _ => sli | .slih .., _, _ => slih | .smov .., _, _ => smov
  | .sclz .., _, _ => sclz | .spopc .., _, _ => spopc | .srd .., _, _ => srd | .swr .., _, _ => swr
  | .sld .., _, _ => sld | .sst .., _, _ => sst | .saddr .., _, _ => saddr | .ssext .., _, _ => ssext
  | .sbfx .., _, _ => sbfx | .sbfi .., _, _ => sbfi | .sshli .., _, _ => sshli | .sshri .., _, _ => sshri
  | .ssrai .., _, _ => ssrai | .vadd .., _, _ => vadd | .vsub .., _, _ => vsub | .vmul .., _, _ => vmul
  | .vmad .., _, _ => vmad | .vmsb .., _, _ => vmsb | .vmin .., _, _ => vmin | .vmax .., _, _ => vmax
  | .vabs .., _, _ => vabs | .vneg .., _, _ => vneg | .vand .., _, _ => vand | .vor .., _, _ => vor
  | .vxor .., _, _ => vxor | .vnot .., _, _ => vnot | .vshl .., _, _ => vshl | .vshr .., _, _ => vshr
  | .vsra .., _, _ => vsra | .vcmp .., _, _ => vcmp | .vsel .., _, _ => vsel | .vmovV .., _, _ => vmovV
  | .vmovS .., _, _ => vmovS | .vli .., _, _ => vli | .vbcsImm .., _, _ => vbcsImm | .vbcsReg .., _, _ => vbcsReg
  | .vdot4 .., _, _ => vdot4 | .vdot2 .., _, _ => vdot2 | .vsad .., _, _ => vsad | .vclz .., _, _ => vclz
  | .vpopc .., _, _ => vpopc | .vrcp .., _, _ => vrcp | .vrsq .., _, _ => vrsq | .vexp2 .., _, _ => vexp2
  | .vlog2 .., _, _ => vlog2 | .vsin .., _, _ => vsin | .vcos .., _, _ => vcos | .vcvt .., _, _ => vcvt
  | .vpack .., _, _ => vpack | .vunpk .., _, _ => vunpk | .vrq .., _, _ => vrq | .vrshr .., _, _ => vrshr
  | .vscl .., _, _ => vscl | .vshfl .., _, _ => vshfl | .vshfli .., _, _ => vshfli | .vred .., _, _ => vred
  | .vscan .., _, _ => vscan | .vprune .., _, _ => vprune | .vspdot .., _, _ => vspdot | .vnzc .., _, _ => vnzc
  | .vnzb .., _, _ => vnzb | .vterm .., _, _ => vterm | .vlane .., _, _ => vlane | .kand .., _, _ => kand
  | .kor .., _, _ => kor | .kxor .., _, _ => kxor | .knot .., _, _ => knot | .kmov .., _, _ => kmov
  | .kany .., _, _ => kany | .kall .., _, _ => kall | .kcnt .., _, _ => kcnt | .kbits .., _, _ => kbits
  | .kfromv .., _, _ => kfromv | .ktov .., _, _ => ktov | .ld .., _, _ => ld | .st .., _, _ => st
  | .ldi .., _, _ => ldi | .sti .., _, _ => sti | .ldt .., _, _ => ldt | .stt .., _, _ => stt | .ldb .., _, _ => ldb
  | .ldw .., _, _ => ldw | .stw .., _, _ => stw | .aadd .., _, _ => aadd | .amin .., _, _ => amin
  | .amax .., _, _ => amax | .aand .., _, _ => aand | .aor .., _, _ => aor | .axor .., _, _ => axor
  | .axch .., _, _ => axch | .acas .., _, _ => acas | .rdadd .., _, _ => rdadd | .rdmin .., _, _ => rdmin
  | .rdmax .., _, _ => rdmax | .rdand .., _, _ => rdand | .rdor .., _, _ => rdor | .rdxor .., _, _ => rdxor
  | .rdx .., _, _ => rdx | .fnc .., _, _ => fnc | .fwait .., _, _ => fwait | .pref .., _, _ => pref
  | .bara .., _, _ => bara | .barw .., _, _ => barw | .baraw .., _, _ => baraw | .barx .., _, _ => barx
  | .bari .., _, _ => bari | .qpush .., _, _ => qpush | .qpop .., _, _ => qpop | .qpeek .., _, _ => qpeek
  | .qcfg .., _, _ => qcfg | .gset .., _, _ => gset | .gclr .., _, _ => gclr | .gclrUnres .., _, _ => gclrUnres
  | .estart .., _, _ => estart | .ejoin .., _, _ => ejoin | .launch .., _, _ => launch | .sfork .., _, _ => sfork
  | .sreward .., _, _ => sreward | .sbar .., _, _ => sbar | .scancel .., _, _ => scancel | .sginfo .., _, _ => sginfo
  | .sgabs .., _, _ => sgabs | .sgadv .., _, _ => sgadv | .mxg .., _, _ => mxg | .mx .., _, _ => mx
  | .mxbound .., _, _ => mxbound | .mxz .., _, _ => mxz | .acst .., _, _ => acst | .acld .., _, _ => acld
  | .hclaim .., _, _ => hclaim | .hrel .., _, _ => hrel | .cpldSlot .., _, _ => cpldSlot | .cpldSp .., _, _ => cpldSp
  | .cpst .., _, _ => cpst | .cpss .., _, _ => cpss | .bseal .., _, _ => bseal | .bsealStatus .., _, _ => bsealStatus
  | .bwaitImm .., _, _ => bwaitImm | .bwaitReg .., _, _ => bwaitReg | .lease .., _, _ => lease | .lrel .., _, _ => lrel
  | .ecmd .., _, _ => ecmd | .swbind .., _, _ => swbind | .swunb .., _, _ => swunb | .eadd .., _, _ => eadd
  | .esub .., _, _ => esub | .eli .., _, _ => eli | .elih .., _, _ => elih | .emov .., _, _ => emov
  | .eshl .., _, _ => eshl | .eshr .., _, _ => eshr | .xjz .., _, _ => xjz | .xjnz .., _, _ => xjnz
  | .efroms .., _, _ => efroms | .csrr .., _, _ => csrr | .csrw .., _, _ => csrw | .cntr .., _, _ => cntr
  | .clk .., _, _ => clk | .seed .., _, _ => seed | .reservedOpcode .., h, _ => reservedOpcode h
  | .formerBuild, _, h | .rwaitTimeout, _, h | .guardedCommandRelease, _, h | .streamEnded, _, h | .gangEnd, _, h
  | .packetTake, _, h | .gangPlace, _, h | .childGridStart, _, h | .replayResend, _, h | .sramSplitReclaim, _, h
  | .latchLoadComplete, _, h | .mxStepStart, _, h | .mxStepComplete, _, h | .cpldItemComplete, _, h
  | .cpstItemComplete, _, h | .cpssItemComplete, _, h | .acstItemComplete, _, h | .acldItemComplete, _, h
  | .swbindItemComplete, _, h | .swunbItemComplete, _, h | .fenceComplete, _, h | .logicalTimeAdvance, _, h
  | .holderDrain, _, h | .pageTableWalk, _, h | .leaseGrant, _, h | .leaseHoldExpire, _, h | .lrelTakeEffect, _, h
  | .engineLit, _, h | .engineDimIdle, _, h | .engineLingerExpire, _, h | .engineDarkIdle, _, h | .xfItemComplete, _, h
  | .mgItemComplete, _, h | .dcItemComplete, _, h | .spItemComplete, _, h | .clItemComplete, _, h | .ixItemComplete, _, h
  | .sgDeadline, _, h | .tlbiRange, _, h | .tlbiContext, _, h | .tlbiAll, _, h | .tlbInvalidateComplete, _, h
  | .fltrespReplay, _, h | .fltrespAbort, _, h | .faultRecordWrite, _, h | .space1BlockWrite, _, h | .cmpcfgWrite, _, h
  | .reloc, _, h | .cmpcmdRead, _, h | .relocDone, _, h | .decay, _, h | .seedw, _, h | .heatDecayComplete, _, h
  | .keyLoad, _, h | .keyFlush, _, h | .keyClear, _, h | .keyCommandDone, _, h | .partmapWrite, _, h | .create, _, h
  | .start, _, h | .save, _, h | .swap, _, h | .prestage, _, h | .abort, _, h | .fltactEnd, _, h | .fltactResume, _, h
  | .destroy, _, h | .dieoff, _, h | .dieon, _, h | .contextCommandComplete, _, h | .lqctlWrite, _, h | .lqputWrite, _, h
  | .completionRecordWrite, _, h | .dfbbaseWrite, _, h | .carveWrite, _, h | .orderlyDarkTimeout, _, h
  | .dieAbruptLoss, _, h | .rglInterval, _, h | .clpwrWrite, _, h | .clusterGate, _, h | .clusterUngate, _, h
  | .boostInterval, _, h | .hotSpotMigration, _, h | .thermalEmergency, _, h | .watchdog, _, h | .watchdogUncleared, _, h
  | .powerOn, _, h | .perst, _, h | .bringupStageComplete, _, h | .stageLimitExpire, _, h | .retrain, _, h
  | .flitCrcReplay, _, h | .linkRetrainComplete, _, h | .sensors, _, h | .logread, _, h | .bootinfo, _, h | .updopen, _, h
  | .updwrite, _, h | .updclose, _, h | .activate, _, h | .confirm, _, h | .svncommit, _, h | .pkgreset, _, h
  | .trialTimeout, _, h | .ambRestart, _, h | .pldmFirmwareUpdate, _, h | .pldmMonitoring, _, h | .spdmMeasurements, _, h
  | .spdmMldsaSignature, _, h | .sensorSample, _, h | .logCoalesceWindow, _, h | .patrolScrub, _, h | .hbmPatrolScrub, _, h
  | .registerWrite, _, h | .compressRecord, _, h | .lqgetRead, _, h | .watchdogCleared, _, h | .powerLoss, _, h => absurd rfl h

end Instr.decodesBack

/-! ## Words that decode are the encoding of their instruction -/

/-- The word of an XBTAB with n targets, from its fields. -/
theorem mkWord_xbtab {w : Word} {n : Nat} (ho : opcodeOf w = 0x07) (hz : fldN w 15 7 = 0) (hn : n = fldN w 0 8 + 1) :
    mkWord (nxOf w) 0x07 (0 * 2 ^ 15 + (fld w 8 7).toNat * 2 ^ 8 + (n - 1)) = w := by
  have hw := w.isLt
  refine mkWord_nxOf ho ?_
  simp only [toNat_fld, fldN] at *
  omega

theorem encode_xbtab {w : Word} {ts : List Word} (ho : opcodeOf w = 0x07) (hz : fldN w 15 7 = 0) (hn : ts.length = fldN w 0 8 + 1) :
    encode (.xbtab (nxOf w) (fld w 8 7) ts) = w :: ts :=
  congrArg (· :: ts) (mkWord_xbtab ho hz hn)

theorem decodeRow0_xbtab {w : Word} {rest : List Word} {i : Instr} (ho : opcodeOf w = 0x07) (h : decodeRow0 w rest = .ok i) :
    ∃ tail, w :: rest = encode i ++ tail := by
  simp only [decodeRow0, ho] at h
  split at h
  · split at h <;> cases h
    exact ⟨rest.drop (fldN w 0 8 + 1), by
      rw [encode_xbtab ho ‹_› (List.length_take_of_le ‹_›), List.cons_append, List.take_append_drop]⟩
  · cases h

theorem decodeRow0_sound {w : Word} {rest : List Word} {i : Instr} (hr : opcodeOf w / 16 = 0) (ho : opcodeOf w ≠ 0x07)
    (h : decodeRow0 w rest = .ok i) : encode i = [w] := by
  have hw := w.isLt
  unfold decodeRow0 at h
  split at h
  case h_7 => omega
  case h_16 => cases h; rfl
  all_goals
    repeat' split at h
    all_goals
      cases h <;>
      · refine congrArg (· :: []) (mkWord_nxOf (by omega) ?_)
        simp only [toNat_fld, fldN, Nat.zero_mul, Nat.zero_add] at * <;> omega

theorem decodeRow1_sound {w : Word} {i : Instr} (hr : opcodeOf w / 16 = 1) (h : decodeRow1 w = .ok i) : encode i = [w] := by
  have hw := w.isLt
  unfold decodeRow1 at h
  split at h
  case' h_16 => simp only [imp_false] at *
  all_goals
    repeat' split at h
    all_goals
      cases h <;>
      · refine congrArg (· :: []) (mkWord_nxOf (by omega) ?_)
        simp only [toNat_fld, fldN] at *
        omega

theorem decodeRow2_sound {w : Word} {i : Instr} (hr : opcodeOf w / 16 = 2) (h : decodeRow2 w = .ok i) : encode i = [w] := by
  have hw := w.isLt
  unfold decodeRow2 at h
  split at h
  case' h_16 => simp only [imp_false] at *
  all_goals
    repeat' split at h
    all_goals
      cases h <;>
      · refine congrArg (· :: []) (mkWord_nxOf (by omega) ?_)
        simp only [toNat_fld, fldN] at *
        omega

theorem decodeRow3_sound {w : Word} {i : Instr} (hr : opcodeOf w / 16 = 3) (h : decodeRow3 w = .ok i) : encode i = [w] := by
  have hw := w.isLt
  unfold decodeRow3 at h
  split at h
  case' h_16 => simp only [imp_false] at *
  all_goals
    repeat' split at h
    all_goals
      cases h <;>
      · refine congrArg (· :: []) (mkWord_nxOf (by omega) ?_)
        simp only [toNat_fld, fldN] at *
        omega

theorem decodeRow4_sound {w : Word} {i : Instr} (hr : opcodeOf w / 16 = 4) (h : decodeRow4 w = .ok i) : encode i = [w] := by
  have hw := w.isLt
  unfold decodeRow4 at h
  split at h
  case' h_16 => simp only [imp_false] at *
  all_goals
    repeat' split at h
    all_goals
      cases h <;>
      · refine congrArg (· :: []) (mkWord_nxOf (by omega) ?_)
        simp only [toNat_fld, fldN] at *
        omega

theorem decodeRow5_sound {w : Word} {i : Instr} (hr : opcodeOf w / 16 = 5) (h : decodeRow5 w = .ok i) : encode i = [w] := by
  have hw := w.isLt
  unfold decodeRow5 at h
  split at h
  case' h_16 => simp only [imp_false] at *
  all_goals
    repeat' split at h
    all_goals
      cases h <;>
      · refine congrArg (· :: []) (mkWord_nxOf (by omega) ?_)
        simp only [toNat_fld, fldN] at *
        omega

theorem decodeRow6_sound {w : Word} {i : Instr} (hr : opcodeOf w / 16 = 6) (h : decodeRow6 w = .ok i) : encode i = [w] := by
  have hw := w.isLt
  unfold decodeRow6 at h
  split at h
  case h_11 => cases h; rfl
  all_goals
    repeat' split at h
    all_goals
      cases h <;>
      · refine congrArg (· :: []) (mkWord_nxOf (by omega) ?_)
        simp only [toNat_fld, fldN] at *
        omega

theorem decodeRow7_sound {w : Word} {i : Instr} (hr : opcodeOf w / 16 = 7) (h : decodeRow7 w = .ok i) : encode i = [w] := by
  have hw := w.isLt
  unfold decodeRow7 at h
  split at h
  case' h_16 => simp only [imp_false] at *
  all_goals
    repeat' split at h
    all_goals
      cases h <;>
      · refine congrArg (· :: []) (mkWord_nxOf (by omega) ?_)
        simp only [toNat_fld, fldN] at *
        omega

theorem decodeRow8_sound {w : Word} {i : Instr} (hr : opcodeOf w / 16 = 8) (h : decodeRow8 w = .ok i) : encode i = [w] := by
  have hw := w.isLt
  unfold decodeRow8 at h
  split at h
  case h_12 => cases h; rfl
  all_goals
    repeat' split at h
    all_goals
      cases h <;>
      · refine congrArg (· :: []) (mkWord_nxOf (by omega) ?_)
        simp only [toNat_fld, fldN] at *
        omega

theorem decodeRow9_sound {w : Word} {i : Instr} (hr : opcodeOf w / 16 = 9) (h : decodeRow9 w = .ok i) : encode i = [w] := by
  have hw := w.isLt
  unfold decodeRow9 at h
  split at h
  case h_15 => cases h; rfl
  all_goals
    repeat' split at h
    all_goals
      cases h <;>
      · refine congrArg (· :: []) (mkWord_nxOf (by omega) ?_)
        simp only [toNat_fld, fldN] at *
        omega

theorem decodeRowA_sound {w : Word} {i : Instr} (hr : opcodeOf w / 16 = 10) (h : decodeRowA w = .ok i) : encode i = [w] := by
  have hw := w.isLt
  unfold decodeRowA at h
  split at h
  case h_7 => cases h; rfl
  all_goals
    repeat' split at h
    all_goals
      cases h <;>
      · refine congrArg (· :: []) (mkWord_nxOf (by omega) ?_)
        simp only [toNat_fld, fldN, Nat.zero_mul, Nat.zero_add] at *
        omega

theorem decodeRowB_sound {w : Word} {i : Instr} (hr : opcodeOf w / 16 = 11) (h : decodeRowB w = .ok i) : encode i = [w] := by
  have hw := w.isLt
  unfold decodeRowB at h
  split at h
  case' h_16 => simp only [imp_false] at *
  all_goals
    repeat' split at h
    all_goals
      cases h <;>
      · refine congrArg (· :: []) (mkWord_nxOf (by omega) ?_)
        simp only [toNat_fld, fldN] at *
        omega

theorem decodeRowC_sound {w : Word} {i : Instr} (hr : opcodeOf w / 16 = 12) (h : decodeRowC w = .ok i) : encode i = [w] := by
  have hw := w.isLt
  unfold decodeRowC at h
  split at h
  case h_12 => cases h; rfl
  all_goals
    repeat' split at h
    all_goals
      cases h <;>
      · refine congrArg (· :: []) (mkWord_nxOf (by omega) ?_)
        simp only [toNat_fld, fldN] at *
        omega

theorem decodeRowE_sound {w : Word} {i : Instr} (hr : opcodeOf w / 16 = 14) (h : decodeRowE w = .ok i) : encode i = [w] := by
  have hw := w.isLt
  unfold decodeRowE at h
  split at h
  case h_6 => cases h; rfl
  all_goals
    repeat' split at h
    all_goals
      cases h <;>
      · refine congrArg (· :: []) (mkWord_nxOf (by omega) ?_)
        simp only [toNat_fld, fldN] at *
        omega

/-- What a word and the words after it decode to is encoded by them: no bit of a word is ignored. -/
theorem decode_sound {w : Word} {rest : List Word} {i : Instr} (h : decode w rest = .ok i) : ∃ tail, w :: rest = encode i ++ tail := by
  have one {i : Instr} (he : encode i = [w]) : ∃ tail, w :: rest = encode i ++ tail := ⟨rest, by rw [he]; rfl⟩
  unfold decode at h
  split at h
  · by_cases ho : opcodeOf w = 0x07
    · exact decodeRow0_xbtab ho h
    · exact one (decodeRow0_sound ‹_› ho h)
  · exact one (decodeRow1_sound ‹_› h)
  · exact one (decodeRow2_sound ‹_› h)
  · exact one (decodeRow3_sound ‹_› h)
  · exact one (decodeRow4_sound ‹_› h)
  · exact one (decodeRow5_sound ‹_› h)
  · exact one (decodeRow6_sound ‹_› h)
  · exact one (decodeRow7_sound ‹_› h)
  · exact one (decodeRow8_sound ‹_› h)
  · exact one (decodeRow9_sound ‹_› h)
  · exact one (decodeRowA_sound ‹_› h)
  · exact one (decodeRowB_sound ‹_› h)
  · exact one (decodeRowC_sound ‹_› h)
  · exact one (decodeRowE_sound ‹_› h)
  · cases h; exact one rfl

/-! ## The obligations of the encoding -/

/-- Settles O59: each instruction's fields are quotients and remainders of its word's body, and each row of the opcode map reads every bit. -/
theorem decodingInvertsEncoding : Obligations.DecodingInvertsEncoding := by
  unfold Obligations.DecodingInvertsEncoding Claims.DecodeEncode
  exact ⟨fun i tail hw hi => Instr.decodesBack.of_wellFormed i hw hi tail, fun w rest i => decode_sound⟩

/-- Settles O58: the decoder evaluated on the words written out. -/
theorem manualWordsDecode : Obligations.ManualWordsDecode := by
  unfold Obligations.ManualWordsDecode Claims.DecodeWords
  decide +kernel

end Sys2Proof
end
section
/-! PROOFS. MODE, traps, instructions of the wrong issuer, precise faults, residue mismatches and damaged units (R163 to R172, R196 to R198). -/
namespace Sys2Proof.Machine

/-! ## Writes of MODE (R167, R197, R198) -/

theorem nxFault_setMode (nx : NX) (len : Nat) (s : State) (m : BitVec 32) : nxFault nx len (setMode s m) = nxFault nx len s := by
  unfold setMode
  split <;> exact nxFault_congr rfl rfl rfl rfl rfl rfl

theorem nxFault_iput (nx : NX) (len : Nat) (s : State) (r : Nat) (v : BitVec 64) : nxFault nx len (iput s r v) = nxFault nx len s := by
  unfold iput
  split
  · exact nxFault_eput nx len s r v
  · exact nxFault_sput nx len s r v

section
variable {nx : NX} {f : BitVec 7} {i : BitVec 15} {s : State}

/-- A SETMODE with a value to write writes it. -/
theorem execSetmode_some {m : BitVec 32} (hnx : nxFault nx 4 s = none) (hv : setmodeValue s f i = some m) :
    exec (.setmode nx f i) s = .next (after nx 4 (setMode s m)) := by
  change execSetmode nx f i s = _
  rw [execSetmode, hv]
  exact retire_next (classOk_both (by decide)) rfl (fun h => nomatch h) rfl rfl ((nxFault_setMode nx 4 s m).trans hnx) rfl rfl

theorem execSetmode_none (hv : setmodeValue s f i = none) : exec (.setmode nx f i) s = .next (raise s (fx .illegalOp)) := by
  change execSetmode nx f i s = _
  rw [execSetmode, hv, retire_early (classOk_both (by decide)) rfl, takeFault_fx _ _ (by decide)]

theorem setmodeValue_field (hf : f.toNat < 8) :
    let m := BitVec.ofNat 32 (setBits (modeOf s).toNat (modeField f.toNat).1 (modeField f.toNat).2 i.toNat)
    setmodeValue s f i = if i.toNat < 2 ^ (modeField f.toNat).2 ∧ modeLegal m = true then some m else none := by
  simp only [setmodeValue, show ¬ 8 < f.toNat by omega, show f.toNat ≠ 8 by omega, if_false]
  split <;> simp [*]

theorem setmodeValue_whole (hf : f.toNat = 8) (hi : i.toNat < iLimit s) :
    setmodeValue s f i = if modeLegal ((iget s i.toNat).setWidth 32) = true then some ((iget s i.toNat).setWidth 32) else none := by
  have hlim : i.toNat < 128 ∧ iOk s i.toNat = true := ⟨hi.trans_le (by unfold iLimit; split <;> omega), decide_eq_true hi⟩
  simp only [setmodeValue, hf, lt_irrefl, if_false, if_true, if_pos hlim, Option.bind_some]

theorem setmodeValue_none (hf : 8 < f.toNat) : setmodeValue s f i = none := by
  simp only [setmodeValue, hf, if_true]

end

theorem modeFields : Claims.ModeFields := by
  intro nx f d i s hnx
  refine ⟨fun hf => ?field, fun hf hi => ?whole, fun hf => execSetmode_none (setmodeValue_none hf), fun hd => ?get⟩
  case field =>
    refine ⟨fun hi hm => execSetmode_some hnx ((setmodeValue_field hf).trans (if_pos ⟨hi, hm⟩)), fun h => ?_⟩
    refine execSetmode_none ((setmodeValue_field hf).trans (if_neg fun ⟨hi, hm⟩ => ?_))
    rcases h with h | h
    · omega
    · exact Bool.noConfusion (hm.symm.trans h)
  case whole =>
    exact ⟨fun hm => execSetmode_some hnx ((setmodeValue_whole hf hi).trans (if_pos hm)),
      fun hm => execSetmode_none ((setmodeValue_whole hf hi).trans (if_neg (by rw [hm]; decide)))⟩
  case get =>
    change execGetmode nx d s = _
    exact retire_next (classOk_both (by decide)) (check_eq_none.mpr (decide_eq_true hd)) (fun h => nomatch h) rfl rfl
      ((nxFault_iput nx 4 s _ _).trans hnx) rfl rfl

/-- SETMODEV in lanes of which p is the first: NONUNIFORM unless all hold what p holds, then ILLEGAL_OP unless MODE may hold it. -/
theorem execSetmodev_cons {nx : NX} {a : BitVec 7} {s : State} {p : Nat} {ps : List Nat} (h : active s = p :: ps) :
    exec (.setmodev nx a) s = retire 0x0B nx
      { early := range (vRun s a.toNat 1),
        fault := firstFx [check (ps.all (fun q => vget s a.toNat q = vget s a.toNat p)) .nonuniform, check (modeLegal (vget s a.toNat p)) .illegalOp],
        done := setMode s (vget s a.toNat p) } s := by
  change execSetmodev nx a s = _
  unfold execSetmodev
  rw [h]

theorem modeFromLanes : Claims.ModeFromLanes := by
  intro nx a s ⟨hgrp, hnx⟩ ha
  have hclass : classOk 0x0B s = true := by rw [classOk_groups (by decide), hgrp]; rfl
  have hearly : range (vRun s a.toNat 1) = none := check_eq_none.mpr (decide_eq_true (Nat.succ_le_of_lt ha))
  have hmode : ∀ m, setMode s m = setGrp s (fun g => { g with mode := m }) := fun m => if_neg (by rw [hgrp]; decide)
  cases hact : active s with
  | nil =>
    refine ⟨fun _ => ?_, fun m hne => absurd rfl hne, fun ⟨p, hp, _⟩ => nomatch hp⟩
    change execSetmodev nx a s = _
    unfold execSetmodev
    rw [hact]
    exact retire_next hclass hearly (fun h => nomatch h) rfl rfl hnx rfl rfl
  | cons p ps =>
    rw [execSetmodev_cons hact]
    refine ⟨(fun h => nomatch h), fun m _ hall => ?_, fun ⟨q, hq, r, hr, hqr⟩ => ?_⟩
    · obtain ⟨hp, huni⟩ := List.forall_mem_cons.mp hall
      subst hp
      have hsame : check (ps.all fun q => decide (vget s a.toNat q = vget s a.toNat p)) .nonuniform = none :=
        check_eq_none.mpr (List.all_eq_true.mpr fun q hq => decide_eq_true (huni q hq))
      refine ⟨fun hm => ?_, fun hm => ?_⟩
      · rw [← hmode]
        exact retire_next hclass hearly (fun h => nomatch h) rfl (by rw [hsame, hm]; rfl) ((nxFault_setMode nx 4 s _).trans hnx) rfl rfl
      · exact retire_raises hclass hearly (fun h => nomatch h) rfl (f := fx .illegalOp) (by rw [hsame, hm]; rfl) (by decide)
    · have hdiff : ps.all (fun q => decide (vget s a.toNat q = vget s a.toNat p)) = false := by
        by_contra h
        have huni : ∀ q ∈ p :: ps, vget s a.toNat q = vget s a.toNat p :=
          List.forall_mem_cons.mpr ⟨rfl, fun q hq => of_decide_eq_true (List.all_eq_true.mp ((Bool.not_eq_false _).mp h) q hq)⟩
        exact hqr ((huni q hq).trans (huni r hr).symm)
      exact retire_raises hclass hearly (fun h => nomatch h) rfl (f := fx .nonuniform) (by rw [hdiff]; rfl) (by decide)

/-! ## Traps, reserved opcodes and the wrong issuer (R168, R169, R196) -/

theorem trapsTaken : Claims.TrapsTaken := by
  intro nx code w s
  have hclass : ∀ op, classOf op = .both → classOk op s = true := fun op => classOk_both
  refine ⟨?_, fun hon => ?_, fun hoff hnx => ?_, rfl⟩
  · change execTrap nx code s = _
    exact retire_raises (hclass _ (by decide)) rfl (fun h => nomatch h) rfl rfl (fun h => nomatch h)
  · change execBrk nx code s = _
    exact retire_raises (hclass _ (by decide)) rfl (fun h => nomatch h) rfl (if_pos hon) (fun h => nomatch h)
  · change execBrk nx code s = _
    exact retire_next (hclass _ (by decide)) rfl (fun h => nomatch h) rfl (if_neg (by rw [hoff]; decide)) hnx rfl rfl

/-- Every instruction with a word, but one with a reserved opcode, retires under its opcode. -/
theorem exec_retires {i : Instr} {op : Nat} (hop : i.opcode = some op) (hr : ∀ w, i ≠ .reservedOpcode w) (s : State) :
    ∃ nx p, exec i s = retire op nx p s := by
  cases i
  case reservedOpcode w => exact absurd rfl (hr w)
  all_goals cases hop
  case nop nx => exact ⟨_, _, show execNop nx s = _ from rfl⟩
  case xj nx k o => exact ⟨_, _, show execXj nx k o s = _ from rfl⟩
  case xju nx k o => exact ⟨_, _, show execXju nx k o s = _ from rfl⟩
  case xcall nx o => exact ⟨_, _, show execXcall nx o s = _ from rfl⟩
  case xret nx => exact ⟨_, _, show execXret nx s = _ from rfl⟩
  case lpsImm nx i => exact ⟨_, _, show execLpsImm nx i s = _ from rfl⟩
  case lpsReg nx a => exact ⟨_, _, show execLpsReg nx a s = _ from rfl⟩
  case trap nx c => exact ⟨_, _, show execTrap nx c s = _ from rfl⟩
  case brk nx c => exact ⟨_, _, show execBrk nx c s = _ from rfl⟩
  case yield nx => exact ⟨_, _, show execYield nx s = _ from rfl⟩
  case sbar nx => exact ⟨_, _, show execSbar nx s = _ from rfl⟩
  case mxg nx a b c => exact ⟨_, _, show execMxg nx a b c s = _ from rfl⟩
  case bwaitImm nx i => exact ⟨_, _, show execBwaitImm nx i s = _ from rfl⟩
  case setmodev nx a =>
    change ∃ n p, execSetmodev nx a s = retire 0x0B n p s
    unfold execSetmodev
    split <;> exact ⟨_, _, rfl⟩
  all_goals exact ⟨_, _, rfl⟩

theorem wrongIssuer : Claims.WrongIssuer := by
  intro i op s hop hr hclass
  obtain ⟨nx, p, hexec⟩ := exec_retires hop hr s
  refine hexec.trans (retire_class ?_)
  rcases hclass with ⟨hc, hs⟩ | ⟨hc, hs⟩
  · rw [classOk_groups hc, hs]; rfl
  · rw [classOk_streams hc, hs]

/-! ## What taking a precise fault writes (R171, R357, R358) -/

theorem addLog_eq (s : State) (a b c d e : Nat) : ∃ x l n, addLog s a b c d e = { s with amb := x, log := l, logSeq := n } := by
  unfold addLog logPut
  dsimp only
  split
  · exact ⟨_, _, _, rfl⟩
  · split <;> exact ⟨_, s.log, s.logSeq, rfl⟩

theorem noteEcc_eq (s : State) (f : Fx) (n : Bool) : ∃ x l m, noteEcc s f n = { s with amb := x, log := l, logSeq := m } := by
  rcases noteEcc_cases s f n with h | ⟨c, x, d, h⟩
  · exact ⟨s.amb, s.log, s.logSeq, h⟩
  · exact h ▸ addLog_eq _ _ _ _ _ _

/-- A record of a context that exists: it takes the context's next number and waits in the staging store. -/
theorem pushRec_some {s : State} {k : Nat} {c : Ctx} (hc : aget s.ctxs k = some c) (g : Option Nat) (r : FRec) :
    ∃ gs, pushRec s g (some k) r = { s with grids := gs, ctxs := aput k { c with recSeq := c.recSeq + 1 } s.ctxs,
                                            staged := s.staged ++ [{ r with dest := some k, seq := c.recSeq }] } := by
  cases hg : g.bind (aget s.grids) with
  | none => exact ⟨s.grids, by simp only [pushRec, hg, Option.bind_some, hc, Option.getD_some]⟩
  | some d => exact ⟨_, by simp only [pushRec, hg, Option.bind_some, hc, Option.getD_some]; rfl⟩

/-- The state after a fault of an issuer of context c, whose record takes number c.recSeq: the split or stream is stopped. -/
def faultTaken (s : State) (f : Fx) (c : Ctx) (x : Amb) (l : List LogRec) (m : Nat) (gs : List (Nat × Grid)) : State :=
  let t := { s with amb := x, log := l, logSeq := m, grids := gs, fresh := s.fresh + 1,
                    ctxs := aput s.gang.ctx { c with recSeq := c.recSeq + 1 } s.ctxs,
                    staged := s.staged ++ [{ issuerRec s f none with dest := some s.gang.ctx, seq := c.recSeq }] }
  if isStream s then setStrm t (fun y => { y with stop := some (c.recSeq, f.cause), hold := .none, guard := none })
  else setSplit t (fun y => { y with stop := some (c.recSeq, f.cause), hold := .none })

theorem raise_eq_faultTaken {s : State} {f : Fx} {c : Ctx} (hc : aget s.ctxs s.gang.ctx = some c)
    (hroom : stagedFull s (dieOfCore s.crew.core) = false) : ∃ x l m gs, raise s f = faultTaken s f c x l m gs := by
  obtain ⟨x, l, m, hn⟩ := noteEcc_eq s f (decide (f.src ≠ 10))
  obtain ⟨gs, hp⟩ := pushRec_some (s := { s with amb := x, log := l, logSeq := m }) hc (some s.gang.grid) (issuerRec s f none)
  have hseq : nextSeq s s.gang.ctx = c.recSeq := by rw [nextSeq, hc]
  refine ⟨x, l, m, gs, ?_⟩
  rw [raise, hroom, if_neg (by decide), raiseNow]
  rw [hn, hp, hseq]
  rfl

/-- Taking a fault leaves the pc, MODE, the units of the crew and the host registers, and advances its context's record number. -/
theorem faultTaken_frame (s : State) (f : Fx) (c : Ctx) (x : Amb) (l : List LogRec) (m : Nat) (gs : List (Nat × Grid)) :
    let t := faultTaken s f c x l m gs
    pcOf t = pcOf s ∧ modeOf t = modeOf s ∧ unitsSame s t ∧ (aget t.ctxs s.gang.ctx).map (fun x => x.recSeq) = some (c.recSeq + 1) := by
  have hseq : (aget (aput s.gang.ctx { c with recSeq := c.recSeq + 1 } s.ctxs) s.gang.ctx).map (fun x => x.recSeq) = some (c.recSeq + 1) := by
    rw [aget_aput_self]
    rfl
  unfold faultTaken
  cases isStream s <;> exact ⟨rfl, rfl, ⟨rfl, rfl, rfl, rfl, rfl, rfl⟩, hseq⟩

theorem faultEntry : Claims.FaultEntry := by
  intro s f c hc t
  refine ⟨fun hfull => if_pos hfull, fun hroom => ?_⟩
  obtain ⟨x, l, m, gs, ht⟩ := raise_eq_faultTaken (f := f) hc hroom
  have hbytes : bytesSame s t := bytesSame_of_held (raise_held s f)
  have hgrp : t.grp = s.grp := raise_grp s f
  have haddr : f.src ≠ 10 ∨ f.addr ≠ 0 → recAddr s f = BitVec.ofNat 64 f.addr := fun h => if_neg fun ⟨hsrc, haddr⟩ => h.elim (· hsrc) (· haddr)
  change t = _ at ht
  have hrec : t.staged = s.staged ++ [{ issuerRec s f none with dest := some s.gang.ctx, seq := c.recSeq }] := by
    rw [ht]; unfold faultTaken; dsimp only; split <;> rfl
  obtain ⟨hpc, hmode, hunits, hseq⟩ := faultTaken_frame s f c x l m gs
  rw [← ht] at hpc hmode hunits hseq
  refine ⟨⟨_, hrec, rfl, rfl, rfl, rfl, rfl, rfl, rfl, rfl, rfl, rfl, rfl, haddr⟩, fun hs => ?_, fun hs => ?_, hpc, hmode, hgrp, hbytes, hunits, hseq⟩
  · rw [ht, faultTaken, hs, if_pos rfl]
    exact ⟨rfl, rfl, rfl⟩
  · rw [ht, faultTaken, hs, if_neg (by decide)]
    exact ⟨rfl, rfl⟩

/-! ## Residue mismatches and damaged units (R172, R413, R420) -/

/-- What the destinations of an instruction, left undefined, are no part of: the record, and the end of its split. -/
def State.ended (s : State) : List FRec × Option (Nat × Cause) × Hold := (s.staged, s.split.stop, s.split.hold)

/-- An operand left undefined is a register of the issuer. -/
theorem spoilOpd_keeps {β : Type} (p : State → β) (hgrp : ∀ s g, p { s with grp := g } = p s) (hcrew : ∀ s c, p { s with crew := c } = p s)
    (hfresh : ∀ s n, p { s with fresh := n } = p s) (s : State) (o : Opd) : p (spoilOpd s o) = p s := by
  cases o with
  | v r ps => exact (hfresh _ _).trans (foldl_keeps p _ (fun s x => hgrp s _) _ _)
  | s r => exact (hfresh _ _).trans (hgrp s _)
  | e r => exact (hfresh _ _).trans (hcrew s _)
  | k n => exact (hfresh _ _).trans (foldl_keeps p _ (fun s x => hgrp s _) _ _)
  | bad => rfl

theorem sget_spoilOpd {s : State} {r : Nat} {o : Opd} (h : o ≠ .s r) : sget (spoilOpd s o) r = sget s r := by
  cases o with
  | v q ps => exact foldl_keeps (sget · r) (fun s p => vput s q p (Config.freeBits 32 s.fresh (32 * q + p))) (fun s x => rfl) ps s
  | s q => exact (sget_sput s q r _).trans (if_neg fun hq => h (by rw [hq]))
  | e q => rfl
  | k n => exact foldl_keeps (sget · r) (fun s p => kput s n p ((Config.freeBits 32 s.fresh n).getLsbD p)) (fun s x => rfl) (active s) s
  | bad => rfl

theorem vget_spoilOpd {s : State} {r p : Nat} {o : Opd} (hp : p < 32) (h : ∀ q ps, o = .v q ps → p ∈ ps → q ≠ r)
    (hlane : ∀ q ps, o = .v q ps → ∀ x ∈ ps, x < 32) : vget (spoilOpd s o) r p = vget s r p := by
  cases o with
  | v q ps =>
    refine List.foldlRecOn ps _ (motive := fun t => vget t r p = vget s r p) rfl fun t ht x hx => ?_
    have hx32 : x < 32 := hlane q ps rfl x hx
    have hqr : p = x → q ≠ r := fun hpx => h q ps rfl (hpx ▸ hx)
    exact ((vget_vput _ _ _ _ _ _).trans (if_neg (by omega))).trans ht
  | s q => rfl
  | e q => rfl
  | k n => exact foldl_keeps (vget · r p) (fun s p => kput s n p ((Config.freeBits 32 s.fresh n).getLsbD p)) (fun s x => rfl) (active s) s
  | bad => rfl

/-- What is left of a split that ended, beside memory, with its group's registers. -/
def State.settled (s : State) : Store 8 × (List FRec × Option (Nat × Cause) × Hold) × Store 64 × Store 32 :=
  (s.mem, s.ended, s.grp.s, s.grp.v)

theorem spoilMode_settled (s : State) : (spoilMode s).settled = s.settled := by
  unfold spoilMode setMode
  dsimp only
  split
  · split <;> rfl
  · rfl

theorem spoilSel_settled (s : State) (sel : Nat) : (spoilSel s sel).settled = s.settled := by
  unfold spoilSel swrPut setLs setLc
  dsimp only
  split
  · split
    · split <;> rfl
    · split
      · split <;> rfl
      · split <;> rfl
  · rfl

theorem mend_settled (s : State) (l : Loc) : (mend s l).settled = s.settled := by
  unfold mend
  split <;> split <;> rfl

theorem spoilTail_settled (s : State) (a : BitVec 7) : (spoilTail s a).settled = s.settled := by
  unfold spoilTail
  split
  · rfl
  · exact foldl_keeps State.settled _ (fun s x => mend_settled s _) _ _

/-- What an instruction writes beside registers and memory is neither, and no part of its fault. -/
theorem spoilSpecial_settled (s : State) (i : Instr) : (spoilSpecial s i).settled = s.settled := by
  have htok : ∀ n t, (tput s n t).freshen.settled = s.settled := fun n t => by unfold tput; split <;> rfl
  unfold spoilSpecial
  split
  · exact spoilMode_settled s
  · exact spoilMode_settled s
  · exact (spoilSel_settled _ _).trans (spoilSel_settled _ _)
  · exact (spoilSel_settled _ _).trans (spoilSel_settled _ _)
  · exact spoilSel_settled _ _
  · split
    · exact spoilSel_settled _ _
    · split
      · exact spoilSel_settled _ _
      · split
        · exact spoilSel_settled _ _
        · rfl
  · rfl
  · rfl
  · exact htok _ _
  · exact htok _ _
  · exact htok _ _
  · exact htok _ _
  · rfl
  · rfl
  · rfl
  · exact spoilTail_settled s _
  · rfl

theorem spoilMem_unwritten (s : State) (ws : List LaneAcc) : (spoilMem s ws).unwritten = (s.freshen).unwritten :=
  (storeAll_unwritten _ _).trans (congrArg State.freshen (drainAcc_unwritten s ws .write))

/-- Undefined contents of memory are neither the record, nor the end of the split, nor registers. -/
theorem spoilMem_keeps (s : State) (ws : List LaneAcc) : (spoilMem s ws).ended = s.ended ∧ (spoilMem s ws).grp = s.grp :=
  have h := spoilMem_unwritten s ws
  ⟨(congrArg State.ended h :), (congrArg State.grp h :)⟩

/-- The fault of a mismatch, before the destinations are left undefined: with room, one record is staged and the split ends. -/
theorem pushRec_staged (s : State) (g c : Option Nat) (r : FRec) : ∃ q, (pushRec s g c r).staged = s.staged ++ [q] ∧ q.cause = r.cause := by
  unfold pushRec
  dsimp only
  split <;> split <;> exact ⟨_, rfl, rfl⟩

theorem noteEcc_stalled (s : State) (f : Fx) (n : Bool) : (noteEcc s f n).stalled = s.stalled ∧ (noteEcc s f n).staged = s.staged := by
  obtain ⟨x, l, m, h⟩ := noteEcc_eq s f n
  rw [h]
  exact ⟨rfl, rfl⟩

theorem pushRec_stalled (s : State) (g c : Option Nat) (r : FRec) : (pushRec s g c r).stalled = s.stalled := by
  unfold pushRec
  dsimp only
  split <;> split <;> rfl

theorem raise_room {s : State} (f : Fx) (hroom : stagedFull s (dieOfCore s.crew.core) = false) : raise s f = raiseNow s f := by
  rw [raise, hroom, if_neg (by decide)]

/-- The fault that is taken at once, but for the issuer that it stops. -/
theorem raiseNow_eq (s : State) (f : Fx) : ∃ c sp,
    raiseNow s f = { (pushRec (noteEcc s f (f.src ≠ 10)) (some s.gang.grid) (some s.gang.ctx) (issuerRec s f none)).freshen with crew := c, split := sp } := by
  unfold raiseNow
  dsimp only
  split
  · exact ⟨_, _, rfl⟩
  · exact ⟨_, _, rfl⟩

theorem raiseNow_stalled (s : State) (f : Fx) : (raiseNow s f).stalled = s.stalled := by
  obtain ⟨c, sp, h⟩ := raiseNow_eq s f
  rw [h]
  exact (pushRec_stalled _ _ _ _).trans (noteEcc_stalled s f _).1

theorem raiseNow_staged (s : State) (f : Fx) : ∃ q, (raiseNow s f).staged = s.staged ++ [q] ∧ q.cause = f.cause := by
  obtain ⟨q, hq, hc⟩ := pushRec_staged (noteEcc s f (f.src ≠ 10)) (some s.gang.grid) (some s.gang.ctx) (issuerRec s f none)
  rw [(noteEcc_stalled s f _).2] at hq
  obtain ⟨c, sp, h⟩ := raiseNow_eq s f
  rw [h]
  exact ⟨q, hq, hc⟩

theorem raiseNow_ends {s : State} (f : Fx) (hs : isStream s = false) :
    (raiseNow s f).split.stop = some (nextSeq s s.gang.ctx, f.cause) ∧ (raiseNow s f).split.hold = .none := by
  unfold raiseNow
  dsimp only
  rw [hs, if_neg (by decide)]
  exact ⟨rfl, rfl⟩

/-- What a mismatch leaves undefined after the fault: registers, then memory, then the rest. -/
def spoilDests (s t : State) (i : Instr) : State :=
  let u := (uses s i).writes.foldl spoilOpd t
  spoilSpecial (if storeAccs s i = [] then u else spoilMem u (storeAccs s i)) i

theorem residueFault_room {s : State} {i : Instr} (hs : s.stalled = false) (hroom : stagedFull s (dieOfCore s.crew.core) = false) :
    residueFault s i = spoilDests s (raiseNow s (fx .residue)) i := by
  rw [residueFault, raise_room _ hroom]
  dsimp only
  rw [raiseNow_stalled, hs, if_neg (by decide)]
  rfl

theorem spoilDests_ended (s t : State) (i : Instr) : (spoilDests s t i).ended = t.ended := by
  have hopds : ((uses s i).writes.foldl spoilOpd t).ended = t.ended :=
    foldl_keeps State.ended _ (spoilOpd_keeps State.ended (fun _ _ => rfl) (fun _ _ => rfl) (fun _ _ => rfl)) _ _
  have hset : ∀ u, (spoilSpecial u i).ended = u.ended := fun u => congrArg (·.2.1) (spoilSpecial_settled u i)
  unfold spoilDests
  dsimp only
  refine (hset _).trans ?_
  split
  · exact hopds
  · exact (spoilMem_keeps _ _).1.trans hopds

/-- Registers of the group after a mismatch are what the operands' writes left. -/
theorem spoilDests_regs (s t : State) (i : Instr) :
    (spoilDests s t i).grp.s = ((uses s i).writes.foldl spoilOpd t).grp.s ∧ (spoilDests s t i).grp.v = ((uses s i).writes.foldl spoilOpd t).grp.v := by
  have hset : ∀ u, (spoilSpecial u i).grp.s = u.grp.s ∧ (spoilSpecial u i).grp.v = u.grp.v := fun u =>
    ⟨congrArg (·.2.2.1) (spoilSpecial_settled u i), congrArg (·.2.2.2) (spoilSpecial_settled u i)⟩
  unfold spoilDests
  dsimp only
  rw [(hset _).1, (hset _).2]
  split
  · exact ⟨rfl, rfl⟩
  · rw [(spoilMem_keeps _ _).2]
    exact ⟨rfl, rfl⟩

theorem spoilDests_mem {s t : State} {i : Instr} (h : storeAccs s i = []) : (spoilDests s t i).mem = t.mem := by
  have hopds : ((uses s i).writes.foldl spoilOpd t).mem = t.mem :=
    foldl_keeps State.mem _ (spoilOpd_keeps State.mem (fun _ _ => rfl) (fun _ _ => rfl) (fun _ _ => rfl)) _ _
  unfold spoilDests
  dsimp only
  rw [if_pos h]
  exact (congrArg (·.1) (spoilSpecial_settled _ i)).trans hopds

theorem sget_spoilDests {s t : State} {i : Instr} {r : Nat} (h : .s r ∉ (uses s i).writes) : sget (spoilDests s t i) r = sget t r := by
  refine (congrArg (·.get r) (spoilDests_regs s t i).1).trans ?_
  exact List.foldlRecOn _ _ (motive := fun u => sget u r = sget t r) rfl fun u hu o ho => (sget_spoilOpd fun heq => h (heq ▸ ho)).trans hu

theorem vget_spoilDests {s t : State} {i : Instr} {r p : Nat} (hp : p < 32)
    (h : ∀ q ps, .v q ps ∈ (uses s i).writes → p ∈ ps → q ≠ r) (hlane : ∀ q ps, .v q ps ∈ (uses s i).writes → ∀ x ∈ ps, x < 32) :
    vget (spoilDests s t i) r p = vget t r p := by
  refine (congrArg (·.get (32 * r + p)) (spoilDests_regs s t i).2).trans ?_
  exact List.foldlRecOn _ _ (motive := fun u => vget u r p = vget t r p) rfl fun u hu o ho =>
    (vget_spoilOpd hp (fun q ps heq => h q ps (heq ▸ ho)) (fun q ps heq => hlane q ps (heq ▸ ho))).trans hu

/-- An error in a unit that lives, but a spawn record's, damages that unit (R420). -/
theorem upsetCell_damage {s : State} {c : Cell} (hc : ∀ g k ix q, c ≠ .spawn g k ix q) (hl : c.lives s = true) : upsetCell s c = damage s c := by
  unfold upsetCell
  split
  · exact absurd rfl (hc _ _ _ _)
  · exact if_pos hl

theorem mem_damaged_damage (s : State) (c : Cell) : c ∈ (damage s c).damaged := by
  unfold damage
  dsimp only
  split
  · exact List.contains_iff_mem.mp ‹_›
  · exact List.mem_cons_self

theorem residueAndDamage : Claims.ResidueAndDamage := by
  intro s i hs hroom t
  have ht : t = spoilDests s (raiseNow s (fx .residue)) i := residueFault_room hs hroom
  have hgrp : (raiseNow s (fx .residue)).grp = s.grp := raise_room _ hroom ▸ raise_grp s _
  have hended := spoilDests_ended s (raiseNow s (fx .residue)) i
  rw [ht]
  refine ⟨fun h => (spoilDests_mem h).trans (raiseNow_mem s _), ?_, fun hg => ⟨?_, ?_, fun r hr => ?_, fun r p hp hw hlane => ?_⟩,
    fun c hc hl => ⟨_, congrArg Host.Outcome.next (upsetCell_damage hc hl), mem_damaged_damage s c, rfl, rfl⟩, fun k => rfl⟩
  · rw [show (spoilDests s _ i).staged = _ from congrArg (·.1) hended]
    exact raiseNow_staged s _
  · exact (congrArg (·.2.1) hended).trans (raiseNow_ends _ hg).1
  · exact (congrArg (·.2.2) hended).trans (raiseNow_ends (fx .residue) hg).2
  · exact (sget_spoilDests hr).trans (congrArg (·.s.get r) hgrp)
  · exact (vget_spoilDests hp hw hlane).trans (congrArg (·.v.get (32 * r + p)) hgrp)

end Sys2Proof.Machine

namespace Sys2Proof

open Machine in
/-- Settles O8: each write of MODE, trap and fault by the branch that its checks select; a fault by the one record it stages, and a mismatch by
what the writes of its operands spare. -/
theorem modeTrapsAndFaultEntry : Obligations.ModeTrapsAndFaultEntry :=
  ⟨modeFields, modeFromLanes, trapsTaken, wrongIssuer, faultEntry, residueAndDamage⟩

end Sys2Proof
end
section
/-! PROOFS. What the steps keep: the canonical form of memory, and each MODE legal (R163). The two are kept by the same operations for the same
reason: an operation that writes neither keeps both, and few write either. `Aspect` says which of the two a statement is about. -/
namespace Sys2Proof.Machine

/-- What is kept: the form of memory, or the legality of each MODE. -/
inductive Aspect where
  | form
  | modes

section
variable (κ : Aspect)

/-- Memory is in its canonical form, where that is what is kept. -/
def Aspect.store (m : Store 8) : Prop := κ = .form → m.wf = true

/-- MODE may hold the value (R163), where that is what is kept. -/
def Aspect.mode (m : BitVec 32) : Prop := κ = .modes → modeLegal m = true

structure Capture.Sound (c : Capture) : Prop where
  mode : κ.mode c.mode

/-- Of an operation's answer, if it has one. -/
def IfSome {α : Type} (P : α → Prop) (o : Option α) : Prop := ∀ x, o = some x → P x

/-- Of a failure that an operation answers instead of a value. -/
def IfLeft {α β : Type} (P : α → Prop) (o : α ⊕ β) : Prop := ∀ x, o = .inl x → P x

/-- Of each element of a list. -/
def Each {α : Type} (P : α → Prop) (l : List α) : Prop := ∀ x ∈ l, P x

/-- Of each value of a finite map. -/
def Values {α : Type} (P : α → Prop) (l : List (Nat × α)) : Prop := ∀ x ∈ l, P x.2

structure Split.Sound (x : Split) : Prop where
  cap : IfSome (Capture.Sound κ) x.cap

structure Group.Sound (g : Group) : Prop where
  mode : κ.mode g.mode
  splits : Each (Split.Sound κ) g.splits

structure Stream.Sound (x : Stream) : Prop where
  mode : κ.mode x.mode

structure SpawnRec.Sound (r : SpawnRec) : Prop where
  mode : κ.mode r.mode

structure RecClass.Sound (k : RecClass) : Prop where
  mode : κ.mode k.mode

structure Crew.Sound (c : Crew) : Prop where
  strm : c.strm.Sound κ
  groups : Values (Group.Sound κ) c.groups
  recs : Each (SpawnRec.Sound κ) c.recs
  flush : Each (RecClass.Sound κ) c.flush

structure Gang.Sound (g : Gang) : Prop where
  crews : Values (Crew.Sound κ) g.crews

structure Ctx.Sound (c : Ctx) : Prop where
  image : Values (Gang.Sound κ) c.image

/-- Of the fields of a state that hold memory or a MODE. -/
structure Fields (mem : Store 8) (gangs : List (Nat × Gang)) (ctxs : List (Nat × Ctx)) (gang : Gang) (crew : Crew) (grp : Group) (split : Split) :
    Prop where
  mem : κ.store mem
  gangs : Values (Gang.Sound κ) gangs
  ctxs : Values (Ctx.Sound κ) ctxs
  gang : gang.Sound κ
  crew : crew.Sound κ
  grp : grp.Sound κ
  split : split.Sound κ

/-- A state that keeps the aspect. The fields that hold neither memory nor a MODE are no part of it. -/
def State.Sound (s : State) : Prop := Fields κ s.mem s.gangs s.ctxs s.gang s.crew s.grp s.split

structure Plan.Sound (p : Plan) : Prop where
  wait : IfSome (State.Sound κ) p.wait
  done : p.done.Sound κ
  post : ∀ t, t.Sound κ → (p.post t).Sound κ

/-- Of the state that an outcome brings. -/
def Out.Sound : Out → Prop
  | .next t => t.Sound κ
  | _ => True

/-- Of the state that the work of an item leaves. -/
def ItemRes.Sound : ItemRes → Prop
  | .ok s => s.Sound κ
  | .fail _ _ _ _ s => s.Sound κ
  | _ => True

end

section
variable {κ : Aspect} {m m' : Store 8} {gs gs' : List (Nat × Gang)} {cs cs' : List (Nat × Ctx)} {g g' : Gang} {c c' : Crew} {gr gr' : Group}
    {sp sp' : Split}
theorem Fields.withMem (h : Fields κ m gs cs g c gr sp) (x : κ.store m') : Fields κ m' gs cs g c gr sp := { h with mem := x }
theorem Fields.withGangs (h : Fields κ m gs cs g c gr sp) (x : Values (Gang.Sound κ) gs') : Fields κ m gs' cs g c gr sp := { h with gangs := x }
theorem Fields.withCtxs (h : Fields κ m gs cs g c gr sp) (x : Values (Ctx.Sound κ) cs') : Fields κ m gs cs' g c gr sp := { h with ctxs := x }
theorem Fields.withGang (h : Fields κ m gs cs g c gr sp) (x : g'.Sound κ) : Fields κ m gs cs g' c gr sp := { h with gang := x }
theorem Fields.withCrew (h : Fields κ m gs cs g c gr sp) (x : c'.Sound κ) : Fields κ m gs cs g c' gr sp := { h with crew := x }
theorem Fields.withGrp (h : Fields κ m gs cs g c gr sp) (x : gr'.Sound κ) : Fields κ m gs cs g c gr' sp := { h with grp := x }
theorem Fields.withSplit (h : Fields κ m gs cs g c gr sp) (x : sp'.Sound κ) : Fields κ m gs cs g c gr sp' := { h with split := x }
end

section
variable {κ : Aspect}

theorem Aspect.mode_zero : κ.mode 0 := fun _ => rfl

theorem zoneTag_append_isSome (a b : List (Nat × Nat × Nat)) (k : Nat) :
    (zoneTag (a ++ b) k).isSome = ((zoneTag a k).isSome || (zoneTag b k).isSome) := by
  induction a with
  | nil => rfl
  | cons z r ih =>
    simp only [List.cons_append, zoneTag]
    split
    · rfl
    · exact ih

/-- A table halved has zones where it had them. -/
theorem zoneTag_halve {w : Nat} (m : Store w) (lo hi k : Nat) : (zoneTag (m.halve lo hi).zones k).isSome = (zoneTag m.zones k).isSome := by
  unfold Store.halve
  dsimp only
  induction m.zones with
  | nil => rfl
  | cons z r ih =>
    obtain ⟨a, b, n⟩ := z
    rw [List.flatMap_cons, zoneTag_append_isSome, ih, show (a, b, n) :: r = [(a, b, n)] ++ r from rfl, zoneTag_append_isSome]
    congr 1
    split
    · rfl
    · next hc =>
      have hlo : ¬(b ≤ lo ∨ hi ≤ a) := hc
      simp only [zoneTag]
      split
      · split
        · rfl
        · omega
      · split
        · split
          · rfl
          · omega
        · split
          · split
            · rfl
            · omega
          · split
            · omega
            · rfl

theorem Store.halve_wf {w : Nat} (m : Store w) (lo hi : Nat) (h : m.wf = true) : (m.halve lo hi).wf = true := by
  have hcells : (m.halve lo hi).cells = m.cells := rfl
  unfold Store.wf at h ⊢
  simp only [zoneTag_halve, hcells]
  exact h

section
variable {m : Store 8}
theorem Aspect.store_empty : κ.store (.empty 8) := fun _ => Store.empty_wf 8
theorem Aspect.store_put {k : Nat} {v : BitVec 8} (h : κ.store m) : κ.store (m.put k v) := fun e => Store.put_wf m k v (h e)
theorem Aspect.store_memPut {n k v : Nat} (h : κ.store m) : κ.store (memPut m n k v) := fun e => memPut_wf n k v m (h e)
theorem Aspect.store_memPutBytes {k : Nat} {bs : List (BitVec 8)} (h : κ.store m) :
    κ.store (memPutBytes m k bs) := fun e => memPutBytes_wf k bs m (h e)
theorem Aspect.store_spoil {lo hi n : Nat} (h : κ.store m) : κ.store (m.spoil lo hi n) := fun e => Store.spoil_wf m lo hi n (h e)
theorem Aspect.store_halve {lo hi : Nat} (h : κ.store m) : κ.store (m.halve lo hi) := fun e => Store.halve_wf m lo hi (h e)
end

/-! ### Answers, lists and finite maps -/

section
variable {α β : Type} {P : α → Prop} {Q : β → Prop}

theorem sound_ite {c : Prop} [Decidable c] {x y : α} (hx : P x) (hy : P y) : P (if c then x else y) := by
  split
  · exact hx
  · exact hy

theorem IfSome.none : IfSome P none := nofun
theorem IfSome.some {x : α} (h : P x) : IfSome P (some x) := fun _ hy => Option.some.inj hy ▸ h
theorem IfSome.get {o : Option α} {x : α} (e : o = .some x) (h : IfSome P o) : P x := h x e
theorem IfLeft.inl {x : α} (h : P x) : IfLeft P (.inl x : α ⊕ β) := fun _ hy => Sum.inl.inj hy ▸ h
theorem IfLeft.inr {y : β} : IfLeft P (.inr y : α ⊕ β) := nofun
theorem IfLeft.get {o : α ⊕ β} {x : α} (e : o = .inl x) (h : IfLeft P o) : P x := h x e
theorem IfSome.map {o : Option α} {f : α → β} (h : IfSome P o) (hf : ∀ x, P x → Q (f x)) : IfSome Q (o.map f) := by
  cases o with
  | none => exact IfSome.none
  | some x => exact .some (hf x (h x rfl))
theorem IfSome.bind {o : Option α} {f : α → Option β} (h : IfSome P o) (hf : ∀ x, P x → IfSome Q (f x)) : IfSome Q (o.bind f) := by
  cases o with
  | none => exact IfSome.none
  | some x => exact hf x (h x rfl)
theorem IfSome.bind_of {o : Option α} {f : α → Option β} (hf : ∀ x, IfSome Q (f x)) : IfSome Q (o.bind f) := by
  cases o with
  | none => exact IfSome.none
  | some x => exact hf x
theorem IfSome.map_of {o : Option α} {f : α → β} (hf : ∀ x, Q (f x)) : IfSome Q (o.map f) := by
  cases o with
  | none => exact IfSome.none
  | some x => exact .some (hf x)
theorem IfSome.getD {o : Option α} {d : α} (h : IfSome P o) (hd : P d) : P (o.getD d) := by
  cases o with
  | none => exact hd
  | some x => exact h x rfl

theorem Each.nil : Each P [] := nofun
theorem Each.cons {x : α} {l : List α} (hx : P x) (h : Each P l) : Each P (x :: l) := List.forall_mem_cons.mpr ⟨hx, h⟩
theorem Each.append {l r : List α} (hl : Each P l) (hr : Each P r) : Each P (l ++ r) := List.forall_mem_append.mpr ⟨hl, hr⟩
theorem Each.filter {l : List α} {p : α → Bool} (h : Each P l) : Each P (l.filter p) := fun x hx => h x (List.mem_of_mem_filter hx)
theorem Each.eraseDups [BEq α] [LawfulBEq α] {l : List α} (h : Each P l) : Each P l.eraseDups := fun x hx => h x (List.mem_eraseDups.mp hx)
theorem Each.take {l : List α} {n : Nat} (h : Each P l) : Each P (l.take n) := fun x hx => h x (List.mem_of_mem_take hx)
theorem Each.eraseIdx {l : List α} {n : Nat} (h : Each P l) : Each P (l.eraseIdx n) := fun x hx => h x (List.mem_of_mem_eraseIdx hx)
theorem Each.map {l : List α} {f : α → β} (h : Each P l) (hf : ∀ x, P x → Q (f x)) :
    Each Q (l.map f) := List.forall_mem_map.mpr fun x hx => hf x (h x hx)
theorem Each.map_of {l : List α} {f : α → β} (hf : ∀ x, Q (f x)) : Each Q (l.map f) := List.forall_mem_map.mpr fun x _ => hf x
theorem Each.getElem? {l : List α} {n : Nat} (h : Each P l) : IfSome P l[n]? := fun x hx => h x (List.mem_of_getElem? hx)
theorem Each.find? {l : List α} {p : α → Bool} (h : Each P l) : IfSome P (l.find? p) := fun x hx => h x (List.mem_of_find?_eq_some hx)
theorem Each.flatMap {l : List α} {f : α → List β} (h : Each P l) (hf : ∀ x, P x → Each Q (f x)) : Each Q (l.flatMap f) := fun y hy => by
  obtain ⟨x, hx, hxy⟩ := List.mem_flatMap.mp hy
  exact hf x (h x hx) y hxy
theorem Each.flatMap_of {l : List α} {f : α → List β} (hf : ∀ x, Each Q (f x)) : Each Q (l.flatMap f) := fun y hy => by
  obtain ⟨x, _, hxy⟩ := List.mem_flatMap.mp hy
  exact hf x y hxy
theorem Each.zipIdx {l : List α} {n : Nat} (h : Each P l) : Each (fun x => P x.1) (l.zipIdx n) := fun x hx => h x.1 (List.fst_mem_of_mem_zipIdx hx)
theorem Each.sortBy {key : α → Nat} {l : List α} (h : Each P l) : Each P (sortBy key l) := fun x hx => h x (mem_sortBy hx)
theorem Each.head {l r : List α} {x : α} (h : Each P l) (hl : l = x :: r) : P x := h x (hl ▸ List.mem_cons_self)
theorem Each.tail {l r : List α} {x : α} (h : Each P l) (hl : l = x :: r) : Each P r := fun y hy => h y (hl ▸ List.mem_cons_of_mem x hy)


/-- A fold over a list keeps what each of its steps keeps. -/
theorem foldl_sound {f : β → α → β} {l : List α} {b : β} (h : Q b) (hf : ∀ b x, Q b → Q (f b x)) : Q (l.foldl f b) := by
  induction l generalizing b with
  | nil => exact h
  | cons x r ih => exact ih (hf b x h)

theorem foldl_sound_each {f : β → α → β} {l : List α} {b : β} (hl : Each P l) (h : Q b) (hf : ∀ b x, P x → Q b → Q (f b x)) : Q (l.foldl f b) := by
  induction l generalizing b with
  | nil => exact h
  | cons x r ih => exact ih (hl.tail rfl) (hf b x (hl.head rfl) h)

theorem foldr_sound_each {f : α → β → β} {l : List α} {b : β} (hl : Each P l) (h : Q b) (hf : ∀ x b, P x → Q b → Q (f x b)) : Q (l.foldr f b) := by
  induction l with
  | nil => exact h
  | cons x r ih => exact hf x _ (hl.head rfl) (ih (hl.tail rfl))

theorem Values.nil : Values P [] := nofun
theorem Values.cons {x : Nat × α} {l : List (Nat × α)} (hx : P x.2) (h : Values P l) : Values P (x :: l) := List.forall_mem_cons.mpr ⟨hx, h⟩
theorem Values.append {l r : List (Nat × α)} (hl : Values P l) (hr : Values P r) : Values P (l ++ r) := List.forall_mem_append.mpr ⟨hl, hr⟩
theorem Values.filter {l : List (Nat × α)} {p : Nat × α → Bool} (h : Values P l) :
    Values P (l.filter p) := fun x hx => h x (List.mem_of_mem_filter hx)
theorem Values.find? {l : List (Nat × α)} {p : Nat × α → Bool} (h : Values P l) : IfSome (fun x => P x.2) (l.find? p) := Each.find? h
theorem Values.sortBy {key : Nat × α → Nat} {l : List (Nat × α)} (h : Values P l) : Values P (sortBy key l) := Each.sortBy h
theorem Values.findSome? {γ : Type} {S : γ → Prop} {l : List (Nat × α)} {f : Nat × α → Option γ} (h : Values P l)
    (hf : ∀ x, P x.2 → IfSome S (f x)) : IfSome S (l.findSome? f) := fun y hy => by
  obtain ⟨x, hx, hxy⟩ := List.exists_of_findSome?_eq_some hy
  exact hf x (h x hx) y hxy
theorem Values.flatMap {γ : Type} {S : γ → Prop} {l : List (Nat × α)} {f : Nat × α → List (Nat × γ)} (h : Values P l)
    (hf : ∀ x, P x.2 → Values S (f x)) : Values S (l.flatMap f) := Each.flatMap (P := fun x : Nat × α => P x.2) (Q := fun x : Nat × γ => S x.2) h hf
theorem Values.head_of {l r : List (Nat × α)} {k : Nat} {v : α} (hl : l = (k, v) :: r) (h : Values P l) : P v := h (k, v) (hl ▸ List.mem_cons_self)
theorem Values.map {γ : Type} {S : γ → Prop} {l : List (Nat × α)} {f : Nat × α → Nat × γ} (h : Values P l) (hf : ∀ x, P x.2 → S (f x).2) :
    Values S (l.map f) :=
  List.forall_mem_map.mpr fun x hx => hf x (h x hx)
theorem Values.map_of {γ δ : Type} {S : γ → Prop} {l : List δ} {f : δ → Nat × γ} (hf : ∀ x, S (f x).2) : Values S (l.map f) :=
  List.forall_mem_map.mpr fun x _ => hf x
theorem Values.aget {l : List (Nat × α)} {k : Nat} (h : Values P l) : IfSome P (aget l k) := by
  induction l with
  | nil => exact IfSome.none
  | cons y r ih =>
    obtain ⟨hy, hr⟩ := List.forall_mem_cons.mp h
    unfold Machine.aget
    exact sound_ite (.some hy) (ih hr)
theorem Values.adel {l : List (Nat × α)} {k : Nat} (h : Values P l) : Values P (adel k l) := by
  induction l with
  | nil => exact Values.nil
  | cons y r ih =>
    obtain ⟨hy, hr⟩ := List.forall_mem_cons.mp h
    unfold Machine.adel
    exact sound_ite (ih hr) (.cons hy (ih hr))
theorem Values.aput {l : List (Nat × α)} {k : Nat} {v : α} (h : Values P l) (hv : P v) : Values P (aput k v l) := by
  induction l with
  | nil => exact .cons hv .nil
  | cons y r ih =>
    obtain ⟨hy, hr⟩ := List.forall_mem_cons.mp h
    unfold Machine.aput
    exact sound_ite (.cons hv hr) (sound_ite (.cons hv h) (.cons hy (ih hr)))

theorem sound_fst {p : α × β} {x : α} {y : β} (hp : p = (x, y)) (h : P p.1) : P x := by subst hp; exact h
theorem sound_snd {p : α × β} {x : α} {y : β} (hp : p = (x, y)) (h : Q p.2) : Q y := by subst hp; exact h

end

/-! ### States, outcomes and plans -/

theorem State.sound_mk {clock mem dirty bad damaged sealed regs ctxs cmd grids nextGrid gangs nextGang cores clusters lines tlb ptrs tlbi staged
    owed pageWaits nextRid devSeq devPut devSig qsig msi overflow forms heat cmpRun fullSince keys keyRun dark darkening trip0 stackTj boostAt
    ambTime stage links amb log logSeq corrected bootNo fuseC revoked keyDigests pkgId uds sensors excur reply mbdata naks failedCl shutPorts
    visible dogs stalled halted nextReq nextItem accStamp fresh agenda ev cur gid gang crew grp split} (h : Fields κ mem gangs ctxs gang crew grp
    split) :
    State.Sound κ ⟨clock, mem, dirty, bad, damaged, sealed, regs, ctxs, cmd, grids, nextGrid, gangs, nextGang, cores, clusters, lines, tlb, ptrs,
        tlbi,
      staged, owed, pageWaits, nextRid, devSeq, devPut, devSig, qsig, msi, overflow, forms, heat, cmpRun, fullSince, keys, keyRun, dark,
      darkening, trip0, stackTj, boostAt, ambTime, stage, links, amb, log, logSeq, corrected, bootNo, fuseC, revoked, keyDigests, pkgId,
      uds, sensors, excur, reply, mbdata, naks, failedCl, shutPorts, visible, dogs, stalled, halted, nextReq, nextItem, accStamp, fresh,
      agenda, ev, cur, gid, gang, crew, grp, split⟩ := h

variable {s t : State}

theorem halveTable_sound {m : Store 8} {base n : Nat} (h : κ.store m) : κ.store (halveTable m base n) :=
  foldl_sound (Aspect.store_halve h) fun _ _ hx => Aspect.store_memPut hx

theorem Out.sound_next (h : t.Sound κ) : Out.Sound κ (.next t) := h
theorem Out.sound_get {o : Out} (ho : o = .next t) (h : Out.Sound κ o) : t.Sound κ := by subst ho; exact h
theorem ItemRes.sound_ok (h : t.Sound κ) : ItemRes.Sound κ (.ok t) := h
theorem ItemRes.sound_fail {st : Status} {f : Fx} {named : Bool} {aux : Nat} (h : t.Sound κ) : ItemRes.Sound κ (.fail st f named aux t) := h
theorem ItemRes.sound_page {f : Fx} : ItemRes.Sound κ (.page f) := trivial
theorem ItemRes.sound_wait : ItemRes.Sound κ .wait := trivial
theorem Plan.sound_done {len : Nat} {early : Option Fx} {guarded stall : Bool} {fault access : Option Fx} (h : t.Sound κ) :
    Plan.Sound κ ⟨len, early, guarded, stall, fault, access, none, t, id⟩ := { wait := IfSome.none, done := h, post := fun _ ht => ht }
theorem Plan.sound_wait {len : Nat} {early : Option Fx} {guarded stall : Bool} {fault access : Option Fx} {w : Option State}
    (hw : IfSome (State.Sound κ) w) (h : t.Sound κ) : Plan.Sound κ ⟨len, early, guarded, stall, fault, access, w, t, id⟩ :=
  { wait := hw, done := h, post := fun _ ht => ht }

end

end Sys2Proof.Machine
end

section
/-! PROOFS. Each operation of the model keeps the form of memory and each MODE legal (R163), from the operations on storage up to the step. An
operation that writes neither keeps them because the state that it starts from does (`State.sound_mk`); one that writes a MODE writes a legal
one, one that was there before, or that of a fresh unit. The lemmas follow the model's own order, one to an operation. -/
namespace Sys2Proof.Machine

section
set_option Elab.async false
variable {κ : Aspect} {s t : State}

/-! ### The reset state, and one field of a state -/

theorem Split.zero_sound : Split.Sound κ Split.zero := ⟨IfSome.none⟩

theorem Group.zero_sound : Group.Sound κ Group.zero := ⟨Aspect.mode_zero, Each.nil⟩

theorem Stream.zero_sound : Stream.Sound κ Stream.zero := ⟨Aspect.mode_zero⟩

theorem Crew.zero_sound : Crew.Sound κ Crew.zero := ⟨Stream.zero_sound, Values.nil, Each.nil, Each.nil⟩

theorem Gang.zero_sound : Gang.Sound κ Gang.zero := ⟨Values.nil⟩

theorem State.reset_sound : State.Sound κ State.reset :=
  State.sound_mk ⟨Aspect.store_empty, Values.nil, Values.nil, Gang.zero_sound, Crew.zero_sound, Group.zero_sound, Split.zero_sound⟩

/-! ### Memory, its units of encryption, crews and their groups (R5, R371 to R374) -/

theorem State.setReg_sound {off v : ℕ} (h : State.Sound κ s) : State.Sound κ (s.setReg off v) := State.sound_mk h

theorem reseal_sound {k : ℕ} {cur : KeySlot × ℕ} (h : State.Sound κ s) : State.Sound κ (reseal s k cur) :=
  sound_ite h (State.sound_mk (Fields.withMem h (Aspect.store_memPutBytes h.mem)))

theorem sealedPut_sound {k : ℕ} {b : BitVec 8} {cur : KeySlot × ℕ} (h : State.Sound κ s) : State.Sound κ (sealedPut s k b cur) :=
  State.sound_mk (Fields.withMem (reseal_sound h) (Aspect.store_put ((reseal_sound h).mem)))

theorem sealedPutBytes_sound {k : ℕ} {bs : List (BitVec 8)} {cur : KeySlot × ℕ} (h : State.Sound κ s) : State.Sound κ (sealedPutBytes s k bs cur) :=
  foldl_sound h (fun _ _ ht => sealedPut_sound ht)

theorem mendCovered_sound {k n : ℕ} (h : State.Sound κ s) : State.Sound κ (mendCovered s k n) := sound_ite h (State.sound_mk h)

theorem devPutBytes_sound {k : ℕ} {bs : List (BitVec 8)} (h : State.Sound κ s) : State.Sound κ (devPutBytes s k bs) :=
  sealedPutBytes_sound (mendCovered_sound h)

theorem devPut_sound {n k v : ℕ} (h : State.Sound κ s) : State.Sound κ (devPut s n k v) := devPutBytes_sound h

theorem unitPut_sound {key kid : ℕ} {b : BitVec 8} (h : State.Sound κ s) : State.Sound κ (unitPut s key kid b) :=
  sound_ite (State.sound_mk h) (sealedPut_sound h)

theorem setDirty_sound {ctx va : ℕ} (h : State.Sound κ s) : State.Sound κ (setDirty s ctx va) := by
  unfold setDirty
  split
  · exact h
  · split
    · exact sound_ite (devPut_sound h) h
    · exact h

theorem setCrew_sound {c : ℕ} {f : Crew → Crew} (h : State.Sound κ s) (hf : ∀ (a : Crew), Crew.Sound κ a → Crew.Sound κ (f a)) :
    State.Sound κ (setCrew s c f) :=
  sound_ite (State.sound_mk (Fields.withCrew h (hf _ h.crew))) (by
      split
      · exact h
      · rename_i e
        exact State.sound_mk (Fields.withGang h ⟨Values.aput h.gang.crews (hf _ (IfSome.get e (Values.aget h.gang.crews)))⟩))

theorem mend_sound {l : Loc} (h : State.Sound κ s) : State.Sound κ (mend s l) := by
  unfold mend
  split
  · exact sound_ite h (State.sound_mk h)
  · exact sound_ite h (State.sound_mk h)

theorem locPut_sound {l : Loc} {b : BitVec 8} (h : State.Sound κ s) : State.Sound κ (locPut s l b) := by
  unfold locPut
  split
  · exact mend_sound (setCrew_sound h (fun _ hc => { hc with }))
  · exact mend_sound (unitPut_sound h)

theorem setLineWord_sound {kid ln e : ℕ} {v : BitVec 32} (h : State.Sound κ s) : State.Sound κ (setLineWord s kid ln e v) :=
  foldl_sound h (fun _ _ ht => unitPut_sound ht)

theorem addHome_sound {fp : Bool} {kid ln : ℕ} {els : List (ℕ × BitVec 32)} (h : State.Sound κ s) : State.Sound κ (addHome fp kid ln els s) :=
  foldl_sound h (fun _ _ ht => setLineWord_sound ht)

theorem dropShare_sound {ln h : ℕ} {x : Line} {sh : Share} (hs : State.Sound κ s) : State.Sound κ (dropShare s ln h x sh) := State.sound_mk hs

theorem drainHolder_sound {ln h : ℕ} (hs : State.Sound κ s) : State.Sound κ (drainHolder s ln h) := by
  unfold drainHolder
  split
  · exact hs
  · split
    · exact hs
    · exact dropShare_sound (addHome_sound hs)

theorem drainLine_sound {ln : ℕ} (h : State.Sound κ s) : State.Sound κ (drainLine s ln) := by
  unfold drainLine
  split
  · exact h
  · exact foldl_sound h (fun _ _ ht => drainHolder_sound ht)

theorem drainTo_sound {ln : Nat} {limit t : Dy} {n : Nat} (h : s.Sound κ) : (drainTo ln limit t n s).Sound κ := by
  induction n generalizing s with
  | zero => exact h
  | succ n ih =>
    unfold drainTo
    split
    · exact h
    · split
      · split
        · exact h
        · exact ih (drainHolder_sound h)
      · exact h

theorem makeRoom_sound {h : ℕ} (hs : State.Sound κ s) : State.Sound κ (makeRoom s h) :=
  sound_ite hs (by
      split
      · exact hs
      · exact drainHolder_sound hs)

theorem contribute_sound {ctx bidx : ℕ} {b : Bound} {kid ln h : ℕ} {els : List (ℕ × BitVec 32)} (hs : State.Sound κ s) :
    State.Sound κ (contribute s ctx bidx b kid ln h els) :=
  sound_ite (addHome_sound (drainHolder_sound hs)) (by
      split
      · split
        · exact sound_ite (State.sound_mk hs) (by
                split
                · exact sound_ite (State.sound_mk (makeRoom_sound (drainHolder_sound hs))) (addHome_sound (makeRoom_sound (drainHolder_sound hs)))
                · exact addHome_sound (makeRoom_sound (drainHolder_sound hs)))
        · split
          · exact sound_ite (State.sound_mk (makeRoom_sound (drainHolder_sound hs))) (addHome_sound (makeRoom_sound (drainHolder_sound hs)))
          · exact addHome_sound (makeRoom_sound (drainHolder_sound hs))
      · split
        · exact sound_ite (State.sound_mk (makeRoom_sound hs)) (addHome_sound (makeRoom_sound hs))
        · exact addHome_sound (makeRoom_sound hs))

theorem drainFor_sound {locs : List Loc} (h : State.Sound κ s) : State.Sound κ (drainFor s locs) :=
  sound_ite h (foldl_sound h (fun _ _ ht => by
        split
        · exact drainLine_sound ht
        · exact ht))

theorem locsPut_sound {locs : List Loc} {v : ℕ} (h : State.Sound κ s) : State.Sound κ (locsPut s locs v) :=
  foldl_sound h (fun _ _ ht => locPut_sound ht)

/-! ### Scatter-gather tables -/

theorem setCluster_sound {c : ℕ} {x : Cluster} (h : State.Sound κ s) : State.Sound κ (setCluster s c x) := State.sound_mk h

theorem spoilSave_sound {c : Ctx} (h : State.Sound κ s) : State.Sound κ (spoilSave s c) :=
  sound_ite h (State.sound_mk (Fields.withMem h (Aspect.store_spoil h.mem)))

theorem saveThrough_sound {gid : ℕ} (h : State.Sound κ s) : State.Sound κ (saveThrough s gid) := by
  unfold saveThrough
  split
  · exact h
  · exact spoilSave_sound h

theorem setSg_sound {s0 : State} {cl ix : ℕ} {e : SgEntry} (hs0 : State.Sound κ s0) : State.Sound κ (setSg s0 cl ix e) :=
  setCluster_sound (saveThrough_sound hs0)

theorem sgSweep_sound {gid : ℕ} (h : State.Sound κ s) : State.Sound κ (sgSweep s gid) := by
  unfold sgSweep
  split
  · exact h
  · exact sound_ite h (by
          split
          · exact h
          · exact sound_ite h (setCluster_sound (saveThrough_sound h)))

/-! ### What instructions share: registers, crews, streams, counters and items -/

theorem setCore_sound {c : ℕ} {x : Core} (h : State.Sound κ s) : State.Sound κ (setCore s c x) := State.sound_mk h

theorem bump_sound {c ix n : ℕ} (h : State.Sound κ s) : State.Sound κ (bump s c ix n) := setCore_sound h

theorem State.freshen_sound (h : State.Sound κ s) : State.Sound κ s.freshen := State.sound_mk h

theorem bumpSome_sound {c ix n : ℕ} (h : State.Sound κ s) : State.Sound κ (bumpSome s c ix n) := State.freshen_sound (bump_sound h)

theorem countMisses_sound {core : ℕ} (h : State.Sound κ s) : State.Sound κ (countMisses s core) := bumpSome_sound (bumpSome_sound h)

theorem settleClock_sound {cl : ℕ} (h : State.Sound κ s) : State.Sound κ (settleClock s cl) := foldl_sound h (fun _ _ ht => setCore_sound ht)

theorem refuse_sound {m : NakMsg} (h : State.Sound κ s) : State.Sound κ (refuse s m) := State.sound_mk h

theorem setStrm_sound {f : Stream → Stream} (h : State.Sound κ s) (hf : ∀ (a : Stream), Stream.Sound κ a → Stream.Sound κ (f a)) :
    State.Sound κ (setStrm s f) :=
  State.sound_mk (Fields.withCrew h { h.crew with strm := hf _ h.crew.strm })

theorem setGrp_sound {f : Group → Group} (h : State.Sound κ s) (hf : ∀ (a : Group), Group.Sound κ a → Group.Sound κ (f a)) :
    State.Sound κ (setGrp s f) :=
  State.sound_mk (Fields.withGrp h (hf _ h.grp))

theorem setSplit_sound {f : Split → Split} (h : State.Sound κ s) (hf : ∀ (a : Split), Split.Sound κ a → Split.Sound κ (f a)) :
    State.Sound κ (setSplit s f) :=
  State.sound_mk (Fields.withSplit h (hf _ h.split))

theorem setOwn_sound {f : Crew → Crew} (h : State.Sound κ s) (hf : ∀ (a : Crew), Crew.Sound κ a → Crew.Sound κ (f a)) : State.Sound κ (setOwn s f) :=
  State.sound_mk (Fields.withCrew h (hf _ h.crew))

theorem setMode_sound {m : BitVec 32} (h : s.Sound κ) (hm : κ.mode m) : (setMode s m).Sound κ := by
  unfold setMode
  exact sound_ite (setStrm_sound h fun _ _ => ⟨hm⟩) (setGrp_sound h fun _ hg => { hg with mode := hm })

theorem setHold_sound {h : Hold} (hs : State.Sound κ s) : State.Sound κ (setHold s h) :=
  sound_ite (setStrm_sound hs (fun _ hx => { hx with })) (setSplit_sound hs (fun _ hx => { hx with }))

theorem setArmed_sound {a : Option Armed} (h : State.Sound κ s) : State.Sound κ (setArmed s a) :=
  sound_ite (setStrm_sound h (fun _ hx => { hx with })) (setSplit_sound h (fun _ hx => { hx with }))

theorem setPc_sound {pc : BitVec 64} (h : State.Sound κ s) : State.Sound κ (setPc s pc) :=
  sound_ite (setStrm_sound h (fun _ hx => { hx with })) (setSplit_sound h (fun _ hx => { hx with }))

theorem setLs_sound {v : BitVec 64} (h : State.Sound κ s) : State.Sound κ (setLs s v) :=
  sound_ite (setStrm_sound h (fun _ hx => { hx with })) (setSplit_sound h (fun _ hx => { hx with }))

theorem setLc_sound {v : BitVec 64} (h : State.Sound κ s) : State.Sound κ (setLc s v) :=
  sound_ite (setStrm_sound h (fun _ hx => { hx with })) (setSplit_sound h (fun _ hx => { hx with }))

theorem waitAs_sound {h : Hold} (hs : State.Sound κ s) : State.Sound κ (waitAs s h) := sound_ite (State.sound_mk hs) (setHold_sound hs)

theorem vput_sound {r p : ℕ} {v : BitVec 32} (h : State.Sound κ s) : State.Sound κ (vput s r p v) := setGrp_sound h (fun _ hg => { hg with })

theorem sput_sound {r : ℕ} {v : BitVec 64} (h : State.Sound κ s) : State.Sound κ (sput s r v) := setGrp_sound h (fun _ hg => { hg with })

theorem eput_sound {r : ℕ} {v : BitVec 64} (h : State.Sound κ s) : State.Sound κ (eput s r v) := setStrm_sound h (fun _ hx => { hx with })

theorem iput_sound {r : ℕ} {v : BitVec 64} (h : State.Sound κ s) : State.Sound κ (iput s r v) := sound_ite (eput_sound h) (sput_sound h)

theorem kput_sound {k p : ℕ} {b : Bool} (h : State.Sound κ s) : State.Sound κ (kput s k p b) := setGrp_sound h (fun _ hg => { hg with })

theorem tput_sound {n : ℕ} {t : Tok} (h : State.Sound κ s) : State.Sound κ (tput s n t) :=
  sound_ite (setStrm_sound h (fun _ hx => { hx with })) (setGrp_sound h (fun _ hg => { hg with }))

theorem hput_sound {n : ℕ} {h : BitVec 17} (hs : State.Sound κ s) : State.Sound κ (hput s n h) :=
  sound_ite (setStrm_sound hs (fun _ hx => { hx with })) (setGrp_sound hs (fun _ hg => { hg with }))

theorem forLanes_sound {ls : List ℕ} {f : ℕ → State → State} (h : State.Sound κ s)
    (hf : ∀ (a : ℕ) (a' : State), State.Sound κ a' → State.Sound κ (f a a')) : State.Sound κ (forLanes s ls f) :=
  foldl_sound h (fun _ _ ht => hf _ _ ht)

theorem logPut_sound {r : LogRec} (h : State.Sound κ s) : State.Sound κ (logPut s r) := State.sound_mk h

theorem addLog_sound {sev cls site count data : ℕ} (h : State.Sound κ s) : State.Sound κ (addLog s sev cls site count data) :=
  sound_ite (logPut_sound h) (sound_ite (State.sound_mk h) (State.sound_mk h))

theorem noteSpan_sound {k n : ℕ} (h : State.Sound κ s) : State.Sound κ (noteSpan s k n) := by
  unfold noteSpan
  split
  · exact h
  · exact addLog_sound h

theorem noteEcc_sound {f : Fx} {named : Bool} (h : State.Sound κ s) : State.Sound κ (noteEcc s f named) :=
  sound_ite (by
      split
      · exact h
      · exact addLog_sound h) h

theorem pushRec_sound {grid ctx : Option Nat} {r : FRec} (h : s.Sound κ) : (pushRec s grid ctx r).Sound κ := by
  unfold pushRec
  extract_lets s1
  have h1 : s1.Sound κ := by
    unfold s1
    split
    · exact h
    · exact State.sound_mk h
  clear_value s1
  split
  · rename_i c e
    have hc : c.Sound κ := IfSome.bind_of (fun _ => Values.aget h.ctxs) c e
    exact State.sound_mk (Fields.withCtxs h1 (Values.aput h1.ctxs { hc with }))
  · exact State.sound_mk h1

theorem raiseNow_sound {f : Fx} (h : State.Sound κ s) : State.Sound κ (raiseNow s f) :=
  sound_ite (setStrm_sound (State.freshen_sound (pushRec_sound (noteEcc_sound h))) (fun _ hx => { hx with }))
      (setSplit_sound (State.freshen_sound (pushRec_sound (noteEcc_sound h))) (fun _ hx => { hx with }))

theorem raise_sound {f : Fx} (h : State.Sound κ s) : State.Sound κ (raise s f) := sound_ite (State.sound_mk h) (raiseNow_sound h)

theorem joinPage_sound {die ctx va : ℕ} {record : ℕ → State → State} (h : State.Sound κ s)
    (hrecord : ∀ (a : ℕ) (a' : State), State.Sound κ a' → State.Sound κ (record a a')) : State.Sound κ (joinPage s die ctx va record).2 := by
  unfold joinPage
  split
  · exact h
  · exact hrecord _ _ (State.sound_mk h)

theorem suspend_sound {f : Fx} (h : State.Sound κ s) : State.Sound κ (suspend s f) :=
  sound_ite (State.sound_mk h) (setHold_sound (bump_sound (joinPage_sound h (fun _ _ ht => pushRec_sound ht))))

theorem takeFault_sound {f : Fx} (h : State.Sound κ s) : State.Sound κ (takeFault s f) := sound_ite (suspend_sound h) (raise_sound h)

theorem barComplete_sound {c : Crew} {n : ℕ} (hc : Crew.Sound κ c) : Crew.Sound κ (barComplete c n) := sound_ite { hc with } hc

theorem barTest_sound {c : Crew} {n : ℕ} (hc : Crew.Sound κ c) : Crew.Sound κ (barTest c n) :=
  sound_ite hc (sound_ite { (sound_ite hc (barComplete_sound hc) : Crew.Sound κ (if c.joint = true then c else barComplete c n)) with } hc)

theorem barEvent_sound {c : Crew} {n : ℕ} {f : Bar → Bar} (hc : Crew.Sound κ c) : Crew.Sound κ (barEvent c n f) := barTest_sound { hc with }

theorem endThreads_sound {c : Crew} {ts : List Thread} (hc : Crew.Sound κ c) : Crew.Sound κ (endThreads c ts) :=
  sound_ite hc (foldl_sound { hc with } (fun _ _ hc1 => barTest_sound hc1))

theorem carryBad_sound {l : List (Cell × Cell)} (h : State.Sound κ s) : State.Sound κ (carryBad s l) := sound_ite h (State.sound_mk h)

theorem SpawnRec.cls_sound {r : SpawnRec} (hr : SpawnRec.Sound κ r) : RecClass.Sound κ r.cls := ⟨hr.mode⟩

theorem recOf_sound {p : ℕ} {pc : BitVec 64} (h : State.Sound κ s) : SpawnRec.Sound κ (recOf s p pc) := ⟨h.grp.mode⟩

theorem flushPoint_sound {c : Crew} (hc : Crew.Sound κ c) : Crew.Sound κ (flushPoint c) :=
  { hc with flush := foldl_sound_each hc.recs hc.flush (fun _ _ hx hb => sound_ite hb (Each.append hb (Each.cons (SpawnRec.cls_sound hx) Each.nil))) }

theorem insertRec_sound {r : SpawnRec} {l : List SpawnRec} (hr : r.Sound κ) (hl : Each (SpawnRec.Sound κ) l) :
    Each (SpawnRec.Sound κ) (insertRec r l) := by
  induction l with
  | nil => exact Each.cons hr hl
  | cons x l ih => exact sound_ite (Each.cons hr hl) (Each.cons (hl.head rfl) (ih (hl.tail rfl)))

theorem Group.without_sound {g : Group} {m : BitVec 32} (hg : Group.Sound κ g) : Group.Sound κ (g.without m) := sound_ite hg { hg with }

theorem xferGroup_sound {a : Armed} {len : ℕ} (h : State.Sound κ s) : State.Sound κ (xferGroup s a len) := by
  unfold xferGroup
  extract_lets nxt s' mk s'1
  have hs' : Split.Sound κ s' := h.split
  have hmk : ∀ (q : Path), Split.Sound κ (mk q) := fun _ => ⟨IfSome.none⟩
  have hs'1 : Crew.Sound κ s'1 := h.crew
  split
  · extract_lets splits recs s1 s'2 s'3 s2 s3
    have hsplits : Each (Split.Sound κ) splits := Each.map h.grp.splits (fun _ hx1 => by
          split
          · exact sound_ite { hx1 with } hx1
          · exact hx1)
    have hrecs : Each (SpawnRec.Sound κ) recs :=
        foldr_sound_each (Each.flatMap_of (fun _ => Each.map_of (fun _ => recOf_sound h))) Each.nil (fun _ _ hx1 hb => insertRec_sound hx1 hb)
    have hs1 : State.Sound κ s1 :=
        State.sound_mk (Fields.withGrp (Fields.withCrew h { hs'1 with recs := Each.append hs'1.recs hrecs }) (Group.without_sound h.grp))
    have hs'2 : Group.Sound κ s'2 := hs1.grp
    have hs2 : State.Sound κ s2 := by
      unfold s2
      split
      · exact State.sound_mk (Fields.withSplit (Fields.withGrp hs1 { hs'2 with splits := hsplits }) { hs' with })
      · exact State.sound_mk (Fields.withSplit (Fields.withGrp hs1 { hs'2 with splits := Each.append hsplits (Each.map_of (fun _ => hmk _)) })
          (hmk _))
    have hs3 : State.Sound κ s3 := sound_ite (bump_sound hs2) hs2
    exact sound_ite hs3 (bump_sound hs3)

theorem updGroup_sound {k : ℕ} {f : Group → Group} (h : State.Sound κ s) (hf : ∀ (a : Group), Group.Sound κ a → Group.Sound κ (f a)) :
    State.Sound κ (updGroup s k f) :=
  sound_ite (State.sound_mk (Fields.withGrp h (hf _ h.grp))) (by
      split
      · exact h
      · rename_i e
        exact State.sound_mk (Fields.withCrew h { h.crew with groups := Values.aput h.crew.groups (hf _ (IfSome.get e (Values.aget h.crew.groups)))
            }))

theorem updBat_sound {w : Who} {f : Batches → Batches} (h : State.Sound κ s) : State.Sound κ (updBat s w f) :=
  sound_ite (setStrm_sound h (fun _ hx => { hx with })) (updGroup_sound h (fun _ hg => { hg with }))

theorem updTok_sound {w : Who} {n : ℕ} {f : Tok → Tok} (h : State.Sound κ s) : State.Sound κ (updTok s w n f) :=
  sound_ite (setStrm_sound h (fun _ hx => { hx with })) (updGroup_sound h (fun _ hg => { hg with }))

theorem sealBatch_sound {w : Who} {tok : Option ℕ} {vec : Option (BitVec 64)} (h : State.Sound κ s) : State.Sound κ (sealBatch s w tok vec) :=
  updBat_sound h

theorem pushItem_sound {w : Who} {op : ItemOp} {acq rel : Bool} {scope : ℕ} {st : Option Status} (h : State.Sound κ s) :
    State.Sound κ (pushItem s w op acq rel scope st) :=
  updBat_sound (State.sound_mk h)

theorem streamEnd_sound (h : State.Sound κ s) : State.Sound κ (streamEnd s) :=
  setStrm_sound (sound_ite h (sealBatch_sound h)) (fun _ hx => { hx with })

theorem endSplit_sound (h : State.Sound κ s) : State.Sound κ (endSplit s) :=
  State.sound_mk (Fields.withSplit (Fields.withCrew h (endThreads_sound h.crew)) { h.split with })

theorem nxApply_sound {nx : NX} {len : ℕ} {s0 : State} (hs0 : State.Sound κ s0) : State.Sound κ (nxApply nx len s0) := by
  unfold nxApply
  extract_lets s nxt
  have hs : State.Sound κ s := setHold_sound hs0
  split
  · exact setPc_sound hs
  · exact sound_ite (setPc_sound hs) (setPc_sound (setLc_sound hs))
  · split
    · exact hs
    · exact sound_ite (setArmed_sound (setPc_sound hs)) (xferGroup_sound hs)
  · exact sound_ite (streamEnd_sound hs) (endSplit_sound hs)

theorem clearGuard_sound (h : State.Sound κ s) : State.Sound κ (clearGuard s) := sound_ite (setStrm_sound h (fun _ hx => { hx with })) h

theorem retireRest_sound {nx : NX} {p : Plan} (h : s.Sound κ) (hp : p.Sound κ) : (retireRest nx p s).Sound κ := by
  unfold retireRest
  refine sound_ite (State.sound_mk h) ?_
  split
  · exact takeFault_sound h
  · split
    · exact takeFault_sound h
    · split
      · exact takeFault_sound h
      · split
        · rename_i w hw
          exact hp.wait w hw
        · exact hp.post _ (clearGuard_sound (nxApply_sound hp.done))

theorem retire_sound_of_rest {op : Nat} {nx : NX} {p : Plan} (h : s.Sound κ) (hr : (retireRest nx p s).Sound κ) : Out.Sound κ (retire op nx p s) := by
  unfold retire
  refine Out.sound_next (sound_ite (raise_sound h) ?_)
  split
  · exact takeFault_sound h
  · refine sound_ite ?_ hr
    split
    · exact waitAs_sound h
    · split
      · exact takeFault_sound h
      · exact clearGuard_sound (nxApply_sound h)
    · exact hr

theorem retire_sound {op : Nat} {nx : NX} {p : Plan} (h : s.Sound κ) (hp : p.Sound κ) : Out.Sound κ (retire op nx p s) :=
  retire_sound_of_rest h (retireRest_sound h hp)

/-- Where the checks find a fault, the effect is none of the outcome. -/
theorem retire_sound_of_fault {op : Nat} {nx : NX} {p : Plan} {f : Fx} (h : s.Sound κ) (hf : p.fault = some f) : Out.Sound κ (retire op nx p s) := by
  refine retire_sound_of_rest h ?_
  unfold retireRest
  rw [hf]
  exact sound_ite (State.sound_mk h) (takeFault_sound h)

theorem focusCrew_sound {gid crew : ℕ} (h : State.Sound κ s) : IfSome (State.Sound κ) (focusCrew s gid crew) := by
  unfold focusCrew
  split
  · exact IfSome.none
  · rename_i e
    split
    · exact IfSome.none
    · rename_i e1
      exact IfSome.some (State.sound_mk (Fields.withCrew
          (Fields.withGang (Fields.withGangs h (Values.adel h.gangs)) ⟨Values.adel ((IfSome.get e (Values.aget h.gangs)).crews)⟩)
              (IfSome.get e1 (Values.aget ((IfSome.get e (Values.aget h.gangs)).crews)))))

theorem focusSplit_sound {key ix : ℕ} (h : State.Sound κ s) : IfSome (State.Sound κ) (focusSplit s key ix) := by
  unfold focusSplit
  split
  · exact IfSome.none
  · rename_i g e
    have hg : g.Sound κ := IfSome.get e (Values.aget h.crew.groups)
    have hc : Crew.Sound κ { s.crew with groups := adel key s.crew.groups } := { h.crew with groups := Values.adel h.crew.groups }
    have hgr : Group.Sound κ { g with splits := g.splits.eraseIdx ix } := { hg with splits := Each.eraseIdx hg.splits }
    split
    · exact IfSome.none
    · rename_i e1
      exact IfSome.some (State.sound_mk (Fields.withSplit (Fields.withGrp (Fields.withCrew h hc) hgr) (IfSome.get e1 (Each.getElem? hg.splits))))

theorem mergeSplit_sound {x : Split} {l : List Split} (hx : x.Sound κ) (hl : Each (Split.Sound κ) l) : Each (Split.Sound κ) (mergeSplit x l) := by
  induction l with
  | nil => exact Each.cons hx hl
  | cons y l ih =>
    have hy := hl.head rfl
    exact sound_ite (Each.cons { hy with } (hl.tail rfl)) (Each.cons hy (ih (hl.tail rfl)))

theorem mergeSplits_sound {l : List Split} (hl : Each (Split.Sound κ) l) : Each (Split.Sound κ) (mergeSplits l) :=
  foldl_sound_each (Each.filter hl) Each.nil (fun _ _ hx hb => mergeSplit_sound hx hb)

theorem unfocusSplit_sound (h : State.Sound κ s) : State.Sound κ (unfocusSplit s) :=
  sound_ite (State.sound_mk (Fields.withSplit
      (Fields.withGrp (Fields.withCrew h (sound_ite h.crew
          ({ h.crew with groups := Values.aput h.crew.groups { h.grp with splits := mergeSplits_sound (Each.cons h.split h.grp.splits) } })))
              Group.zero_sound) Split.zero_sound)) (State.sound_mk h)

theorem dropEmpty_sound {c : Crew} (hc : Crew.Sound κ c) : Crew.Sound κ (dropEmpty c) := { hc with groups := Values.filter hc.groups }

theorem Crew.endTurn_sound {c : Crew} (hc : Crew.Sound κ c) : Crew.Sound κ c.endTurn := sound_ite hc { hc with }

theorem settleCrew_sound {c : Crew} (hc : Crew.Sound κ c) : Crew.Sound κ (settleCrew c) :=
  sound_ite (flushPoint_sound (Crew.endTurn_sound (dropEmpty_sound hc))) (Crew.endTurn_sound (dropEmpty_sound hc))

theorem unfocusCrew_sound (h : State.Sound κ s) : State.Sound κ (unfocusCrew s) :=
  sgSweep_sound (State.sound_mk (Fields.withCrew
      (Fields.withGang (Fields.withGangs (unfocusSplit_sound h)
          (Values.aput ((unfocusSplit_sound h).gangs)
              ⟨Values.aput (Values.map (((unfocusSplit_sound h).gang).crews) (fun _ h1 => Crew.endTurn_sound h1))
                  (settleCrew_sound ((unfocusSplit_sound h).crew))⟩)) Gang.zero_sound) Crew.zero_sound))

theorem onCrew_sound {gid crew : ℕ} {f : State → State} (h : State.Sound κ s) (hf : ∀ (a : State), State.Sound κ a → State.Sound κ (f a)) :
    State.Sound κ (onCrew s gid crew f) := by
  unfold onCrew
  split
  · exact h
  · rename_i e
    exact unfocusCrew_sound (hf _ (IfSome.get e (focusCrew_sound h)))

/-! ### Records of faults (R357 to R359) -/

theorem State.setField_sound {off lo n v : ℕ} (h : State.Sound κ s) : State.Sound κ (s.setField off lo n v) := State.setReg_sound h

theorem onHost_sound {f : State → State} (h : State.Sound κ s) (hf : ∀ (a : State), State.Sound κ a → State.Sound κ (f a)) :
    State.Sound κ (onHost s f) :=
  sound_ite (hf _ h) h

theorem putCorrected_sound {x : ℕ × Corrected} (h : State.Sound κ s) : State.Sound κ (putCorrected s x) :=
  State.sound_mk (addLog_sound (State.sound_mk h))

theorem coalesce_sound {p : ℕ × Corrected → Bool} (h : State.Sound κ s) : State.Sound κ (coalesce s p) :=
  foldl_sound (State.sound_mk h) (fun _ _ ht => putCorrected_sound ht)

theorem closeWindow_sound (h : State.Sound κ s) : State.Sound κ (closeWindow s) := coalesce_sound h

theorem addCorrected_sound {s0 : State} {cls site n data : ℕ} (hs0 : State.Sound κ s0) : State.Sound κ (addCorrected s0 cls site n data) :=
  State.sound_mk (closeWindow_sound hs0)

/-! ### Compressed blocks -/

theorem countOvfl_sound {st : ℕ} (h : State.Sound κ s) : State.Sound κ (countOvfl s st) := State.sound_mk (State.setField_sound h)

theorem cleanBlock_sound {st blk : ℕ} (h : State.Sound κ s) : State.Sound κ (cleanBlock s st blk) := State.sound_mk h

theorem markUnits_sound {us : List ℕ} (h : State.Sound κ s) : State.Sound κ (markUnits s us) := sound_ite h (State.sound_mk h)

theorem markBytes_sound {st blk n : ℕ} {ds : List ℕ} (h : State.Sound κ s) : State.Sound κ (markBytes s st blk n ds) := markUnits_sound h

theorem markImage_sound {st blk : ℕ} {ds : List ℕ} (h : State.Sound κ s) : State.Sound κ (markImage s st blk ds) := markUnits_sound h

theorem putSector_sound {key : ℕ} {x : (KeySlot × ℕ) × List (BitVec 8)} (h : State.Sound κ s) : State.Sound κ (putSector s key x) :=
  sealedPutBytes_sound h

theorem putSectors_sound {key : ℕ} {l : List ((KeySlot × ℕ) × List (BitVec 8))} (h : State.Sound κ s) : State.Sound κ (putSectors s key l) :=
  sound_ite (foldl_sound h (fun _ _ ht => putSector_sound ht)) (State.sound_mk (foldl_sound h (fun _ _ ht => putSector_sound ht) : State.Sound κ _))

theorem putImage_sound {st blk key kid n : ℕ} {img : List (BitVec 8)} (h : State.Sound κ s) : State.Sound κ (putImage s st blk key kid n img) :=
  State.sound_mk (putSectors_sound h)

theorem storeBlock_sound {st blk : ℕ} (h : State.Sound κ s) : IfSome (State.Sound κ) (storeBlock s st blk) :=
  sound_ite (IfSome.some (countOvfl_sound (markBytes_sound (putImage_sound (State.sound_mk (cleanBlock_sound h)))))) (by
      split
      · exact IfSome.some (markImage_sound (State.sound_mk (cleanBlock_sound h)))
      · split
        · exact IfSome.none
        · exact IfSome.some (State.setField_sound (countOvfl_sound (pushRec_sound (markImage_sound (State.sound_mk (cleanBlock_sound h)))))))

theorem writeBlock_sound {st blk : ℕ} (h : State.Sound κ s) : State.Sound κ (writeBlock s st blk) :=
  sound_ite h (sound_ite h (sound_ite (sound_ite h (refuse_sound h)) (by
          split
          · rename_i e
            exact IfSome.get e (storeBlock_sound h)
          · exact refuse_sound h)))

theorem writeBack_sound {sel : ℕ → ℕ → Bool} (h : State.Sound κ s) : State.Sound κ (writeBack s sel) :=
  foldl_sound h (fun _ _ ht => writeBlock_sound ht)

theorem execSpace1BlockWrite_sound (h : State.Sound κ s) : Out.Sound κ (execSpace1BlockWrite s) := Out.sound_next (sound_ite (writeBlock_sound h) h)

theorem writeCmpcfg_sound {st v : ℕ} (h : State.Sound κ s) : State.Sound κ (writeCmpcfg s st v) :=
  sound_ite (countOvfl_sound (State.sound_mk (State.setReg_sound h))) (State.setReg_sound h)

theorem execCmpcfgWrite_sound (h : State.Sound κ s) : Out.Sound κ (execCmpcfgWrite s) :=
  Out.sound_next (onHost_sound h (fun _ ht => sound_ite (writeCmpcfg_sound ht) ht))

theorem startCmp_sound {st : ℕ} {v : BitVec 64} (h : State.Sound κ s) : State.Sound κ (startCmp s st v) :=
  sound_ite (State.setField_sound h) (State.sound_mk (State.setField_sound h))

theorem execReloc_sound (h : State.Sound κ s) : Out.Sound κ (execReloc s) :=
  Out.sound_next (onHost_sound h (fun _ ht => sound_ite (startCmp_sound ht) ht))

theorem execCmpcmdRead_sound (h : State.Sound κ s) : Out.Sound κ (execCmpcmdRead s) :=
  Out.sound_next (onHost_sound h (fun _ ht => sound_ite (startCmp_sound ht) ht))

theorem markMoved_sound {old : State} {st pg : ℕ} (h : State.Sound κ s) : State.Sound κ (markMoved old s st pg) :=
  sound_ite h (foldl_sound h (fun _ _ ht => sound_ite (markUnits_sound ht) (markBytes_sound (State.sound_mk (markUnits_sound ht)))))

theorem relocate_sound {st pg base allot : Nat} (h : s.Sound κ) : (relocate s st pg base allot).1.Sound κ := by
  unfold relocate
  extract_lets al total secs s1 s2 d s3 s4
  have h1 : s1.Sound κ := foldl_sound h fun _ _ ht => putSectors_sound ht
  have h2 : s2.Sound κ := foldl_sound h1 fun _ _ ht => State.sound_mk ht
  have h3 : s3.Sound κ := devPut_sound (devPut_sound (devPut_sound h2))
  have h4 : s4.Sound κ := State.sound_mk h3
  clear_value s4
  split
  · exact h
  · split
    · exact noteSpan_sound h
    · split
      · exact h
      · exact countOvfl_sound (markMoved_sound h4)

theorem readDescr_sound {st pg : ℕ} (h : State.Sound κ s) : State.Sound κ (readDescr s st pg).1 := by
  unfold readDescr
  split
  · exact h
  · split
    · exact noteSpan_sound h
    · exact State.setReg_sound (State.setReg_sound h)

theorem finishCmp_sound {st : ℕ} (h : State.Sound κ s) : State.Sound κ (finishCmp s st) := by
  unfold finishCmp
  split
  · exact h
  · exact State.setField_sound (State.setField_sound (State.sound_mk (by
              split
              · exact relocate_sound h
              · exact readDescr_sound h)))

theorem execRelocDone_sound (h : State.Sound κ s) : Out.Sound κ (execRelocDone s) := Out.sound_next (finishCmp_sound h)

theorem execCompressRecord_sound (h : State.Sound κ s) : Out.Sound κ (execCompressRecord s) :=
  Out.sound_next (by
      split
      · exact h
      · exact sound_ite (addLog_sound (State.sound_mk h)) h)

/-! ### Operands -/

theorem vopPut_sound {t r p x : ℕ} (h : State.Sound κ s) : State.Sound κ (vopPut t r p x s) := sound_ite (vput_sound (vput_sound h)) (vput_sound h)

theorem setGen_sound {x : BitVec 32} (h : State.Sound κ s) : State.Sound κ (setGen s x) := setCore_sound h

theorem advance_sound (h : State.Sound κ s) : State.Sound κ (advance s) := sound_ite (setGen_sound h) h

/-! ### Flags -/

theorem setPred_sound {k : ℕ} {f : ℕ → Bool} (h : State.Sound κ s) : State.Sound κ (setPred s k f) := forLanes_sound h (fun _ _ ht => kput_sound ht)

/-! ### Accesses of memory (R114 to R118) -/

theorem drainAcc_sound {as : List LaneAcc} {k : AccKind} (h : State.Sound κ s) : State.Sound κ (drainAcc s as k) := sound_ite h (drainFor_sound h)

theorem countBanks_sound {locs : List Loc} (h : State.Sound κ s) : State.Sound κ (countBanks locs s) :=
  foldl_sound h (fun _ _ ht => by
      split
      · exact ht
      · exact sound_ite ht (bump_sound ht))

theorem dirtyAcc_sound {a : LaneAcc} (h : State.Sound κ s) : State.Sound κ (dirtyAcc s a) := by
  unfold dirtyAcc
  split
  · exact setDirty_sound h
  · exact foldl_sound h (fun _ _ ht => by
          split
          · exact ht
          · exact setDirty_sound ht)
  · exact h

theorem storeAcc_sound {a : LaneAcc} {v : ℕ} (h : State.Sound κ s) : State.Sound κ (storeAcc s a v) := locsPut_sound (dirtyAcc_sound h)

theorem storeAll_sound {l : List (LaneAcc × ℕ)} (h : State.Sound κ s) : State.Sound κ (storeAll s l) :=
  foldl_sound (foldl_sound h (fun _ _ ht => dirtyAcc_sound ht)) (fun _ _ ht => locsPut_sound ht)

theorem keepBad_sound (ht : State.Sound κ t) : State.Sound κ (keepBad s t) := State.sound_mk ht

theorem spoilMem_sound {ws : List LaneAcc} (h : State.Sound κ s) : State.Sound κ (spoilMem s ws) :=
  keepBad_sound (storeAll_sound (State.freshen_sound (drainAcc_sound h)))

/-! ### Control flow and MODE (R163, R196 to R198) -/

theorem execNop_sound {nx : NX} (h : State.Sound κ s) : Out.Sound κ (execNop nx s) :=
  retire_sound h (Plan.sound_wait IfSome.none h)

theorem execReservedOpcode_sound {x1 : BitVec 32} (h : State.Sound κ s) : Out.Sound κ (execReservedOpcode x1 s) := Out.sound_next (raise_sound h)

theorem arm_sound {call : Bool} {tgts : List (ℕ × BitVec 64)} (h : State.Sound κ s) : State.Sound κ (arm s call tgts) := setArmed_sound h

theorem execXj_sound {nx : NX} {k : BitVec 4} {o : BitVec 18} (h : State.Sound κ s) : Out.Sound κ (execXj nx k o s) :=
  retire_sound h (Plan.sound_wait IfSome.none (arm_sound h))

theorem execXju_sound {nx : NX} {k : BitVec 4} {o : BitVec 18} (h : State.Sound κ s) : Out.Sound κ (execXju nx k o s) :=
  retire_sound h (Plan.sound_wait IfSome.none (arm_sound h))

theorem execXcall_sound {nx : NX} {o : BitVec 18} (h : State.Sound κ s) : Out.Sound κ (execXcall nx o s) :=
  retire_sound h (Plan.sound_wait IfSome.none (arm_sound h))

theorem execXret_sound {nx : NX} (h : State.Sound κ s) : Out.Sound κ (execXret nx s) :=
  retire_sound h (Plan.sound_wait IfSome.none (arm_sound h))

theorem execXjr_sound {nx : NX} {a : BitVec 7} (h : State.Sound κ s) : Out.Sound κ (execXjr nx a s) :=
  retire_sound h (Plan.sound_wait IfSome.none (arm_sound h))

theorem execXbtab_sound {nx : NX} {a : BitVec 7} {targets : List (BitVec 32)} (h : State.Sound κ s) : Out.Sound κ (execXbtab nx a targets s) :=
  retire_sound h (Plan.sound_wait IfSome.none (arm_sound h))

theorem loopSet_sound {n : BitVec 64} (h : State.Sound κ s) : State.Sound κ (loopSet s n) := setLc_sound (setLs_sound h)

theorem execLpsImm_sound {nx : NX} {i : BitVec 15} (h : State.Sound κ s) : Out.Sound κ (execLpsImm nx i s) :=
  retire_sound h (Plan.sound_wait IfSome.none (loopSet_sound h))

theorem execLpsReg_sound {nx : NX} {a : BitVec 6} (h : State.Sound κ s) : Out.Sound κ (execLpsReg nx a s) :=
  retire_sound h (Plan.sound_wait IfSome.none (loopSet_sound h))

theorem moveHome_sound {l : Nat} {t : Thread} {key : Nat} {p : BitVec 64} (h : s.Sound κ) : (moveHome s l t key p).Sound κ := by
  unfold moveHome
  extract_lets bit home vs ks s1 s2
  have hmove : ∀ ys : List Split, Each (Split.Sound κ) ys → Each (Split.Sound κ) (ys.foldl (fun (acc : Bool × List Split) x =>
      if !acc.1 && x.inRwait p then (true, acc.2 ++ [{ x with mask := x.mask ||| home }]) else (acc.1, acc.2 ++ [x])) (false, [])).2 := by
    refine fun ys hys => foldl_sound_each (Q := fun acc : Bool × List Split => Each (Split.Sound κ) acc.2) hys Each.nil fun acc x hx hacc => ?_
    split
    · exact Each.append hacc (Each.cons { hx with } Each.nil)
    · exact Each.append hacc (Each.cons hx Each.nil)
  have h1 : s1.Sound κ := updGroup_sound h fun g hg => { hg with splits := hmove _ hg.splits }
  have h2 : s2.Sound κ := carryBad_sound h1
  have hg : (s2.grp.without bit).Sound κ := Group.without_sound h2.grp
  exact State.sound_mk (Fields.withSplit (Fields.withGrp h2 { hg with splits := Each.map h2.grp.splits fun _ hx => { hx with } }) { h2.split with })

theorem moveLanes_sound (h : State.Sound κ s) : State.Sound κ (moveLanes s) :=
  sound_ite h (foldl_sound h (fun _ _ ht => by
        split
        · exact ht
        · split
          · exact ht
          · exact moveHome_sound ht))

theorem rwaitDone_sound {d : ℕ} (h : State.Sound κ s) : State.Sound κ (rwaitDone s d) :=
  sound_ite (sput_sound (State.sound_mk (Fields.withSplit (Fields.withGrp h { h.grp with splits := Each.filter h.grp.splits }) { h.split with })))
      (setOwn_sound (sput_sound (State.sound_mk
          (Fields.withSplit (Fields.withGrp h { h.grp with splits := Each.filter h.grp.splits }) { h.split with })))
              (fun _ hc => flushPoint_sound hc))

theorem execRwait_sound {nx : NX} {d a : BitVec 7} (h : State.Sound κ s) : Out.Sound κ (execRwait nx d a s) :=
  retire_sound h (Plan.sound_wait (sound_ite IfSome.none (IfSome.some (waitAs_sound (sound_ite h (moveLanes_sound h)))))
      (sound_ite (sound_ite h (moveLanes_sound h)) (rwaitDone_sound (sound_ite h (moveLanes_sound h)))))

theorem endHold_sound (h : State.Sound κ s) : State.Sound κ (endHold s) := sound_ite (setSplit_sound h (fun _ _ => ⟨IfSome.none⟩)) h

theorem rwaitExpire_sound (h : State.Sound κ s) : State.Sound κ (rwaitExpire s) := by
  unfold rwaitExpire
  split
  · exact endHold_sound (retireRest_sound h (Plan.sound_wait IfSome.none (rwaitDone_sound h)))
  · exact h

theorem expireSplit_sound {key ix : ℕ} (h : State.Sound κ s) : State.Sound κ (expireSplit s key ix) := by
  unfold expireSplit
  split
  · exact h
  · rename_i e
    exact unfocusSplit_sound (State.sound_mk (rwaitExpire_sound (IfSome.get e (focusSplit_sound h))))

theorem execRwaitTimeout_sound (h : State.Sound κ s) : Out.Sound κ (execRwaitTimeout s) :=
  Out.sound_next (onCrew_sound h (fun _ ht => expireSplit_sound ht))

theorem execYield_sound {nx : NX} (h : State.Sound κ s) : Out.Sound κ (execYield nx s) :=
  retire_sound h (Plan.sound_wait IfSome.none (setOwn_sound h (fun _ hc => flushPoint_sound hc)))

theorem execTrap_sound {nx : NX} {c : BitVec 22} (h : State.Sound κ s) : Out.Sound κ (execTrap nx c s) :=
  retire_sound h (Plan.sound_wait IfSome.none h)

theorem execBrk_sound {nx : NX} {c : BitVec 22} (h : State.Sound κ s) : Out.Sound κ (execBrk nx c s) :=
  retire_sound h (Plan.sound_wait IfSome.none h)

theorem setmodeValue_sound {f : BitVec 7} {i : BitVec 15} : IfSome κ.mode (setmodeValue s f i) := by
  have hlegal : ∀ v : BitVec 32, IfSome κ.mode (if modeLegal v = true then some v else none) := fun v => by
    split
    · exact .some fun _ => ‹_›
    · exact IfSome.none
  unfold setmodeValue
  exact sound_ite IfSome.none (IfSome.bind_of hlegal)

theorem modeOf_sound (h : s.Sound κ) : κ.mode (modeOf s) := sound_ite h.crew.strm.mode h.grp.mode

theorem execSetmode_sound {nx : NX} {f : BitVec 7} {i : BitVec 15} (h : State.Sound κ s) : Out.Sound κ (execSetmode nx f i s) :=
  retire_sound h (Plan.sound_wait IfSome.none (setMode_sound h (IfSome.getD setmodeValue_sound (modeOf_sound h))))

theorem execSetmodev_sound {nx : NX} {a : BitVec 7} (h : s.Sound κ) : Out.Sound κ (execSetmodev nx a s) := by
  unfold execSetmodev
  split
  · exact retire_sound h (Plan.sound_done h)
  · rename_i p ps hact
    by_cases hm : modeLegal (vget s a.toNat p) = true
    · exact retire_sound h (Plan.sound_done (setMode_sound h fun _ => hm))
    · obtain ⟨f, hf⟩ : ∃ f, firstFx [check (ps.all fun q => vget s a.toNat q = vget s a.toNat p) .nonuniform,
          check (modeLegal (vget s a.toNat p)) .illegalOp] = some f := by
        rw [Bool.not_eq_true] at hm
        cases ps.all fun q => decide (vget s a.toNat q = vget s a.toNat p) with
        | false => exact ⟨_, rfl⟩
        | true => exact ⟨fx .illegalOp, by rw [hm]; rfl⟩
      exact retire_sound_of_fault h hf

theorem execGetmode_sound {nx : NX} {d : BitVec 7} (h : State.Sound κ s) : Out.Sound κ (execGetmode nx d s) :=
  retire_sound h (Plan.sound_wait IfSome.none (iput_sound h))

/-! ### Scalar instructions (R199 to R214) -/

theorem scalar2_sound {op : ℕ} {nx : NX} {d a b : BitVec 7} {f : BitVec 64 → BitVec 64 → BitVec 64} (h : State.Sound κ s) :
    Out.Sound κ (scalar2 op nx d a b f s) :=
  retire_sound h (Plan.sound_wait IfSome.none (sput_sound h))

theorem scalar1_sound {op : ℕ} {nx : NX} {d a : BitVec 7} {f : BitVec 64 → BitVec 64} (h : State.Sound κ s) : Out.Sound κ (scalar1 op nx d a f s) :=
  retire_sound h (Plan.sound_wait IfSome.none (sput_sound h))

theorem scalar0_sound {op : ℕ} {nx : NX} {d : BitVec 7} {f : BitVec 64 → BitVec 64} (h : State.Sound κ s) : Out.Sound κ (scalar0 op nx d f s) :=
  retire_sound h (Plan.sound_wait IfSome.none (sput_sound h))

theorem execSadd_sound {nx : NX} {d a b : BitVec 7} (h : State.Sound κ s) : Out.Sound κ (execSadd nx d a b s) := scalar2_sound h

theorem execSsub_sound {nx : NX} {d a b : BitVec 7} (h : State.Sound κ s) : Out.Sound κ (execSsub nx d a b s) := scalar2_sound h

theorem execSmul_sound {nx : NX} {d a b : BitVec 7} (h : State.Sound κ s) : Out.Sound κ (execSmul nx d a b s) := scalar2_sound h

theorem execSmulh_sound {nx : NX} {d a b : BitVec 7} {x : BitVec 1} (h : State.Sound κ s) : Out.Sound κ (execSmulh nx d a b x s) := scalar2_sound h

theorem execSdiv_sound {nx : NX} {d a b : BitVec 7} {x : BitVec 1} (h : State.Sound κ s) : Out.Sound κ (execSdiv nx d a b x s) := scalar2_sound h

theorem execSrem_sound {nx : NX} {d a b : BitVec 7} {x : BitVec 1} (h : State.Sound κ s) : Out.Sound κ (execSrem nx d a b x s) := scalar2_sound h

theorem execSand_sound {nx : NX} {d a b : BitVec 7} (h : State.Sound κ s) : Out.Sound κ (execSand nx d a b s) := scalar2_sound h

theorem execSor_sound {nx : NX} {d a b : BitVec 7} (h : State.Sound κ s) : Out.Sound κ (execSor nx d a b s) := scalar2_sound h

theorem execSxor_sound {nx : NX} {d a b : BitVec 7} (h : State.Sound κ s) : Out.Sound κ (execSxor nx d a b s) := scalar2_sound h

theorem execSshl_sound {nx : NX} {d a b : BitVec 7} (h : State.Sound κ s) : Out.Sound κ (execSshl nx d a b s) := scalar2_sound h

theorem execSshr_sound {nx : NX} {d a b : BitVec 7} (h : State.Sound κ s) : Out.Sound κ (execSshr nx d a b s) := scalar2_sound h

theorem execSsra_sound {nx : NX} {d a b : BitVec 7} (h : State.Sound κ s) : Out.Sound κ (execSsra nx d a b s) := scalar2_sound h

theorem execSmin_sound {nx : NX} {d a b : BitVec 7} {x : BitVec 1} (h : State.Sound κ s) : Out.Sound κ (execSmin nx d a b x s) := scalar2_sound h

theorem execSmax_sound {nx : NX} {d a b : BitVec 7} {x : BitVec 1} (h : State.Sound κ s) : Out.Sound κ (execSmax nx d a b x s) := scalar2_sound h

theorem execSaddr_sound {nx : NX} {d a b : BitVec 7} {x : BitVec 1} (h : State.Sound κ s) : Out.Sound κ (execSaddr nx d a b x s) := scalar2_sound h

theorem execScmp_sound {nx : NX} {c k : BitVec 3} {a b : BitVec 7} {x : BitVec 1} (h : State.Sound κ s) : Out.Sound κ (execScmp nx c k a b x s) :=
  retire_sound h (Plan.sound_wait IfSome.none (setPred_sound h))

theorem execSsel_sound {nx : NX} {d a b : BitVec 7} (h : State.Sound κ s) : Out.Sound κ (execSsel nx d a b s) :=
  retire_sound h (Plan.sound_wait IfSome.none (sput_sound h))

theorem execSmov_sound {nx : NX} {d a : BitVec 7} (h : State.Sound κ s) : Out.Sound κ (execSmov nx d a s) := scalar1_sound h

theorem execSclz_sound {nx : NX} {d a : BitVec 7} (h : State.Sound κ s) : Out.Sound κ (execSclz nx d a s) := scalar1_sound h

theorem execSpopc_sound {nx : NX} {d a : BitVec 7} (h : State.Sound κ s) : Out.Sound κ (execSpopc nx d a s) := scalar1_sound h

theorem execSaddi_sound {nx : NX} {d a : BitVec 7} {i : BitVec 8} (h : State.Sound κ s) : Out.Sound κ (execSaddi nx d a i s) := scalar1_sound h

theorem execSli_sound {nx : NX} {d : BitVec 7} {i : BitVec 15} (h : State.Sound κ s) : Out.Sound κ (execSli nx d i s) := scalar0_sound h

theorem execSlih_sound {nx : NX} {d : BitVec 7} {i : BitVec 15} (h : State.Sound κ s) : Out.Sound κ (execSlih nx d i s) := scalar0_sound h

theorem execSsext_sound {nx : NX} {d a : BitVec 7} {i : BitVec 8} (h : State.Sound κ s) : Out.Sound κ (execSsext nx d a i s) :=
  retire_sound h (Plan.sound_wait IfSome.none (sput_sound h))

theorem execSbfx_sound {nx : NX} {d a : BitVec 7} {l w : BitVec 4} (h : State.Sound κ s) : Out.Sound κ (execSbfx nx d a l w s) :=
  retire_sound h (Plan.sound_wait IfSome.none (sput_sound h))

theorem execSbfi_sound {nx : NX} {d a : BitVec 7} {l w : BitVec 4} (h : State.Sound κ s) : Out.Sound κ (execSbfi nx d a l w s) :=
  retire_sound h (Plan.sound_wait IfSome.none (sput_sound h))

theorem execSshli_sound {nx : NX} {d a : BitVec 7} {c : BitVec 6} (h : State.Sound κ s) : Out.Sound κ (execSshli nx d a c s) := scalar1_sound h

theorem execSshri_sound {nx : NX} {d a : BitVec 7} {c : BitVec 6} (h : State.Sound κ s) : Out.Sound κ (execSshri nx d a c s) := scalar1_sound h

theorem execSsrai_sound {nx : NX} {d a : BitVec 7} {c : BitVec 6} (h : State.Sound κ s) : Out.Sound κ (execSsrai nx d a c s) := scalar1_sound h

theorem selPut_sound {d : ℕ} {v : BitVec 64} (h : State.Sound κ s) : State.Sound κ (selPut s d v) :=
  sound_ite (sput_sound h) (sound_ite (setSplit_sound h (fun _ hx => { hx with })) (sound_ite (setLs_sound h) (setLc_sound h)))

theorem execSld_sound {nx : NX} {d a : BitVec 7} {i : BitVec 8} (h : State.Sound κ s) : Out.Sound κ (execSld nx d a i s) :=
  retire_sound h (Plan.sound_wait IfSome.none (selPut_sound (drainAcc_sound h)))

theorem execSst_sound {nx : NX} {d a : BitVec 7} {i : BitVec 8} (h : State.Sound κ s) : Out.Sound κ (execSst nx d a i s) :=
  retire_sound h (Plan.sound_wait IfSome.none (storeAcc_sound (drainAcc_sound h)))

theorem execSrd_sound {nx : NX} {d : BitVec 7} {i : BitVec 15} (h : State.Sound κ s) : Out.Sound κ (execSrd nx d i s) :=
  retire_sound h (Plan.sound_wait IfSome.none (sput_sound h))

theorem swrPut_sound {sel : ℕ} {v : BitVec 64} (h : State.Sound κ s) : State.Sound κ (swrPut s sel v) :=
  sound_ite (setLs_sound h) (sound_ite (setLc_sound h)
      (sound_ite (setSplit_sound h (fun _ hx => { hx with })) (setOwn_sound h (fun _ hc => { hc with }))))

theorem execSwr_sound {nx : NX} {d : BitVec 7} {i : BitVec 15} (h : State.Sound κ s) : Out.Sound κ (execSwr nx d i s) :=
  retire_sound h (Plan.sound_wait IfSome.none (swrPut_sound h))

theorem execCsrr_sound {nx : NX} {d : BitVec 7} {i : BitVec 15} (h : State.Sound κ s) : Out.Sound κ (execCsrr nx d i s) :=
  retire_sound h (Plan.sound_wait IfSome.none (sput_sound h))

theorem execCsrw_sound {nx : NX} {d : BitVec 7} {i : BitVec 15} (h : State.Sound κ s) : Out.Sound κ (execCsrw nx d i s) :=
  retire_sound h (Plan.sound_wait IfSome.none (setGrp_sound h (fun _ hg => { hg with })))

theorem execCntr_sound {nx : NX} {d : BitVec 7} {i : BitVec 15} (h : State.Sound κ s) : Out.Sound κ (execCntr nx d i s) :=
  retire_sound h (Plan.sound_wait IfSome.none (sput_sound h))

theorem execClk_sound {nx : NX} {d : BitVec 7} {i : BitVec 15} (h : State.Sound κ s) : Out.Sound κ (execClk nx d i s) :=
  retire_sound h (Plan.sound_wait IfSome.none (sput_sound h))

theorem execSeed_sound {nx : NX} {a : BitVec 7} (h : State.Sound κ s) : Out.Sound κ (execSeed nx a s) :=
  retire_sound h (Plan.sound_wait IfSome.none (setGen_sound h))

/-! ### Vector instructions (R215 to R227) -/

theorem vecPlan_sound {accept : ℕ → Bool} {regsOk : Bool} {extra : Option Fx} {done : State} (hdone : State.Sound κ done) :
    Plan.Sound κ (vecPlan s accept regsOk extra done) :=
  Plan.sound_wait IfSome.none hdone

theorem elementwise_sound {d a b : ℕ} {x : BitVec 1} {f : ℕ → ℕ → ℕ → ℕ} (h : State.Sound κ s) : State.Sound κ (elementwise s d a b x f) :=
  forLanes_sound h (fun _ _ ht => vopPut_sound ht)

theorem elementwise1_sound {d a : ℕ} {f : ℕ → ℕ} (h : State.Sound κ s) : State.Sound κ (elementwise1 s d a f) :=
  forLanes_sound h (fun _ _ ht => vopPut_sound ht)

theorem vec2_sound {op : ℕ} {nx : NX} {d a b : BitVec 7} {x : BitVec 1} {accept : ℕ → Bool} {f : State → ℕ → ℕ → ℕ → ℕ} (h : State.Sound κ s) :
    Out.Sound κ (vec2 op nx d a b x accept f s) :=
  retire_sound h (vecPlan_sound (elementwise_sound h))

theorem vec1_sound {op : ℕ} {nx : NX} {d a : BitVec 7} {accept : ℕ → Bool} {f : State → ℕ → ℕ} (h : State.Sound κ s) :
    Out.Sound κ (vec1 op nx d a accept f s) :=
  retire_sound h (vecPlan_sound (elementwise1_sound h))

theorem execVadd_sound {nx : NX} {d a b : BitVec 7} {x : BitVec 1} (h : State.Sound κ s) : Out.Sound κ (execVadd nx d a b x s) := vec2_sound h

theorem execVsub_sound {nx : NX} {d a b : BitVec 7} {x : BitVec 1} (h : State.Sound κ s) : Out.Sound κ (execVsub nx d a b x s) := vec2_sound h

theorem execVmul_sound {nx : NX} {d a b : BitVec 7} {x : BitVec 1} (h : State.Sound κ s) : Out.Sound κ (execVmul nx d a b x s) := vec2_sound h

theorem execVmad_sound {nx : NX} {d a b : BitVec 7} {x : BitVec 1} (h : State.Sound κ s) : Out.Sound κ (execVmad nx d a b x s) := vec2_sound h

theorem execVmsb_sound {nx : NX} {d a b : BitVec 7} {x : BitVec 1} (h : State.Sound κ s) : Out.Sound κ (execVmsb nx d a b x s) := vec2_sound h

theorem execVmin_sound {nx : NX} {d a b : BitVec 7} {x : BitVec 1} (h : State.Sound κ s) : Out.Sound κ (execVmin nx d a b x s) := vec2_sound h

theorem execVmax_sound {nx : NX} {d a b : BitVec 7} {x : BitVec 1} (h : State.Sound κ s) : Out.Sound κ (execVmax nx d a b x s) := vec2_sound h

theorem execVabs_sound {nx : NX} {d a : BitVec 7} (h : State.Sound κ s) : Out.Sound κ (execVabs nx d a s) := vec1_sound h

theorem execVneg_sound {nx : NX} {d a : BitVec 7} (h : State.Sound κ s) : Out.Sound κ (execVneg nx d a s) := vec1_sound h

theorem execVshl_sound {nx : NX} {d a b : BitVec 7} {x : BitVec 1} (h : State.Sound κ s) : Out.Sound κ (execVshl nx d a b x s) := vec2_sound h

theorem execVshr_sound {nx : NX} {d a b : BitVec 7} {x : BitVec 1} (h : State.Sound κ s) : Out.Sound κ (execVshr nx d a b x s) := vec2_sound h

theorem execVsra_sound {nx : NX} {d a b : BitVec 7} {x : BitVec 1} (h : State.Sound κ s) : Out.Sound κ (execVsra nx d a b x s) := vec2_sound h

theorem execVcmp_sound {nx : NX} {c : BitVec 3} {y : BitVec 1} {k : BitVec 3} {a b : BitVec 7} {x : BitVec 1} (h : State.Sound κ s) :
    Out.Sound κ (execVcmp nx c y k a b x s) :=
  retire_sound h (vecPlan_sound (setPred_sound h))

theorem execVsel_sound {nx : NX} {d a b : BitVec 7} {x : BitVec 1} (h : State.Sound κ s) : Out.Sound κ (execVsel nx d a b x s) := vec2_sound h

theorem rawLanes_sound {d : ℕ} {f : ℕ → BitVec 32} (h : State.Sound κ s) : State.Sound κ (rawLanes s d f) :=
  forLanes_sound h (fun _ _ ht => vput_sound ht)

theorem logic_sound {op : ℕ} {nx : NX} {d a b : BitVec 7} {x : BitVec 1} {f : BitVec 32 → BitVec 32 → BitVec 32} (h : State.Sound κ s) :
    Out.Sound κ (logic op nx d a b x f s) :=
  retire_sound h (Plan.sound_wait IfSome.none (rawLanes_sound h))

theorem execVand_sound {nx : NX} {d a b : BitVec 7} {x : BitVec 1} (h : State.Sound κ s) : Out.Sound κ (execVand nx d a b x s) := logic_sound h

theorem execVor_sound {nx : NX} {d a b : BitVec 7} {x : BitVec 1} (h : State.Sound κ s) : Out.Sound κ (execVor nx d a b x s) := logic_sound h

theorem execVxor_sound {nx : NX} {d a b : BitVec 7} {x : BitVec 1} (h : State.Sound κ s) : Out.Sound κ (execVxor nx d a b x s) := logic_sound h

theorem execVnot_sound {nx : NX} {d a : BitVec 7} (h : State.Sound κ s) : Out.Sound κ (execVnot nx d a s) :=
  retire_sound h (Plan.sound_wait IfSome.none (rawLanes_sound h))

theorem execVmovV_sound {nx : NX} {d a : BitVec 7} (h : State.Sound κ s) : Out.Sound κ (execVmovV nx d a s) :=
  retire_sound h (Plan.sound_wait IfSome.none (rawLanes_sound h))

theorem execVmovS_sound {nx : NX} {d b : BitVec 7} (h : State.Sound κ s) : Out.Sound κ (execVmovS nx d b s) :=
  retire_sound h (Plan.sound_wait IfSome.none (rawLanes_sound h))

theorem execVli_sound {nx : NX} {d : BitVec 7} {i : BitVec 15} (h : State.Sound κ s) : Out.Sound κ (execVli nx d i s) :=
  retire_sound h (Plan.sound_wait IfSome.none (rawLanes_sound h))

theorem execVbcsImm_sound {nx : NX} {d a : BitVec 7} {p : BitVec 5} (h : State.Sound κ s) : Out.Sound κ (execVbcsImm nx d a p s) :=
  retire_sound h (Plan.sound_wait IfSome.none (sput_sound h))

theorem execVbcsReg_sound {nx : NX} {d a b : BitVec 7} (h : State.Sound κ s) : Out.Sound κ (execVbcsReg nx d a b s) :=
  retire_sound h (Plan.sound_wait IfSome.none (sput_sound h))

theorem execVlane_sound {nx : NX} {d s' : BitVec 7} (h : State.Sound κ s) : Out.Sound κ (execVlane nx d s' s) :=
  retire_sound h (Plan.sound_wait IfSome.none (rawLanes_sound h))

theorem dotLanes_sound {d a b : ℕ} {x : BitVec 1} {sgn : Bool} {f : ℤ → ℤ → ℤ} (h : State.Sound κ s) : State.Sound κ (dotLanes s d a b x sgn f) :=
  rawLanes_sound h

theorem execVdot4_sound {nx : NX} {d a b : BitVec 7} {x : BitVec 1} (h : State.Sound κ s) : Out.Sound κ (execVdot4 nx d a b x s) :=
  retire_sound h (vecPlan_sound (dotLanes_sound h))

theorem dot2Flt_sound {d a b : ℕ} {x : BitVec 1} (h : State.Sound κ s) : State.Sound κ (dot2Flt s d a b x) := rawLanes_sound h

theorem execVdot2_sound {nx : NX} {d a b : BitVec 7} {x : BitVec 1} (h : State.Sound κ s) : Out.Sound κ (execVdot2 nx d a b x s) :=
  retire_sound h (vecPlan_sound (sound_ite (dot2Flt_sound h) (dotLanes_sound h)))

theorem execVsad_sound {nx : NX} {d a b : BitVec 7} {x : BitVec 1} (h : State.Sound κ s) : Out.Sound κ (execVsad nx d a b x s) :=
  retire_sound h (vecPlan_sound (dotLanes_sound h))

theorem execVclz_sound {nx : NX} {d a : BitVec 7} (h : State.Sound κ s) : Out.Sound κ (execVclz nx d a s) := vec1_sound h

theorem execVpopc_sound {nx : NX} {d a : BitVec 7} (h : State.Sound κ s) : Out.Sound κ (execVpopc nx d a s) := vec1_sound h

theorem countLanes_sound {op : ℕ} {nx : NX} {d a : BitVec 7} {accept : ℕ → Bool} {f : State → EFmt → List ℕ → ℕ} (h : State.Sound κ s) :
    Out.Sound κ (countLanes op nx d a accept f s) :=
  retire_sound h (vecPlan_sound (rawLanes_sound h))

theorem execVnzc_sound {nx : NX} {d a : BitVec 7} (h : State.Sound κ s) : Out.Sound κ (execVnzc nx d a s) := countLanes_sound h

theorem execVnzb_sound {nx : NX} {d a : BitVec 7} (h : State.Sound κ s) : Out.Sound κ (execVnzb nx d a s) := countLanes_sound h

theorem execVterm_sound {nx : NX} {d a : BitVec 7} (h : State.Sound κ s) : Out.Sound κ (execVterm nx d a s) := countLanes_sound h

theorem execVrcp_sound {nx : NX} {d a : BitVec 7} (h : State.Sound κ s) : Out.Sound κ (execVrcp nx d a s) := vec1_sound h

theorem execVrsq_sound {nx : NX} {d a : BitVec 7} (h : State.Sound κ s) : Out.Sound κ (execVrsq nx d a s) := vec1_sound h

theorem execVexp2_sound {nx : NX} {d a : BitVec 7} (h : State.Sound κ s) : Out.Sound κ (execVexp2 nx d a s) := vec1_sound h

theorem execVlog2_sound {nx : NX} {d a : BitVec 7} (h : State.Sound κ s) : Out.Sound κ (execVlog2 nx d a s) := vec1_sound h

theorem execVsin_sound {nx : NX} {d a : BitVec 7} (h : State.Sound κ s) : Out.Sound κ (execVsin nx d a s) := vec1_sound h

theorem execVcos_sound {nx : NX} {d a : BitVec 7} (h : State.Sound κ s) : Out.Sound κ (execVcos nx d a s) := vec1_sound h

/-! ### Conversions -/

theorem execVcvt_sound {nx : NX} {d a : BitVec 7} {sel : BitVec 3} {t : BitVec 4} (h : State.Sound κ s) : Out.Sound κ (execVcvt nx d a sel t s) :=
  retire_sound h (Plan.sound_wait IfSome.none (advance_sound (forLanes_sound h (fun _ _ ht1 => vopPut_sound ht1))))

theorem execVpack_sound {nx : NX} {d a b : BitVec 7} {x : BitVec 1} (h : State.Sound κ s) : Out.Sound κ (execVpack nx d a b x s) :=
  retire_sound h (vecPlan_sound (advance_sound (forLanes_sound h (fun _ _ ht => vopPut_sound ht))))

theorem execVunpk_sound {nx : NX} {d a : BitVec 7} (h : State.Sound κ s) : Out.Sound κ (execVunpk nx d a s) :=
  retire_sound h (vecPlan_sound (forLanes_sound h (fun _ _ ht => vput_sound (vput_sound ht))))

theorem execVrq_sound {nx : NX} {d a b : BitVec 7} {x : BitVec 1} (h : State.Sound κ s) : Out.Sound κ (execVrq nx d a b x s) :=
  retire_sound h (vecPlan_sound (advance_sound (forLanes_sound h (fun _ _ ht => vopPut_sound ht))))

theorem execVrshr_sound {nx : NX} {d a b : BitVec 7} {x : BitVec 1} (h : State.Sound κ s) : Out.Sound κ (execVrshr nx d a b x s) := vec2_sound h

theorem execVscl_sound {nx : NX} {d a b : BitVec 7} {x : BitVec 1} (h : State.Sound κ s) : Out.Sound κ (execVscl nx d a b x s) :=
  retire_sound h (vecPlan_sound (forLanes_sound h (fun _ _ ht => vopPut_sound ht)))

/-! ### Work across lanes (R231 to R243) -/

theorem execVshfl_sound {nx : NX} {d a b : BitVec 7} {x : BitVec 1} (h : State.Sound κ s) : Out.Sound κ (execVshfl nx d a b x s) :=
  retire_sound h (Plan.sound_wait IfSome.none (rawLanes_sound h))

theorem execVshfli_sound {nx : NX} {d a : BitVec 7} {m : BitVec 3} {c : BitVec 5} (h : State.Sound κ s) : Out.Sound κ (execVshfli nx d a m c s) :=
  retire_sound h (Plan.sound_wait IfSome.none (rawLanes_sound h))

theorem redPlan_sound {d a o : ℕ} {done : State} (hdone : State.Sound κ done) : Plan.Sound κ (redPlan s d a o done) :=
  Plan.sound_wait IfSome.none hdone

theorem execVred_sound {nx : NX} {d a : BitVec 7} {o : BitVec 3} (h : State.Sound κ s) : Out.Sound κ (execVred nx d a o s) :=
  retire_sound h (redPlan_sound (forLanes_sound h (fun _ _ ht => vopPut_sound ht)))

theorem execVscan_sound {nx : NX} {d a : BitVec 7} {e : BitVec 1} {o : BitVec 3} (h : State.Sound κ s) : Out.Sound κ (execVscan nx d a e o s) :=
  retire_sound h (redPlan_sound (forLanes_sound h (fun _ _ ht => vopPut_sound ht)))

theorem execVprune_sound {nx : NX} {d a b : BitVec 7} {x : BitVec 1} (h : State.Sound κ s) : Out.Sound κ (execVprune nx d a b x s) :=
  retire_sound h (vecPlan_sound (foldl_sound h (fun _ _ ht => foldl_sound ht (fun _ _ ht1 => vput_sound (vput_sound ht1)))))

theorem execVspdot_sound {nx : NX} {d a b : BitVec 7} {x : BitVec 1} (h : State.Sound κ s) : Out.Sound κ (execVspdot nx d a b x s) :=
  retire_sound h (vecPlan_sound (rawLanes_sound h))

theorem pred2_sound {op : ℕ} {nx : NX} {d a b : BitVec 7} {x : BitVec 1} {f : Bool → Bool → Bool} (h : State.Sound κ s) :
    Out.Sound κ (pred2 op nx d a b x f s) :=
  retire_sound h (Plan.sound_wait IfSome.none (setPred_sound h))

theorem execKand_sound {nx : NX} {d a b : BitVec 7} {x : BitVec 1} (h : State.Sound κ s) : Out.Sound κ (execKand nx d a b x s) := pred2_sound h

theorem execKor_sound {nx : NX} {d a b : BitVec 7} {x : BitVec 1} (h : State.Sound κ s) : Out.Sound κ (execKor nx d a b x s) := pred2_sound h

theorem execKxor_sound {nx : NX} {d a b : BitVec 7} {x : BitVec 1} (h : State.Sound κ s) : Out.Sound κ (execKxor nx d a b x s) := pred2_sound h

theorem execKnot_sound {nx : NX} {d a : BitVec 7} (h : State.Sound κ s) : Out.Sound κ (execKnot nx d a s) :=
  retire_sound h (Plan.sound_wait IfSome.none (setPred_sound h))

theorem execKmov_sound {nx : NX} {d a : BitVec 7} (h : State.Sound κ s) : Out.Sound κ (execKmov nx d a s) :=
  retire_sound h (Plan.sound_wait IfSome.none (setPred_sound h))

theorem predScalar_sound {op : ℕ} {nx : NX} {d a : BitVec 7} {f : List ℕ → ℕ} (h : State.Sound κ s) : Out.Sound κ (predScalar op nx d a f s) :=
  retire_sound h (Plan.sound_wait IfSome.none (sput_sound h))

theorem execKany_sound {nx : NX} {d a : BitVec 7} (h : State.Sound κ s) : Out.Sound κ (execKany nx d a s) := predScalar_sound h

theorem execKall_sound {nx : NX} {d a : BitVec 7} (h : State.Sound κ s) : Out.Sound κ (execKall nx d a s) := predScalar_sound h

theorem execKcnt_sound {nx : NX} {d a : BitVec 7} (h : State.Sound κ s) : Out.Sound κ (execKcnt nx d a s) := predScalar_sound h

theorem execKbits_sound {nx : NX} {d a : BitVec 7} (h : State.Sound κ s) : Out.Sound κ (execKbits nx d a s) := predScalar_sound h

theorem execKfromv_sound {nx : NX} {d a : BitVec 7} (h : State.Sound κ s) : Out.Sound κ (execKfromv nx d a s) :=
  retire_sound h (Plan.sound_wait IfSome.none (setPred_sound h))

theorem execKtov_sound {nx : NX} {d a : BitVec 7} (h : State.Sound κ s) : Out.Sound κ (execKtov nx d a s) :=
  retire_sound h (Plan.sound_wait IfSome.none (rawLanes_sound h))

/-! ### Instructions of memory (R246 to R257) -/

theorem storeAdvance_sound {before : State} (h : State.Sound κ s) : State.Sound κ (storeAdvance before s) := sound_ite (advance_sound h) h

theorem loadPlan_sound {regsOk : Bool} {d : ℕ} {addr : ℕ → ℕ} (h : State.Sound κ s) : Plan.Sound κ (loadPlan s regsOk d addr) :=
  Plan.sound_wait IfSome.none (countBanks_sound (foldl_sound (drainAcc_sound h) (fun _ _ ht => vopPut_sound ht)))

theorem storePlan_sound {regsOk : Bool} {d : ℕ} {addr : ℕ → ℕ} (h : State.Sound κ s) : Plan.Sound κ (storePlan s regsOk d addr) :=
  Plan.sound_wait IfSome.none (countBanks_sound (storeAdvance_sound (storeAll_sound (drainAcc_sound h))))

theorem execLd_sound {nx : NX} {d a b : BitVec 7} (h : State.Sound κ s) : Out.Sound κ (execLd nx d a b s) :=
  retire_sound h (loadPlan_sound h)

theorem execSt_sound {nx : NX} {d a b : BitVec 7} (h : State.Sound κ s) : Out.Sound κ (execSt nx d a b s) :=
  retire_sound h (storePlan_sound h)

theorem execLdi_sound {nx : NX} {d a : BitVec 7} {i : BitVec 8} (h : State.Sound κ s) : Out.Sound κ (execLdi nx d a i s) :=
  retire_sound h (loadPlan_sound h)

theorem execSti_sound {nx : NX} {d a : BitVec 7} {i : BitVec 8} (h : State.Sound κ s) : Out.Sound κ (execSti nx d a i s) :=
  retire_sound h (storePlan_sound h)

theorem execLdw_sound {nx : NX} {d a b : BitVec 7} (h : State.Sound κ s) : Out.Sound κ (execLdw nx d a b s) :=
  retire_sound h (loadPlan_sound h)

theorem execStw_sound {nx : NX} {d a b : BitVec 7} (h : State.Sound κ s) : Out.Sound κ (execStw nx d a b s) :=
  retire_sound h (storePlan_sound h)

theorem execLdt_sound {nx : NX} {d a b : BitVec 7} (h : State.Sound κ s) : Out.Sound κ (execLdt nx d a b s) :=
  retire_sound h (Plan.sound_wait IfSome.none (countBanks_sound (foldl_sound (drainAcc_sound h) (fun _ _ ht => vopPut_sound ht))))

theorem execStt_sound {nx : NX} {d a b : BitVec 7} (h : State.Sound κ s) : Out.Sound κ (execStt nx d a b s) :=
  retire_sound h (Plan.sound_wait IfSome.none (countBanks_sound (storeAdvance_sound (storeAll_sound (drainAcc_sound h)))))

theorem drainWithin_sound {b : Bound} {ln : ℕ} {t : BitVec 32} (h : State.Sound κ s) : State.Sound κ (drainWithin s b ln t) := by
  unfold drainWithin
  split
  · exact h
  · exact drainTo_sound h

theorem execLdb_sound {nx : NX} {d a b : BitVec 7} (h : State.Sound κ s) : Out.Sound κ (execLdb nx d a b s) :=
  retire_sound h (Plan.sound_wait IfSome.none (countBanks_sound (foldl_sound (foldl_sound h (fun _ _ ht => by
                split
                · split
                  · exact drainWithin_sound ht
                  · exact ht
                · exact ht)) (fun _ _ ht => vput_sound ht))))

theorem updateAcc_sound {o : AtomOp} {x : LaneAcc × List Loc} {v : ℕ} (h : State.Sound κ s) : State.Sound κ (updateAcc s o x v).1 :=
  locsPut_sound (dirtyAcc_sound (drainFor_sound h))

theorem reduceAcc_sound {o : AtomOp} {x : LaneAcc × List Loc} {v : ℕ} (h : State.Sound κ s) : State.Sound κ (reduceAcc s o x v).1 := by
  unfold reduceAcc
  split
  · split
    · exact contribute_sound (dirtyAcc_sound h)
    · exact updateAcc_sound h
  · exact updateAcc_sound h

theorem atomic_sound {op : ℕ} {nx : NX} {o : AtomOp} {d a b : BitVec 7} (h : State.Sound κ s) : Out.Sound κ (atomic op nx o d a b s) :=
  retire_sound h (Plan.sound_wait IfSome.none (countBanks_sound (foldl_sound h (fun _ _ ht => vopPut_sound (updateAcc_sound ht)))))

theorem reduction_sound {op : ℕ} {nx : NX} {o : AtomOp} {d a b : BitVec 7} (h : State.Sound κ s) : Out.Sound κ (reduction op nx o d a b s) :=
  retire_sound h (Plan.sound_wait IfSome.none (countBanks_sound (foldl_sound h (fun _ _ ht => reduceAcc_sound ht))))

theorem execAadd_sound {nx : NX} {d a b : BitVec 7} (h : State.Sound κ s) : Out.Sound κ (execAadd nx d a b s) := atomic_sound h

theorem execAmin_sound {nx : NX} {d a b : BitVec 7} (h : State.Sound κ s) : Out.Sound κ (execAmin nx d a b s) := atomic_sound h

theorem execAmax_sound {nx : NX} {d a b : BitVec 7} (h : State.Sound κ s) : Out.Sound κ (execAmax nx d a b s) := atomic_sound h

theorem execAand_sound {nx : NX} {d a b : BitVec 7} (h : State.Sound κ s) : Out.Sound κ (execAand nx d a b s) := atomic_sound h

theorem execAor_sound {nx : NX} {d a b : BitVec 7} (h : State.Sound κ s) : Out.Sound κ (execAor nx d a b s) := atomic_sound h

theorem execAxor_sound {nx : NX} {d a b : BitVec 7} (h : State.Sound κ s) : Out.Sound κ (execAxor nx d a b s) := atomic_sound h

theorem execAxch_sound {nx : NX} {d a b : BitVec 7} (h : State.Sound κ s) : Out.Sound κ (execAxch nx d a b s) := atomic_sound h

theorem execRdadd_sound {nx : NX} {d a b : BitVec 7} (h : State.Sound κ s) : Out.Sound κ (execRdadd nx d a b s) := reduction_sound h

theorem execRdmin_sound {nx : NX} {d a b : BitVec 7} (h : State.Sound κ s) : Out.Sound κ (execRdmin nx d a b s) := reduction_sound h

theorem execRdmax_sound {nx : NX} {d a b : BitVec 7} (h : State.Sound κ s) : Out.Sound κ (execRdmax nx d a b s) := reduction_sound h

theorem execRdand_sound {nx : NX} {d a b : BitVec 7} (h : State.Sound κ s) : Out.Sound κ (execRdand nx d a b s) := reduction_sound h

theorem execRdor_sound {nx : NX} {d a b : BitVec 7} (h : State.Sound κ s) : Out.Sound κ (execRdor nx d a b s) := reduction_sound h

theorem execRdxor_sound {nx : NX} {d a b : BitVec 7} (h : State.Sound κ s) : Out.Sound κ (execRdxor nx d a b s) := reduction_sound h

theorem casAcc_sound {x : LaneAcc × List Loc} {c v : ℕ} (h : State.Sound κ s) : State.Sound κ (casAcc s x c v).1 :=
  sound_ite (locsPut_sound (dirtyAcc_sound (drainFor_sound h))) (drainFor_sound h)

theorem execAcas_sound {nx : NX} {d a b : BitVec 7} (h : State.Sound κ s) : Out.Sound κ (execAcas nx d a b s) :=
  retire_sound h (Plan.sound_wait IfSome.none (countBanks_sound (foldl_sound h (fun _ _ ht => vopPut_sound (casAcc_sound ht)))))

theorem subtractP_sound {c n bn : ℕ} (h : State.Sound κ s) : State.Sound κ (subtractP s c n bn) := setCrew_sound h (fun _ hc1 => barEvent_sound hc1)

theorem subtractAll_sound {bn w : ℕ} {crews : List ℕ} (h : State.Sound κ s) : State.Sound κ (subtractAll s bn w crews) :=
  foldl_sound h (fun _ _ ht => subtractP_sound ht)

theorem execRdx_sound {nx : NX} {d a b : BitVec 7} (h : State.Sound κ s) : Out.Sound κ (execRdx nx d a b s) :=
  retire_sound h (Plan.sound_wait IfSome.none
      (sound_ite (subtractAll_sound (countBanks_sound (foldl_sound h (fun _ _ ht => locsPut_sound (reduceAcc_sound ht)))))
          (countBanks_sound (foldl_sound h (fun _ _ ht => locsPut_sound (reduceAcc_sound ht))))))

theorem execFnc_sound {nx : NX} {d : BitVec 7} {i : BitVec 8} (h : State.Sound κ s) : Out.Sound κ (execFnc nx d i s) :=
  retire_sound h (Plan.sound_wait IfSome.none (tput_sound h))

theorem execFwait_sound {nx : NX} {a : BitVec 7} (h : State.Sound κ s) : Out.Sound κ (execFwait nx a s) :=
  retire_sound h (Plan.sound_wait (sound_ite (IfSome.some (waitAs_sound h)) IfSome.none) h)

theorem execPref_sound {nx : NX} {d a b : BitVec 7} (h : State.Sound κ s) : Out.Sound κ (execPref nx d a b s) :=
  retire_sound h (Plan.sound_wait IfSome.none h)

theorem fenceDrain_sound {w : Who} (h : State.Sound κ s) : State.Sound κ (fenceDrain s w) :=
  foldl_sound h (fun _ _ ht => sound_ite (foldl_sound ht (fun _ _ ht1 => drainHolder_sound ht1)) ht)

theorem fenceDone_sound {w : Who} {n : ℕ} (h : State.Sound κ s) : State.Sound κ (fenceDone s w n) := by
  unfold fenceDone
  dsimp only
  split
  · exact h
  · exact sound_ite (updTok_sound (sound_ite (fenceDrain_sound h) h)) h

theorem execFenceComplete_sound (h : State.Sound κ s) : Out.Sound κ (execFenceComplete s) :=
  Out.sound_next (onCrew_sound h (fun _ ht => fenceDone_sound ht))

/-! ### Fences, barriers, queues and streams (R258 to R268) -/

theorem recordPhase_sound {n ph : ℕ} (h : State.Sound κ s) : State.Sound κ (recordPhase s n ph) :=
  sound_ite (setStrm_sound h (fun _ hx => { hx with })) (setGrp_sound h (fun _ hg => { hg with }))

theorem arrive_sound {n : ℕ} (h : State.Sound κ s) : State.Sound κ (arrive s n) :=
  sound_ite (setOwn_sound (recordPhase_sound h) (fun _ hc => barEvent_sound hc)) (setOwn_sound (recordPhase_sound h) (fun _ hc => barEvent_sound hc))

theorem barWait_sound {n : ℕ} (h : State.Sound κ s) : IfSome (State.Sound κ) (barWait s n) := sound_ite IfSome.none (IfSome.some (waitAs_sound h))

theorem execBara_sound {nx : NX} {a : BitVec 7} (h : State.Sound κ s) : Out.Sound κ (execBara nx a s) :=
  retire_sound h (Plan.sound_wait IfSome.none (arrive_sound h))

theorem execBarw_sound {nx : NX} {a : BitVec 7} (h : State.Sound κ s) : Out.Sound κ (execBarw nx a s) :=
  retire_sound h (Plan.sound_wait (barWait_sound h) h)

theorem execBaraw_sound {nx : NX} {a : BitVec 7} (h : State.Sound κ s) : Out.Sound κ (execBaraw nx a s) :=
  retire_sound h (Plan.sound_wait (barWait_sound (sound_ite h (arrive_sound h))) (sound_ite h (arrive_sound h)))

theorem execBarx_sound {nx : NX} {a b : BitVec 7} (h : State.Sound κ s) : Out.Sound κ (execBarx nx a b s) :=
  retire_sound h (Plan.sound_wait IfSome.none (setOwn_sound h (fun _ hc => barEvent_sound hc)))

theorem execBari_sound {nx : NX} {a b : BitVec 7} (h : State.Sound κ s) : Out.Sound κ (execBari nx a b s) :=
  retire_sound h (Plan.sound_wait IfSome.none (setOwn_sound h (fun _ hc => barEvent_sound hc)))

theorem entryPut_sound {d : ℕ} {bs : List (BitVec 8)} (h : State.Sound κ s) : State.Sound κ (entryPut s d bs) :=
  sound_ite (foldl_sound h (fun _ _ ht => eput_sound ht)) (foldl_sound h (fun _ _ ht => sound_ite (vput_sound ht) ht))

theorem setQueue_sound {a : BitVec 7} {q : Queue} (h : State.Sound κ s) : State.Sound κ (setQueue s a q) := setOwn_sound h (fun _ hc => { hc with })

theorem pushDone_sound {d a : BitVec 7} {q : Queue} (h : State.Sound κ s) : State.Sound κ (pushDone s d a q) :=
  setQueue_sound (sound_ite (setOwn_sound h (fun _ hc => { hc with }))
      (foldl_sound (setOwn_sound h (fun _ hc => { hc with })) (fun _ _ ht => mend_sound ht)))

theorem execQpush_sound {nx : NX} {d a : BitVec 7} (h : State.Sound κ s) : Out.Sound κ (execQpush nx d a s) :=
  retire_sound h (Plan.sound_wait (sound_ite (IfSome.some (waitAs_sound h)) IfSome.none) (pushDone_sound h))

theorem execQpop_sound {nx : NX} {d a : BitVec 7} (h : State.Sound κ s) : Out.Sound κ (execQpop nx d a s) :=
  retire_sound h (Plan.sound_wait (sound_ite (IfSome.some (waitAs_sound h)) IfSome.none) (setQueue_sound (entryPut_sound h)))

theorem execQpeek_sound {nx : NX} {d a b : BitVec 7} (h : State.Sound κ s) : Out.Sound κ (execQpeek nx d a b s) :=
  retire_sound h (Plan.sound_wait IfSome.none (sound_ite (iput_sound h) (iput_sound (entryPut_sound h))))

theorem execQcfg_sound {nx : NX} {a b : BitVec 7} (h : State.Sound κ s) : Out.Sound κ (execQcfg nx a b s) :=
  retire_sound h (Plan.sound_wait IfSome.none (setOwn_sound h (fun _ hc => { hc with })))

theorem execGset_sound {nx : NX} {a : BitVec 7} (h : State.Sound κ s) : Out.Sound κ (execGset nx a s) :=
  retire_sound h (Plan.sound_wait IfSome.none (setOwn_sound h (fun _ hc => { hc with })))

theorem execGclr_sound {nx : NX} {a : BitVec 7} (h : State.Sound κ s) : Out.Sound κ (execGclr nx a s) :=
  retire_sound h (Plan.sound_wait IfSome.none (setOwn_sound h (fun _ hc => { hc with })))

theorem execGclrUnres_sound {nx : NX} {a : BitVec 7} (h : State.Sound κ s) : Out.Sound κ (execGclrUnres nx a s) :=
  retire_sound h (Plan.sound_wait IfSome.none (setOwn_sound h (fun _ hc => { hc with })))

theorem streamStart_sound {v : BitVec 64} (h : State.Sound κ s) : State.Sound κ (streamStart s v) :=
  setStrm_sound (State.sound_mk h) (fun _ _ => ⟨Aspect.mode_zero⟩)

theorem execEstart_sound {nx : NX} {a : BitVec 7} (h : State.Sound κ s) : Out.Sound κ (execEstart nx a s) :=
  retire_sound h (Plan.sound_wait (sound_ite (IfSome.some (waitAs_sound h)) IfSome.none) (streamStart_sound h))

theorem execEjoin_sound {nx : NX} {d : BitVec 7} (h : State.Sound κ s) : Out.Sound κ (execEjoin nx d s) :=
  retire_sound h (Plan.sound_wait (sound_ite (IfSome.some (waitAs_sound h)) IfSome.none)
      (sound_ite (setStrm_sound (sput_sound h) (fun _ hx => { hx with })) (sput_sound h)))

theorem acceptPacket_sound {ctx q parent cap : ℕ} {bs : List (BitVec 8)} (h : State.Sound κ s) :
    IfSome (State.Sound κ) (acceptPacket s ctx q parent cap bs) := by
  unfold acceptPacket
  split
  · exact IfSome.none
  · rename_i c e
    split
    · exact IfSome.none
    · exact sound_ite IfSome.none (IfSome.some
        (State.sound_mk (Fields.withCtxs (devPutBytes_sound h) (Values.aput h.ctxs { (IfSome.get e (Values.aget h.ctxs) : Ctx.Sound κ c) with }))))

theorem submitPacket_sound {q no : ℕ} {bs : List (BitVec 8)} (h : State.Sound κ s) : State.Sound κ (submitPacket s q no bs) :=
  sound_ite (refuse_sound h) (by
      split
      · rename_i e
        exact IfSome.get e (acceptPacket_sound h)
      · exact refuse_sound h)

theorem submitLanes_sound {d q no : Nat} {l : List Nat} (h : s.Sound κ) : (submitLanes d q no l s).1.Sound κ := by
  induction l generalizing s with
  | nil => exact h
  | cons p r ih =>
    unfold submitLanes
    split
    · exact h
    · exact ih (submitPacket_sound h)

theorem execLaunch_sound {nx : NX} {d a : BitVec 7} (h : State.Sound κ s) : Out.Sound κ (execLaunch nx d a s) :=
  retire_sound h (Plan.sound_wait (sound_ite (IfSome.some (waitAs_sound (submitLanes_sound (sound_ite (State.sound_mk h) h)))) IfSome.none)
      (submitLanes_sound (sound_ite (State.sound_mk h) h)))

/-! ### The formats of the engines -/

theorem setSlot_sound {c : Crew} {n : ℕ} {x : Slot} (hc : Crew.Sound κ c) : Crew.Sound κ (setSlot c n x) := { hc with }

theorem newItem_sound {op : ItemOp} {acq rel : Bool} (h : State.Sound κ s) : State.Sound κ (newItem s op acq rel) := pushItem_sound h

/-! ### Items and their ends -/

theorem readRun_sound {as : List LaneAcc} (h : State.Sound κ s) : State.Sound κ (readRun s as).1 := drainAcc_sound h

theorem writeRun_sound {l : List (LaneAcc × ℕ)} (h : State.Sound κ s) : State.Sound κ (writeRun s l) := storeAll_sound (drainAcc_sound h)

theorem updItem_sound {r : ItemRef} {f : Item → Item} (h : State.Sound κ s) : State.Sound κ (updItem s r f) := updBat_sound h

theorem vecStores_sound {va k : Nat} {l : List Item} (h : s.Sound κ) : (vecStores s va l k).1.Sound κ := by
  induction l generalizing s k with
  | nil => exact h
  | cons i r ih =>
    unfold vecStores
    extract_lets a
    split
    · exact h
    · exact ih (writeRun_sound h)

theorem retireBatch_sound {w : Who} {b : Batch} {err : Option Status} (h : State.Sound κ s) : State.Sound κ (retireBatch s w b err) := by
  unfold retireBatch
  split
  · exact updBat_sound h
  · exact updTok_sound (updBat_sound h)

theorem stageItem_sound {r : FRec} (h : State.Sound κ s) : State.Sound κ (stageItem s r) := State.freshen_sound (pushRec_sound h)

theorem updOldest_sound {w : Who} {f : Batch → Batch} (h : State.Sound κ s) : State.Sound κ (updOldest s w f) := updBat_sound h

theorem failVec_sound {w : Who} {b : Batch} {k : ℕ} {f : Fx} (h : State.Sound κ s) : State.Sound κ (failVec s w b k f) :=
  sound_ite (retireBatch_sound (stageItem_sound (noteEcc_sound h))) (updOldest_sound (stageItem_sound (noteEcc_sound h)))

theorem settle_sound {w : Who} {n : Nat} (h : s.Sound κ) : (settle w n s).Sound κ := by
  induction n generalizing s with
  | zero => exact h
  | succ n ih =>
    unfold settle
    split
    · exact h
    · rename_i b _ _
      split
      · exact sound_ite h (ih (retireBatch_sound h))
      · refine sound_ite h ?_
        split
        · exact ih (retireBatch_sound h)
        · rename_i va _
          have hv : (vecStores s va.toNat b.items 0).1.Sound κ := vecStores_sound h
          split
          · exact ih (retireBatch_sound (sound_fst ‹_› hv))
          · exact ih (failVec_sound (sound_fst ‹_› hv))
          · exact sound_ite h (updOldest_sound (bump_sound (joinPage_sound (sound_fst ‹_› hv) fun _ _ ht => stageItem_sound ht)))

theorem promote_sound {w : Who} (h : State.Sound κ s) : State.Sound κ (promote s w) :=
  foldl_sound h (fun _ _ ht => by
      split
      · exact sound_ite ht (updItem_sound ht)
      · exact ht)

theorem settleAll_sound {s0 : State} {w : Who} (hs0 : State.Sound κ s0) : State.Sound κ (settleAll s0 w) := settle_sound (promote_sound hs0)

theorem failPlain_sound {i : Item} {st : Status} (h : State.Sound κ s) : ItemRes.Sound κ (failPlain s i st) := ItemRes.sound_fail h

theorem failStore_sound {i : Item} {kind : ℕ} (h : State.Sound κ s) : ItemRes.Sound κ (failStore s i kind) := ItemRes.sound_fail h

theorem failAcc_sound {f : Fx} (h : State.Sound κ s) : ItemRes.Sound κ (failAcc s f) := sound_ite ItemRes.sound_page (ItemRes.sound_fail h)

theorem countBar_sound {bn : Option ℕ} {bytes : ℤ} (h : State.Sound κ s) : State.Sound κ (countBar s bn bytes) := by
  unfold countBar
  split
  · exact h
  · exact setOwn_sound h (fun _ hc => barEvent_sound hc)

theorem updEngine_sound {cl n : ℕ} {f : Engine → Engine} (h : State.Sound κ s) : State.Sound κ (updEngine s cl n f) := setCluster_sound h

theorem touchEngine_sound {op : ItemOp} (h : State.Sound κ s) : State.Sound κ (touchEngine s op) := by
  unfold touchEngine
  split
  · split
    · exact h
    · exact updEngine_sound h
  · exact h

theorem endItem_sound {s0 : State} {r : ItemRef} {i : Item} {st : Status} {f : Fx} {named : Bool} {aux : ℕ} (hs0 : State.Sound κ s0) :
    State.Sound κ (endItem s0 r i st f named aux) :=
  settleAll_sound (updItem_sound (touchEngine_sound (sound_ite (stageItem_sound (noteEcc_sound (countMisses_sound hs0))) (countMisses_sound hs0))))

theorem doomItem_sound {r : ItemRef} {i : Item} {st : Status} (h : State.Sound κ s) : State.Sound κ (doomItem s r i st) := updItem_sound h

theorem finishItem_sound {r : ItemRef} {i : Item} {res : ItemRes} (h : State.Sound κ s) (hres : ItemRes.Sound κ res) :
    State.Sound κ (finishItem s r i res) := by
  unfold finishItem
  split
  · exact h
  · exact endItem_sound hres
  · exact sound_ite h (endItem_sound hres)
  · exact sound_ite h (updItem_sound (countMisses_sound (bump_sound (joinPage_sound h (fun _ _ ht => stageItem_sound ht)))))

theorem itemEvent_sound {kind : ItemOp → Bool} {work : State → ItemRef → Item → ItemRes}
    (hwork : ∀ (a : State), State.Sound κ a → ∀ (a' : ItemRef) (a'' : Item), ItemRes.Sound κ (work a a' a'')) (h : State.Sound κ s) : State.Sound κ
        (itemEvent kind work s) :=
  onCrew_sound h (fun _ ht => by
      split
      · exact ht
      · exact sound_ite (State.sound_mk (finishItem_sound (State.sound_mk ht) (hwork _ (State.sound_mk ht) _ _))) ht)

/-! ### The issue of items (R274 to R313) -/

theorem chooseNext_sound {core : ℕ} (h : State.Sound κ s) : State.Sound κ (chooseNext s core) :=
  sound_ite h (by
      split
      · exact h
      · exact setCore_sound h)

theorem execMxg_sound {nx : NX} {sel : BitVec 1} {d : BitVec 2} {g : BitVec 3} (h : State.Sound κ s) : Out.Sound κ (execMxg nx sel d g s) :=
  retire_sound h (Plan.sound_wait IfSome.none (setStrm_sound h (fun _ hx => { hx with })))

theorem execMx_sound {nx : NX} {c : BitVec 2} {se : BitVec 5} {a b : BitVec 4} {v : BitVec 5} {q r : BitVec 1} (h : State.Sound κ s) :
    Out.Sound κ (execMx nx c se a b v q r s) :=
  retire_sound h ⟨IfSome.none, newItem_sound h, fun _ ht => sound_ite ht (chooseNext_sound ht)⟩

theorem execMxbound_sound {nx : NX} {d a : BitVec 7} (h : State.Sound κ s) : Out.Sound κ (execMxbound nx d a s) :=
  retire_sound h (Plan.sound_wait IfSome.none (eput_sound h))

theorem setTile_sound {c : Crew} {n : ℕ} {t : Tile} (hc : Crew.Sound κ c) : Crew.Sound κ (setTile c n t) := { hc with }

theorem zeroTile_sound {acc : ℕ} (h : State.Sound κ s) : State.Sound κ (zeroTile s acc) :=
  setOwn_sound (sound_ite h (State.sound_mk h)) (fun _ hc => setTile_sound hc)

theorem execMxz_sound {nx : NX} {d : BitVec 7} (h : State.Sound κ s) : Out.Sound κ (execMxz nx d s) :=
  retire_sound h (Plan.sound_wait IfSome.none (zeroTile_sound h))

theorem acstDone_sound {acc : ℕ} {addr w : BitVec 64} (h : State.Sound κ s) : State.Sound κ (acstDone s acc addr w) :=
  sound_ite (zeroTile_sound (newItem_sound h)) (newItem_sound h)

theorem execAcst_sound {nx : NX} {d a b : BitVec 7} (h : State.Sound κ s) : Out.Sound κ (execAcst nx d a b s) :=
  retire_sound h (Plan.sound_wait IfSome.none (acstDone_sound h))

theorem acldDone_sound {acc : ℕ} {addr w : BitVec 64} (h : State.Sound κ s) : State.Sound κ (acldDone s acc addr w) :=
  newItem_sound (setOwn_sound h (fun _ hc => setTile_sound hc))

theorem execAcld_sound {nx : NX} {d a b : BitVec 7} (h : State.Sound κ s) : Out.Sound κ (execAcld nx d a b s) :=
  retire_sound h (Plan.sound_wait IfSome.none (acldDone_sound h))

theorem claimSlot_sound {n d : ℕ} {cls : Bool} (h : State.Sound κ s) : State.Sound κ (claimSlot s n d cls) :=
  hput_sound (setOwn_sound (State.freshen_sound (State.freshen_sound h)) (fun _ hc => setSlot_sound hc))

theorem execHclaim_sound {nx : NX} {d : BitVec 7} {x : BitVec 1} (h : State.Sound κ s) : Out.Sound κ (execHclaim nx d x s) :=
  retire_sound h (Plan.sound_wait (sound_ite (IfSome.some (waitAs_sound h)) IfSome.none) (claimSlot_sound h))

theorem execHrel_sound {nx : NX} {a : BitVec 7} (h : State.Sound κ s) : Out.Sound κ (execHrel nx a s) :=
  retire_sound h (Plan.sound_wait IfSome.none (setOwn_sound h (fun _ hc => setSlot_sound hc)))

theorem copyItem_sound {n : ℕ} {op : ItemOp} {acq rel : Bool} (h : State.Sound κ s) : State.Sound κ (copyItem s n op acq rel) :=
  updBat_sound (newItem_sound h)

theorem execCpldSlot_sound {nx : NX} {d a b : BitVec 7} (h : State.Sound κ s) : Out.Sound κ (execCpldSlot nx d a b s) :=
  retire_sound h (Plan.sound_wait IfSome.none (copyItem_sound h))

theorem execCpldSp_sound {nx : NX} {a b : BitVec 7} (h : State.Sound κ s) : Out.Sound κ (execCpldSp nx a b s) :=
  retire_sound h (Plan.sound_wait IfSome.none (newItem_sound h))

theorem execCpst_sound {nx : NX} {a b : BitVec 7} (h : State.Sound κ s) : Out.Sound κ (execCpst nx a b s) :=
  retire_sound h (Plan.sound_wait IfSome.none (newItem_sound h))

theorem execCpss_sound {nx : NX} {a b : BitVec 7} (h : State.Sound κ s) : Out.Sound κ (execCpss nx a b s) :=
  retire_sound h (Plan.sound_wait IfSome.none (newItem_sound h))

theorem bsealDone_sound {d : ℕ} {vec : Option (BitVec 64)} (h : State.Sound κ s) : State.Sound κ (bsealDone s d vec) :=
  sealBatch_sound (tput_sound h)

theorem execBseal_sound {nx : NX} {d : BitVec 7} (h : State.Sound κ s) : Out.Sound κ (execBseal nx d s) :=
  retire_sound h ⟨sound_ite (IfSome.some (waitAs_sound h)) IfSome.none, bsealDone_sound h, fun _ ht => settleAll_sound ht⟩

theorem execBsealStatus_sound {nx : NX} {d a : BitVec 7} (h : State.Sound κ s) : Out.Sound κ (execBsealStatus nx d a s) :=
  retire_sound h ⟨sound_ite (IfSome.some (waitAs_sound h)) IfSome.none, bsealDone_sound h, fun _ ht => settleAll_sound ht⟩

theorem execBwaitImm_sound {nx : NX} {i : BitVec 15} (h : State.Sound κ s) : Out.Sound κ (execBwaitImm nx i s) :=
  retire_sound h (Plan.sound_wait (sound_ite (IfSome.some (waitAs_sound h)) IfSome.none) h)

theorem execBwaitReg_sound {nx : NX} {a : BitVec 6} (h : State.Sound κ s) : Out.Sound κ (execBwaitReg nx a s) :=
  retire_sound h (Plan.sound_wait (sound_ite (IfSome.some (waitAs_sound h)) IfSome.none) h)

theorem submitLease_sound {r : LeaseReq} (h : State.Sound κ s) : State.Sound κ (submitLease s r) :=
  sound_ite (refuse_sound h) (by
      split
      · exact setCluster_sound h
      · exact refuse_sound h)

theorem execLease_sound {nx : NX} {d a b : BitVec 7} (h : State.Sound κ s) : Out.Sound κ (execLease nx d a b s) :=
  retire_sound h (Plan.sound_wait IfSome.none (submitLease_sound (State.sound_mk (tput_sound h))))

theorem markRelease_sound {cl req : ℕ} (h : State.Sound κ s) : State.Sound κ (markRelease s cl req) := by
  unfold markRelease
  split
  · exact h
  · exact updEngine_sound h

theorem execLrel_sound {nx : NX} {a : BitVec 7} (h : State.Sound κ s) : Out.Sound κ (execLrel nx a s) :=
  retire_sound h (Plan.sound_wait (sound_ite (IfSome.some (waitAs_sound h)) IfSome.none) (by
          split
          · exact h
          · exact markRelease_sound (tput_sound h)))

theorem wakeFor_sound {cl req : ℕ} (h : State.Sound κ s) : State.Sound κ (wakeFor s cl req) := by
  unfold wakeFor
  split
  · exact h
  · exact sound_ite (updEngine_sound h) h

theorem ecmdDone_sound {t : Tok} {op p0 p1 p2 p3 : BitVec 64} (h : State.Sound κ s) : State.Sound κ (ecmdDone s t op p0 p1 p2 p3) := by
  unfold ecmdDone
  split
  · exact h
  · exact wakeFor_sound (foldl_sound h (fun _ _ ht1 => pushItem_sound ht1))

theorem execEcmd_sound {nx : NX} {d a b : BitVec 7} (h : State.Sound κ s) : Out.Sound κ (execEcmd nx d a b s) :=
  retire_sound h (Plan.sound_wait (sound_ite (IfSome.some (waitAs_sound h)) IfSome.none) (ecmdDone_sound h))

theorem swbindDone_sound {a g ixa n : BitVec 64} (h : State.Sound κ s) : State.Sound κ (swbindDone s a g ixa n) := by
  unfold swbindDone
  extract_lets w s1
  have hs1 : State.Sound κ s1 := newItem_sound h
  split
  · exact hs1
  · rename_i c e
    exact State.sound_mk (Fields.withCtxs hs1 (Values.aput hs1.ctxs { (IfSome.get e (Values.aget hs1.ctxs) : Ctx.Sound κ c) with }))

theorem execSwbind_sound {nx : NX} {a b : BitVec 7} (h : State.Sound κ s) : Out.Sound κ (execSwbind nx a b s) :=
  retire_sound h (Plan.sound_wait IfSome.none (swbindDone_sound h))

theorem execSwunb_sound {nx : NX} {a : BitVec 7} (h : State.Sound κ s) : Out.Sound κ (execSwunb nx a s) :=
  retire_sound h (Plan.sound_wait IfSome.none (newItem_sound h))

theorem e2_sound {op : ℕ} {nx : NX} {d a b : BitVec 7} {f : BitVec 64 → BitVec 64 → BitVec 64} (h : State.Sound κ s) :
    Out.Sound κ (e2 op nx d a b f s) :=
  retire_sound h (Plan.sound_wait IfSome.none (eput_sound h))

theorem e1_sound {op : ℕ} {nx : NX} {d a : BitVec 7} {f : BitVec 64 → BitVec 64} (h : State.Sound κ s) : Out.Sound κ (e1 op nx d a f s) :=
  retire_sound h (Plan.sound_wait IfSome.none (eput_sound h))

theorem execEadd_sound {nx : NX} {d a b : BitVec 7} (h : State.Sound κ s) : Out.Sound κ (execEadd nx d a b s) := e2_sound h

theorem execEsub_sound {nx : NX} {d a b : BitVec 7} (h : State.Sound κ s) : Out.Sound κ (execEsub nx d a b s) := e2_sound h

theorem execEli_sound {nx : NX} {d : BitVec 7} {i : BitVec 15} (h : State.Sound κ s) : Out.Sound κ (execEli nx d i s) :=
  retire_sound h (Plan.sound_wait IfSome.none (eput_sound h))

theorem execElih_sound {nx : NX} {d : BitVec 7} {i : BitVec 15} (h : State.Sound κ s) : Out.Sound κ (execElih nx d i s) :=
  retire_sound h (Plan.sound_wait IfSome.none (eput_sound h))

theorem execEmov_sound {nx : NX} {d a : BitVec 7} (h : State.Sound κ s) : Out.Sound κ (execEmov nx d a s) := e1_sound h

theorem execEshl_sound {nx : NX} {d a : BitVec 7} {c : BitVec 6} (h : State.Sound κ s) : Out.Sound κ (execEshl nx d a c s) := e1_sound h

theorem execEshr_sound {nx : NX} {d a : BitVec 7} {c : BitVec 6} (h : State.Sound κ s) : Out.Sound κ (execEshr nx d a c s) := e1_sound h

theorem streamArm_sound {i : BitVec 15} {taken : Bool} (h : State.Sound κ s) : State.Sound κ (streamArm s i taken) := setArmed_sound h

theorem execXjz_sound {nx : NX} {d : BitVec 7} {i : BitVec 15} (h : State.Sound κ s) : Out.Sound κ (execXjz nx d i s) :=
  retire_sound h (Plan.sound_wait IfSome.none (streamArm_sound h))

theorem execXjnz_sound {nx : NX} {d : BitVec 7} {i : BitVec 15} (h : State.Sound κ s) : Out.Sound κ (execXjnz nx d i s) :=
  retire_sound h (Plan.sound_wait IfSome.none (streamArm_sound h))

theorem execEfroms_sound {nx : NX} {d : BitVec 7} {i : BitVec 15} (h : State.Sound κ s) : Out.Sound κ (execEfroms nx d i s) :=
  retire_sound h (Plan.sound_wait IfSome.none (eput_sound h))

/-! ### Batches and the work of the engines -/

theorem fetchBudgets_sound {op : ItemOp} (h : State.Sound κ s) : State.Sound κ (fetchBudgets s op).1 := by
  unfold fetchBudgets
  split
  · exact h
  · split
    · exact h
    · exact drainAcc_sound h

theorem applyStep_sound {op : ItemOp} {asc bd bsc : Store 8} {x : StepData} (h : State.Sound κ s) : State.Sound κ (applyStep s op asc bd bsc x) := by
  unfold applyStep
  split
  · exact setOwn_sound h (fun _ hc => foldl_sound hc (fun _ _ hc1 => setTile_sound hc1))
  · exact h

theorem setRun_sound {core : ℕ} {f : Core → Core} (h : State.Sound κ s) : State.Sound κ (setRun s core f) := setCore_sound h

theorem latchLoad_sound {core : ℕ} (h : State.Sound κ s) : State.Sound κ (latchLoad s core) := by
  unfold latchLoad
  split
  · exact h
  · exact sound_ite h (onCrew_sound h (fun _ ht => by
            split
            · exact ht
            · exact sound_ite (setRun_sound (updItem_sound ht)) ht))

theorem execLatchLoadComplete_sound (h : State.Sound κ s) : Out.Sound κ (execLatchLoadComplete s) := Out.sound_next (latchLoad_sound h)

theorem beginStep_sound {core : ℕ} {x : Running} {op : ItemOp} {fail : Option (Status × Fx × Bool)} {bs : List (ℕ × List ℕ)} {p : StepPlan}
    (h : State.Sound κ s) : State.Sound κ (beginStep s core x op fail bs p) :=
  setRun_sound (updItem_sound h)

theorem countMeta_sound {core : ℕ} {op : ItemOp} {fetched : Bool} (h : State.Sound κ s) : State.Sound κ (countMeta s core op fetched) := by
  unfold countMeta
  split
  · exact h
  · exact sound_ite h (bumpSome_sound h)

theorem startStep_sound {core : ℕ} (h : State.Sound κ s) : State.Sound κ (startStep s core) := by
  unfold startStep
  split
  · split
    · exact h
    · exact onCrew_sound h (fun _ ht => by
            split
            · exact ht
            · exact sound_ite ht (by
                    split
                    · rename_i e4
                      exact State.sound_mk (finishItem_sound (sound_fst e4 (fetchBudgets_sound (State.sound_mk ht))) ItemRes.sound_page)
                    · exact chooseNext_sound (countMeta_sound (beginStep_sound ht))
                    · rename_i e4
                      exact chooseNext_sound (countMeta_sound (by
                              split
                              · exact beginStep_sound (State.sound_mk (sound_fst e4 (fetchBudgets_sound (State.sound_mk ht)) : State.Sound κ _))
                              · exact beginStep_sound (State.sound_mk (sound_fst e4 (fetchBudgets_sound (State.sound_mk ht)) : State.Sound κ _))
                              · exact beginStep_sound (State.sound_mk (sound_fst e4 (fetchBudgets_sound (State.sound_mk ht)) : State.Sound κ _))))))
  · exact h

theorem execMxStepStart_sound (h : State.Sound κ s) : Out.Sound κ (execMxStepStart s) := Out.sound_next (startStep_sound h)

theorem poisonTiles_sound {poison : Bool} {l : List Nat} (h : s.Sound κ) : (poisonTiles s poison l).Sound κ := by
  induction l generalizing s with
  | nil => exact h
  | cons t r ih => exact ih (setOwn_sound (State.freshen_sound h) fun _ hc => setTile_sound hc)

theorem endStep_sound {core : ℕ} {x : Running} {i : Item} {mismatch : Bool} (h : State.Sound κ s) : State.Sound κ (endStep s core x i mismatch) :=
  sound_ite h (by
      split
      · exact sound_ite h (endItem_sound (sound_ite (poisonTiles_sound (setRun_sound h)) (setRun_sound h)))
      · exact sound_ite (sound_ite h (endItem_sound (poisonTiles_sound (setRun_sound h))))
          (sound_ite (sound_ite h (endItem_sound (poisonTiles_sound (addLog_sound (setRun_sound h))))) (by
                split
                · exact endItem_sound (applyStep_sound (setRun_sound h))
                · exact h))
      · exact h)

theorem completeStep_sound {core : ℕ} {mismatch : Bool} (h : State.Sound κ s) : State.Sound κ (completeStep s core mismatch) := by
  unfold completeStep
  split
  · exact h
  · exact onCrew_sound h (fun _ ht => by
          split
          · exact ht
          · exact endStep_sound ht)

theorem execMxStepComplete_sound (h : State.Sound κ s) : Out.Sound κ (execMxStepComplete s) := Out.sound_next (completeStep_sound h)

/-! ### Copies (R291 to R299) -/

theorem readLayout_sound {i : Item} {recd org w : BitVec 64} {f : Store 32} {cls : Option Bool} {accept : Layout → Bool} (h : State.Sound κ s) :
    IfLeft (ItemRes.Sound κ) (readLayout s i recd org w f cls accept) := by
  unfold readLayout
  dsimp only
  split
  · exact IfLeft.inl (failAcc_sound h)
  · split
    · exact IfLeft.inl (failAcc_sound h)
    · exact sound_ite (IfLeft.inl (failPlain_sound h)) (sound_ite (IfLeft.inl (failPlain_sound h)) IfLeft.inr)

theorem spadAlign_sound {i : Item} {w : BitVec 64} (h : State.Sound κ s) : IfSome (ItemRes.Sound κ) (spadAlign s i w) :=
  sound_ite IfSome.none (IfSome.some (failPlain_sound h))

theorem spadExtent_sound {i : Item} {w : BitVec 64} {bits : ℕ} (h : State.Sound κ s) : IfSome (ItemRes.Sound κ) (spadExtent s i w bits) :=
  sound_ite IfSome.none (IfSome.some (failPlain_sound h))

theorem firstRes_sound {l : List (Option ItemRes)} (hl : Each (IfSome (ItemRes.Sound κ)) l) : IfSome (ItemRes.Sound κ) (firstRes l) := by
  induction l with
  | nil => exact IfSome.none
  | cons o l ih =>
    cases o with
    | none => exact ih (hl.tail rfl)
    | some r => exact hl.head rfl

theorem withBar_sound {bn : Option ℕ} {size : ℤ} {r : ItemRes} (hr : ItemRes.Sound κ r) : ItemRes.Sound κ (withBar bn size r) := by
  unfold withBar
  split
  · exact ItemRes.sound_ok (countBar_sound hr)
  · exact ItemRes.sound_fail (countBar_sound hr)
  · exact hr

theorem mendSlot_sound {n : ℕ} {data : List (ℕ × List (BitVec 8))} {sc : List (ℕ × LaneAcc)} (h : State.Sound κ s) :
    State.Sound κ (mendSlot s n data sc) :=
  sound_ite h (State.sound_mk h)

theorem fillSlot_sound {s0 : State} {n : ℕ} {form : SlotForm} {data : List (ℕ × List (BitVec 8))} {sc : List (ℕ × LaneAcc)} (hs0 : State.Sound κ s0)
    : State.Sound κ (fillSlot s0 n form data sc) :=
  setOwn_sound (mendSlot_sound hs0) (fun _ hc => setSlot_sound hc)

theorem spoilSlot_sound {n : ℕ} (h : State.Sound κ s) : State.Sound κ (spoilSlot s n) :=
  setOwn_sound (State.freshen_sound (State.freshen_sound h)) (fun _ hc => setSlot_sound hc)

theorem slotFail_sound {i : Item} {n : ℕ} {st : Status} (h : State.Sound κ s) : ItemRes.Sound κ (slotFail s i n st) :=
  ItemRes.sound_fail (spoilSlot_sound h)

theorem fillOr_sound {i : Item} {n : ℕ} {form : SlotForm} {data : List (ℕ × List (BitVec 8))} {sc : List (ℕ × LaneAcc)} (h : State.Sound κ s) :
    ItemRes.Sound κ (fillOr s i n form data sc) :=
  sound_ite (failStore_sound (spoilSlot_sound h)) (ItemRes.sound_ok (fillSlot_sound h))

theorem lateFail_sound {e : Fx} (h : State.Sound κ s) : ItemRes.Sound κ (lateFail s e) := ItemRes.sound_fail h

theorem cpldDense_sound {i : Item} {n : ℕ} {cls : Bool} {l : Layout} {w : BitVec 64} {f : Store 32} {r0 c0 : ℕ} (h : State.Sound κ s) :
    ItemRes.Sound κ (cpldDense s i n cls l w f r0 c0) := by
  unfold cpldDense
  dsimp only
  split
  · rename_i e1
    exact IfSome.get e1 (firstRes_sound (Each.cons (spadAlign_sound h) (Each.cons (IfSome.map_of (fun _ => failAcc_sound h)) Each.nil)))
  · exact sound_ite (slotFail_sound h) (by
          split
          · exact lateFail_sound (spoilSlot_sound h)
          · exact fillOr_sound (drainAcc_sound h))

theorem cpldSparse_sound {i : Item} {n : ℕ} {cls : Bool} {l : Layout} {w : BitVec 64} {f : Store 32} {r0 c0 : ℕ} (h : State.Sound κ s) :
    ItemRes.Sound κ (cpldSparse s i n cls l w f r0 c0) := by
  unfold cpldSparse
  dsimp only
  split
  · rename_i e1
    exact IfSome.get e1 (firstRes_sound (Each.cons (spadAlign_sound h) (Each.cons (IfSome.map_of (fun _ => failAcc_sound h)) Each.nil)))
  · split
    · exact failAcc_sound h
    · exact sound_ite (slotFail_sound h) (sound_ite (slotFail_sound h) (by
              split
              · exact lateFail_sound (spoilSlot_sound h)
              · exact fillOr_sound (drainAcc_sound h)))

theorem cpldTl_sound {i : Item} {n : ℕ} {cls : Bool} {l : Layout} {w : BitVec 64} {f : Store 32} {r0 c0 : ℕ} (h : State.Sound κ s) :
    ItemRes.Sound κ (cpldTl s i n cls l w f r0 c0) := by
  unfold cpldTl
  dsimp only
  split
  · rename_i e1
    exact IfSome.get e1 (firstRes_sound (Each.cons (spadAlign_sound h) (Each.cons (IfSome.map_of (fun _ => failAcc_sound h)) Each.nil)))
  · split
    · exact failAcc_sound h
    · exact sound_ite (slotFail_sound h) (by
            split
            · exact lateFail_sound (spoilSlot_sound h)
            · exact fillOr_sound (drainAcc_sound h))

theorem cpldSp_sound {i : Item} {l : Layout} {w : BitVec 64} {f : Store 32} {r0 c0 : ℕ} (h : State.Sound κ s) :
    ItemRes.Sound κ (cpldSp s i l w f r0 c0) := by
  unfold cpldSp
  dsimp only
  split
  · rename_i e1
    exact IfSome.get e1 (firstRes_sound (Each.cons (spadAlign_sound h)
        (Each.cons (IfSome.map_of (fun _ => failAcc_sound h))
            (Each.cons (spadExtent_sound h) (Each.cons (IfSome.map_of (fun _ => failAcc_sound h)) Each.nil)))))
  · split
    · exact lateFail_sound (keepBad_sound (foldl_sound (State.freshen_sound h) (fun _ _ ht => foldl_sound ht (fun _ _ ht1 => locPut_sound ht1))))
    · exact sound_ite (failStore_sound (keepBad_sound
        (foldl_sound (State.freshen_sound h) (fun _ _ ht => foldl_sound ht (fun _ _ ht1 => locPut_sound ht1)))))
            (ItemRes.sound_ok (foldl_sound (drainAcc_sound h) (fun _ _ ht => foldl_sound ht (fun _ _ ht1 => locPut_sound ht1))))

theorem cpldWork_sound {r : ItemRef} {i : Item} (h : State.Sound κ s) : ItemRes.Sound κ (cpldWork s r i) := by
  unfold cpldWork
  split
  · exact sound_ite ItemRes.sound_wait (withBar_sound (sound_ite (failPlain_sound h) (by
              split
              · rename_i e2
                exact IfLeft.get e2 (readLayout_sound h)
              · split
                · exact cpldSp_sound h
                · exact sound_ite (cpldTl_sound h) (sound_ite (cpldSparse_sound h) (cpldDense_sound h)))))
  · exact ItemRes.sound_wait

theorem endInterlock_sound {i : Item} (h : State.Sound κ s) : State.Sound κ (endInterlock s i) := sound_ite (bump_sound h) h

theorem countWait_sound {i : Item} {r : ItemRes} (hr : ItemRes.Sound κ r) : ItemRes.Sound κ (countWait i r) := by
  unfold countWait
  split
  · exact ItemRes.sound_ok (endInterlock_sound hr)
  · exact ItemRes.sound_fail (endInterlock_sound hr)
  · exact hr

theorem execCpldItemComplete_sound (h : State.Sound κ s) : Out.Sound κ (execCpldItemComplete s) :=
  Out.sound_next (itemEvent_sound (fun _ ht _ _ => countWait_sound (cpldWork_sound ht)) h)

theorem putCode_sound {bits : ℕ} {x : List Loc × ℕ × ℕ} (h : State.Sound κ s) : State.Sound κ (putCode s bits x) := locsPut_sound h

theorem cpstDense_sound {i : Item} {l : Layout} {w : BitVec 64} {f : Store 32} {r0 c0 : ℕ} (h : State.Sound κ s) :
    ItemRes.Sound κ (cpstDense s i l w f r0 c0) := by
  unfold cpstDense
  dsimp only
  split
  · rename_i e1
    exact IfSome.get e1 (firstRes_sound (Each.cons (spadAlign_sound h)
        (Each.cons (IfSome.map_of (fun _ => failAcc_sound h))
            (Each.cons (spadExtent_sound h) (Each.cons (IfSome.map_of (fun _ => failAcc_sound h)) Each.nil)))))
  · split
    · exact lateFail_sound (spoilMem_sound h)
    · exact sound_ite (failStore_sound (spoilMem_sound h))
        (ItemRes.sound_ok (foldl_sound (foldl_sound (drainAcc_sound h) (fun _ _ ht => dirtyAcc_sound ht)) (fun _ _ ht => putCode_sound ht)))

theorem cpstTl_sound {i : Item} {l : Layout} {w : BitVec 64} {f : Store 32} {r0 c0 : ℕ} (h : State.Sound κ s) :
    ItemRes.Sound κ (cpstTl s i l w f r0 c0) := by
  unfold cpstTl
  dsimp only
  split
  · rename_i e1
    exact IfSome.get e1 (firstRes_sound (Each.cons (spadAlign_sound h)
        (Each.cons (spadExtent_sound h) (Each.cons (IfSome.map_of (fun _ => failAcc_sound h)) Each.nil))))
  · split
    · exact lateFail_sound (spoilMem_sound h)
    · exact sound_ite (failStore_sound (spoilMem_sound h)) (sound_ite (failPlain_sound (spoilMem_sound h)) (ItemRes.sound_ok (writeRun_sound h)))

theorem cpstWork_sound {x2 : ItemRef} {i : Item} (h : State.Sound κ s) : ItemRes.Sound κ (cpstWork s x2 i) := by
  unfold cpstWork
  split
  · exact withBar_sound (by
          split
          · rename_i e2
            exact IfLeft.get e2 (readLayout_sound h)
          · exact sound_ite (cpstTl_sound h) (cpstDense_sound h))
  · exact ItemRes.sound_wait

theorem execCpstItemComplete_sound (h : State.Sound κ s) : Out.Sound κ (execCpstItemComplete s) :=
  Out.sound_next (itemEvent_sound (fun _ ht _ _ => cpstWork_sound ht) h)

theorem cpssWork_sound {x2 : ItemRef} {i : Item} (h : State.Sound κ s) : ItemRes.Sound κ (cpssWork s x2 i) := by
  unfold cpssWork
  split
  · exact withBar_sound (sound_ite (failPlain_sound h) (by
            split
            · exact failAcc_sound h
            · split
              · exact lateFail_sound (spoilMem_sound h)
              · exact ItemRes.sound_ok (State.freshen_sound
                  (foldl_sound (foldl_sound (drainAcc_sound (drainAcc_sound h)) (fun _ _ ht => dirtyAcc_sound ht)) (fun _ _ ht => locPut_sound ht)))))
  · exact ItemRes.sound_wait

theorem execCpssItemComplete_sound (h : State.Sound κ s) : Out.Sound κ (execCpssItemComplete s) :=
  Out.sound_next (itemEvent_sound (fun _ ht _ _ => cpssWork_sound ht) h)

theorem addOnStore_sound {fp : Bool} {x : LaneAcc × List Loc} {v : BitVec 32} (h : State.Sound κ s) : State.Sound κ (addOnStore s fp x v) := by
  unfold addOnStore
  split
  · exact locsPut_sound (dirtyAcc_sound (drainFor_sound h))
  · exact sound_ite (locsPut_sound (dirtyAcc_sound (drainFor_sound h)))
      (sound_ite (addHome_sound (dirtyAcc_sound h)) (contribute_sound (dirtyAcc_sound h)))

theorem acstWork_sound {r : ItemRef} {i : Item} (h : State.Sound κ s) : ItemRes.Sound κ (acstWork s r i) := by
  unfold acstWork
  split
  · exact sound_ite ItemRes.sound_wait (withBar_sound (sound_ite (failPlain_sound h) (by
              split
              · exact failAcc_sound h
              · split
                · exact lateFail_sound (spoilMem_sound h)
                · exact sound_ite (failStore_sound (spoilMem_sound h))
                    (sound_ite (ItemRes.sound_ok (foldl_sound h (fun _ _ ht => addOnStore_sound ht))) (ItemRes.sound_ok (writeRun_sound h))))))
  · exact ItemRes.sound_wait

theorem execAcstItemComplete_sound (h : State.Sound κ s) : Out.Sound κ (execAcstItemComplete s) :=
  Out.sound_next (itemEvent_sound (fun _ ht _ _ => acstWork_sound ht) h)

theorem putTile_sound {s0 : State} {acc : ℕ} {l : List (ℕ × BitVec 32)} (hs0 : State.Sound κ s0) : State.Sound κ (putTile s0 acc l) :=
  setOwn_sound (sound_ite hs0 (State.sound_mk hs0)) (fun _ hc => setTile_sound hc)

theorem spoilTile_sound {acc : ℕ} {w : BitVec 64} (h : State.Sound κ s) : State.Sound κ (spoilTile s acc w) :=
  keepBad_sound (putTile_sound (State.freshen_sound h))

theorem acldWork_sound {x2 : ItemRef} {i : Item} (h : State.Sound κ s) : ItemRes.Sound κ (acldWork s x2 i) := by
  unfold acldWork
  split
  · exact withBar_sound (by
          split
          · exact sound_ite ItemRes.sound_page (lateFail_sound (spoilTile_sound h))
          · exact ItemRes.sound_ok (putTile_sound (drainAcc_sound h)))
  · exact ItemRes.sound_wait

theorem execAcldItemComplete_sound (h : State.Sound κ s) : Out.Sound κ (execAcldItemComplete s) :=
  Out.sound_next (itemEvent_sound (fun _ ht _ _ => acldWork_sound ht) h)

theorem setWindow_sound {w stamp : ℕ} {b : Option Binding} (h : State.Sound κ s) : State.Sound κ (setWindow s w stamp b) := by
  unfold setWindow
  split
  · exact h
  · rename_i c e
    exact State.sound_mk (Fields.withCtxs h (Values.aput h.ctxs { (IfSome.get e (Values.aget h.ctxs) : Ctx.Sound κ c) with }))

theorem fillPool_sound {run : ℕ} {idx : List (BitVec 32)} (h : State.Sound κ s) : State.Sound κ (fillPool s run idx) := by
  unfold fillPool
  split
  · exact h
  · exact devPutBytes_sound h

theorem swbindWork_sound {s0 : State} {r : ItemRef} {i : Item} (hs0 : State.Sound κ s0) : ItemRes.Sound κ (swbindWork s0 r i) := by
  unfold swbindWork
  dsimp only
  split
  · exact sound_ite ItemRes.sound_wait (by
          split
          · exact sound_ite ItemRes.sound_page (lateFail_sound (setWindow_sound (State.sound_mk hs0)))
          · split
            · exact failPlain_sound (setWindow_sound (drainAcc_sound (State.sound_mk hs0)))
            · exact sound_ite (ItemRes.sound_fail (setWindow_sound (drainAcc_sound (State.sound_mk hs0))))
                (ItemRes.sound_ok (setWindow_sound (fillPool_sound (drainAcc_sound (State.sound_mk hs0))))))
  · exact ItemRes.sound_wait

theorem execSwbindItemComplete_sound (h : State.Sound κ s) : Out.Sound κ (execSwbindItemComplete s) :=
  Out.sound_next (itemEvent_sound (fun _ ht _ _ => swbindWork_sound ht) h)

theorem swunbWork_sound {r : ItemRef} {i : Item} (h : State.Sound κ s) : ItemRes.Sound κ (swunbWork s r i) := by
  unfold swunbWork
  split
  · exact sound_ite (ItemRes.sound_ok (setWindow_sound h)) ItemRes.sound_wait
  · exact ItemRes.sound_wait

theorem execSwunbItemComplete_sound (h : State.Sound κ s) : Out.Sound κ (execSwunbItemComplete s) :=
  Out.sound_next (itemEvent_sound (fun _ ht _ _ => swunbWork_sound ht) h)

/-! ### Leases and shadow windows (R137 to R144, R300 to R304) -/

theorem updLeaseTok_sound {w : Who} {n req : ℕ} {f : Tok → Tok} (h : State.Sound κ s) : State.Sound κ (updLeaseTok s w n req f) :=
  onCrew_sound h (fun _ ht => updTok_sound ht)

theorem endItems_sound {w : Who} {items : List (ℕ × Item)} {st : Status} (h : State.Sound κ s) : State.Sound κ (endItems s w items st) :=
  foldl_sound h (fun _ _ ht => sound_ite (endItem_sound ht) (doomItem_sound ht))

theorem evictLease_sound {cl n : ℕ} {st : Status} (h : State.Sound κ s) : State.Sound κ (evictLease s cl n st) := by
  unfold evictLease
  dsimp only
  split
  · exact h
  · exact updEngine_sound (updLeaseTok_sound (onCrew_sound h (fun _ ht => endItems_sound ht)))

theorem dropReq_sound {cl : ℕ} {r : LeaseReq} (h : State.Sound κ s) : State.Sound κ (dropReq s cl r) := setCluster_sound h

theorem grant_sound {cl : ℕ} {r : LeaseReq} {n : ℕ} (h : State.Sound κ s) : State.Sound κ (grant s cl r n) :=
  updLeaseTok_sound (setCluster_sound (updEngine_sound (dropReq_sound h)))

theorem darken_sound {cl n : ℕ} (h : State.Sound κ s) : State.Sound κ (darken s cl n) := updEngine_sound h

theorem serve_sound {cl : ℕ} {r : LeaseReq} (h : State.Sound κ s) : State.Sound κ (serve s cl r) := by
  unfold serve
  dsimp only
  split
  · exact grant_sound h
  · split
    · exact grant_sound h
    · split
      · exact sound_ite (grant_sound h) (by
              split
              · exact grant_sound (darken_sound h)
              · split
                · exact grant_sound (evictLease_sound h)
                · exact h)
      · split
        · exact grant_sound (updEngine_sound (evictLease_sound h))
        · exact h

theorem freeLease_sound {cl n : ℕ} (h : State.Sound κ s) : State.Sound κ (freeLease s cl n) := updEngine_sound h

theorem lrelEffect_sound {cl n : ℕ} (h : State.Sound κ s) : State.Sound κ (lrelEffect s cl n) := sound_ite (freeLease_sound h) h

theorem dimIdle_sound {cl n : ℕ} (h : State.Sound κ s) : State.Sound κ (dimIdle s cl n) := sound_ite (updEngine_sound h) h

theorem lingerExpire_sound {cl n : ℕ} (h : State.Sound κ s) : State.Sound κ (lingerExpire s cl n) := sound_ite (updEngine_sound h) h

theorem darkIdle_sound {cl n : ℕ} (h : State.Sound κ s) : State.Sound κ (darkIdle s cl n) := sound_ite (darken_sound h) h

theorem settleEngine_sound {cl n : ℕ} (h : State.Sound κ s) : State.Sound κ (settleEngine s cl n) :=
  darkIdle_sound (lingerExpire_sound (dimIdle_sound (lrelEffect_sound h)))

theorem haltRound_sound {cl : ℕ} (h : State.Sound κ s) : State.Sound κ (haltRound s cl) :=
  sound_ite h (foldl_sound (foldl_sound (setCluster_sound h) (fun _ _ ht => settleEngine_sound ht)) (fun _ _ ht => serve_sound ht))

theorem execLeaseGrant_sound (h : State.Sound κ s) : Out.Sound κ (execLeaseGrant s) := Out.sound_next (sound_ite (haltRound_sound h) h)

theorem execLeaseHoldExpire_sound (h : State.Sound κ s) : Out.Sound κ (execLeaseHoldExpire s) := Out.sound_next (sound_ite (haltRound_sound h) h)

theorem engineLit_sound {cl n : ℕ} (h : State.Sound κ s) : State.Sound κ (engineLit s cl n) :=
  sound_ite h (by
      split
      · exact updEngine_sound h
      · exact updLeaseTok_sound (updEngine_sound h))

theorem execEngineLit_sound (h : State.Sound κ s) : Out.Sound κ (execEngineLit s) := Out.sound_next (engineLit_sound h)

theorem execEngineDimIdle_sound (h : State.Sound κ s) : Out.Sound κ (execEngineDimIdle s) := Out.sound_next (dimIdle_sound h)

theorem execEngineLingerExpire_sound (h : State.Sound κ s) : Out.Sound κ (execEngineLingerExpire s) := Out.sound_next (lingerExpire_sound h)

theorem execEngineDarkIdle_sound (h : State.Sound κ s) : Out.Sound κ (execEngineDarkIdle s) := Out.sound_next (darkIdle_sound h)

theorem execLrelTakeEffect_sound (h : State.Sound κ s) : Out.Sound κ (execLrelTakeEffect s) := Out.sound_next (lrelEffect_sound h)

theorem releaseGang_sound {gid : ℕ} (h : State.Sound κ s) : State.Sound κ (releaseGang s gid) := State.sound_mk h

theorem evictGang_sound {gid : ℕ} {st : Status} (h : State.Sound κ s) : State.Sound κ (evictGang s gid st) :=
  releaseGang_sound (foldl_sound (foldl_sound h (fun _ _ ht => updLeaseTok_sound ht))
      (fun _ _ ht => foldl_sound ht (fun _ _ ht1 => sound_ite (evictLease_sound (lrelEffect_sound ht1)) ht1)))

/-! ### Reductions, windows, collectives and indexes -/

theorem lostState_sound {e : Fx} {ws : List LaneAcc} (h : State.Sound κ s) : State.Sound κ (lostState s e ws) := sound_ite h (spoilMem_sound h)

theorem lostDest_sound {e : Fx} {ws : List LaneAcc} (h : State.Sound κ s) : ItemRes.Sound κ (lostDest s e ws) :=
  sound_ite ItemRes.sound_page (ItemRes.sound_fail (lostState_sound h))

theorem rwWork_sound {rs ws : List LaneAcc} {f : List ℕ → State → State × List ℕ} (h : State.Sound κ s)
    (hf : ∀ (a : List ℕ) (a' : State), State.Sound κ a' → State.Sound κ (f a a').1) : ItemRes.Sound κ (rwWork s rs ws f) := by
  unfold rwWork
  split
  · exact failAcc_sound h
  · split
    · exact lateFail_sound (spoilMem_sound h)
    · exact ItemRes.sound_ok (writeRun_sound (hf _ _ (readRun_sound h)))

theorem onEngine_sound {cl req : ℕ} {f : Engine → Engine} (h : State.Sound κ s) : State.Sound κ (onEngine s cl req f) := by
  unfold onEngine
  split
  · exact h
  · exact updEngine_sound h

theorem ecmdEvent_sound {k : ℕ} {work : State → ItemOp → Engine → Item → ItemRes}
    (hwork : ∀ (a : State), State.Sound κ a → ∀ (a' : ItemOp) (a'' : Engine) (a''' : Item), ItemRes.Sound κ (work a a' a'' a'''))
        (h : State.Sound κ s) : State.Sound κ (ecmdEvent k work s) :=
  itemEvent_sound (fun _ ht _ _ => sound_ite ItemRes.sound_wait (by
        split
        · exact hwork _ (onEngine_sound ht) _ _ _
        · exact ItemRes.sound_wait)) h

theorem setSlotXf_sound {cl req k : ℕ} {m sm : BitVec 32} (h : State.Sound κ s) : State.Sound κ (setSlotXf s cl req k m sm) := onEngine_sound h

theorem xfWork_sound {op : ItemOp} {e : Engine} {x4 : Item} (h : State.Sound κ s) : ItemRes.Sound κ (xfWork s op e x4) := by
  unfold xfWork
  split
  · split
    · exact rwWork_sound h (fun _ _ ht => ht)
    · exact rwWork_sound h (fun _ _ ht => ht)
    · exact rwWork_sound h (fun _ _ ht => setSlotXf_sound ht)
    · exact rwWork_sound h (fun _ _ ht => ht)
    · exact rwWork_sound h (fun _ _ ht => setSlotXf_sound ht)
    · exact rwWork_sound h (fun _ _ ht => ht)
    · exact rwWork_sound h (fun _ _ ht => onEngine_sound ht)
  · exact ItemRes.sound_wait

theorem execXfItemComplete_sound (h : State.Sound κ s) : Out.Sound κ (execXfItemComplete s) :=
  Out.sound_next (ecmdEvent_sound (fun _ ht _ _ _ => xfWork_sound ht) h)

theorem mgWork_sound {op : ItemOp} {x3 : Engine} {i : Item} (h : State.Sound κ s) : ItemRes.Sound κ (mgWork s op x3 i) := by
  unfold mgWork
  dsimp only
  split
  · split
    · exact lostDest_sound h
    · exact sound_ite (failPlain_sound (spoilMem_sound h)) (by
            split
            · exact lostDest_sound h
            · split
              · exact lostDest_sound h
              · split
                · exact ItemRes.sound_ok (writeRun_sound (drainAcc_sound h))
                · exact ItemRes.sound_fail (writeRun_sound (drainAcc_sound h)))
  · exact ItemRes.sound_wait

theorem execMgItemComplete_sound (h : State.Sound κ s) : Out.Sound κ (execMgItemComplete s) :=
  Out.sound_next (ecmdEvent_sound (fun _ ht _ _ _ => mgWork_sound ht) h)

theorem endChunk_sound {i : Item} {p1 : BitVec 64} {dst : List LaneAcc} {work : State → State} {fail : Option (Fx × Bool)} (h : State.Sound κ s)
    (hwork : ∀ (a : State), State.Sound κ a → State.Sound κ (work a)) : ItemRes.Sound κ (endChunk s i p1 dst work fail) := by
  unfold endChunk
  dsimp only
  split
  · split
    · exact ItemRes.sound_ok (hwork _ h)
    · exact ItemRes.sound_fail (hwork _ h)
  · split
    · exact sound_ite ItemRes.sound_page (sound_ite (lostDest_sound h) (by
              split
              · exact ItemRes.sound_ok (hwork _ h)
              · exact ItemRes.sound_fail (hwork _ h)))
    · split
      · exact ItemRes.sound_ok (writeRun_sound (hwork _ h))
      · exact ItemRes.sound_fail (writeRun_sound (hwork _ h))

theorem dcWork_sound {op : ItemOp} {x3 : Engine} {i : Item} (h : State.Sound κ s) : ItemRes.Sound κ (dcWork s op x3 i) := by
  unfold dcWork
  dsimp only
  split
  · split
    · exact sound_ite ItemRes.sound_page (endChunk_sound h (fun _ ht => lostState_sound ht))
    · split
      · exact sound_ite ItemRes.sound_page (endChunk_sound h (fun _ ht => lostState_sound ht))
      · split
        · exact sound_ite ItemRes.sound_page (endChunk_sound h (fun _ ht => lostState_sound ht))
        · split
          · exact endChunk_sound h (fun _ ht => writeRun_sound (drainAcc_sound ht))
          · exact endChunk_sound h (fun _ ht => spoilMem_sound (drainAcc_sound ht))
  · exact ItemRes.sound_wait

theorem execDcItemComplete_sound (h : State.Sound κ s) : Out.Sound κ (execDcItemComplete s) :=
  Out.sound_next (ecmdEvent_sound (fun _ ht _ _ _ => dcWork_sound ht) h)

theorem spWork_sound {op : ItemOp} {e : Engine} {x4 : Item} (h : State.Sound κ s) : ItemRes.Sound κ (spWork s op e x4) := by
  unfold spWork
  split
  · split
    · exact rwWork_sound h (fun _ _ ht => onEngine_sound ht)
    · exact ItemRes.sound_ok (onEngine_sound h)
    · exact rwWork_sound h (fun _ _ ht => ht)
  · exact ItemRes.sound_wait

theorem execSpItemComplete_sound (h : State.Sound κ s) : Out.Sound κ (execSpItemComplete s) :=
  Out.sound_next (ecmdEvent_sound (fun _ ht _ _ _ => spWork_sound ht) h)

theorem ixWork_sound {op : ItemOp} {x3 : Engine} {x4 : Item} (h : State.Sound κ s) : ItemRes.Sound κ (ixWork s op x3 x4) := by
  unfold ixWork
  dsimp only
  split
  · split
    · exact rwWork_sound h (fun _ _ ht => ht)
    · split
      · exact lostDest_sound h
      · exact rwWork_sound h (fun _ _ ht => ht)
    · exact rwWork_sound h (fun _ _ ht => ht)
  · exact ItemRes.sound_wait

theorem execIxItemComplete_sound (h : State.Sound κ s) : Out.Sound κ (execIxItemComplete s) :=
  Out.sound_next (ecmdEvent_sound (fun _ ht _ _ _ => ixWork_sound ht) h)

theorem acceptEntry_sound {r : ItemRef} (h : State.Sound κ s) : State.Sound κ (acceptEntry s r) := onCrew_sound h (fun _ ht => updItem_sound ht)

theorem endAll_sound {l : List Present} {st : Status} (h : State.Sound κ s) : State.Sound κ (endAll s l st) :=
  foldl_sound h (fun _ _ ht => onCrew_sound ht (fun _ ht1 => sound_ite (doomItem_sound ht1) (endItem_sound ht1)))

theorem failColl_sound {ctx id sub : ℕ} {here : List Present} (h : State.Sound κ s) : State.Sound κ (failColl s ctx id sub here) :=
  endAll_sound (State.sound_mk h)

theorem forgetColl_sound {ctx : ℕ} {c : Coll} {sub core : ℕ} (h : State.Sound κ s) : State.Sound κ (forgetColl s ctx c sub core) := State.sound_mk h

theorem collective_sound {ctx : ℕ} {c : Coll} {i : Item} {bytes : List (BitVec 8)} (h : State.Sound κ s) :
    State.Sound κ (collective s ctx c i bytes) :=
  sound_ite (failColl_sound h) (sound_ite (endAll_sound h)
      (sound_ite (endAll_sound h) (sound_ite (foldl_sound h (fun _ _ ht => acceptEntry_sound ht)) (by
            split
            · exact onCrew_sound (foldl_sound h (fun _ _ ht => acceptEntry_sound ht)) (fun _ ht => finishItem_sound ht (failAcc_sound ht))
            · exact endAll_sound (foldl_sound h (fun _ _ ht => onCrew_sound ht
                (fun _ ht1 => State.sound_mk (writeRun_sound (State.sound_mk ht1)))))))))

theorem clHeld_sound {r : ItemRef} {i : Item} (h : State.Sound κ s) : IfSome (State.Sound κ) (clHeld s r i) := by
  unfold clHeld
  split
  · exact IfSome.none
  · exact sound_ite IfSome.none (sound_ite (IfSome.some h) (sound_ite (IfSome.some (refuse_sound h)) IfSome.none))

theorem clComplete_sound (h : State.Sound κ s) : State.Sound κ (clComplete s) := by
  unfold clComplete
  dsimp only
  split
  · exact h
  · split
    · exact h
    · exact onCrew_sound h (fun _ ht => finishItem_sound ht (failAcc_sound ht))
    · split
      · rename_i e2
        exact IfSome.get e2 (clHeld_sound h)
      · exact sound_ite (forgetColl_sound (failColl_sound h))
          (sound_ite (collective_sound (forgetColl_sound h)) (failColl_sound (forgetColl_sound h)))

theorem execClItemComplete_sound (h : State.Sound κ s) : Out.Sound κ (execClItemComplete s) := Out.sound_next (clComplete_sound h)

/-! ### Launches -/

theorem launchGroup_sound {p : Packet} {no slot : ℕ} : Group.Sound κ (launchGroup p no slot) :=
  { Group.zero_sound with splits := Each.cons { Split.zero_sound with } Each.nil }

theorem launchGroups_sound {p : Packet} {used : List Nat} {n no : Nat} : Values (Group.Sound κ) (launchGroups p used n no) := by
  induction n generalizing used no with
  | zero => exact Values.nil
  | succ n ih =>
    unfold launchGroups
    split
    · exact Values.nil
    · exact Values.cons launchGroup_sound ih

theorem newCrew_sound {p : Packet} {no core strm tag : ℕ} {used : List ℕ} : Crew.Sound κ (newCrew p no core strm tag used) :=
  { Crew.zero_sound with strm := { Stream.zero_sound with }, groups := launchGroups_sound }

theorem newGang_sound {grid : ℕ} {no : BitVec 64} {p : Packet} {core : ℕ} : Gang.Sound κ (newGang s grid no p core) :=
  ⟨Values.map_of (fun _ => newCrew_sound)⟩

theorem placeGang_sound {g : Gang} (h : State.Sound κ s) (hg : Gang.Sound κ g) : State.Sound κ (placeGang s g) :=
  State.sound_mk (Fields.withGangs h (Values.aput h.gangs hg))

/-! ### Sample groups (R149 to R152) -/

theorem switchCrew_sound {c : ℕ} (h : State.Sound κ s) : State.Sound κ (switchCrew s c) :=
  sound_ite h (by
      split
      · exact h
      · rename_i e
        exact State.sound_mk (Fields.withCrew (Fields.withGang h ⟨Values.aput (Values.adel h.gang.crews) h.crew⟩)
            (IfSome.get e (Values.aget h.gang.crews))))

theorem sibGroup_sound {key no slot e i : ℕ} {phases : List (ℕ × ℕ)} (h : State.Sound κ s) : Group.Sound κ (sibGroup s key no slot e i phases) :=
  { h.grp with splits := Each.cons ⟨IfSome.none⟩ Each.nil }

theorem placeSib_sound {e i c : ℕ} (h : State.Sound κ s) : State.Sound κ (placeSib s e i c) := by
  unfold placeSib
  split
  · exact h
  · exact bump_sound (setCrew_sound (carryBad_sound h)
      (fun _ hc2 => endThreads_sound { hc2 with groups := Values.aput hc2.groups (sibGroup_sound h) }))

theorem forkDone_sound {a b : BitVec 7} (h : State.Sound κ s) : State.Sound κ (forkDone s a b) :=
  setGrp_sound (foldl_sound (setSg_sound h) (fun _ _ ht => placeSib_sound ht)) (fun _ hg => { hg with })

theorem sibNx_sound {nx : NX} {e : ℕ} {pc : BitVec 64} {s0 : State} (hs0 : State.Sound κ s0) : State.Sound κ (sibNx nx e pc s0) := by
  unfold sibNx
  dsimp only
  exact switchCrew_sound (foldl_sound (unfocusSplit_sound hs0) (fun _ _ ht => foldl_sound ht (fun _ _ ht1 => by
            split
            · exact switchCrew_sound ht1
            · rename_i e1
              exact unfocusSplit_sound (nxApply_sound (IfSome.get e1 (focusSplit_sound (switchCrew_sound ht1)))))))

theorem sgWait_sound (h : State.Sound κ s) : IfSome (State.Sound κ) (sgWait s) := by
  unfold sgWait
  split
  · exact sound_ite (IfSome.some (waitAs_sound h)) IfSome.none
  · exact sound_ite (IfSome.some (waitAs_sound (State.sound_mk (refuse_sound h)))) (sound_ite (IfSome.some (State.sound_mk h)) IfSome.none)

theorem execSfork_sound {nx : NX} {a b : BitVec 7} (h : State.Sound κ s) : Out.Sound κ (execSfork nx a b s) :=
  retire_sound h ⟨sgWait_sound h, forkDone_sound h, fun _ ht => sibNx_sound ht⟩

theorem sgOp_sound {d : ℕ} {f : ℕ → SgEntry → SgEntry} (h : State.Sound κ s) : State.Sound κ (sgOp s d f) := by
  unfold sgOp
  split
  · exact h
  · exact sound_ite (sput_sound h) (sput_sound (setSg_sound h))

theorem execSreward_sound {nx : NX} {d a : BitVec 7} (h : State.Sound κ s) : Out.Sound κ (execSreward nx d a s) :=
  retire_sound h (Plan.sound_wait (sgWait_sound h) (sgOp_sound h))

theorem execSbar_sound {nx : NX} (h : State.Sound κ s) : Out.Sound κ (execSbar nx s) :=
  retire_sound h (Plan.sound_wait (sound_ite IfSome.none (IfSome.some (waitAs_sound h))) h)

theorem execScancel_sound {nx : NX} {d a : BitVec 7} (h : State.Sound κ s) : Out.Sound κ (execScancel nx d a s) :=
  retire_sound h (Plan.sound_wait (sgWait_sound h) (sgOp_sound h))

theorem execSginfo_sound {nx : NX} {d : BitVec 7} (h : State.Sound κ s) : Out.Sound κ (execSginfo nx d s) :=
  retire_sound h (Plan.sound_wait IfSome.none (sput_sound h))

theorem execSgabs_sound {nx : NX} {d : BitVec 7} (h : State.Sound κ s) : Out.Sound κ (execSgabs nx d s) :=
  retire_sound h (Plan.sound_wait IfSome.none (sput_sound h))

theorem execSgadv_sound {nx : NX} {a : BitVec 7} (h : State.Sound κ s) : Out.Sound κ (execSgadv nx a s) :=
  retire_sound h (Plan.sound_wait (sound_ite IfSome.none (IfSome.some (waitAs_sound h))) (storeAll_sound (drainAcc_sound h)))

theorem execSgDeadline_sound (h : State.Sound κ s) : Out.Sound κ (execSgDeadline s) :=
  Out.sound_next (by
      split
      · exact h
      · split
        · exact sound_ite (setSg_sound h) h
        · exact h)

/-! ### Held results -/

theorem withCapture_sound {c : Capture} (h : State.Sound κ s) (hc : Capture.Sound κ c) : State.Sound κ (withCapture s c) :=
  State.sound_mk (Fields.withGrp (Fields.withCrew h { h.crew with }) { h.grp with mode := hc.mode })

theorem captureOf_sound {w : BitVec 32} {rest : List (BitVec 32)} (h : State.Sound κ s) : Capture.Sound κ (captureOf s w rest) := ⟨h.grp.mode⟩

theorem uncapture_sound {live : State} {c : Capture} (hlive : State.Sound κ live) (h : State.Sound κ s) : State.Sound κ (uncapture live s c) :=
  State.sound_mk (Fields.withGrp (Fields.withCrew h
      { h.crew with recs := Each.append (Each.take h.crew.recs) (Each.map_of (fun _ => ⟨hlive.grp.mode⟩)) }) { hlive.grp with splits :=
          h.grp.splits })

theorem resumed_sound {c : Capture} (h : State.Sound κ s) (hc : Capture.Sound κ c) : State.Sound κ (resumed s c) :=
  sound_ite h (withCapture_sound h hc)

theorem putBack_sound {live : State} {c : Capture} (hlive : State.Sound κ live) (h : State.Sound κ s) : State.Sound κ (putBack live s c) :=
  sound_ite h (uncapture_sound hlive h)

theorem mendRegs_sound {s0 : State} {i : Instr} (h : State.Sound κ s) : State.Sound κ (mendRegs s0 s i) := sound_ite h (State.sound_mk h)

theorem spoilOpd_sound {x2 : Opd} (h : State.Sound κ s) : State.Sound κ (spoilOpd s x2) := by
  unfold spoilOpd
  split
  · exact State.freshen_sound (foldl_sound h (fun _ _ ht => vput_sound ht))
  · exact State.freshen_sound (sput_sound h)
  · exact State.freshen_sound (eput_sound h)
  · exact State.freshen_sound (foldl_sound h (fun _ _ ht => kput_sound ht))
  · exact h

theorem spoilMode_sound (h : s.Sound κ) : (spoilMode s).Sound κ := by
  unfold spoilMode
  extract_lets m
  refine State.freshen_sound ?_
  split
  · exact setMode_sound h fun _ => ‹_›
  · exact h

theorem spoilSel_sound {sel : ℕ} (h : State.Sound κ s) : State.Sound κ (spoilSel s sel) := State.freshen_sound (sound_ite (swrPut_sound h) h)

theorem spoilGuard_sound {n : ℕ} (h : State.Sound κ s) : State.Sound κ (spoilGuard s n) :=
  State.freshen_sound (setOwn_sound h (fun _ hc => { hc with }))

theorem spoilTail_sound {a : BitVec 7} (h : State.Sound κ s) : State.Sound κ (spoilTail s a) := by
  unfold spoilTail
  split
  · exact h
  · exact State.freshen_sound (foldl_sound (setOwn_sound h (fun _ hc => { hc with })) (fun _ _ ht => mend_sound ht))

theorem spoilSpecial_sound {x2 : Instr} (h : State.Sound κ s) : State.Sound κ (spoilSpecial s x2) := by
  unfold spoilSpecial
  split
  · exact spoilMode_sound h
  · exact spoilMode_sound h
  · exact spoilSel_sound (spoilSel_sound h)
  · exact spoilSel_sound (spoilSel_sound h)
  · exact spoilSel_sound h
  · exact sound_ite (spoilSel_sound h) (sound_ite (spoilSel_sound h) (sound_ite (spoilSel_sound h) h))
  · exact State.freshen_sound (setGrp_sound h (fun _ hg => { hg with }))
  · exact State.freshen_sound (setGen_sound h)
  · exact State.freshen_sound (tput_sound h)
  · exact State.freshen_sound (tput_sound h)
  · exact State.freshen_sound (tput_sound h)
  · exact State.freshen_sound (tput_sound h)
  · exact spoilGuard_sound h
  · exact spoilGuard_sound h
  · exact spoilGuard_sound h
  · exact spoilTail_sound h
  · exact h

theorem residueFault_sound {i : Instr} (h : State.Sound κ s) : State.Sound κ (residueFault s i) :=
  sound_ite (raise_sound h) (spoilSpecial_sound
      (sound_ite (foldl_sound (raise_sound h) (fun _ _ ht => spoilOpd_sound ht))
          (spoilMem_sound (foldl_sound (raise_sound h) (fun _ _ ht => spoilOpd_sound ht)))))

/-! ### Fetch, and NX (R38, R161) -/

theorem undecodable_sound {e : DecodeError} (h : State.Sound κ s) : State.Sound κ (undecodable e s) := by
  unfold undecodable
  split
  · exact sound_ite (raise_sound h) (raise_sound h)
  · exact raise_sound h

theorem load_sound {c : Cand} (h : State.Sound κ s) : IfSome (State.Sound κ) (load s c) := by
  unfold load
  split
  · exact IfSome.none
  · rename_i e
    split
    · exact focusSplit_sound (IfSome.get e (focusCrew_sound h))
    · exact IfSome.some (State.sound_mk (IfSome.get e (focusCrew_sound h) : State.Sound κ _))

theorem unload_sound (h : State.Sound κ s) : State.Sound κ (unload s) := unfocusCrew_sound h

theorem keepWords_sound {w : BitVec 32} {rest : List (BitVec 32)} (h : State.Sound κ s) : State.Sound κ (keepWords s w rest) :=
  setStrm_sound h (fun _ hx => { hx with })

theorem account_sound {before after : State} {w : BitVec 32} {rest : List (BitVec 32)} (hbefore : State.Sound κ before)
    (hafter : State.Sound κ after) : State.Sound κ (account before after w rest) := by
  unfold account
  extract_lets core held s1 p s2 c
  have hs1 : State.Sound κ s1 := sound_ite
      (setSplit_sound (sound_ite (State.sound_mk hafter) hafter)
          (fun _ _ => ⟨sound_ite (sound_ite (IfSome.some (captureOf_sound hbefore)) hbefore.split.cap) IfSome.none⟩)) hafter
  have hs2 : State.Sound κ s2 := bump_sound hs1
  exact sound_ite (countMisses_sound (keepWords_sound hafter))
      (sound_ite (sound_ite (sound_ite (countMisses_sound hs1) hs1) (countMisses_sound (setCore_sound hs2))) hafter)

theorem passDeadlines_sound (h : State.Sound κ s) : State.Sound κ (passDeadlines s) :=
  foldl_sound h (fun _ _ ht => foldl_sound ht (fun _ _ ht1 => by
        split
        · exact sound_ite (setSg_sound ht1) ht1
        · exact ht1))

theorem markBusy_sound {t : ℕ} (h : State.Sound κ s) : State.Sound κ (markBusy s t) :=
  foldl_sound h (fun _ _ ht1 => sound_ite ht1 (setCluster_sound ht1))

theorem expireGroup_sound {key n : Nat} (h : s.Sound κ) : (expireGroup key n s).Sound κ := by
  induction n generalizing s with
  | zero => exact h
  | succ n ih =>
    unfold expireGroup
    split
    · exact h
    · exact ih (expireSplit_sound h)

theorem expireWaits_sound (h : State.Sound κ s) : State.Sound κ (expireWaits s) :=
  foldl_sound h (fun _ _ ht => onCrew_sound ht (fun _ ht1 => expireGroup_sound ht1))

theorem Split.age_sound {x : Split} {n : ℕ} (hx : Split.Sound κ x) : Split.Sound κ (x.age n) := by
  unfold Split.age
  split
  · exact { hx with }
  · exact hx

theorem countEngine_sound {core cyc : ℕ} (h : State.Sound κ s) : State.Sound κ (countEngine s core cyc) := by
  unfold countEngine
  dsimp only
  split
  · split
    · exact h
    · exact bump_sound (bump_sound (bump_sound h))
  · exact bump_sound (by
          split
          · exact h
          · exact bump_sound (bump_sound (bump_sound h)))

theorem Crew.countedWaits_sound {c : Crew} (hc : Crew.Sound κ c) : Crew.Sound κ c.countedWaits :=
  sound_ite ({ hc with strm := { hc.strm with } }) hc

theorem Crew.age_sound {c : Crew} {n : ℕ} (hc : Crew.Sound κ c) : Crew.Sound κ (c.age n) :=
  { hc with groups := Values.map hc.groups (fun _ h => { h with splits := Each.map h.splits (fun _ hx1 => Split.age_sound hx1) }) }

theorem Crew.nextTurn_sound {c : Crew} (hc : Crew.Sound κ c) : Crew.Sound κ c.nextTurn := { hc with strm := { hc.strm with } }

theorem ageWaits_sound {n : ℕ} (h : State.Sound κ s) : Values (Gang.Sound κ) (ageWaits s n) :=
  Values.map h.gangs (fun _ h1 => ⟨Values.map h1.crews
      (fun _ h2 => sound_ite (Crew.age_sound (Crew.nextTurn_sound (sound_ite h2 (Crew.countedWaits_sound h2))))
          (Crew.nextTurn_sound (sound_ite h2 (Crew.countedWaits_sound h2))))⟩)

theorem openWindows_sound (h : State.Sound κ s) : State.Sound κ (openWindows s) :=
  foldl_sound h (fun _ _ ht => by
      split
      · exact ht
      · exact sound_ite (setCore_sound ht) ht)

theorem countCycles_sound {n core : ℕ} (h : State.Sound κ s) : State.Sound κ (countCycles s n core) :=
  setCore_sound (bump_sound (bump_sound (bump_sound (bump_sound (countEngine_sound h)))))

theorem endReads_sound (h : State.Sound κ s) : State.Sound κ (endReads s) :=
  foldl_sound h (fun _ _ ht => by
      split
      · exact ht
      · exact sound_ite (onCrew_sound ht (fun _ ht1 => updItem_sound ht1)) ht)

theorem tick_sound {s0 : State} {n : ℕ} (hs0 : State.Sound κ s0) : State.Sound κ (tick s0 n) := by
  unfold tick
  extract_lets s1 s
  have hs1 : State.Sound κ s1 := openWindows_sound (expireWaits_sound hs0)
  have hs : State.Sound κ s := foldl_sound (markBusy_sound hs1) (fun _ _ ht => countCycles_sound ht)
  exact passDeadlines_sound (endReads_sound
      (State.sound_mk (Fields.withCtxs (Fields.withGangs hs (ageWaits_sound hs)) (Values.map hs.ctxs (fun _ h => by
                split
                · exact { h with }
                · exact h)))))

/-! ### The dispatcher (R17, R18, R54 to R59) -/

theorem readyClasses_sound {c : Crew} (hc : Crew.Sound κ c) : Each (RecClass.Sound κ) (readyClasses c) :=
  Each.filter (Each.eraseDups (Each.map hc.recs (fun _ hx => SpawnRec.cls_sound hx)))

theorem firstClass_sound {l : List RecClass} (hl : Each (RecClass.Sound κ) l) : IfSome (RecClass.Sound κ) (firstClass l) :=
  foldl_sound_each hl IfSome.none (fun _ _ hx hb => by
      split
      · exact IfSome.some hx
      · exact sound_ite (IfSome.some hx) hb)

theorem builtGroup_sound {k : RecClass} {rs : List SpawnRec} {no slot : ℕ} (hk : RecClass.Sound κ k) : Group.Sound κ (builtGroup s k rs no slot) :=
  ⟨hk.mode, Each.cons { Split.zero_sound with } Each.nil⟩

theorem takeRecs_sound {k : RecClass} {n : Nat} {l : List SpawnRec} (hl : Each (SpawnRec.Sound κ) l) : Each (SpawnRec.Sound κ) (takeRecs k n l) := by
  induction l generalizing n with
  | nil => cases n <;> exact Each.nil
  | cons r l ih =>
    cases n with
    | zero => exact hl
    | succ n => exact sound_ite (ih (hl.tail rfl)) (Each.cons (hl.head rfl) (ih (hl.tail rfl)))

theorem formGroup_sound {s0 : State} (hs0 : State.Sound κ s0) : State.Sound κ (formGroup s0) := by
  unfold formGroup
  extract_lets s core own s'
  have hs : State.Sound κ s := sound_ite (State.sound_mk (Fields.withCrew hs0 (flushPoint_sound hs0.crew))) hs0
  have hs' : Crew.Sound κ s' := hs.crew
  split
  · exact hs
  · rename_i e
    split
    · exact sound_ite (by
            extract_lets rs g c
            have hg : Group.Sound κ g := builtGroup_sound (IfSome.get e (firstClass_sound (readyClasses_sound hs')))
            have hc : Crew.Sound κ c :=
                { hs' with groups := Values.aput hs'.groups hg, recs := takeRecs_sound hs'.recs, flush := Each.filter hs'.flush }
            exact bump_sound (State.sound_mk (Fields.withCrew hs hc))) hs
    · exact hs

theorem execFormerBuild_sound (h : State.Sound κ s) : Out.Sound κ (execFormerBuild s) :=
  Out.sound_next (onCrew_sound h (fun _ ht => formGroup_sound ht))

theorem releaseGuard_sound (h : State.Sound κ s) : State.Sound κ (releaseGuard s) :=
  sound_ite (by
      split
      · exact h
      · exact setStrm_sound h (fun _ hx1 => { hx1 with })) h

theorem execGuardedCommandRelease_sound (h : State.Sound κ s) : Out.Sound κ (execGuardedCommandRelease s) :=
  Out.sound_next (onCrew_sound h (fun _ ht => releaseGuard_sound ht))

theorem endStream_sound {s0 : State} (hs0 : State.Sound κ s0) : State.Sound κ (endStream s0) :=
  sound_ite (setStrm_sound (settleAll_sound hs0) (fun _ hx => { hx with })) (settleAll_sound hs0)

theorem execStreamEnded_sound (h : State.Sound κ s) : Out.Sound κ (execStreamEnded s) :=
  Out.sound_next (onCrew_sound h (fun _ ht => endStream_sound ht))

theorem drainCtx_sound {ctx : ℕ} (h : State.Sound κ s) : State.Sound κ (drainCtx s ctx) :=
  foldl_sound h (fun _ _ ht => sound_ite (drainLine_sound ht) ht)

theorem finishGrid_sound {id : ℕ} {g : Grid} (h : State.Sound κ s) : State.Sound κ (finishGrid s id g) := State.sound_mk (drainCtx_sound h)

theorem countEnded_sound {id n m : ℕ} (h : State.Sound κ s) : State.Sound κ (countEnded s id n m) := by
  unfold countEnded
  split
  · exact h
  · exact sound_ite (finishGrid_sound h) (State.sound_mk h)

theorem dropSg_sound {gid : ℕ} (h : State.Sound κ s) : State.Sound κ (dropSg s gid) := State.sound_mk h

theorem removeGang_sound {gid : ℕ} (h : State.Sound κ s) : State.Sound κ (removeGang s gid) :=
  foldl_sound (State.sound_mk (Fields.withGangs (dropSg_sound (releaseGang_sound h)) (Values.adel ((dropSg_sound (releaseGang_sound h)).gangs))))
      (fun _ _ ht => sound_ite (chooseNext_sound (setCore_sound ht)) ht)

theorem parkGang_sound {gid : ℕ} {g : Gang} (h : State.Sound κ s) (hg : Gang.Sound κ g) : State.Sound κ (parkGang s gid g) :=
  dropSg_sound (State.sound_mk (Fields.withGangs h (Values.aput h.gangs { hg with })))

theorem retireGang_sound {gid : ℕ} {g : Gang} (h : State.Sound κ s) (hg : Gang.Sound κ g) : State.Sound κ (retireGang s gid g) :=
  countEnded_sound (parkGang_sound h hg)

theorem gangEnd_sound {gid : ℕ} (h : State.Sound κ s) : State.Sound κ (gangEnd s gid) := by
  unfold gangEnd
  split
  · exact h
  · rename_i e
    exact sound_ite (sound_ite (removeGang_sound (sound_ite h (retireGang_sound h (IfSome.get e (Values.aget h.gangs)))))
        (sound_ite h (retireGang_sound h (IfSome.get e (Values.aget h.gangs))))) h

theorem execGangEnd_sound (h : State.Sound κ s) : Out.Sound κ (execGangEnd s) := Out.sound_next (gangEnd_sound h)

theorem startChild_sound {id : ℕ} (h : State.Sound κ s) : State.Sound κ (startChild s id) := by
  unfold startChild
  split
  · exact h
  · split
    · exact h
    · exact sound_ite (State.sound_mk h) h

theorem execChildGridStart_sound (h : State.Sound κ s) : Out.Sound κ (execChildGridStart s) := Out.sound_next (startChild_sound h)

theorem advanceGet_sound {r : PktRef} (h : State.Sound κ s) : State.Sound κ (advanceGet s r) :=
  sound_ite (by
      split
      · exact State.sound_mk h
      · rename_i c e
        exact State.sound_mk (Fields.withCtxs h (Values.aput h.ctxs { (IfSome.get e (Values.aget h.ctxs) : Ctx.Sound κ c) with })))
            (State.setReg_sound (State.sound_mk h))

theorem addGrid_sound {g : Grid} (h : State.Sound κ s) : State.Sound κ (addGrid s g) := State.sound_mk h

theorem endPacket_sound {ctx : ℕ} {r : PktRef} {p : Packet} {status : ℕ} (h : State.Sound κ s) : State.Sound κ (endPacket s ctx r p status) :=
  sound_ite (addGrid_sound h) (sound_ite (pushRec_sound h) h)

theorem losePacket_sound {r : PktRef} {k n : ℕ} (h : State.Sound κ s) : State.Sound κ (losePacket s r k n) := pushRec_sound (noteSpan_sound h)

theorem takePacket_sound {ctx : ℕ} {r : PktRef} (h : State.Sound κ s) : State.Sound κ (takePacket s ctx r) := by
  unfold takePacket
  split
  · exact losePacket_sound (advanceGet_sound h)
  · exact sound_ite (addGrid_sound (advanceGet_sound h)) (endPacket_sound (advanceGet_sound h))

theorem execPacketTake_sound (h : State.Sound κ s) : Out.Sound κ (execPacketTake s) :=
  Out.sound_next (sound_ite (by
        split
        · exact h
        · exact takePacket_sound h) h)

theorem setGated_sound {cl : ℕ} {b : Bool} (h : State.Sound κ s) : State.Sound κ (setGated s cl b) := State.setReg_sound h

theorem resplit_sound {core : ℕ} (h : State.Sound κ s) : State.Sound κ (resplit s core) := setCore_sound h

theorem resplitAll_sound {core n : ℕ} (h : State.Sound κ s) : State.Sound κ (resplitAll s core n) := foldl_sound h (fun _ _ ht => resplit_sound ht)

theorem reslot_sound {gs : List (Nat × Group)} {used : List Nat} (hgs : Values (Group.Sound κ) gs) : Values (Group.Sound κ) (reslot gs used) := by
  unfold reslot
  refine foldl_sound_each (Q := fun acc : List (Nat × Group) × List Nat => Values (Group.Sound κ) acc.1) (Values.sortBy hgs) Values.nil
      fun acc x hx hacc => ?_
  split
  · exact Values.append hacc (Values.cons hx Values.nil)
  · exact Values.append hacc (Values.cons { hx with } Values.nil)

theorem renumber_sound {m : List (ℕ × ℕ)} {c : Crew} (hc : Crew.Sound κ c) : Crew.Sound κ (renumber m c) :=
  { hc with
    groups := Values.map hc.groups (fun _ h => { h with })
    recs := Each.map hc.recs (fun _ hx => { hx with })
    flush := Each.map hc.flush (fun _ hx => { hx with }) }

theorem placeEntries_sound {cl : Nat} {l : List (Nat × SgEntry)} {m : List (Nat × Nat)} (h : s.Sound κ) : (placeEntries s cl l m).1.Sound κ := by
  induction l generalizing s m with
  | nil => exact h
  | cons e r ih =>
    unfold placeEntries
    split
    · exact h
    · exact ih (setSg_sound h)

theorem resumeGang_sound {gid : ℕ} {g : Gang} {core : ℕ} (h : State.Sound κ s) (hg : Gang.Sound κ g) : State.Sound κ (resumeGang s gid g core) :=
  passDeadlines_sound (resplitAll_sound (State.sound_mk
      (Fields.withGangs (placeEntries_sound h)
          (Values.aput ((placeEntries_sound h).gangs)
              ⟨Values.map hg.crews (fun _ h1 => renumber_sound ({ h1 with strm := { h1.strm with }, groups := reslot_sound h1.groups }))⟩))))

theorem decide_sound {core : ℕ} {f : State → State} (h : State.Sound κ s) (hf : ∀ (a : State), State.Sound κ a → State.Sound κ (f a)) :
    State.Sound κ (decide_ s core f) :=
  sound_ite (hf _ (setGated_sound h)) (sound_ite (by
        split
        · exact h
        · exact setCluster_sound h) (hf _ h))

theorem placeNext_sound {ctx : ℕ} {c : Ctx} (h : State.Sound κ s) (hc : Ctx.Sound κ c) : State.Sound κ (placeNext s ctx c) := by
  unfold placeNext
  dsimp only
  split
  · rename_i e
    split
    · exact h
    · exact decide_sound h (fun _ ht1 => resumeGang_sound (State.sound_mk (Fields.withCtxs ht1 (Values.aput ht1.ctxs ⟨Values.adel hc.image⟩)))
        (Values.head_of e (Values.sortBy hc.image)))
  · split
    · exact h
    · split
      · exact h
      · exact decide_sound h (fun _ ht1 => resplitAll_sound (State.sound_mk (placeGang_sound ht1 newGang_sound)))

theorem execGangPlace_sound (h : State.Sound κ s) : Out.Sound κ (execGangPlace s) :=
  Out.sound_next (by
      split
      · exact h
      · rename_i e
        exact sound_ite (placeNext_sound h (IfSome.get e (Values.aget h.ctxs))) h)

theorem execSramSplitReclaim_sound (h : State.Sound κ s) : Out.Sound κ (execSramSplitReclaim s) := Out.sound_next (sound_ite (resplit_sound h) h)

theorem resendOne_sound {m : NakMsg} (h : State.Sound κ s) : IfSome (State.Sound κ) (resendOne s m) := by
  unfold resendOne
  split
  · exact acceptPacket_sound h
  · exact IfSome.map_of (fun _ => setCluster_sound h)
  · exact sound_ite IfSome.none (IfSome.some h)
  · exact sound_ite IfSome.none (storeBlock_sound h)
  · exact sound_ite (IfSome.some h) (sound_ite IfSome.none (IfSome.some (acceptEntry_sound h)))

theorem resendFlow_sound {l : List Nak} (h : s.Sound κ) : (resendFlow s l).Sound κ := by
  induction l generalizing s with
  | nil => exact h
  | cons n r ih =>
    unfold resendFlow
    split
    · exact ih (IfSome.get ‹_› (resendOne_sound (State.sound_mk h)))
    · exact State.sound_mk h

theorem resendDue_sound {m : NakMsg} (h : State.Sound κ s) : State.Sound κ (resendDue s m) := by
  unfold resendDue
  split
  · exact h
  · exact sound_ite h (resendFlow_sound (by
            split
            · exact bump_sound h
            · exact h))

theorem execReplayResend_sound (h : State.Sound κ s) : Out.Sound κ (execReplayResend s) :=
  Out.sound_next (by
      split
      · exact h
      · exact resendDue_sound h)

theorem execLogicalTimeAdvance_sound (h : State.Sound κ s) : Out.Sound κ (execLogicalTimeAdvance s) :=
  Out.sound_next (onCrew_sound h (fun _ ht => setOwn_sound ht
      (fun _ hc => { hc with strm := { hc.strm with }, groups := Values.map hc.groups (fun _ h1 => { h1 with }) })))

theorem execHolderDrain_sound (h : State.Sound κ s) : Out.Sound κ (execHolderDrain s) := Out.sound_next (drainHolder_sound h)

/-! ### The memory of the driver: records, translation and compression -/

theorem walkFor_sound {core ctx va : ℕ} {k : AccKind} {atRoot : Bool} (h : State.Sound κ s) : State.Sound κ (walkFor s core ctx va k atRoot) := by
  unfold walkFor
  dsimp only
  split
  · exact h
  · split
    · split
      · exact h
      · exact bump_sound (State.sound_mk (sound_ite (devPut_sound h) h : State.Sound κ _))
    · exact h

theorem execPageTableWalk_sound (h : State.Sound κ s) : Out.Sound κ (execPageTableWalk s) := Out.sound_next (sound_ite (walkFor_sound h) h)

theorem startTlbi_sound {v : BitVec 64} (h : State.Sound κ s) : State.Sound κ (startTlbi s v) := State.sound_mk h

theorem tlbiEvent_sound {kind : ℕ} (h : State.Sound κ s) : Out.Sound κ (tlbiEvent kind s) :=
  Out.sound_next (onHost_sound h (fun _ ht => sound_ite (startTlbi_sound ht) ht))

theorem execTlbiRange_sound (h : State.Sound κ s) : Out.Sound κ (execTlbiRange s) := tlbiEvent_sound h

theorem execTlbiContext_sound (h : State.Sound κ s) : Out.Sound κ (execTlbiContext s) := tlbiEvent_sound h

theorem execTlbiAll_sound (h : State.Sound κ s) : Out.Sound κ (execTlbiAll s) := tlbiEvent_sound h

theorem readMemRec_sound {a : ℕ} {c : Ctx} (hc : Ctx.Sound κ c) : IfSome (Ctx.Sound κ) (readMemRec s a c) :=
  sound_ite (IfSome.some { hc with }) IfSome.none

theorem noteMemRec_sound {a : ℕ} (h : State.Sound κ s) : State.Sound κ (noteMemRec s a) :=
  sound_ite (noteSpan_sound h) (sound_ite (noteSpan_sound h) h)

theorem rereadCtx_sound {c : Ctx} (hc : Ctx.Sound κ c) : Ctx.Sound κ (rereadCtx s c) := by
  unfold rereadCtx
  split
  · exact hc
  · rename_i c1 e
    exact { (IfSome.get e (readMemRec_sound hc) : Ctx.Sound κ c1) with }

theorem latchWindows_sound (h : State.Sound κ s) : State.Sound κ (latchWindows s) :=
  foldl_sound h (fun _ _ ht => State.setReg_sound (State.setReg_sound ht))

theorem finishTlbi_sound (h : State.Sound κ s) : State.Sound κ (finishTlbi s) := by
  unfold finishTlbi
  split
  · exact h
  · extract_lets kind ctx s0 done s1 s2 hit s3
    have hs0 : State.Sound κ s0 := State.sound_mk h
    have hdone : ∀ (s : State), State.Sound κ s → State.Sound κ (done s) := fun _ ht => State.setField_sound ht
    have hs1 : State.Sound κ s1 := sound_ite (foldl_sound hs0 (fun _ _ ht => drainLine_sound ht)) (drainCtx_sound hs0)
    have hs2 : State.Sound κ s2 := State.sound_mk hs1
    have hs3 : State.Sound κ s3 := sound_ite hs2 (foldl_sound (State.sound_mk (Fields.withCtxs hs2 (Values.map hs2.ctxs (fun _ h1 => by
                  split
                  · exact rereadCtx_sound h1
                  · exact h1)))) (fun _ _ ht => noteMemRec_sound ht))
    exact sound_ite (hdone _ (State.setField_sound hs0)) (hdone _ (sound_ite (latchWindows_sound hs3) hs3))

theorem execTlbInvalidateComplete_sound (h : State.Sound κ s) : Out.Sound κ (execTlbInvalidateComplete s) := Out.sound_next (finishTlbi_sound h)

theorem imageOf_sound {gid : ℕ} (h : State.Sound κ s) : IfSome (fun x => Ctx.Sound κ x.2.1 ∧ Gang.Sound κ x.2.2) (imageOf s gid) :=
  Values.findSome? h.ctxs (fun _ h1 => IfSome.map (Values.aget h1.image) (fun _ hg => ⟨h1, hg⟩))

theorem onAnyCrew_sound {gid crew : ℕ} {f : State → State} (h : State.Sound κ s) (hf : ∀ (a : State), State.Sound κ a → State.Sound κ (f a)) :
    State.Sound κ (onAnyCrew s gid crew f) :=
  sound_ite (onCrew_sound h (fun _ ht => hf _ ht)) (by
      split
      · exact h
      · rename_i e
        extract_lets s1
        have hs1 : State.Sound κ s1 := onCrew_sound
            (State.sound_mk (Fields.withCtxs (Fields.withGangs h (Values.aput h.gangs (((imageOf_sound h) _ e).2)))
                (Values.aput h.ctxs ⟨Values.adel ((((imageOf_sound h) _ e).1).image)⟩))) (fun _ ht => hf _ ht)
        split
        · rename_i e1 e2
          exact State.sound_mk (Fields.withCtxs (Fields.withGangs hs1 (Values.adel hs1.gangs))
              (Values.aput hs1.ctxs ⟨Values.aput ((IfSome.get e2 (Values.aget hs1.ctxs)).image) (IfSome.get e1 (Values.aget hs1.gangs))⟩))
        · exact hs1)

theorem spoilDest_sound {i : Item} (h : State.Sound κ s) : State.Sound κ (spoilDest s i) := by
  unfold spoilDest
  split
  · exact poisonTiles_sound h
  · exact spoilMem_sound h
  · exact spoilTile_sound h
  · exact spoilSlot_sound h
  · split
    · exact h
    · exact keepBad_sound (foldl_sound (State.freshen_sound h) (fun _ _ ht => foldl_sound ht (fun _ _ ht1 => locPut_sound ht1)))
  · split
    · exact h
    · exact sound_ite (spoilMem_sound h) (spoilMem_sound h)
  · exact spoilMem_sound h
  · exact spoilMem_sound h
  · exact h

theorem itemCleanup_sound {r : ItemRef} {i : Item} (h : State.Sound κ s) : State.Sound κ (itemCleanup s r i) := by
  unfold itemCleanup
  split
  · exact spoilTile_sound h
  · exact setWindow_sound h
  · exact sound_ite (chooseNext_sound (setCore_sound h)) h
  · exact h

theorem killItem_sound {r : ItemRef} {i : Item} {st : Status} {f : Fx} {named : Bool} (h : State.Sound κ s) :
    State.Sound κ (killItem s r i st f named) :=
  itemCleanup_sound (endItem_sound (countBar_sound (endInterlock_sound (sound_ite h (spoilDest_sound h)))))

theorem abortItem_sound {r : ItemRef} {i : Item} {f : Fx} (h : State.Sound κ s) : State.Sound κ (abortItem s r i f) := by
  unfold abortItem
  split
  · exact finishItem_sound h (endChunk_sound h (fun _ ht => ht))
  · exact killItem_sound h

theorem Crew.onWaits_sound {c : Crew} {hold : Hold → Hold} {bat : Batches → Batches} (hc : Crew.Sound κ c) : Crew.Sound κ (c.onWaits hold bat) :=
  { hc with
    strm := { hc.strm with }
    groups := Values.map hc.groups (fun _ h => { h with splits := mergeSplits_sound (Each.map h.splits (fun _ hx1 => { hx1 with })) }) }

theorem onWaits_sound {hold : Hold → Hold} {bat : Batches → Batches} (h : State.Sound κ s) : State.Sound κ (onWaits s hold bat) :=
  State.sound_mk (Fields.withCtxs (Fields.withGangs h (Values.map h.gangs (fun _ h1 => ⟨Values.map h1.crews (fun _ h2 => Crew.onWaits_sound h2)⟩)))
      (Values.map h.ctxs (fun _ h1 => ⟨Values.map h1.image (fun _ h2 => ⟨Values.map h2.crews (fun _ h3 => Crew.onWaits_sound h3)⟩)⟩)))

theorem failRecord_sound {id : ℕ} {g : Grid} {c : Cause} (h : State.Sound κ s) : State.Sound κ (failRecord s id g c) :=
  pushRec_sound (State.sound_mk h)

theorem endAborted_sound (h : State.Sound κ s) : State.Sound κ (endAborted s) :=
  foldl_sound h (fun _ _ ht => by
      split
      · exact sound_ite ht (abortItem_sound ht)
      · exact ht)

theorem endVec_sound {w : Who} (h : State.Sound κ s) : State.Sound κ (endVec s w) := by
  unfold endVec
  split
  · exact h
  · split
    · exact sound_ite h (failVec_sound h)
    · exact h

theorem catchCrew_sound (h : State.Sound κ s) : State.Sound κ (catchCrew s) :=
  foldl_sound (endAborted_sound h) (fun _ _ ht => settleAll_sound (endVec_sound ht))

theorem payOwed_sound {l : List (Nat × FRec)} (h : s.Sound κ) : (payOwed s l).Sound κ := by
  induction l generalizing s with
  | nil => exact h
  | cons x r ih =>
    unfold payOwed
    exact sound_ite (State.sound_mk h) (ih (pushRec_sound (State.sound_mk h)))

theorem catchUp_sound {s0 : State} (hs0 : State.Sound κ s0) : State.Sound κ (catchUp s0) :=
  foldl_sound (foldl_sound (payOwed_sound hs0) (fun _ _ ht => onAnyCrew_sound ht (fun _ ht1 => catchCrew_sound ht1)))
      (fun _ _ ht => sound_ite (failRecord_sound ht) ht)

theorem dropWait_sound {rid : ℕ} (h : State.Sound κ s) : State.Sound κ (dropWait s rid) := State.sound_mk h

theorem replay_sound {rid : ℕ} (h : State.Sound κ s) : State.Sound κ (replay s rid) :=
  catchUp_sound (State.sound_mk (onWaits_sound (dropWait_sound h)))

theorem abortAll_sound {rid : ℕ} (h : State.Sound κ s) : State.Sound κ (abortAll s rid) :=
  catchUp_sound (State.sound_mk (onWaits_sound (dropWait_sound h)))

theorem execFltrespReplay_sound (h : State.Sound κ s) : Out.Sound κ (execFltrespReplay s) :=
  Out.sound_next (onHost_sound h (fun _ ht => sound_ite (replay_sound ht) ht))

theorem execFltrespAbort_sound (h : State.Sound κ s) : Out.Sound κ (execFltrespAbort s) :=
  Out.sound_next (onHost_sound h (fun _ ht => sound_ite (abortAll_sound ht) ht))

theorem setPending_sound {v : ℕ} {b : Bool} (h : State.Sound κ s) : State.Sound κ (setPending s v b) := State.setField_sound h

theorem signal_sound {v : ℕ} (h : State.Sound κ s) : State.Sound κ (signal s v) := sound_ite h (sound_ite (setPending_sound h) (State.sound_mk h))

theorem unmaskMsi_sound {v : ℕ} (h : State.Sound κ s) : State.Sound κ (unmaskMsi s v) := sound_ite (State.sound_mk (setPending_sound h)) h

theorem ringPut_sound {base lg i : ℕ} {r : FRec} (h : State.Sound κ s) : IfSome (fun x => State.Sound κ x.1) (ringPut s base lg i r) :=
  sound_ite (IfSome.some (devPut_sound (devPutBytes_sound h))) IfSome.none

theorem writeCtxRec_sound {id : ℕ} {c : Ctx} {r : FRec} (h : State.Sound κ s) (hc : Ctx.Sound κ c) : IfSome (State.Sound κ) (writeCtxRec s id c r) :=
  IfSome.map (ringPut_sound h) (fun _ h1 => sound_ite (signal_sound (State.sound_mk (Fields.withCtxs h1 (Values.aput h.ctxs { hc with }))))
      (State.sound_mk (Fields.withCtxs h1 (Values.aput h.ctxs { hc with }))))

theorem writeDevRec_sound {r : FRec} (h : State.Sound κ s) : IfSome (State.Sound κ) (writeDevRec s r) :=
  sound_ite IfSome.none (IfSome.map (ringPut_sound h) (fun _ h1 => sound_ite (signal_sound (State.sound_mk h1)) (State.sound_mk h1)))

theorem writeRec_sound {dest : Option Nat} (h : s.Sound κ) : (writeRec s dest).Sound κ := by
  unfold writeRec
  split
  · exact h
  · extract_lets out
    have hout : IfSome (State.Sound κ) out := by
      unfold out
      split
      · exact writeDevRec_sound h
      · exact IfSome.bind (Values.aget h.ctxs) fun _ hc => writeCtxRec_sound h hc
    clear_value out
    split
    · exact h
    · exact catchUp_sound (State.sound_mk (IfSome.get rfl hout : State.Sound κ _))

theorem execFaultRecordWrite_sound (h : State.Sound κ s) : Out.Sound κ (execFaultRecordWrite s) := Out.sound_next (writeRec_sound h)

theorem fillLine_sound {key : ℕ} (h : State.Sound κ s) : State.Sound κ (fillLine s key) := by
  unfold fillLine
  split
  · exact h
  · exact sound_ite h (sound_ite (devPut_sound (State.sound_mk h)) (State.sound_mk h))

theorem seedHeat_sound {seed : BitVec 16} (h : State.Sound κ s) : State.Sound κ (seedHeat s seed) := State.sound_mk h

theorem heatCommand_sound {v : BitVec 64} (h : State.Sound κ s) : State.Sound κ (heatCommand s v) :=
  sound_ite (State.setReg_sound (sound_ite (seedHeat_sound h) h)) (sound_ite (seedHeat_sound h) h)

theorem execDecay_sound (h : State.Sound κ s) : Out.Sound κ (execDecay s) :=
  Out.sound_next (onHost_sound h (fun _ ht => sound_ite (heatCommand_sound ht) ht))

theorem execSeedw_sound (h : State.Sound κ s) : Out.Sound κ (execSeedw s) :=
  Out.sound_next (onHost_sound h (fun _ ht => sound_ite (heatCommand_sound ht) ht))

theorem openTable_sound {base n : ℕ} (h : State.Sound κ s) : State.Sound κ (openTable s base n) := foldl_sound h (fun _ _ ht => reseal_sound ht)

theorem decayTable_sound {t : ℕ} (h : State.Sound κ s) : State.Sound κ (decayTable s t) :=
  State.sound_mk (Fields.withMem (openTable_sound h) (halveTable_sound ((openTable_sound h).mem)))

theorem finishDecay_sound (h : State.Sound κ s) : State.Sound κ (finishDecay s) :=
  sound_ite (State.setReg_sound (foldl_sound h (fun _ _ ht => decayTable_sound ht))) h

theorem execHeatDecayComplete_sound (h : State.Sound κ s) : Out.Sound κ (execHeatDecayComplete s) := Out.sound_next (finishDecay_sound h)

theorem setKeySlot_sound {n : ℕ} {k : KeySlot} (h : State.Sound κ s) : State.Sound κ (setKeySlot s n k) := State.sound_mk h

theorem advanceKey_sound (h : State.Sound κ s) : State.Sound κ (advanceKey s) := by
  unfold advanceKey
  split
  · exact h
  · exact sound_ite (writeBack_sound h) (by
          split
          · exact writeBack_sound h
          · exact State.sound_mk (setKeySlot_sound (writeBack_sound h)))

theorem keyEvent_sound {op : ℕ} {k : State → Option KeySlot} (h : State.Sound κ s) : Out.Sound κ (keyEvent op k s) :=
  Out.sound_next (onHost_sound h (fun _ ht => sound_ite (advanceKey_sound (State.setReg_sound (State.sound_mk ht))) ht))

theorem execKeyLoad_sound (h : State.Sound κ s) : Out.Sound κ (execKeyLoad s) := keyEvent_sound h

theorem execKeyFlush_sound (h : State.Sound κ s) : Out.Sound κ (execKeyFlush s) := keyEvent_sound h

theorem execKeyClear_sound (h : State.Sound κ s) : Out.Sound κ (execKeyClear s) := keyEvent_sound h

theorem finishKey_sound (h : State.Sound κ s) : State.Sound κ (finishKey s) :=
  sound_ite (sound_ite (advanceKey_sound h)
      (catchUp_sound (State.sound_mk (foldl_sound (State.setReg_sound (advanceKey_sound h)) (fun _ _ ht => State.setReg_sound ht) : State.Sound κ
          _)))) h

theorem execKeyCommandDone_sound (h : State.Sound κ s) : Out.Sound κ (execKeyCommandDone s) := Out.sound_next (finishKey_sound h)

/-! ### Contexts and commands of the driver -/

theorem writePartmap_sound {v : ℕ} (h : State.Sound κ s) : State.Sound κ (writePartmap s v) :=
  sound_ite (State.setField_sound (sound_ite (State.setField_sound h) h)) (State.setField_sound (sound_ite (State.setField_sound h) h))

theorem execPartmapWrite_sound (h : State.Sound κ s) : Out.Sound κ (execPartmapWrite s) :=
  Out.sound_next (onHost_sound h (fun _ ht => writePartmap_sound ht))

theorem startCommand_sound {f : State → State × Option ℕ} (h : State.Sound κ s) (hf : ∀ (a : State), State.Sound κ a → State.Sound κ (f a).1) :
    State.Sound κ (startCommand s f) :=
  sound_ite (State.setField_sound h) (State.sound_mk (hf _ (State.setField_sound h)))

theorem ctxEvent_sound {op : ℕ} {f : State → State × Option ℕ} (hf : ∀ (a : State), State.Sound κ a → State.Sound κ (f a).1) (h : State.Sound κ s) :
    Out.Sound κ (ctxEvent op f s) :=
  Out.sound_next (onHost_sound h (fun _ ht => sound_ite (startCommand_sound ht (fun _ ht1 => hf _ ht1)) ht))

theorem Ctx.fresh_sound : Ctx.Sound κ Ctx.fresh := ⟨Values.nil⟩

theorem readWorkRec_sound {a : ℕ} {c : Ctx} (hc : Ctx.Sound κ c) : IfSome (Ctx.Sound κ) (readWorkRec s a c) :=
  sound_ite (IfSome.some { hc with }) IfSome.none

theorem createCtx_sound (h : State.Sound κ s) : State.Sound κ (createCtx s).1 := by
  unfold createCtx
  split
  · exact h
  · split
    · exact noteSpan_sound h
    · rename_i e1
      exact State.sound_mk (Fields.withCtxs h (Values.aput h.ctxs (IfSome.get e1 (readWorkRec_sound Ctx.fresh_sound))))

theorem execCreate_sound (h : State.Sound κ s) : Out.Sound κ (execCreate s) := ctxEvent_sound (fun _ ht => createCtx_sound ht) h

theorem countCarve_sound (h : State.Sound κ s) : State.Sound κ (countCarve s) := foldl_sound h (fun _ _ ht => State.setField_sound ht)

theorem readRecs_sound {c : Ctx} (hc : Ctx.Sound κ c) : IfSome (Ctx.Sound κ) (readRecs s c) :=
  IfSome.bind (readWorkRec_sound hc) (fun _ hx => readMemRec_sound hx)

theorem noteRecs_sound {c : Ctx} (h : State.Sound κ s) : State.Sound κ (noteRecs s c) := by
  unfold noteRecs
  split
  · exact noteSpan_sound h
  · exact noteMemRec_sound h

theorem clearCounters_sound {part : ℕ} (h : State.Sound κ s) : State.Sound κ (clearCounters s part) := State.sound_mk h

theorem freshGens_sound {part id : ℕ} (h : State.Sound κ s) : State.Sound κ (freshGens s part id) :=
  State.freshen_sound (foldl_sound h (fun _ _ ht => setCore_sound ht))

theorem forgetTenant_sound {id : ℕ} (h : State.Sound κ s) : State.Sound κ (forgetTenant s id) := sound_ite (State.sound_mk h) h

theorem startOn_sound {id part : ℕ} {c : Ctx} (h : State.Sound κ s) (hc : Ctx.Sound κ c) : State.Sound κ (startOn s id part c).1 := by
  unfold startOn
  split
  · exact noteRecs_sound h
  · rename_i c1 e
    split
    · exact h
    · split
      · exact h
      · exact freshGens_sound (clearCounters_sound
          (countCarve_sound (State.sound_mk (Fields.withCtxs h (Values.aput h.ctxs { (IfSome.get e (readRecs_sound hc) : Ctx.Sound κ c1) with })))))

theorem startCtx_sound (h : State.Sound κ s) : State.Sound κ (startCtx s).1 := by
  unfold startCtx
  split
  · exact h
  · rename_i e
    split
    · exact h
    · exact startOn_sound h (IfSome.get e (Values.aget h.ctxs))

theorem execStart_sound (h : State.Sound κ s) : Out.Sound κ (execStart s) := ctxEvent_sound (fun _ ht => startCtx_sound ht) h

theorem haltGang_sound {gid : ℕ} {st : Status} (h : State.Sound κ s) : State.Sound κ (haltGang s gid st) := by
  unfold haltGang
  split
  · exact h
  · rename_i g e
    exact evictGang_sound (State.sound_mk (Fields.withGangs h (Values.aput h.gangs { (IfSome.get e (Values.aget h.gangs) : Gang.Sound κ g) with })))

theorem haltGangs_sound {l : List ℕ} {st : Status} (h : State.Sound κ s) : State.Sound κ (haltGangs s l st) :=
  foldl_sound h (fun _ _ ht => haltGang_sound ht)

theorem takeOut_sound {gid : ℕ} (h : State.Sound κ s) : State.Sound κ (takeOut s gid).1 ∧ IfSome (Gang.Sound κ) (takeOut s gid).2 := by
  unfold takeOut
  exact ⟨by
        split
        · exact h
        · exact removeGang_sound h, by
        split
        · exact IfSome.none
        · rename_i g e
          exact IfSome.some { (IfSome.get e (Values.aget h.gangs) : Gang.Sound κ g) with }⟩

theorem storeGang_sound {gid : ℕ} (h : State.Sound κ s) : State.Sound κ (storeGang s gid) := by
  unfold storeGang
  split
  · rename_i e
    split
    · rename_i e1
      exact sound_ite (sound_fst e ((takeOut_sound h).1))
          (State.sound_mk (Fields.withCtxs (sound_fst e ((takeOut_sound h).1) : State.Sound κ _)
              (Values.aput ((sound_fst e ((takeOut_sound h).1)).ctxs)
                  ⟨Values.aput ((IfSome.get e1 (Values.aget ((sound_fst e ((takeOut_sound h).1)).ctxs))).image)
                      (IfSome.get rfl (sound_snd e ((takeOut_sound h).2)))⟩)))
    · exact sound_fst e ((takeOut_sound h).1)
  · rename_i e
    exact sound_fst e ((takeOut_sound h).1)

theorem setCtxSt_sound {id : ℕ} {st : CtxState} (h : State.Sound κ s) : State.Sound κ (setCtxSt s id st) := by
  unfold setCtxSt
  split
  · exact h
  · rename_i c e
    exact State.sound_mk (Fields.withCtxs h (Values.aput h.ctxs { (IfSome.get e (Values.aget h.ctxs) : Ctx.Sound κ c) with }))

theorem writeImage_sound {id : ℕ} (h : State.Sound κ s) : State.Sound κ (writeImage s id) := by
  unfold writeImage
  split
  · exact h
  · exact spoilSave_sound h

theorem saveCtx_sound {id : ℕ} (h : State.Sound κ s) : State.Sound κ (saveCtx s id) :=
  writeImage_sound (setCtxSt_sound (foldl_sound (drainCtx_sound h) (fun _ _ ht => storeGang_sound ht)))

theorem startSave_sound (h : State.Sound κ s) : State.Sound κ (startSave s).1 := by
  unfold startSave
  dsimp only
  split
  · exact haltGangs_sound h
  · exact h

theorem execSave_sound (h : State.Sound κ s) : Out.Sound κ (execSave s) := ctxEvent_sound (fun _ ht => startSave_sound ht) h

theorem startSwap_sound (h : State.Sound κ s) : State.Sound κ (startSwap s).1 := by
  unfold startSwap
  dsimp only
  split
  · split
    · exact h
    · split
      · exact noteRecs_sound h
      · split
        · exact h
        · split
          · exact h
          · exact haltGangs_sound h
  · exact h

theorem execSwap_sound (h : State.Sound κ s) : Out.Sound κ (execSwap s) := ctxEvent_sound (fun _ ht => startSwap_sound ht) h

theorem prestage_sound (h : State.Sound κ s) : State.Sound κ (prestage s).1 := by
  unfold prestage
  dsimp only
  split
  · exact h
  · rename_i c e
    split
    · exact h
    · split
      · exact h
      · exact countCarve_sound (State.sound_mk (Fields.withCtxs h (Values.aput h.ctxs { (IfSome.get e (Values.aget h.ctxs) : Ctx.Sound κ c) with })))

theorem execPrestage_sound (h : State.Sound κ s) : Out.Sound κ (execPrestage s) := ctxEvent_sound (fun _ ht => prestage_sound ht) h

theorem endGrids_sound {ctx status : ℕ} (h : State.Sound κ s) : State.Sound κ (endGrids s ctx status) := State.sound_mk h

theorem endPackets_sound {ctx : ℕ} (h : State.Sound κ s) : State.Sound κ (endPackets s ctx) :=
  foldl_sound h (fun _ _ ht => sound_ite (by
        split
        · exact losePacket_sound (advanceGet_sound ht)
        · exact endPacket_sound (advanceGet_sound ht)) ht)

theorem abortCtx_sound {id : ℕ} (h : State.Sound κ s) : State.Sound κ (abortCtx s id) := by
  unfold abortCtx
  extract_lets s1 s2
  have hs1 : State.Sound κ s1 := foldl_sound (drainCtx_sound h) (fun _ _ ht => removeGang_sound ht)
  have hs2 : State.Sound κ s2 := endPackets_sound (endGrids_sound (State.sound_mk hs1))
  exact countCarve_sound (State.sound_mk (Fields.withCtxs hs2 (Values.map hs2.ctxs (fun _ h1 => by
              split
              · exact ⟨Values.nil⟩
              · exact h1))))

theorem startAbort_sound (h : State.Sound κ s) : State.Sound κ (startAbort s).1 := by
  unfold startAbort
  dsimp only
  split
  · exact haltGangs_sound h
  · exact h

theorem execAbort_sound (h : State.Sound κ s) : Out.Sound κ (execAbort s) := ctxEvent_sound (fun _ ht => startAbort_sound ht) h

theorem startDestroy_sound (h : State.Sound κ s) : State.Sound κ (startDestroy s).1 := by
  unfold startDestroy
  dsimp only
  split
  · exact haltGangs_sound h
  · exact h

theorem execDestroy_sound (h : State.Sound κ s) : Out.Sound κ (execDestroy s) := ctxEvent_sound (fun _ ht => startDestroy_sound ht) h

theorem freeCtx_sound {id : ℕ} (h : State.Sound κ s) : State.Sound κ (freeCtx s id) :=
  foldl_sound (forgetTenant_sound (countCarve_sound (State.sound_mk (Fields.withCtxs h (Values.adel h.ctxs)))))
      (fun _ _ ht => sound_ite (State.sound_mk ht) ht)

theorem actOn_sound {resume : Bool} (h : State.Sound κ s) : State.Sound κ (actOn resume s) := by
  unfold actOn
  extract_lets s1
  have hs1 : State.Sound κ s1 := sound_ite (setStrm_sound h (fun _ hx => { hx with })) (setSplit_sound h (fun _ hx => { hx with }))
  exact sound_ite (setPc_sound hs1) (sound_ite (streamEnd_sound hs1) (endSplit_sound hs1))

theorem actCrew_sound {seq : ℕ} {resume : Bool} (h : State.Sound κ s) : State.Sound κ (actCrew seq resume s) :=
  sound_ite (State.sound_mk (actOn_sound (State.sound_mk h))) (by
      split
      · exact h
      · split
        · exact h
        · rename_i e2
          exact unfocusSplit_sound (actOn_sound (IfSome.get e2 (focusSplit_sound h))))

theorem fltact_sound {resume : Bool} (h : State.Sound κ s) : State.Sound κ (fltact resume s).1 := by
  unfold fltact
  dsimp only
  split
  · split
    · exact h
    · split
      · exact h
      · exact onAnyCrew_sound h (fun _ ht => actCrew_sound ht)
  · exact h

theorem fltactEvent_sound {resume : Bool} (h : State.Sound κ s) : Out.Sound κ (fltactEvent resume s) :=
  sound_ite (ctxEvent_sound (fun _ ht => fltact_sound ht) h) (Out.sound_next h)

theorem execFltactEnd_sound (h : State.Sound κ s) : Out.Sound κ (execFltactEnd s) := fltactEvent_sound h

theorem execFltactResume_sound (h : State.Sound κ s) : Out.Sound κ (execFltactResume s) := fltactEvent_sound h

theorem beginDark_sound {d : ℕ} {trip : Option ℕ} (h : State.Sound κ s) : State.Sound κ (beginDark s d trip) :=
  catchUp_sound (haltGangs_sound (State.sound_mk h))

theorem losePartners_sound {d : ℕ} (h : State.Sound κ s) : State.Sound κ (losePartners s d) := endAll_sound h

theorem drainDie_sound {d : ℕ} (h : State.Sound κ s) : State.Sound κ (drainDie s d) :=
  foldl_sound h (fun _ _ ht => foldl_sound ht (fun _ _ ht1 => sound_ite (drainHolder_sound ht1) ht1))

theorem Gang.loseSlots_sound {g : Gang} (hg : Gang.Sound κ g) : Gang.Sound κ g.loseSlots := ⟨Values.map hg.crews (fun _ h => { h with })⟩

theorem powerDown_sound {d : ℕ} (h : State.Sound κ s) : State.Sound κ (powerDown s d) :=
  State.sound_mk (foldl_sound h (fun _ _ ht => setGated_sound ht) : State.Sound κ _)

theorem darkSave_sound {id d : ℕ} {thermal : Bool} (h : State.Sound κ s) : State.Sound κ (darkSave s id d thermal) :=
  sound_ite h (pushRec_sound (writeImage_sound (setCtxSt_sound h)))

theorem goDark_sound {d : ℕ} {thermal : Bool} (h : State.Sound κ s) : State.Sound κ (goDark s d thermal) :=
  addLog_sound (foldl_sound (losePartners_sound (powerDown_sound (foldl_sound (drainDie_sound h) (fun _ _ ht => by
              split
              · exact ht
              · rename_i e
                exact sound_ite ht (storeGang_sound (State.sound_mk
                    (Fields.withGangs ht (Values.aput ht.gangs (Gang.loseSlots_sound (IfSome.get e (Values.aget ht.gangs)))))))))))
                        (fun _ _ ht => darkSave_sound ht))

theorem settleDark_sound {d : ℕ} (h : State.Sound κ s) : State.Sound κ (settleDark s d) := by
  unfold settleDark
  split
  · exact h
  · exact sound_ite (goDark_sound h) h

theorem loseItems_sound {gid : ℕ} (h : State.Sound κ s) : State.Sound κ (loseItems s gid) := by
  unfold loseItems
  split
  · exact h
  · exact foldl_sound h (fun _ _ ht => onCrew_sound ht (fun _ ht1 => endAborted_sound (foldl_sound ht1 (fun _ _ ht2 => doomItem_sound ht2))))

theorem execOrderlyDarkTimeout_sound (h : State.Sound κ s) : Out.Sound κ (execOrderlyDarkTimeout s) :=
  Out.sound_next (by
      split
      · exact h
      · exact sound_ite (goDark_sound (foldl_sound h (fun _ _ ht => loseItems_sound ht))) h)

theorem startDieoff_sound (h : State.Sound κ s) : State.Sound κ (startDieoff s).1 := by
  unfold startDieoff
  dsimp only
  split
  · exact h
  · split
    · exact h
    · exact beginDark_sound h

theorem execDieoff_sound (h : State.Sound κ s) : Out.Sound κ (execDieoff s) := ctxEvent_sound (fun _ ht => startDieoff_sound ht) h

theorem powerUp_sound {d : ℕ} (h : State.Sound κ s) : State.Sound κ (powerUp s d) :=
  foldl_sound (foldl_sound (State.sound_mk h) (fun _ _ ht => setGated_sound ht)) (fun _ _ ht => setCore_sound ht)

theorem dieon_sound (h : State.Sound κ s) : State.Sound κ (dieon s).1 := by
  unfold dieon
  dsimp only
  split
  · exact h
  · split
    · exact State.setField_sound h
    · exact State.setField_sound (powerUp_sound h)

theorem execDieon_sound (h : State.Sound κ s) : Out.Sound κ (execDieon s) := ctxEvent_sound (fun _ ht => dieon_sound ht) h

theorem discardDie_sound {s0 : State} {d : ℕ} (hs0 : State.Sound κ s0) : State.Sound κ (discardDie s0 d) :=
  payOwed_sound (foldl_sound hs0 (fun _ _ ht => sound_ite ht (State.sound_mk ht)))

theorem Crew.ended_sound {c : Crew} (hc : Crew.Sound κ c) : Crew.Sound κ c.ended_ :=
  { hc with strm := { hc.strm with }, groups := Values.map hc.groups (fun _ h => { h with splits := Each.nil }), recs := Each.nil }

theorem loseGang_sound {gid : ℕ} (h : State.Sound κ s) : State.Sound κ (loseGang s gid) := by
  unfold loseGang
  split
  · exact h
  · extract_lets s1 s2
    have hs1 : State.Sound κ s1 := evictGang_sound (loseItems_sound h)
    have hs2 : State.Sound κ s2 := sound_ite (removeGang_sound hs1) (State.sound_mk (Fields.withGangs hs1 (Values.map hs1.gangs (fun _ h1 => by
                split
                · exact ⟨Values.map h1.crews (fun _ h2 => Crew.ended_sound h2)⟩
                · exact h1))))
    split
    · exact hs2
    · exact sound_ite hs2 (countEnded_sound (State.sound_mk hs2))

theorem abruptLoss_sound {d : ℕ} (h : State.Sound κ s) : State.Sound κ (abruptLoss s d) :=
  sound_ite h (addLog_sound (losePartners_sound (powerDown_sound (foldl_sound (discardDie_sound h) (fun _ _ ht => loseGang_sound ht)))))

theorem execDieAbruptLoss_sound (h : State.Sound κ s) : Out.Sound κ (execDieAbruptLoss s) := Out.sound_next (sound_ite (abruptLoss_sound h) h)

theorem furtherCmd_sound {v : BitVec 64} (h : State.Sound κ s) : State.Sound κ (furtherCmd s v).1 := by
  unfold furtherCmd
  dsimp only
  split
  · split
    · exact saveCtx_sound h
    · exact h
  · split
    · exact h
    · split
      · split
        · exact saveCtx_sound h
        · rename_i e3
          exact startOn_sound (saveCtx_sound h) (IfSome.get e3 (Values.aget ((saveCtx_sound h).ctxs)))
      · exact h
  · split
    · split
      · exact abortCtx_sound h
      · exact abortCtx_sound h
    · exact h
  · split
    · split
      · exact abortCtx_sound h
      · split
        · exact abortCtx_sound h
        · exact freeCtx_sound (abortCtx_sound h)
    · exact h
  · split
    · exact settleDark_sound h
    · exact settleDark_sound h
  · exact h

theorem reportCmd_sound {v : BitVec 64} {res : ℕ} (h : State.Sound κ s) : State.Sound κ (reportCmd s v res) :=
  State.sound_mk (State.setField_sound (State.setField_sound (State.setField_sound h)))

theorem finishCommand_sound (h : State.Sound κ s) : State.Sound κ (finishCommand s) := by
  unfold finishCommand
  split
  · exact h
  · exact reportCmd_sound h
  · split
    · rename_i e1
      exact reportCmd_sound (sound_fst e1 (furtherCmd_sound h))
    · rename_i e1
      exact sound_fst e1 (furtherCmd_sound h)

theorem execContextCommandComplete_sound (h : State.Sound κ s) : Out.Sound κ (execContextCommandComplete s) :=
  Out.sound_next (finishCommand_sound h)

theorem writeLqctl_sound {q v : ℕ} (h : State.Sound κ s) : State.Sound κ (writeLqctl s q v) :=
  sound_ite (State.setField_sound (State.setField_sound (sound_ite (State.setField_sound h) h))) h

theorem execLqctlWrite_sound (h : State.Sound κ s) : Out.Sound κ (execLqctlWrite s) :=
  Out.sound_next (onHost_sound h (fun _ ht => sound_ite (writeLqctl_sound ht) ht))

theorem writeLqput_sound {q put : ℕ} (h : State.Sound κ s) : State.Sound κ (writeLqput s q put) :=
  sound_ite (State.setField_sound h) (State.setReg_sound (State.sound_mk h))

theorem execLqputWrite_sound (h : State.Sound κ s) : Out.Sound κ (execLqputWrite s) :=
  Out.sound_next (onHost_sound h (fun _ ht => sound_ite (writeLqput_sound ht) ht))

theorem execLqgetRead_sound (h : State.Sound κ s) : Out.Sound κ (execLqgetRead s) := Out.sound_next (onHost_sound h (fun _ ht => State.sound_mk ht))

theorem signalQueue_sound {g : Grid} (h : State.Sound κ s) : State.Sound κ (signalQueue s g) :=
  sound_ite h (sound_ite h (State.sound_mk (signal_sound h)))

theorem writeCompletion_sound {id : ℕ} {g : Grid} (h : State.Sound κ s) : State.Sound κ (writeCompletion s id g) := by
  unfold writeCompletion
  dsimp only
  split
  · exact h
  · exact State.sound_mk (joinPage_sound h (fun _ _ ht => pushRec_sound ht))
  · exact failRecord_sound (by
          split
          · exact addLog_sound h
          · exact h)
  · exact failRecord_sound h
  · exact failRecord_sound h
  · exact sound_ite (failRecord_sound (by
            split
            · exact addLog_sound h
            · exact h)) (signalQueue_sound (State.sound_mk (locsPut_sound (setDirty_sound (drainFor_sound h)))))

theorem execCompletionRecordWrite_sound (h : State.Sound κ s) : Out.Sound κ (execCompletionRecordWrite s) :=
  Out.sound_next (by
      split
      · exact h
      · exact sound_ite (writeCompletion_sound h) h)

theorem execDfbbaseWrite_sound (h : State.Sound κ s) : Out.Sound κ (execDfbbaseWrite s) :=
  Out.sound_next (onHost_sound h (fun _ ht => State.setReg_sound ht))

theorem execCarveWrite_sound (h : State.Sound κ s) : Out.Sound κ (execCarveWrite s) :=
  Out.sound_next (onHost_sound h (fun _ ht => sound_ite (State.setField_sound (sound_ite (writeBack_sound ht) ht)) ht))

/-! ### Power, links and sensors -/

theorem thermalLog_sound {site : ℕ} {old new : ℤ} (h : State.Sound κ s) : State.Sound κ (thermalLog s site old new) := sound_ite h (addLog_sound h)

theorem setTj_sound {cl tj : ℕ} (h : State.Sound κ s) : State.Sound κ (setTj s cl tj) :=
  setCluster_sound (State.setField_sound (thermalLog_sound h))

theorem rglStep_sound {cl tj p : ℕ} (h : State.Sound κ s) : State.Sound κ (rglStep s cl tj p) :=
  setCluster_sound (State.setField_sound (setTj_sound h))

theorem execClpwrWrite_sound (h : State.Sound κ s) : Out.Sound κ (execClpwrWrite s) :=
  Out.sound_next (onHost_sound h (fun _ ht => sound_ite (State.setField_sound (State.setReg_sound ht)) ht))

theorem execClusterGate_sound (h : State.Sound κ s) : Out.Sound κ (execClusterGate s) :=
  Out.sound_next (sound_ite (setGated_sound (settleClock_sound (setCluster_sound h))) h)

theorem execClusterUngate_sound (h : State.Sound κ s) : Out.Sound κ (execClusterUngate s) :=
  Out.sound_next (by
      split
      · exact h
      · exact sound_ite (setGated_sound (settleClock_sound (setCluster_sound h))) h)

theorem boostStep_sound {d : ℕ} (h : State.Sound κ s) : State.Sound κ (boostStep s d) :=
  State.sound_mk (State.setField_sound (State.setField_sound (foldl_sound h (fun _ _ ht => State.setField_sound (settleClock_sound ht)))))

theorem execBoostInterval_sound (h : State.Sound κ s) : Out.Sound κ (execBoostInterval s) := Out.sound_next (sound_ite (boostStep_sound h) h)

theorem gangsIn_sound {cl : ℕ} (h : State.Sound κ s) : Values (Gang.Sound κ) (gangsIn s cl) := Values.filter h.gangs

theorem migrating_sound {cl : ℕ} (h : State.Sound κ s) : IfSome (fun x => Gang.Sound κ x.2) (migrating s cl) := Values.find? (gangsIn_sound h)

theorem moveGang_sound {cl gid : ℕ} {g : Gang} (h : State.Sound κ s) (hg : Gang.Sound κ g) : State.Sound κ (moveGang s cl gid g) := by
  unfold moveGang
  split
  · exact State.sound_mk (Fields.withGangs h (Values.aput h.gangs { hg with }))
  · exact decide_sound h (fun _ ht1 => by
          split
          · rename_i e1
            exact setCluster_sound (resumeGang_sound (sound_fst e1 ((takeOut_sound (drainCtx_sound ht1)).1))
                (IfSome.get rfl (sound_snd e1 ((takeOut_sound (drainCtx_sound ht1)).2))))
          · rename_i e1
            exact sound_fst e1 ((takeOut_sound (drainCtx_sound ht1)).1))

theorem migrate_sound {cl : ℕ} (h : State.Sound κ s) : State.Sound κ (migrate s cl) := by
  unfold migrate
  dsimp only
  split
  · rename_i e
    exact sound_ite (moveGang_sound h ((migrating_sound h) _ e)) h
  · split
    · exact sound_ite (by
            split
            · rename_i e3
              exact sound_ite (moveGang_sound (haltGang_sound h) (IfSome.get e3 (Values.aget ((haltGang_sound h).gangs)))) (haltGang_sound h)
            · exact haltGang_sound h) h
    · exact h

theorem execHotSpotMigration_sound (h : State.Sound κ s) : Out.Sound κ (execHotSpotMigration s) := Out.sound_next (sound_ite (migrate_sound h) h)

theorem readSite_sound {site : ℕ} {temp : ℤ} (h : State.Sound κ s) : State.Sound κ (readSite s site temp) :=
  sound_ite (State.setField_sound h) (State.sound_mk h)

theorem coolSite_sound {site : ℕ} {temp : ℤ} (h : State.Sound κ s) : State.Sound κ (coolSite s site temp) :=
  sound_ite h (readSite_sound (thermalLog_sound h))

theorem tripDark_sound {site : ℕ} (h : State.Sound κ s) : State.Sound κ (tripDark s site) :=
  settleDark_sound (by
      split
      · exact beginDark_sound (addLog_sound (State.setField_sound (pushRec_sound h)))
      · exact State.sound_mk (addLog_sound (State.setField_sound (pushRec_sound h))))

theorem trip_sound {site : ℕ} {temp : ℤ} (h : State.Sound κ s) : State.Sound κ (trip s site temp) :=
  sound_ite (settleDark_sound (coolSite_sound h))
      (sound_ite (settleDark_sound (sound_ite h (readSite_sound h)))
          (sound_ite (tripDark_sound (readSite_sound h)) (sound_ite (readSite_sound h) (State.sound_mk (readSite_sound h)))))

theorem tripEnd_sound (h : State.Sound κ s) : State.Sound κ (tripEnd s) := by
  unfold tripEnd
  split
  · exact h
  · exact sound_ite h (sound_ite (State.sound_mk h) (sound_ite (State.sound_mk h) (by
              split
              · exact State.sound_mk h
              · exact tripDark_sound (State.sound_mk h))))

theorem execThermalEmergency_sound (h : State.Sound κ s) : Out.Sound κ (execThermalEmergency s) := Out.sound_next (sound_ite (trip_sound h) h)

theorem execRglInterval_sound (h : State.Sound κ s) : Out.Sound κ (execRglInterval s) :=
  Out.sound_next (sound_ite (sound_ite (rglStep_sound h) (trip_sound (rglStep_sound h))) h)

theorem execWatchdog_sound (h : State.Sound κ s) : Out.Sound κ (execWatchdog s) := Out.sound_next (sound_ite h (State.sound_mk (pushRec_sound h)))

theorem fatalGang_sound {gid : ℕ} (h : State.Sound κ s) : State.Sound κ (fatalGang s gid) := by
  unfold fatalGang
  split
  · exact h
  · rename_i e
    exact sound_ite h (parkGang_sound h ⟨Values.map ((IfSome.get e (Values.aget h.gangs)).crews) (fun _ h1 => Crew.ended_sound h1)⟩)

theorem fatal_sound (h : State.Sound κ s) : State.Sound κ (fatal s) := by
  unfold fatal
  extract_lets run s1 kept
  have hs1 : State.Sound κ s1 := foldl_sound h (fun _ _ ht => endGrids_sound (foldl_sound (drainCtx_sound ht) (fun _ _ ht1 => fatalGang_sound ht1)))
  have hkept : Values (Gang.Sound κ) kept := Values.flatMap (Values.filter hs1.ctxs)
      (fun _ h1 => Values.map (Values.filter h1.image) (fun _ h2 => ⟨Values.map h2.crews (fun _ h3 => Crew.ended_sound h3)⟩))
  exact State.sound_mk (Fields.withCtxs (Fields.withGangs hs1 (Values.append hs1.gangs hkept)) (Values.map hs1.ctxs (fun _ h1 => by
            split
            · exact ⟨Values.nil⟩
            · exact h1)))

theorem execWatchdogUncleared_sound (h : State.Sound κ s) : Out.Sound κ (execWatchdogUncleared s) :=
  Out.sound_next (by
      split
      · exact h
      · exact sound_ite (sound_ite (abruptLoss_sound (addLog_sound (State.sound_mk h))) (fatal_sound (addLog_sound (State.sound_mk h)))) h)

theorem execWatchdogCleared_sound (h : State.Sound κ s) : Out.Sound κ (execWatchdogCleared s) :=
  Out.sound_next (by
      split
      · exact h
      · exact sound_ite (addLog_sound (State.sound_mk h)) h)

/-! ### The management controller -/

theorem setAmb_sound {f : Amb → Amb} (h : State.Sound κ s) : State.Sound κ (setAmb s f) := State.sound_mk h

theorem firmwareLog_sound {sev event res svn : ℕ} (h : State.Sound κ s) : State.Sound κ (firmwareLog s sev event res svn) := addLog_sound h

theorem bootLog_sound (h : State.Sound κ s) : State.Sound κ (bootLog s) := addLog_sound h

theorem bootSet_sound {b : Bool} (h : State.Sound κ s) : State.Sound κ (bootSet s b) := setAmb_sound h

theorem bootPlain_sound (h : State.Sound κ s) : State.Sound κ (bootPlain s) :=
  sound_ite (bootSet_sound h) (sound_ite (bootSet_sound h) (State.setField_sound (setAmb_sound h)))

theorem dropTrial_sound (h : State.Sound κ s) : State.Sound κ (dropTrial s) := firmwareLog_sound (setAmb_sound h)

theorem bootSelect_sound (h : State.Sound κ s) : State.Sound κ (bootSelect s) :=
  sound_ite (sound_ite (setAmb_sound (bootSet_sound h)) (bootPlain_sound (dropTrial_sound h)))
      (sound_ite (bootPlain_sound (dropTrial_sound h)) (bootPlain_sound h))

theorem serveAfter_sound {boot : State → State} (h : State.Sound κ s) (hboot : ∀ (a : State), State.Sound κ a → State.Sound κ (boot a)) :
    State.Sound κ (serveAfter s boot) :=
  sound_ite (foldl_sound (hboot _ (setAmb_sound h)) (fun _ _ ht => logPut_sound ht))
      (addLog_sound (foldl_sound (hboot _ (setAmb_sound h)) (fun _ _ ht => logPut_sound ht)))

theorem startServing_sound (h : State.Sound κ s) : State.Sound κ (startServing s) := serveAfter_sound h (fun _ ht => ht)

theorem stopServing_sound (h : State.Sound κ s) : State.Sound κ (stopServing s) := State.sound_mk (setAmb_sound h)

theorem execAmbRestart_sound (h : State.Sound κ s) : Out.Sound κ (execAmbRestart s) :=
  Out.sound_next (sound_ite (serveAfter_sound h (fun _ ht => bootLog_sound (bootSelect_sound ht))) h)

theorem execTrialTimeout_sound (h : State.Sound κ s) : Out.Sound κ (execTrialTimeout s) :=
  Out.sound_next (by
      split
      · exact h
      · exact sound_ite (stopServing_sound h) h)

theorem resetPackage_sound (h : State.Sound κ s) : State.Sound κ (resetPackage s) :=
  State.sound_mk (Fields.withMem State.reset_sound (Aspect.store_spoil h.mem))

theorem execPowerOn_sound (h : State.Sound κ s) : Out.Sound κ (execPowerOn s) :=
  Out.sound_next (sound_ite h (State.sound_mk (resetPackage_sound h)))

theorem execPowerLoss_sound (h : State.Sound κ s) : Out.Sound κ (execPowerLoss s) := Out.sound_next (State.sound_mk (resetPackage_sound h))

theorem execLogCoalesceWindow_sound (h : State.Sound κ s) : Out.Sound κ (execLogCoalesceWindow s) := Out.sound_next (closeWindow_sound h)

theorem setLink_sound {k : ℕ} {x : Link} (h : State.Sound κ s) : State.Sound κ (setLink s k x) := State.sound_mk h

theorem setLinkState_sound {k st : ℕ} (h : State.Sound κ s) : State.Sound κ (setLinkState s k st) := State.setField_sound h

theorem beginTraining_sound {k : ℕ} (h : State.Sound κ s) : State.Sound κ (beginTraining s k) :=
  sound_ite (setLink_sound (setLinkState_sound h)) (setLinkState_sound h)

theorem trainStage_sound {n : ℕ} (h : State.Sound κ s) : State.Sound κ (trainStage s n) := by
  unfold trainStage
  split
  · exact beginTraining_sound h
  · exact foldl_sound h (fun _ _ ht => State.setField_sound ht)
  · exact foldl_sound h (fun _ _ ht => beginTraining_sound ht)
  · exact foldl_sound h (fun _ _ ht => beginTraining_sound ht)
  · exact h

theorem trainFailed_sound {o : ℕ} (h : State.Sound κ s) : State.Sound κ (trainFailed s o) := State.setField_sound h

theorem packageReset_sound (h : State.Sound κ s) : State.Sound κ (packageReset s) :=
  sound_ite (State.setField_sound (State.sound_mk (resetPackage_sound h))) (State.sound_mk (resetPackage_sound h))

theorem execPerst_sound (h : State.Sound κ s) : Out.Sound κ (execPerst s) := Out.sound_next (sound_ite (packageReset_sound h) h)

theorem portUp_sound {p raw ident : ℕ} {reduced : Bool} (h : State.Sound κ s) : State.Sound κ (portUp s p raw ident reduced) :=
  State.setReg_sound (State.setField_sound h)

theorem haltStage_sound {n : ℕ} (h : State.Sound κ s) : State.Sound κ (haltStage s n) :=
  bootLog_sound (State.sound_mk (State.setField_sound (State.setField_sound h)))

theorem nextStage_sound {n : ℕ} (h : State.Sound κ s) : State.Sound κ (nextStage s n) :=
  sound_ite (State.sound_mk (trainStage_sound (State.setField_sound h))) (State.sound_mk (State.setField_sound h))

theorem repaired_sound {spares : Bool} (h : State.Sound κ s) : State.Sound κ (repaired s spares) := State.setField_sound h

theorem endStage_sound {n bad low : ℕ} {bs : List (BitVec 8)} (h : State.Sound κ s) : State.Sound κ (endStage s n bad low bs) := by
  unfold endStage
  split
  · exact sound_ite (bootLog_sound (startServing_sound (State.sound_mk (bootSelect_sound h))))
      (nextStage_sound (startServing_sound (setAmb_sound (bootSelect_sound h))))
  · exact sound_ite (haltStage_sound h) (nextStage_sound h)
  · exact sound_ite (haltStage_sound (trainFailed_sound h)) (nextStage_sound (repaired_sound (State.setReg_sound h)))
  · exact nextStage_sound (State.setReg_sound
      (State.setField_sound (foldl_sound h (fun _ _ ht => sound_ite (trainFailed_sound ht) (State.setReg_sound ht)))))
  · exact nextStage_sound (foldl_sound (State.setField_sound h) (fun _ _ ht => sound_ite (powerDown_sound ht) (powerUp_sound ht)))
  · exact nextStage_sound (foldl_sound (foldl_sound h (fun _ _ ht => sound_ite (trainFailed_sound ht) (portUp_sound ht)))
      (fun _ _ ht => State.setField_sound ht))
  · exact bootLog_sound (nextStage_sound (State.setField_sound
      (foldl_sound h (fun _ _ ht => sound_ite ht (sound_ite (trainFailed_sound ht) (State.setReg_sound ht))))))

theorem execBringupStageComplete_sound (h : State.Sound κ s) : Out.Sound κ (execBringupStageComplete s) :=
  Out.sound_next (by
      split
      · exact h
      · exact sound_ite (endStage_sound h) h)

theorem execStageLimitExpire_sound (h : State.Sound κ s) : Out.Sound κ (execStageLimitExpire s) :=
  Out.sound_next (by
      split
      · exact h
      · exact sound_ite (endStage_sound h) h)

theorem countRetrain_sound {k : ℕ} (h : State.Sound κ s) : State.Sound κ (countRetrain s k) := State.setField_sound h

theorem linkGoesDown_sound {k : ℕ} (h : State.Sound κ s) : State.Sound κ (linkGoesDown s k) :=
  sound_ite (fatal_sound (addLog_sound (sound_ite (endAll_sound (setLink_sound (setLinkState_sound h))) (setLink_sound (setLinkState_sound h)))))
      (addLog_sound (sound_ite (endAll_sound (setLink_sound (setLinkState_sound h))) (setLink_sound (setLinkState_sound h))))

theorem startRetrains_sound (h : State.Sound κ s) : State.Sound κ (startRetrains s) :=
  foldl_sound h (fun _ _ ht => sound_ite (beginTraining_sound ht) ht)

theorem execFlitCrcReplay_sound (h : State.Sound κ s) : Out.Sound κ (execFlitCrcReplay s) :=
  Out.sound_next (sound_ite h (sound_ite (addCorrected_sound (setLink_sound h)) (sound_ite (setLink_sound h) (linkGoesDown_sound h))))

theorem execLinkRetrainComplete_sound (h : State.Sound κ s) : Out.Sound κ (execLinkRetrainComplete s) :=
  Out.sound_next (sound_ite h (sound_ite (sound_ite (portUp_sound (setLink_sound (countRetrain_sound h)))
      (sound_ite (repaired_sound (State.setReg_sound (setLink_sound (countRetrain_sound h))))
          (State.setReg_sound (setLink_sound (countRetrain_sound h)))))
              (sound_ite (sound_ite (setLinkState_sound (setLink_sound (countRetrain_sound h)))
                  (setLinkState_sound (setLink_sound (countRetrain_sound h)))) (setLinkState_sound (countRetrain_sound h)))))

theorem writeUalexp_sound {p v : ℕ} (h : State.Sound κ s) : State.Sound κ (writeUalexp s p v) :=
  sound_ite (beginTraining_sound (setLink_sound (sound_ite (endAll_sound (State.setField_sound h)) (State.setField_sound h))))
      (State.setField_sound h)

theorem execRetrain_sound (h : State.Sound κ s) : Out.Sound κ (execRetrain s) :=
  Out.sound_next (onHost_sound h (fun _ ht => sound_ite (writeUalexp_sound ht) ht))

theorem mbRun_sound {v : BitVec 64} {res : ℕ} (h : State.Sound κ s) : State.Sound κ (mbRun s v res) := setAmb_sound (State.setField_sound h)

theorem mbDone_sound (h : State.Sound κ s) : State.Sound κ (mbDone s) := by
  unfold mbDone
  split
  · exact h
  · exact signal_sound (State.setField_sound (State.setField_sound (setAmb_sound h)))

theorem mbCommand_sound {v : BitVec 64} {f : State → ℕ → State × ℕ} (h : State.Sound κ s)
    (hf : ∀ (a : State), State.Sound κ a → ∀ (a' : ℕ), State.Sound κ (f a a').1) : State.Sound κ (mbCommand s v f) :=
  sound_ite (State.setField_sound h) (sound_ite (mbRun_sound h) (sound_ite (mbRun_sound h) (mbRun_sound (hf _ h _))))

theorem mbEvent_sound {op : ℕ} {f : State → ℕ → State × ℕ} (hf : ∀ (a : State), State.Sound κ a → ∀ (a' : ℕ), State.Sound κ (f a a').1)
    (h : State.Sound κ s) : Out.Sound κ (mbEvent op f s) :=
  Out.sound_next (onHost_sound h (fun _ ht => sound_ite (mbCommand_sound ht (fun _ ht1 _ => hf _ ht1 _)) ht))

theorem putMb_sound {off : ℕ} {bs : List (BitVec 8)} (h : State.Sound κ s) : State.Sound κ (putMb s off bs) := State.sound_mk h

theorem noArg_sound {f : State → State × ℕ} {arg : ℕ} (hf : ∀ (a : State), State.Sound κ a → State.Sound κ (f a).1) (h : State.Sound κ s) :
    State.Sound κ (noArg f s arg).1 := by
  unfold noArg
  split
  · exact hf _ h
  · exact h

theorem mbRead_sound {op : ℕ} {f : State → ℕ → State × ℕ} (hf : ∀ (a : State), State.Sound κ a → ∀ (a' : ℕ), State.Sound κ (f a a').1)
    (h : State.Sound κ s) : Out.Sound κ (mbRead op f s) :=
  sound_ite (mbEvent_sound (fun _ ht _ => hf _ ht _) h) (Out.sound_next (sound_ite (State.sound_mk (hf _ (putMb_sound h) _)) h))

theorem execSensors_sound (h : State.Sound κ s) : Out.Sound κ (execSensors s) :=
  mbRead_sound (fun _ ht _ => noArg_sound (fun _ ht1 => putMb_sound ht1) ht) h

theorem readLog_sound {n : ℕ} (h : State.Sound κ s) : State.Sound κ (readLog s n).1 := by
  unfold readLog
  split
  · exact h
  · exact putMb_sound h

theorem execLogread_sound (h : State.Sound κ s) : Out.Sound κ (execLogread s) := mbRead_sound (fun _ ht _ => readLog_sound ht) h

theorem bootInfo_sound (h : State.Sound κ s) : State.Sound κ (bootInfo s).1 := putMb_sound h

theorem execBootinfo_sound (h : State.Sound κ s) : Out.Sound κ (execBootinfo s) :=
  mbRead_sound (fun _ ht _ => noArg_sound (fun _ ht1 => bootInfo_sound ht1) ht) h

theorem openSession_sound {pldm b : Bool} (h : State.Sound κ s) : State.Sound κ (openSession s pldm b) := setAmb_sound (State.freshen_sound h)

theorem updOpen_sound (h : State.Sound κ s) : State.Sound κ (updOpen s).1 := by
  unfold updOpen
  split
  · exact h
  · exact openSession_sound h

theorem execUpdopen_sound (h : State.Sound κ s) : Out.Sound κ (execUpdopen s) :=
  mbEvent_sound (fun _ ht _ => noArg_sound (fun _ ht1 => updOpen_sound ht1) ht) h

theorem writeSlot_sound {b : Bool} {off : ℕ} {bs : List (BitVec 8)} (h : State.Sound κ s) : State.Sound κ (writeSlot s b off bs) := setAmb_sound h

theorem updWrite_sound {arg : ℕ} (h : State.Sound κ s) : State.Sound κ (updWrite s arg).1 := by
  unfold updWrite
  split
  · exact h
  · exact writeSlot_sound h

theorem execUpdwrite_sound (h : State.Sound κ s) : Out.Sound κ (execUpdwrite s) := mbEvent_sound (fun _ ht _ => updWrite_sound ht) h

theorem closeSession_sound {b : Bool} (h : State.Sound κ s) : State.Sound κ (closeSession s b).1 := firmwareLog_sound (setAmb_sound h)

theorem updClose_sound (h : State.Sound κ s) : State.Sound κ (updClose s).1 := by
  unfold updClose
  dsimp only
  split
  · exact h
  · split
    · exact closeSession_sound h
    · exact putMb_sound (closeSession_sound h)

theorem execUpdclose_sound (h : State.Sound κ s) : Out.Sound κ (execUpdclose s) :=
  mbEvent_sound (fun _ ht _ => noArg_sound (fun _ ht1 => updClose_sound ht1) ht) h

theorem activate_sound (h : State.Sound κ s) : State.Sound κ (activate s).1 := by
  unfold activate
  split
  · exact stopServing_sound (firmwareLog_sound h)
  · exact h

theorem execActivate_sound (h : State.Sound κ s) : Out.Sound κ (execActivate s) :=
  mbEvent_sound (fun _ ht _ => noArg_sound (fun _ ht1 => activate_sound ht1) ht) h

theorem confirm_sound (h : State.Sound κ s) : State.Sound κ (confirm s).1 := by
  unfold confirm
  split
  · exact h
  · split
    · exact firmwareLog_sound (setAmb_sound h)
    · exact h

theorem execConfirm_sound (h : State.Sound κ s) : Out.Sound κ (execConfirm s) :=
  mbEvent_sound (fun _ ht _ => noArg_sound (fun _ ht1 => confirm_sound ht1) ht) h

theorem svnCommit_sound (h : State.Sound κ s) : State.Sound κ (svnCommit s).1 := by
  unfold svnCommit
  dsimp only
  split
  · exact h
  · exact firmwareLog_sound (State.sound_mk h)

theorem execSvncommit_sound (h : State.Sound κ s) : Out.Sound κ (execSvncommit s) :=
  mbEvent_sound (fun _ ht _ => noArg_sound (fun _ ht1 => svnCommit_sound ht1) ht) h

theorem execPkgreset_sound (h : State.Sound κ s) : Out.Sound κ (execPkgreset s) :=
  mbEvent_sound (fun _ ht _ => noArg_sound (fun _ ht1 => packageReset_sound ht1) ht) h

theorem pldmUpdate_sound (h : State.Sound κ s) : State.Sound κ (pldmUpdate s) := by
  unfold pldmUpdate
  split
  · exact State.sound_mk (by
          split
          · exact h
          · exact openSession_sound h)
  · exact State.sound_mk (by
          split
          · exact h
          · exact writeSlot_sound h)
  · exact State.sound_mk (by
          split
          · exact h
          · exact closeSession_sound h)

theorem execPldmFirmwareUpdate_sound (h : State.Sound κ s) : Out.Sound κ (execPldmFirmwareUpdate s) :=
  Out.sound_next (sound_ite (pldmUpdate_sound h) h)

theorem execPldmMonitoring_sound (h : State.Sound κ s) : Out.Sound κ (execPldmMonitoring s) := Out.sound_next (sound_ite (State.sound_mk h) h)

theorem execSpdmMeasurements_sound (h : State.Sound κ s) : Out.Sound κ (execSpdmMeasurements s) :=
  Out.sound_next (sound_ite (State.sound_mk (setAmb_sound h)) h)

theorem execSpdmMldsaSignature_sound (h : State.Sound κ s) : Out.Sound κ (execSpdmMldsaSignature s) :=
  Out.sound_next (sound_ite (State.sound_mk h) h)

theorem stackThermal_sound {before : State} (h : State.Sound κ s) : State.Sound κ (stackThermal before s) :=
  foldl_sound h (fun _ _ ht => thermalLog_sound ht)

theorem takeSample_sound (h : State.Sound κ s) : State.Sound κ (takeSample s) := by
  unfold takeSample
  extract_lets l s1
  have hs1 : State.Sound κ s1 := stackThermal_sound (State.sound_mk h)
  split
  · exact addLog_sound hs1
  · exact addLog_sound hs1
  · exact addLog_sound hs1
  · exact hs1

theorem sampleSensors_sound (h : State.Sound κ s) : State.Sound κ (sampleSensors s) :=
  foldl_sound (takeSample_sound h) (fun _ _ ht => trip_sound ht)

theorem execSensorSample_sound (h : State.Sound κ s) : Out.Sound κ (execSensorSample s) := Out.sound_next (sound_ite (sampleSensors_sound h) h)

theorem damage_sound {c : Cell} (h : State.Sound κ s) : State.Sound κ (damage s c) := State.sound_mk h

theorem execPatrolScrub_sound (h : State.Sound κ s) : Out.Sound κ (execPatrolScrub s) :=
  Out.sound_next (sound_ite (sound_ite (by
          split
          · exact addLog_sound h
          · exact damage_sound (addLog_sound h)) (addCorrected_sound h)) h)

theorem execHbmPatrolScrub_sound (h : State.Sound κ s) : Out.Sound κ (execHbmPatrolScrub s) :=
  Out.sound_next (sound_ite h (sound_ite (addLog_sound (State.sound_mk h)) (addCorrected_sound h)))

theorem writeMapped_sound {off v : ℕ} (h : State.Sound κ s) : State.Sound κ (writeMapped s off v) :=
  foldl_sound (foldl_sound h (fun _ _ ht => State.setField_sound ht)) (fun _ _ ht => sound_ite (State.setField_sound ht) ht)

theorem writeLqbase_sound {q v : ℕ} (h : State.Sound κ s) : State.Sound κ (writeLqbase s q v) := sound_ite h (State.setReg_sound h)

theorem writeReg_sound {off : ℕ} {w : BitVec 64} (h : State.Sound κ s) : State.Sound κ (writeReg s off w) :=
  sound_ite h (sound_ite (putMb_sound h) (sound_ite (sound_ite h (mbCommand_sound h (fun _ ht _ => ht)))
      (sound_ite (sound_ite h (writeUalexp_sound h))
          (sound_ite (sound_ite (startTlbi_sound h) h)
              (sound_ite (sound_ite h (State.setReg_sound h))
                  (sound_ite (sound_ite h (State.setReg_sound h))
                      (sound_ite (sound_ite (State.setField_sound h) h)
                          (sound_ite (unmaskMsi_sound (writeMapped_sound h))
                              (sound_ite (sound_ite h (startCommand_sound (State.sound_mk h) (fun _ ht => ht)))
                                  (sound_ite (writeLqbase_sound h) (writeMapped_sound h)))))))))))

theorem execRegisterWrite_sound (h : State.Sound κ s) : Out.Sound κ (execRegisterWrite s) :=
  Out.sound_next (onHost_sound h (fun _ ht => writeReg_sound ht))

theorem hostRead_sound {off n : ℕ} (h : State.Sound κ s) : State.Sound κ (hostRead s off n) :=
  onHost_sound h (fun _ ht => sound_ite (State.sound_mk ht) (State.sound_mk ht))

/-! ### Every instruction -/

/-- Every instruction, and every event that the dispatcher acts on, by its own lemma. -/
theorem exec_sound {i : Instr} (h : State.Sound κ s) : Out.Sound κ (exec i s) := by
  unfold exec
  split
  · exact execNop_sound h
  · exact execXj_sound h
  · exact execXju_sound h
  · exact execXcall_sound h
  · exact execXret_sound h
  · exact execXjr_sound h
  · exact execXbtab_sound h
  · exact execLpsImm_sound h
  · exact execLpsReg_sound h
  · exact execRwait_sound h
  · exact execSetmode_sound h
  · exact execSetmodev_sound h
  · exact execGetmode_sound h
  · exact execTrap_sound h
  · exact execBrk_sound h
  · exact execYield_sound h
  · exact execSadd_sound h
  · exact execSsub_sound h
  · exact execSmul_sound h
  · exact execSmulh_sound h
  · exact execSdiv_sound h
  · exact execSrem_sound h
  · exact execSand_sound h
  · exact execSor_sound h
  · exact execSxor_sound h
  · exact execSshl_sound h
  · exact execSshr_sound h
  · exact execSsra_sound h
  · exact execSmin_sound h
  · exact execSmax_sound h
  · exact execScmp_sound h
  · exact execSsel_sound h
  · exact execSaddi_sound h
  · exact execSli_sound h
  · exact execSlih_sound h
  · exact execSmov_sound h
  · exact execSclz_sound h
  · exact execSpopc_sound h
  · exact execSrd_sound h
  · exact execSwr_sound h
  · exact execSld_sound h
  · exact execSst_sound h
  · exact execSaddr_sound h
  · exact execSsext_sound h
  · exact execSbfx_sound h
  · exact execSbfi_sound h
  · exact execSshli_sound h
  · exact execSshri_sound h
  · exact execSsrai_sound h
  · exact execVadd_sound h
  · exact execVsub_sound h
  · exact execVmul_sound h
  · exact execVmad_sound h
  · exact execVmsb_sound h
  · exact execVmin_sound h
  · exact execVmax_sound h
  · exact execVabs_sound h
  · exact execVneg_sound h
  · exact execVand_sound h
  · exact execVor_sound h
  · exact execVxor_sound h
  · exact execVnot_sound h
  · exact execVshl_sound h
  · exact execVshr_sound h
  · exact execVsra_sound h
  · exact execVcmp_sound h
  · exact execVsel_sound h
  · exact execVmovV_sound h
  · exact execVmovS_sound h
  · exact execVli_sound h
  · exact execVbcsImm_sound h
  · exact execVbcsReg_sound h
  · exact execVdot4_sound h
  · exact execVdot2_sound h
  · exact execVsad_sound h
  · exact execVclz_sound h
  · exact execVpopc_sound h
  · exact execVrcp_sound h
  · exact execVrsq_sound h
  · exact execVexp2_sound h
  · exact execVlog2_sound h
  · exact execVsin_sound h
  · exact execVcos_sound h
  · exact execVcvt_sound h
  · exact execVpack_sound h
  · exact execVunpk_sound h
  · exact execVrq_sound h
  · exact execVrshr_sound h
  · exact execVscl_sound h
  · exact execVshfl_sound h
  · exact execVshfli_sound h
  · exact execVred_sound h
  · exact execVscan_sound h
  · exact execVprune_sound h
  · exact execVspdot_sound h
  · exact execVnzc_sound h
  · exact execVnzb_sound h
  · exact execVterm_sound h
  · exact execVlane_sound h
  · exact execKand_sound h
  · exact execKor_sound h
  · exact execKxor_sound h
  · exact execKnot_sound h
  · exact execKmov_sound h
  · exact execKany_sound h
  · exact execKall_sound h
  · exact execKcnt_sound h
  · exact execKbits_sound h
  · exact execKfromv_sound h
  · exact execKtov_sound h
  · exact execLd_sound h
  · exact execSt_sound h
  · exact execLdi_sound h
  · exact execSti_sound h
  · exact execLdt_sound h
  · exact execStt_sound h
  · exact execLdb_sound h
  · exact execLdw_sound h
  · exact execStw_sound h
  · exact execAadd_sound h
  · exact execAmin_sound h
  · exact execAmax_sound h
  · exact execAand_sound h
  · exact execAor_sound h
  · exact execAxor_sound h
  · exact execAxch_sound h
  · exact execAcas_sound h
  · exact execRdadd_sound h
  · exact execRdmin_sound h
  · exact execRdmax_sound h
  · exact execRdand_sound h
  · exact execRdor_sound h
  · exact execRdxor_sound h
  · exact execRdx_sound h
  · exact execFnc_sound h
  · exact execFwait_sound h
  · exact execPref_sound h
  · exact execBara_sound h
  · exact execBarw_sound h
  · exact execBaraw_sound h
  · exact execBarx_sound h
  · exact execBari_sound h
  · exact execQpush_sound h
  · exact execQpop_sound h
  · exact execQpeek_sound h
  · exact execQcfg_sound h
  · exact execGset_sound h
  · exact execGclr_sound h
  · exact execGclrUnres_sound h
  · exact execEstart_sound h
  · exact execEjoin_sound h
  · exact execLaunch_sound h
  · exact execSfork_sound h
  · exact execSreward_sound h
  · exact execSbar_sound h
  · exact execScancel_sound h
  · exact execSginfo_sound h
  · exact execSgabs_sound h
  · exact execSgadv_sound h
  · exact execMxg_sound h
  · exact execMx_sound h
  · exact execMxbound_sound h
  · exact execMxz_sound h
  · exact execAcst_sound h
  · exact execAcld_sound h
  · exact execHclaim_sound h
  · exact execHrel_sound h
  · exact execCpldSlot_sound h
  · exact execCpldSp_sound h
  · exact execCpst_sound h
  · exact execCpss_sound h
  · exact execBseal_sound h
  · exact execBsealStatus_sound h
  · exact execBwaitImm_sound h
  · exact execBwaitReg_sound h
  · exact execLease_sound h
  · exact execLrel_sound h
  · exact execEcmd_sound h
  · exact execSwbind_sound h
  · exact execSwunb_sound h
  · exact execEadd_sound h
  · exact execEsub_sound h
  · exact execEli_sound h
  · exact execElih_sound h
  · exact execEmov_sound h
  · exact execEshl_sound h
  · exact execEshr_sound h
  · exact execXjz_sound h
  · exact execXjnz_sound h
  · exact execEfroms_sound h
  · exact execCsrr_sound h
  · exact execCsrw_sound h
  · exact execCntr_sound h
  · exact execClk_sound h
  · exact execSeed_sound h
  · exact execReservedOpcode_sound h
  · exact execFormerBuild_sound h
  · exact execRwaitTimeout_sound h
  · exact execGuardedCommandRelease_sound h
  · exact execStreamEnded_sound h
  · exact execGangEnd_sound h
  · exact execPacketTake_sound h
  · exact execGangPlace_sound h
  · exact execChildGridStart_sound h
  · exact execReplayResend_sound h
  · exact execSramSplitReclaim_sound h
  · exact execLatchLoadComplete_sound h
  · exact execMxStepStart_sound h
  · exact execMxStepComplete_sound h
  · exact execCpldItemComplete_sound h
  · exact execCpstItemComplete_sound h
  · exact execCpssItemComplete_sound h
  · exact execAcstItemComplete_sound h
  · exact execAcldItemComplete_sound h
  · exact execSwbindItemComplete_sound h
  · exact execSwunbItemComplete_sound h
  · exact execFenceComplete_sound h
  · exact execLogicalTimeAdvance_sound h
  · exact execHolderDrain_sound h
  · exact execPageTableWalk_sound h
  · exact execLeaseGrant_sound h
  · exact execLeaseHoldExpire_sound h
  · exact execLrelTakeEffect_sound h
  · exact execEngineLit_sound h
  · exact execEngineDimIdle_sound h
  · exact execEngineLingerExpire_sound h
  · exact execEngineDarkIdle_sound h
  · exact execXfItemComplete_sound h
  · exact execMgItemComplete_sound h
  · exact execDcItemComplete_sound h
  · exact execSpItemComplete_sound h
  · exact execClItemComplete_sound h
  · exact execIxItemComplete_sound h
  · exact execSgDeadline_sound h
  · exact execTlbiRange_sound h
  · exact execTlbiContext_sound h
  · exact execTlbiAll_sound h
  · exact execTlbInvalidateComplete_sound h
  · exact execFltrespReplay_sound h
  · exact execFltrespAbort_sound h
  · exact execFaultRecordWrite_sound h
  · exact execSpace1BlockWrite_sound h
  · exact execCmpcfgWrite_sound h
  · exact execReloc_sound h
  · exact execCmpcmdRead_sound h
  · exact execRelocDone_sound h
  · exact execDecay_sound h
  · exact execSeedw_sound h
  · exact execHeatDecayComplete_sound h
  · exact execKeyLoad_sound h
  · exact execKeyFlush_sound h
  · exact execKeyClear_sound h
  · exact execKeyCommandDone_sound h
  · exact execPartmapWrite_sound h
  · exact execCreate_sound h
  · exact execStart_sound h
  · exact execSave_sound h
  · exact execSwap_sound h
  · exact execPrestage_sound h
  · exact execAbort_sound h
  · exact execFltactEnd_sound h
  · exact execFltactResume_sound h
  · exact execDestroy_sound h
  · exact execDieoff_sound h
  · exact execDieon_sound h
  · exact execContextCommandComplete_sound h
  · exact execLqctlWrite_sound h
  · exact execLqputWrite_sound h
  · exact execCompletionRecordWrite_sound h
  · exact execDfbbaseWrite_sound h
  · exact execCarveWrite_sound h
  · exact execOrderlyDarkTimeout_sound h
  · exact execDieAbruptLoss_sound h
  · exact execRglInterval_sound h
  · exact execClpwrWrite_sound h
  · exact execClusterGate_sound h
  · exact execClusterUngate_sound h
  · exact execBoostInterval_sound h
  · exact execHotSpotMigration_sound h
  · exact execThermalEmergency_sound h
  · exact execWatchdog_sound h
  · exact execWatchdogUncleared_sound h
  · exact execPowerOn_sound h
  · exact execPerst_sound h
  · exact execBringupStageComplete_sound h
  · exact execStageLimitExpire_sound h
  · exact execRetrain_sound h
  · exact execFlitCrcReplay_sound h
  · exact execLinkRetrainComplete_sound h
  · exact execSensors_sound h
  · exact execLogread_sound h
  · exact execBootinfo_sound h
  · exact execUpdopen_sound h
  · exact execUpdwrite_sound h
  · exact execUpdclose_sound h
  · exact execActivate_sound h
  · exact execConfirm_sound h
  · exact execSvncommit_sound h
  · exact execPkgreset_sound h
  · exact execTrialTimeout_sound h
  · exact execAmbRestart_sound h
  · exact execPldmFirmwareUpdate_sound h
  · exact execPldmMonitoring_sound h
  · exact execSpdmMeasurements_sound h
  · exact execSpdmMldsaSignature_sound h
  · exact execSensorSample_sound h
  · exact execLogCoalesceWindow_sound h
  · exact execPatrolScrub_sound h
  · exact execHbmPatrolScrub_sound h
  · exact execRegisterWrite_sound h
  · exact execCompressRecord_sound h
  · exact execLqgetRead_sound h
  · exact execWatchdogCleared_sound h
  · exact execPowerLoss_sound h

/-! ### The turns of the step -/

theorem endWait_sound {f : Fx} (h : State.Sound κ s) : State.Sound κ (endWait s f) :=
  sound_ite (raise_sound h) (sound_ite (setStrm_sound (raise_sound h) (fun _ hx => { hx with }))
      (sound_ite (account_sound h (raise_sound h)) (setSplit_sound (raise_sound h) (fun _ _ => ⟨IfSome.none⟩))))

theorem goOn_sound {c : Capture} (h : State.Sound κ s) (hc : Capture.Sound κ c) : Out.Sound κ (goOn s c) := by
  unfold goOn
  dsimp only
  split
  · exact Out.sound_next (undecodable_sound h)
  · split
    · rename_i e1
      exact Out.sound_next (sound_ite (Out.sound_get e1 (exec_sound (resumed_sound h hc)))
          (account_sound h (mendRegs_sound (putBack_sound h (Out.sound_get e1 (exec_sound (resumed_sound h hc)))))))
    · exact exec_sound (resumed_sound h hc)

theorem issue_sound {w : BitVec 32} {rest : List (BitVec 32)} {i : Instr} (h : State.Sound κ s) : Out.Sound κ (issue s w rest i) :=
  sound_ite (Out.sound_next (State.sound_mk h)) (sound_ite (Out.sound_next (account_sound h (takeFault_sound h))) (by
        split
        · rename_i e
          exact Out.sound_next (sound_ite (Out.sound_get e (exec_sound h)) (account_sound h (mendRegs_sound (Out.sound_get e (exec_sound h)))))
        · exact exec_sound h))

theorem runWords_sound {w : BitVec 32} {rest : List (BitVec 32)} (h : State.Sound κ s) : Out.Sound κ (runWords s w rest) := by
  unfold runWords
  split
  · exact issue_sound h
  · exact Out.sound_next (account_sound h (undecodable_sound h))

theorem fetchFault_sound {f : Fx} (h : State.Sound κ s) : State.Sound κ (fetchFault s f) :=
  sound_ite (takeFault_sound h) (sound_ite (countMisses_sound (takeFault_sound h)) (account_sound h (takeFault_sound h)))

theorem attempt_sound (h : State.Sound κ s) : Out.Sound κ (attempt s) := by
  unfold attempt
  split
  · exact sound_ite (Out.sound_next (endWait_sound h)) (Out.sound_next (State.sound_mk h))
  · split
    · rename_i e
      exact goOn_sound h (IfSome.get e (sound_ite IfSome.none h.split.cap))
    · split
      · exact Out.sound_next (fetchFault_sound h)
      · exact runWords_sound h

theorem issueFirst_sound {l : List Cand} (h : s.Sound κ) : Out.Sound κ (issueFirst s l) := by
  induction l with
  | nil => exact h
  | cons c r ih =>
    unfold issueFirst
    split
    · exact ih
    · rename_i s1 hload
      have h1 : Out.Sound κ (attempt s1) := attempt_sound (IfSome.get hload (load_sound h))
      split
      · rename_i s2 hs2
        exact sound_ite ih (unload_sound (Out.sound_get hs2 h1))
      · exact h1

theorem onCoreCrews_sound {cores : List ℕ} {f : Crew → Crew} (h : State.Sound κ s) (hf : ∀ (a : Crew), Crew.Sound κ a → Crew.Sound κ (f a)) :
    State.Sound κ (onCoreCrews s cores f) :=
  State.sound_mk (Fields.withGangs h (Values.map h.gangs (fun _ h1 => sound_ite ⟨Values.map h1.crews (fun _ h2 => hf _ h2)⟩ h1)))

theorem Crew.closeCycle_sound {c : Crew} (hc : Crew.Sound κ c) : Crew.Sound κ c.closeCycle := by
  have h : Crew.Sound κ (c.touched.foldl barComplete { c with joint := false }) := foldl_sound { hc with } fun _ _ hc1 => barComplete_sound hc1
  exact { h with }

theorem issueAll_sound {l : List Cand} (h : s.Sound κ) : Out.Sound κ (issueAll s l) := by
  induction l generalizing s with
  | nil => exact h
  | cons c r ih =>
    have h1 : Out.Sound κ (issueFirst s [c]) := issueFirst_sound h
    unfold issueAll
    split
    · exact ih (Out.sound_get ‹_› h1)
    · exact h1

theorem endCycle_sound {cores : List ℕ} (h : State.Sound κ s) : State.Sound κ (endCycle s cores) :=
  foldl_sound (foldl_sound (onCoreCrews_sound h (fun _ hc => Crew.closeCycle_sound hc)) (fun _ _ ht => onCrew_sound ht (fun _ ht1 => ht1)))
      (fun _ _ ht => chooseNext_sound ht)

theorem coreCycle_sound {pipes streams : List (ℕ × ℕ)} (h : State.Sound κ s) : Out.Sound κ (coreCycle s pipes streams) := by
  unfold coreCycle
  dsimp only
  split
  · rename_i e
    exact Out.sound_next (endCycle_sound (Out.sound_get e (issueAll_sound (onCoreCrews_sound h (fun _ hc => { hc with })))))
  · exact issueAll_sound (onCoreCrews_sound h (fun _ hc1 => { hc1 with }))

theorem current_sound (h : State.Sound κ s) : IfSome (fun x => State.Sound κ x.2.2.2) (current s) := by
  unfold current
  split
  · rename_i e
    exact IfSome.map_of (fun _ => resumed_sound h (IfSome.get e h.split.cap))
  · exact IfSome.bind_of (fun _ => IfSome.map_of (fun _ => h))

theorem residueTurn_sound {core p : ℕ} (h : State.Sound κ s) : State.Sound κ (residueTurn s core p) := by
  unfold residueTurn
  split
  · exact h
  · rename_i e
    split
    · rename_i e1 _
      exact sound_ite (sound_ite h (addLog_sound (unload_sound (account_sound (IfSome.get e (IfSome.bind_of (fun _ => load_sound h))) (by
                    split
                    · exact putBack_sound (IfSome.get e (IfSome.bind_of (fun _ => load_sound h)))
                        (residueFault_sound ((current_sound (IfSome.get e (IfSome.bind_of (fun _ => load_sound h)))) _ e1))
                    · exact residueFault_sound ((current_sound (IfSome.get e (IfSome.bind_of (fun _ => load_sound h)))) _ e1)))))) h
    · exact h

theorem spoilRec_sound {ix r : ℕ} (h : State.Sound κ s) : State.Sound κ (spoilRec s ix r) :=
  sound_ite (setOwn_sound h (fun _ hc => { hc with recs := Each.map (Each.zipIdx hc.recs) (fun _ h1 => sound_ite { h1 with } h1) })) h

theorem upsetCell_sound {c : Cell} (h : State.Sound κ s) : State.Sound κ (upsetCell s c) := by
  unfold upsetCell
  split
  · exact onCrew_sound h (fun _ ht => spoilRec_sound ht)
  · exact sound_ite (damage_sound h) h

theorem upsetUnit_sound {u : ℕ} (h : State.Sound κ s) : State.Sound κ (upsetUnit s u) := State.sound_mk h

theorem turnPort_sound {sg : Bool} {cl : ℕ} {shut : Bool} (h : State.Sound κ s) : State.Sound κ (turnPort s sg cl shut) := State.sound_mk h

theorem runEvent_sound {i : Instr} {ev : Ev} (h : State.Sound κ s) : Out.Sound κ (runEvent s i ev) :=
  sound_ite (Out.sound_next h) (by
      split
      · rename_i e
        exact Out.sound_next (State.sound_mk (Out.sound_get e (exec_sound (State.sound_mk h))))
      · exact exec_sound (State.sound_mk h))

theorem pass_sound {n : ℕ} (h : State.Sound κ s) : State.Sound κ (pass s n) :=
  sound_ite h (tick_sound (sound_ite h (startRetrains_sound (tripEnd_sound h))))

theorem idle_sound (h : State.Sound κ s) : Out.Sound κ (idle s) := by
  unfold idle
  split
  · exact issueFirst_sound h
  · exact Out.sound_next (pass_sound h)

theorem takeTurn_sound {x2 : Turn} (h : State.Sound κ s) : Out.Sound κ (takeTurn s x2) := by
  unfold takeTurn
  split
  · exact issueFirst_sound h
  · exact issueFirst_sound h
  · exact coreCycle_sound h
  · exact Out.sound_next (residueTurn_sound h)
  · exact runEvent_sound h
  · exact Out.sound_next (pass_sound h)
  · exact Out.sound_next (fillLine_sound h)
  · exact Out.sound_next (upsetUnit_sound h)
  · exact Out.sound_next (upsetCell_sound h)
  · exact Out.sound_next (hostRead_sound h)
  · exact Out.sound_next (turnPort_sound h)
  · exact Out.sound_next (mbDone_sound h)

/-! ### The step -/

/-- The step, which takes the next turn of the agenda or passes the time. -/
theorem step_sound (h : State.Sound κ s) : Out.Sound κ (step s) := by
  unfold step
  split
  · exact idle_sound h
  · exact takeTurn_sound (State.sound_mk h)

end

/-! ## What is kept, in the words of the statements -/

theorem Store.sound_form {m : Store 8} : Aspect.store .form m ↔ m.wf = true := ⟨fun h => h rfl, fun h _ => h⟩

theorem mode_sound_modes {m : BitVec 32} : Aspect.mode .modes m ↔ modeLegal m = true := ⟨fun h => h rfl, fun h _ => h⟩

theorem ifSome_iff_all {α : Type} {P : α → Prop} {p : α → Bool} {o : Option α} (hp : ∀ x, P x ↔ p x = true) : IfSome P o ↔ o.all p = true := by
  cases o with
  | none => exact ⟨fun _ => rfl, fun _ => IfSome.none⟩
  | some x => exact ⟨fun h => (hp x).mp (h x rfl), fun h => .some ((hp x).mpr h)⟩

theorem each_iff_all {α : Type} {P : α → Prop} {p : α → Bool} {l : List α} (hp : ∀ x, P x ↔ p x = true) : Each P l ↔ l.all p = true :=
  ⟨fun h => List.all_eq_true.mpr fun x hx => (hp x).mp (h x hx), fun h x hx => (hp x).mpr (List.all_eq_true.mp h x hx)⟩

theorem values_iff_all {α : Type} {P : α → Prop} {p : α → Bool} {l : List (Nat × α)} (hp : ∀ x, P x ↔ p x = true) :
    Values P l ↔ l.all (fun x => p x.2) = true := each_iff_all (P := fun x : Nat × α => P x.2) fun x => hp x.2

theorem Capture.sound_modes {c : Capture} : c.Sound .modes ↔ modeLegal c.mode = true :=
  ⟨fun h => mode_sound_modes.mp h.mode, fun h => ⟨mode_sound_modes.mpr h⟩⟩

theorem Split.sound_modes {x : Split} : x.Sound .modes ↔ x.cap.all (fun c => modeLegal c.mode) = true :=
  ⟨fun h => (ifSome_iff_all fun _ => Capture.sound_modes).mp h.cap, fun h => ⟨(ifSome_iff_all fun _ => Capture.sound_modes).mpr h⟩⟩

theorem Group.sound_modes {g : Group} : g.Sound .modes ↔ g.modesLegal = true := by
  rw [Group.modesLegal, Bool.and_eq_true, ← mode_sound_modes, ← each_iff_all fun _ => Split.sound_modes]
  exact ⟨fun h => ⟨h.mode, h.splits⟩, fun h => ⟨h.1, h.2⟩⟩

theorem SpawnRec.sound_modes {r : SpawnRec} : r.Sound .modes ↔ modeLegal r.mode = true :=
  ⟨fun h => mode_sound_modes.mp h.mode, fun h => ⟨mode_sound_modes.mpr h⟩⟩

theorem RecClass.sound_modes {k : RecClass} : k.Sound .modes ↔ modeLegal k.mode = true :=
  ⟨fun h => mode_sound_modes.mp h.mode, fun h => ⟨mode_sound_modes.mpr h⟩⟩

theorem Crew.sound_modes {c : Crew} : c.Sound .modes ↔ c.modesLegal = true := by
  simp only [Crew.modesLegal, Bool.and_eq_true]
  rw [← mode_sound_modes, ← values_iff_all fun x => Group.sound_modes (g := x), ← each_iff_all fun _ => SpawnRec.sound_modes,
    ← each_iff_all fun _ => RecClass.sound_modes]
  exact ⟨fun h => ⟨⟨⟨h.strm.mode, h.groups⟩, h.recs⟩, h.flush⟩, fun ⟨⟨⟨hm, hg⟩, hr⟩, hf⟩ => ⟨⟨hm⟩, hg, hr, hf⟩⟩

theorem Gang.sound_modes {g : Gang} : g.Sound .modes ↔ g.modesLegal = true := by
  rw [Gang.modesLegal, ← values_iff_all fun x => Crew.sound_modes (c := x)]
  exact ⟨fun h => h.crews, fun h => ⟨h⟩⟩

theorem Ctx.sound_modes {c : Ctx} : c.Sound .modes ↔ c.image.all (fun g => g.2.modesLegal) = true := by
  rw [← values_iff_all fun x => Gang.sound_modes (g := x)]
  exact ⟨fun h => h.image, fun h => ⟨h⟩⟩

/-- The second aspect is that every MODE is legal. -/
theorem State.sound_modes {s : State} : s.Sound .modes ↔ s.modesLegal = true := by
  simp only [State.modesLegal, Bool.and_eq_true]
  rw [← values_iff_all fun x => Gang.sound_modes (g := x), ← values_iff_all fun x => Ctx.sound_modes (c := x), ← Gang.sound_modes, ← Crew.sound_modes,
    ← Group.sound_modes, ← Split.sound_modes]
  exact ⟨fun h => ⟨⟨⟨⟨⟨h.gangs, h.ctxs⟩, h.gang⟩, h.crew⟩, h.grp⟩, h.split⟩,
    fun ⟨⟨⟨⟨⟨hgs, hcs⟩, hg⟩, hc⟩, hgr⟩, hsp⟩ => ⟨nofun, hgs, hcs, hg, hc, hgr, hsp⟩⟩

/-! Where memory's form is kept, a MODE may be anything. -/

theorem Group.sound_form {g : Group} : g.Sound .form := ⟨nofun, fun _ _ => ⟨fun _ _ => ⟨nofun⟩⟩⟩

theorem Crew.sound_form {c : Crew} : c.Sound .form := ⟨⟨nofun⟩, fun _ _ => Group.sound_form, fun _ _ => ⟨nofun⟩, fun _ _ => ⟨nofun⟩⟩

theorem Gang.sound_form {g : Gang} : g.Sound .form := ⟨fun _ _ => Crew.sound_form⟩

/-- The first aspect is that memory is in its canonical form. -/
theorem State.sound_form {s : State} : s.Sound .form ↔ s.mem.wf = true :=
  ⟨fun h => Store.sound_form.mp h.mem, fun h => ⟨Store.sound_form.mpr h, fun _ _ => Gang.sound_form, fun _ _ => ⟨fun _ _ => Gang.sound_form⟩,
    Gang.sound_form, Crew.sound_form, Group.sound_form, ⟨fun _ _ => ⟨nofun⟩⟩⟩⟩

/-- The bits of MODE above its fields, and the values of its guard field, that R163 rules out. -/
theorem modeLegal_iff (m : BitVec 32) : modeLegal m = true ↔ m.toNat / 2 ^ 21 = 0 ∧ m.toNat / 2 ^ 13 % 2 ^ 4 ≤ 8 := by
  rw [modeLegal, Bool.and_eq_true, decide_eq_true_eq, decide_eq_true_eq, Nat.div_eq_zero_iff_lt (by decide)]
  rfl

/-- A step keeps either aspect. -/
theorem step_keeps {κ : Aspect} {s t : State} (h : s.Sound κ) (e : step s = .next t) : t.Sound κ := Out.sound_get e (step_sound h)

theorem stepKeepsMemoryForm : Claims.StepKeepsMemoryForm := fun _ _ h e => State.sound_form.mp (step_keeps (State.sound_form.mpr h) e)

theorem stepKeepsModesLegal : Claims.StepKeepsModesLegal :=
  ⟨modeLegal_iff, State.sound_modes.mp State.reset_sound, fun _ _ h e => State.sound_modes.mp (step_keeps (State.sound_modes.mpr h) e)⟩

end Sys2Proof.Machine

namespace Sys2Proof
open Machine

/-- Settles O60: each operation of the model keeps both the form of memory and each MODE legal, since few write either and those check what they
write; so the step does. -/
theorem memoryStaysCanonical : Obligations.MemoryStaysCanonical := ⟨stepKeepsMemoryForm, stepKeepsModesLegal⟩

end Sys2Proof
end

section
/-! PROOFS. Scalar instructions: results, division and remainder, immediate forms, bit fields and compares (R199 to R203). -/
namespace Sys2Proof.Machine

/-! ## Instructions of a group that write registers -/

section
variable {op : Nat} {nx : NX} {s : State} {early fault : Option Fx}

/-- An instruction of a group that accesses no memory: with its checks passed it has its effect. -/
theorem retire_effect {t : State} (hop : classOf op = .groups) (hgroup : isStream s = false) (hearly : early = none) (hfault : fault = none)
    (hnx : nxFault nx 4 t = none) : retire op nx { early := early, fault := fault, done := t } s = .next (after nx 4 t) :=
  retire_next (by rw [classOk_groups hop, hgroup]; rfl) hearly (fun h => nomatch h) rfl hfault hnx rfl rfl

/-- With a check failed it raises that check's fault, whatever effect it would have had. -/
theorem retire_refused {t : State} {f : Fx} (hop : classOf op = .groups) (hgroup : isStream s = false) (hearly : early = none)
    (hfault : fault = some f) (hpage : f.cause ≠ .page) :
    retire op nx { early := early, fault := fault, done := t } s = .next (raise s f) :=
  retire_raises (by rw [classOk_groups hop, hgroup]; rfl) hearly (fun h => nomatch h) rfl hfault hpage

theorem retire_sput (hop : classOf op = .groups) (hready : groupReady nx s) (hearly : early = none) (hfault : fault = none) (d : Nat)
    (v : BitVec 64) : retire op nx { early := early, fault := fault, done := sput s d v } s = .next (after nx 4 (sput s d v)) :=
  retire_effect hop hready.1 hearly hfault ((nxFault_sput nx 4 s d v).trans hready.2)

theorem retire_setPred (hop : classOf op = .groups) (hready : groupReady nx s) (hearly : early = none) (hfault : fault = none) (k : Nat)
    (f : Nat → Bool) : ∃ ks, retire op nx { early := early, fault := fault, done := setPred s k f } s = .next (after nx 4 (withK s ks)) ∧
      PredHolds s k f ks := by
  obtain ⟨ks, hks, hholds⟩ := setPred_holds s k f
  have hnx : nxFault nx 4 (setPred s k f) = none := by rw [hks, nxFault_withK, hready.2]
  exact ⟨ks, hks ▸ retire_effect hop hready.1 hearly hfault hnx, hholds⟩

end

/-- A check whose condition fails answers its cause. -/
theorem check_of_not {p : Prop} [Decidable p] {c : Cause} (h : ¬p) : check p c = some (fx c) := by
  rw [check, decide_eq_false h]; rfl

theorem range_eq_none {ok : Bool} : range ok = none ↔ ok = true := check_eq_none

theorem sOk_iff {r : Nat} : sOk r = true ↔ r < 64 := decide_eq_true_iff

/-- Scalar registers in range pass their check. -/
theorem range_sOk {d : Nat} (hd : d < 64) : range (sOk d) = none := range_eq_none.mpr (sOk_iff.mpr hd)

theorem range_sOk₂ {d a : Nat} (hd : d < 64) (ha : a < 64) : range (sOk d && sOk a) = none := by
  rw [range_eq_none, Bool.and_eq_true, sOk_iff, sOk_iff]; exact ⟨hd, ha⟩

theorem range_sOk₃ {d a b : Nat} (hd : d < 64) (ha : a < 64) (hb : b < 64) : range (sOk d && sOk a && sOk b) = none := by
  rw [range_eq_none, Bool.and_eq_true, Bool.and_eq_true, sOk_iff, sOk_iff, sOk_iff]; exact ⟨⟨hd, ha⟩, hb⟩

section
variable {op : Nat} {nx : NX} {d a b : BitVec 7} {s : State}

theorem scalar2_eq (hready : groupReady nx s) (hd : d.toNat < 64) (ha : a.toNat < 64) (hb : b.toNat < 64) (hop : classOf op = .groups)
    (f : BitVec 64 → BitVec 64 → BitVec 64) :
    scalar2 op nx d a b f s = .next (after nx 4 (sput s d.toNat (f (sget s a.toNat) (sget s b.toNat)))) :=
  retire_sput hop hready (range_sOk₃ hd ha hb) rfl _ _

theorem scalar1_eq (hready : groupReady nx s) (hd : d.toNat < 64) (ha : a.toNat < 64) (hop : classOf op = .groups)
    (f : BitVec 64 → BitVec 64) : scalar1 op nx d a f s = .next (after nx 4 (sput s d.toNat (f (sget s a.toNat)))) :=
  retire_sput hop hready (range_sOk₂ hd ha) rfl _ _

theorem scalar0_eq (hready : groupReady nx s) (hd : d.toNat < 64) (hop : classOf op = .groups) (f : BitVec 64 → BitVec 64) :
    scalar0 op nx d f s = .next (after nx 4 (sput s d.toNat (f (sget s d.toNat)))) :=
  retire_sput hop hready (range_sOk hd) rfl _ _

end

/-! ## Arithmetic of two operands (R199) -/

theorem scalarArithmetic : Claims.ScalarArithmetic := by
  intro nx d a b x s hready hd ha hb A B put
  have hput : ∀ {op} f, classOf op = .groups → scalar2 op nx d a b f s = put (f A B) := fun f hop => scalar2_eq hready hd ha hb hop f
  exact ⟨hput _ rfl, hput _ rfl, hput _ rfl, hput _ rfl, hput _ rfl, hput _ rfl, hput _ rfl, hput _ rfl, hput _ rfl, hput _ rfl, hput _ rfl,
    hput _ rfl, hput _ rfl, retire_sput rfl hready (range_sOk₃ hd ha hb) rfl _ _⟩

/-! ## One operand, immediates and bit fields (R199, R202, R203) -/

/-- A sign-extended immediate is the integer that its bits mean in two's complement. -/
theorem signExt_toNat {w : Nat} (x : BitVec w) : signExt x.toNat w = x.toInt := by
  rw [signExt, Nat.mod_eq_of_lt x.isLt, BitVec.toInt_eq_toNat_cond]
  by_cases hw : w = 0
  · subst hw
    have hx : x.toNat = 0 := by have := x.isLt; omega
    simp [hx]
  · rw [if_neg hw]

theorem w64_signExt {w : Nat} (x : BitVec w) : w64 (signExt x.toNat w) = x.signExtend 64 := by
  rw [signExt_toNat]; rfl

theorem clzN_toNat (v : BitVec 64) : clzN 64 v.toNat = if v = 0 then 64 else 63 - Nat.log2 v.toNat := by
  have hzero : v.toNat = 0 ↔ v = 0 := by rw [← BitVec.toNat_inj]; rfl
  simp only [clzN, hzero]

/-- The one bits among the lowest n, counted from the lowest. -/
theorem popN_eq_countP (n v : Nat) : popN n v = (List.range n).countP (fun i => v.testBit i) := by
  induction n generalizing v with
  | zero => rfl
  | succ n ih =>
    have hlow : v % 2 = if v.testBit 0 then 1 else 0 := by rw [Nat.testBit_zero]; rcases Nat.mod_two_eq_zero_or_one v with h | h <;> simp [h]
    have hshift : (fun i => (v / 2).testBit i) = (fun i => v.testBit i) ∘ Nat.succ := funext fun i => (Nat.testBit_succ v i).symm
    rw [popN, ih, List.range_succ_eq_map, List.countP_cons, List.countP_map, hshift, hlow, Nat.add_comm]

theorem scalarImmediate : Claims.ScalarImmediate := by
  intro nx d a i8 i15 c lo w s hready hd ha A D put
  have hone : ∀ {op} f, classOf op = .groups → scalar1 op nx d a f s = put (f A) := fun f hop => scalar1_eq hready hd ha hop f
  have hzero : ∀ {op} f, classOf op = .groups → scalar0 op nx d f s = put (f D) := fun f hop => scalar0_eq hready hd hop f
  have hclz : exec (.sclz nx d a) s = put (BitVec.ofNat 64 (clzN 64 A.toNat)) := hone (fun v => BitVec.ofNat 64 (clzN 64 v.toNat)) rfl
  have hpop : exec (.spopc nx d a) s = put (BitVec.ofNat 64 (popN 64 A.toNat)) := hone (fun v => BitVec.ofNat 64 (popN 64 v.toNat)) rfl
  have haddi : exec (.saddi nx d a i8) s = put (A + w64 (signExt i8.toNat 8)) := hone (· + w64 (signExt i8.toNat 8)) rfl
  have hli : exec (.sli nx d i15) s = put (w64 (signExt i15.toNat 15)) := hzero (fun _ => w64 (signExt i15.toNat 15)) rfl
  rw [clzN_toNat] at hclz
  rw [popN_eq_countP] at hpop
  rw [w64_signExt] at haddi hli
  refine ⟨haddi, hli, hzero (fun v => BitVec.ofNat 64 (v.toNat * 2 ^ 15 + i15.toNat)) rfl, hone id rfl, hclz, hpop, hone (· <<< c.toNat) rfl,
    hone (· >>> c.toNat) rfl, hone (·.sshiftRight c.toNat) rfl, fun h1 h64 => ?ext, fun hfits => ?field,
    fun hleaves => ?leaves⟩
  case ext =>
    have hcheck : (decide (1 ≤ i8.toNat) && decide (i8.toNat ≤ 64)) = true := by rw [decide_eq_true h1, decide_eq_true h64]; rfl
    exact retire_sput rfl hready (range_sOk₂ hd ha) (check_eq_none.mpr hcheck) _ _
  case field =>
    have hcheck : check (bfLo lo + bfWidth w ≤ 64) .illegalOp = none := check_eq_none.mpr (decide_eq_true hfits)
    exact ⟨retire_sput rfl hready (range_sOk₂ hd ha) hcheck _ _, retire_sput rfl hready (range_sOk₂ hd ha) hcheck _ _⟩
  case leaves =>
    have hcheck : check (bfLo lo + bfWidth w ≤ 64) .illegalOp = some (fx .illegalOp) := check_of_not (Nat.not_le.mpr hleaves)
    exact ⟨retire_refused rfl hready.1 (range_sOk₂ hd ha) hcheck (fun h => nomatch h),
      retire_refused rfl hready.1 (range_sOk₂ hd ha) hcheck (fun h => nomatch h)⟩

/-! ## Compares (R201) -/

/-- What each condition code asks of two integers. -/
theorem holds_ordInt (u v : Int) : holds 0 (ordInt u v) = decide (u = v) ∧ holds 1 (ordInt u v) = decide (u ≠ v) ∧
    holds 2 (ordInt u v) = decide (u < v) ∧ holds 3 (ordInt u v) = decide (u ≤ v) ∧ holds 4 (ordInt u v) = decide (v < u) ∧
    holds 5 (ordInt u v) = decide (v ≤ u) := by
  rcases lt_trichotomy u v with h | h | h
  · simp [ordInt, holds, h, h.ne, h.le, h.not_gt, h.not_ge]
  · simp [ordInt, holds, h]
  · simp [ordInt, holds, h, h.ne', h.le, h.not_gt, h.not_ge]

theorem scalarCompare : Claims.ScalarCompare := by
  intro nx c k a b x s hready ha hb u v put
  have hcmp : ∀ n, c = n → n.toNat ≤ 5 → ∀ o, holds n.toNat (ordInt u v) = o → put o := by
    rintro _ rfl hle _ rfl
    exact retire_setPred rfl hready (range_sOk₂ ha hb) (check_eq_none.mpr (decide_eq_true hle)) _ _
  obtain ⟨heq, hne, hlt, hle, hgt, hge⟩ := holds_ordInt u v
  refine ⟨fun hc => hcmp 0 hc (by decide) _ heq, fun hc => hcmp 1 hc (by decide) _ hne, fun hc => hcmp 2 hc (by decide) _ hlt,
    fun hc => hcmp 3 hc (by decide) _ hle, fun hc => hcmp 4 hc (by decide) _ hgt, fun hc => hcmp 5 hc (by decide) _ hge, fun hc => ?_⟩
  have hcheck : check (c.toNat ≤ 5) .illegalOp = some (fx .illegalOp) := check_of_not (by omega)
  exact retire_refused rfl hready.1 (range_sOk₂ ha hb) hcheck (fun h => nomatch h)

/-- Settles O1: with its registers in range and its NX clear, each instruction retires with its result or with the fault of its check. -/
theorem scalarResults : Obligations.ScalarResults := ⟨scalarArithmetic, scalarImmediate, scalarCompare⟩

/-! ## Division and remainder (R200) -/

theorem remS_eq (x : BitVec 1) (p q : BitVec 64) : remS x p q = if q = 0 then p else BitVec.ofInt 64 ((xval x p).tmod (xval x q)) := by
  rw [Int.tmod_def]; rfl

/-- −2^63 by −1, whose quotient no signed register holds. -/
theorem quoS_remS_overflow : quoS 0 0x8000000000000000 (BitVec.allOnes 64) = 0x8000000000000000 ∧
    remS 0 0x8000000000000000 (BitVec.allOnes 64) = 0 := by decide

theorem scalarDivide : Claims.ScalarDivide := by
  intro nx d a b x s hready hd ha hb A B put
  have hquo : exec (.sdiv nx d a b x) s = put (quoS x A B) := scalar2_eq hready hd ha hb rfl (quoS x)
  have hrem : exec (.srem nx d a b x) s = put (remS x A B) := scalar2_eq hready hd ha hb rfl (remS x)
  refine ⟨hquo, hrem.trans (congrArg put (remS_eq x A B)), fun hx hA hB => ?_, ?_⟩
  · rw [hquo, hrem, hx, hA, hB, quoS_remS_overflow.1, quoS_remS_overflow.2]
    exact ⟨rfl, rfl⟩
  · obtain ⟨hadd, hsub, hmul, hmulh, hand, hor, hxor, hshl, hshr, hsra, hmin, hmax, haddr, hsel⟩ := scalarArithmetic nx d a b x s hready hd ha hb
    obtain ⟨-, -, -, hmov, hclz, hpop, -⟩ := scalarImmediate nx d a 0 0 0 0 0 s hready hd ha
    simp only [List.forall_mem_cons]
    exact ⟨⟨_, hadd⟩, ⟨_, hsub⟩, ⟨_, hmul⟩, ⟨_, hmulh⟩, ⟨_, hquo⟩, ⟨_, hrem⟩, ⟨_, hand⟩, ⟨_, hor⟩, ⟨_, hxor⟩, ⟨_, hshl⟩, ⟨_, hshr⟩, ⟨_, hsra⟩,
      ⟨_, hmin⟩, ⟨_, hmax⟩, ⟨_, hsel⟩, ⟨_, hmov⟩, ⟨_, hclz⟩, ⟨_, hpop⟩, ⟨_, haddr⟩, fun _ h => nomatch h⟩

/-- Settles O2: each instruction of R199 retires with a result, and the remainder is what the truncated quotient leaves. -/
theorem scalarDivision : Obligations.ScalarDivision := scalarDivide

end Sys2Proof.Machine
end

section
/-! PROOFS. Scalar loads and stores, special registers, control registers, counters and clocks (R131, R152, R205 to R214). -/
namespace Sys2Proof.Machine

/-! ## Loads and stores (R205) -/

/-- An access that is not naturally aligned fails the first of the access checks, ALIGN at its own address. -/
theorem accessFx_misaligned {s : State} {acc : LaneAcc} (k : AccKind) (h : acc.va % acc.w ≠ 0) :
    accessFx s [acc] k = some (accFx .align 0 acc.lane acc.va (k = .write)) := by
  have hmis : misaligned s acc = some (acc.va, 0) := if_pos h
  simp only [accessFx, accessChecks, alignErr, List.findSome?_cons, hmis, Option.map_some, firstFx]

/-! A check of an access followed by one that raises f under a condition. -/

theorem firstFx_of_some {x : Option Fx} {f : Fx} (l : List (Option Fx)) (hx : x = some f) : firstFx (x :: l) = some f := by
  rw [hx]; rfl

section
variable {x : Option Fx} {f : Fx} {c : Prop} [Decidable c]

theorem firstFx_of_not (hx : x = none) (hc : ¬c) : firstFx [x, if c then some f else none] = none := by
  rw [hx, if_neg hc]; rfl

theorem firstFx_of_cond (hx : x = none) (hc : c) : firstFx [x, if c then some f else none] = some f := by
  rw [hx, if_pos hc]; rfl

end

section
variable {op : Nat} {nx : NX} {s t : State} {early fault access : Option Fx}

/-- An instruction of a group that accesses memory and passes its checks has its effect. -/
theorem retire_accessed (hop : classOf op = .groups) (hgroup : isStream s = false) (hearly : early = none) (hfault : fault = none)
    (haccess : access = none) (hnx : nxFault nx 4 t = none) :
    retire op nx { early := early, fault := fault, access := access, done := t } s = .next (after nx 4 t) :=
  retire_next (by rw [classOk_groups hop, hgroup]; rfl) hearly (fun h => nomatch h) rfl hfault hnx haccess rfl

/-- An access check that fails, after those of the instruction and of its NX, raises its fault. -/
theorem retire_accessRaises {f : Fx} (hop : classOf op = .groups) (hgroup : isStream s = false) (hearly : early = none) (hfault : fault = none)
    (haccess : access = some f) (hnx : nxFault nx 4 t = none) (hpage : f.cause ≠ .page) :
    retire op nx { early := early, fault := fault, access := access, done := t } s = .next (raise s f) := by
  have hraise : takeFault s f = raise s f := if_neg hpage
  exact hraise ▸ retire_access (by rw [classOk_groups hop, hgroup]; rfl) hearly (fun h => nomatch h) rfl hfault hnx haccess

end

theorem scalarMemory : Claims.ScalarMemory := by
  intro nx d a i s hgroup ha hd va acc s1 v s2
  have hreg : range (sOk a.toNat) = none := range_sOk ha
  have hsel : range (d.toNat ≤ 66) = none := range_eq_none.mpr (decide_eq_true hd)
  refine ⟨fun hacc hv hnx => ?load, fun hacc hnx => ?store, fun hva hnxLoad hnxStore => ?misaligned, fun hdest hv hacc hnx => ?badValue⟩
  case load => exact retire_accessed rfl hgroup hreg hsel (firstFx_of_not hacc fun ⟨hdest, hbad⟩ => hbad (hv hdest)) hnx
  case store => exact retire_accessed rfl hgroup hreg hsel hacc hnx
  case misaligned =>
    exact ⟨retire_accessRaises rfl hgroup hreg hsel (firstFx_of_some _ (accessFx_misaligned .read hva)) hnxLoad (fun h => nomatch h),
      retire_accessRaises rfl hgroup hreg hsel (accessFx_misaligned .write hva) hnxStore (fun h => nomatch h)⟩
  case badValue => exact retire_accessRaises rfl hgroup hreg hsel (firstFx_of_cond hacc ⟨hdest, hv⟩) hnx (fun h => nomatch h)

/-- Settles O3: the checks of an access stand in their order, ALIGN first, and past them SLD and SST have the effect that R205 states. -/
theorem scalarLoadsAndStores : Obligations.ScalarLoadsAndStores := scalarMemory

/-! ## Special registers (R206 to R208) -/

theorem ctxTime_eq {s : State} {c : Ctx} (hc : aget s.ctxs s.gang.ctx = some c) : ctxTime s = c.ctxtime := by
  rw [ctxTime, hc]; rfl

/-- Selectors 0x010 to 0x01F name the format registers. -/
theorem srdValue_fmt (s : State) {n : Nat} (hn : n < 16) : srdValue s (0x010 + n) = some ((s.crew.f.get n).setWidth 64) := by
  interval_cases n <;> rfl

theorem srdValue_other (s : State) {n : Nat} (h : n = 0 ∨ 0x00A < n ∧ n < 0x010 ∨ 0x022 < n) : srdValue s n = none := by
  have hfmt : ¬(0x010 ≤ n ∧ n ≤ 0x01F) := by omega
  unfold srdValue
  split
  iterate 13 · omega
  · exact if_neg hfmt

theorem swrSel_iff {n : Nat} : swrSel n = true ↔ 0x010 ≤ n ∧ n ≤ 0x022 := by
  simp only [swrSel, Bool.or_eq_true, Bool.and_eq_true, decide_eq_true_eq]
  omega

theorem targetFx_aligned {v : BitVec 64} (h : v.toNat % 4 = 0) : targetFx v = none := if_pos h

section
variable {nx : NX} {d : BitVec 7} {i : BitVec 15} {s : State}

theorem execSrd_some {v : BitVec 64} (hready : groupReady nx s) (hd : d.toNat < 64) (hv : srdValue s i.toNat = some v) :
    exec (.srd nx d i) s = .next (after nx 4 (sput s d.toNat v)) := by
  change execSrd nx d i s = _
  rw [execSrd, hv]
  exact retire_sput rfl hready (range_sOk hd) rfl _ _

theorem execSrd_none (hgroup : isStream s = false) (hd : d.toNat < 64) (hv : srdValue s i.toNat = none) :
    exec (.srd nx d i) s = .next (raise s (fx .illegalOp)) := by
  change execSrd nx d i s = _
  rw [execSrd, hv]
  exact retire_refused rfl hgroup (range_sOk hd) rfl (fun h => nomatch h)

/-- An SWR of a value that its register can hold writes it. -/
theorem execSwr_writes {t : State} (hgroup : isStream s = false) (hd : d.toNat < 64) (hsel : 0x010 ≤ i.toNat ∧ i.toNat ≤ 0x022)
    (htarget : (if i.toNat = 0x020 ∨ i.toNat = 0x022 then targetFx (sget s d.toNat) else none) = none)
    (ht : swrPut s i.toNat (sget s d.toNat) = t) (hnx : nxFault nx 4 t = none) : exec (.swr nx d i) s = .next (after nx 4 t) := by
  subst ht
  exact retire_effect rfl hgroup (range_sOk hd) (by rw [range_eq_none.mpr (swrSel_iff.mpr hsel), htarget]; rfl) hnx

end

theorem specialRegisters : Claims.SpecialRegisters := by
  intro nx d i s hgroup hd D read write other
  refine ⟨fun hnx => ?reads, fun h => execSrd_none hgroup hd (srdValue_other s h), fun n hn hi hnx => ?format, fun hi hD hnx => ?ls,
    fun hi hnx => ?lc, fun hi hD hnx => ?lk, fun hi hD => ?misaligned, fun hi => ?refused⟩
  case reads =>
    have hread : ∀ n : BitVec 15, i = n → ∀ {v}, srdValue s n.toNat = some v → read v := by
      rintro _ rfl _ hv
      exact execSrd_some ⟨hgroup, hnx⟩ hd hv
    exact ⟨fun h => hread 0x001 h rfl, fun h => hread 0x002 h rfl, fun h => hread 0x003 h rfl, fun h => hread 0x004 h rfl,
      fun h => hread 0x005 h rfl, fun h => hread 0x006 h rfl, fun h => hread 0x007 h rfl, fun h => hread 0x008 h rfl,
      fun h => hread 0x009 h rfl, fun c h hc => hread 0x00A h (congrArg some (ctxTime_eq hc)),
      fun n hn h => execSrd_some ⟨hgroup, hnx⟩ hd (h ▸ srdValue_fmt s hn),
      fun h => hread 0x020 h rfl, fun h => hread 0x021 h rfl, fun h => hread 0x022 h rfl⟩
  case format =>
    have hput : swrPut s i.toNat D = { s with crew := { s.crew with f := s.crew.f.put n (D.setWidth 32) } } := by
      rw [swrPut, if_neg (by omega), if_neg (by omega), if_neg (by omega), hi, Nat.add_sub_cancel_left]; rfl
    exact execSwr_writes hgroup hd (by omega) (if_neg (by omega)) hput hnx
  case ls =>
    subst hi
    have hput : setLs s D = { s with split := { s.split with ls := D } } := if_neg (by rw [hgroup]; decide)
    exact execSwr_writes hgroup hd (by decide) (targetFx_aligned hD) hput hnx
  case lc =>
    subst hi
    have hput : setLc s D = { s with split := { s.split with lc := D } } := if_neg (by rw [hgroup]; decide)
    exact execSwr_writes hgroup hd (by decide) rfl hput hnx
  case lk =>
    subst hi
    exact execSwr_writes hgroup hd (by decide) (targetFx_aligned hD) rfl hnx
  case misaligned =>
    have hn : i.toNat = 0x020 ∨ i.toNat = 0x022 := hi.imp (congrArg BitVec.toNat) (congrArg BitVec.toNat)
    have htarget : (if i.toNat = 0x020 ∨ i.toNat = 0x022 then targetFx D else none) = some ⟨.align, 10, 0xFF, D.toNat, false, 0⟩ :=
      (if_pos hn).trans (if_neg hD)
    exact retire_refused rfl hgroup (range_sOk hd) (by rw [range_eq_none.mpr (swrSel_iff.mpr (by omega)), htarget]; rfl) (fun h => nomatch h)
  case refused =>
    have hsel : range (swrSel i.toNat) = some (fx .illegalOp) := if_neg fun h => by have := swrSel_iff.mp h; omega
    exact retire_refused rfl hgroup (range_sOk hd) (by rw [hsel]; rfl) (fun h => nomatch h)

theorem sadvReads : Claims.SadvReads := by
  refine fun s => ⟨fun hnone => ?_, fun e i x hsib hentry => ?_⟩
  · rw [sadvOf, hnone]; rfl
  · rw [sadvOf, hsib]
    dsimp only
    rw [hentry]; rfl

/-- Settles O4: a selector names its register in both tables, or none, and SWR checks the targets that it writes. -/
theorem specialRegisterAccess : Obligations.SpecialRegisterAccess := ⟨specialRegisters, sadvReads⟩

/-! ## Control registers, counters and clocks (R210 to R214) -/

theorem devid_eq : devid = BitVec.ofNat 64 (0x07 + 2 ^ 8 * (if Config.lmod then 1 else 0) + 2 ^ 12 * Config.step.toNat) := by
  unfold devid
  generalize Config.step.toNat = n
  cases Config.lmod <;> simp [Nat.mul_comm]

theorem shapeOf_eq (p : Packet) : shapeOf p = BitVec.ofNat 64 (16 * p.regs + 2 ^ 8 * p.crew + 2 ^ 13 * p.gang + 2 ^ 17 * p.prio +
    2 ^ 20 * p.accs + 2 ^ 23 * p.slots + 2 ^ 28 * p.spad + 2 ^ 37 * p.spawn) := by
  rw [shapeOf]
  congr 1
  ring

theorem partn_eq {s : State} {c : Ctx} (hc : aget s.ctxs s.gang.ctx = some c) : partn s = BitVec.ofNat 64
    (3 * c.part + 2 ^ 8 * (if c.psize = 0 then 3 else if c.psize = 1 then 6 else if c.psize = 2 then 12 else 24)) := by
  rw [partn, hc]
  dsimp only
  rw [Nat.mul_comm (partClusters c.psize), partClusters]

theorem csrValue_other (s : State) {n : Nat} (h : 8 < n ∧ n ≠ 0x10) : csrValue s n = none := by
  unfold csrValue
  dsimp only
  split
  iterate 10 · omega
  · rfl

theorem cntOk_iff {n : Nat} : cntOk n = true ↔ n < 6 ∨ 0x10 ≤ n ∧ n < 0x18 ∨ 0x20 ≤ n ∧ n < 0x24 := by
  simp only [cntOk, Bool.or_eq_true, Bool.and_eq_true, decide_eq_true_eq]
  omega

theorem nxFault_setCore (nx : NX) (len : Nat) (s : State) (c : Nat) (x : Core) : nxFault nx len (setCore s c x) = nxFault nx len s :=
  nxFault_congr rfl rfl rfl rfl rfl rfl

section
variable {nx : NX} {d : BitVec 7} {i : BitVec 15} {s : State}

theorem execCsrr_some {v : BitVec 64} (hready : groupReady nx s) (hd : d.toNat < 64) (hv : csrValue s i.toNat = some v) :
    exec (.csrr nx d i) s = .next (after nx 4 (sput s d.toNat v)) := by
  change execCsrr nx d i s = _
  rw [execCsrr, hv]
  exact retire_sput rfl hready (range_sOk hd) rfl _ _

theorem execCsrr_none (hgroup : isStream s = false) (hd : d.toNat < 64) (hv : csrValue s i.toNat = none) :
    exec (.csrr nx d i) s = .next (raise s (fx .illegalOp)) := by
  change execCsrr nx d i s = _
  rw [execCsrr, hv]
  exact retire_refused rfl hgroup (range_sOk hd) rfl (fun h => nomatch h)

/-- CLK of the clocks 0, 1 and 2. -/
theorem execClk_eq (hready : groupReady nx s) (hd : d.toNat < 64) (hi : i.toNat ≤ 2) : exec (.clk nx d i) s = .next (after nx 4 (sput s d.toNat
    (if i.toNat = 0 then BitVec.ofNat 64 (coreCycles s s.crew.core) else if i.toNat = 1 then s.clock else ctxTime s))) :=
  retire_sput rfl hready (range_sOk hd) (range_eq_none.mpr (decide_eq_true hi)) _ _

end

theorem countersAndClocks : Claims.CountersAndClocks := by
  intro nx d i s hready hd D p n stat read csr illegal
  have hgroup := hready.1
  have hreg : range (sOk d.toNat) = none := range_sOk hd
  have hcsr : ∀ m v, n = m → csrValue s m = some (BitVec.ofNat 64 v) → csr v := fun m v hm hv =>
    execCsrr_some hready hd ((congrArg (csrValue s) hm).trans hv)
  have hrefused : ∀ {ok : Bool}, ok = false → range ok = some (fx .illegalOp) := fun h => by rw [h]; rfl
  refine ⟨fun hn => hcsr 0 _ hn (congrArg some devid_eq), fun hn => hcsr 1 _ hn rfl, fun hn => hcsr 2 _ hn rfl, fun hn => hcsr 3 _ hn rfl,
    fun hn => hcsr 4 _ hn (congrArg some (shapeOf_eq p)), fun hn => hcsr 5 _ hn rfl, fun c hn hc => hcsr 6 _ hn (congrArg some (partn_eq hc)),
    fun hn => hcsr 7 _ hn rfl, fun hn => hcsr 8 _ hn (congrArg (some <| BitVec.ofNat 64 ·) (bitsOf_lowest _ _)),
    fun hn => execCsrr_some hready hd (congrArg (csrValue s) hn), fun hn => execCsrr_none hgroup hd (csrValue_other s hn), fun hn => ?mark,
    fun hn => ?noMark, fun hn => ?counter, fun hn => ?noCounter, fun hn => ?cycles, fun hn => ?clock, fun c hn hc => ?ctxtime, fun hn => ?noClock,
    ?seed⟩
  case mark =>
    exact retire_effect rfl hgroup hreg (range_eq_none.mpr (decide_eq_true hn)) ((nxFault_congr rfl rfl rfl rfl rfl rfl).trans hready.2)
  case noMark => exact retire_refused rfl hgroup hreg (hrefused (decide_eq_false hn)) (fun h => nomatch h)
  case counter => exact retire_sput rfl hready hreg (range_eq_none.mpr (cntOk_iff.mpr hn)) _ _
  case noCounter => exact retire_refused rfl hgroup hreg (hrefused (Bool.eq_false_iff.mpr fun h => hn (cntOk_iff.mp h))) (fun h => nomatch h)
  case cycles => exact (execClk_eq hready hd (by omega)).trans (by rw [if_pos hn])
  case clock => exact (execClk_eq hready hd (by omega)).trans (by rw [if_neg (by omega), if_pos hn])
  case ctxtime => exact (execClk_eq hready hd (by omega)).trans (by rw [if_neg (by omega), if_neg (by omega), ctxTime_eq hc])
  case noClock => exact retire_refused rfl hgroup hreg (hrefused (decide_eq_false (by omega))) (fun h => nomatch h)
  case seed => exact retire_effect rfl hgroup hreg rfl ((nxFault_setCore nx 4 s _ _).trans hready.2)

/-- Settles O5: each number names its register, counter or clock, and a number that names none is refused before anything is written. -/
theorem controlRegistersAndClocks : Obligations.ControlRegistersAndClocks := countersAndClocks

end Sys2Proof.Machine
end

section
/-! PROOFS. Instructions that write registers only: what they and their faults leave as it was (R165, R171, R199 to R243). -/
namespace Sys2Proof.Machine

/-! ## What faults and NX leave beside the stored bytes (R38, R161, R171) -/

/-- The queues and guard slots of the crew, and the tokens, handles and MARK of the group: beside what `State.held` holds, what no fault and no NX
writes. -/
def State.aside (s : State) : List (Nat × Queue) × List (Nat × Bool) × List (Nat × Tok) × Store 17 × BitVec 64 :=
  (s.crew.queues, s.crew.guards, s.grp.t, s.grp.h, s.grp.mark)

theorem aside_congr {s t : State} (hcrew : t.crew = s.crew) (hgrp : t.grp = s.grp) : t.aside = s.aside := by
  rw [State.aside, hcrew, hgrp]; rfl

theorem setStrm_aside (s : State) (f : Stream → Stream) : (setStrm s f).aside = s.aside := rfl
theorem setSplit_aside (s : State) (f : Split → Split) : (setSplit s f).aside = s.aside := rfl

theorem setHold_aside (s : State) (h : Hold) : (setHold s h).aside = s.aside := by
  unfold setHold
  split <;> rfl

theorem setPc_aside (s : State) (v : BitVec 64) : (setPc s v).aside = s.aside := by
  unfold setPc
  split <;> rfl

theorem setLc_aside (s : State) (v : BitVec 64) : (setLc s v).aside = s.aside := by
  unfold setLc
  split <;> rfl

theorem setArmed_aside (s : State) (a : Option Armed) : (setArmed s a).aside = s.aside := by
  unfold setArmed
  split <;> rfl

theorem clearGuard_aside (s : State) : (clearGuard s).aside = s.aside := by
  unfold clearGuard
  split <;> rfl

theorem raise_aside (s : State) (f : Fx) : (raise s f).aside = s.aside := by
  have hrec : ∀ n g c r, (pushRec (noteEcc s f n) g c r).freshen.aside = s.aside := fun n g c r => by
    obtain ⟨_, hcrew, hgrp, _⟩ := pushRec_issuer (noteEcc s f n) g c r
    obtain ⟨x, l, m, hnote⟩ := noteEcc_eq s f n
    exact (aside_congr hcrew hgrp).trans (by rw [hnote]; rfl)
  unfold raise raiseNow
  dsimp only
  split
  · rfl
  · split
    · exact (setStrm_aside _ _).trans (hrec _ _ _ _)
    · exact (setSplit_aside _ _).trans (hrec _ _ _ _)

theorem suspend_aside (s : State) (f : Fx) : (suspend s f).aside = s.aside := by
  obtain ⟨_, hcrew, hgrp, _⟩ := pageHeld_issuer s f
  unfold suspend
  dsimp only
  split
  · rfl
  · exact (setHold_aside _ _).trans (aside_congr hcrew hgrp)

theorem takeFault_aside (s : State) (f : Fx) : (takeFault s f).aside = s.aside := by
  unfold takeFault
  split
  · exact suspend_aside s f
  · exact raise_aside s f

theorem endSplit_aside (s : State) : (endSplit s).aside = s.aside := by
  have h := endThreads_apartBars s.crew (threadsOf s.grp s.split.mask)
  simp only [Crew.apartBars, Crew.mk.injEq] at h
  simp only [endSplit, State.aside, h]

theorem xferGroup_aside (s : State) (a : Armed) (len : Nat) : (xferGroup s a len).aside = s.aside := by
  have hleaves : ∀ m : BitVec 32, (s.grp.without m).t = s.grp.t ∧ (s.grp.without m).h = s.grp.h ∧ (s.grp.without m).mark = s.grp.mark := fun m => by
    unfold Group.without
    split <;> exact ⟨rfl, rfl, rfl⟩
  have hbump : ∀ (u : State) (c ix n : Nat), (bump u c ix n).aside = u.aside := fun _ _ _ _ => rfl
  simp only [xferGroup, apply_ite State.aside, hbump, ite_self]
  split <;> simp only [State.aside, hleaves]

theorem updGroup_aside (s : State) (k : Nat) (f : Group → Group) (h : ∀ g, (f g).t = g.t ∧ (f g).h = g.h ∧ (f g).mark = g.mark) :
    (updGroup s k f).aside = s.aside := by
  obtain ⟨ht, hh, hmark⟩ := h s.grp
  unfold updGroup
  split
  · simp only [State.aside, ht, hh, hmark]
  · split <;> rfl

theorem updBat_aside (s : State) (w : Who) (f : Batches → Batches) : (updBat s w f).aside = s.aside := by
  unfold updBat
  split
  · rfl
  · exact updGroup_aside s _ _ fun _ => ⟨rfl, rfl, rfl⟩

theorem streamEnd_aside (s : State) : (streamEnd s).aside = s.aside := by
  unfold streamEnd
  dsimp only
  split
  · rfl
  · exact (setStrm_aside _ _).trans (updBat_aside s _ _)

theorem nxApply_aside (nx : NX) (len : Nat) (s : State) : (nxApply nx len s).aside = s.aside := by
  have hpc : ∀ v, (setPc (setHold s .none) v).aside = s.aside := fun v => (setPc_aside _ v).trans (setHold_aside s _)
  unfold nxApply
  dsimp only
  split
  · exact hpc _
  · split
    · exact hpc _
    · exact (setPc_aside _ _).trans ((setLc_aside _ _).trans (setHold_aside s _))
  · split
    · exact setHold_aside s _
    · split
      · exact (setArmed_aside _ _).trans (hpc _)
      · exact (xferGroup_aside _ _ _).trans (setHold_aside s _)
  · split
    · exact (streamEnd_aside _).trans (setHold_aside s _)
    · exact (endSplit_aside _).trans (setHold_aside s _)

theorem after_aside (nx : NX) (len : Nat) (s : State) : (after nx len s).aside = s.aside :=
  (clearGuard_aside _).trans (nxApply_aside nx len s)

/-! ## Frames of register instructions -/

/-- What an instruction that writes registers only leaves as it was: what the bytes are read from, the units of the crew, the host registers, and the
group's MODE, tokens, handles and MARK. -/
def State.fixed (s : State) : State :=
  { s.held with
    crew := { s.held.crew with queues := s.crew.queues, guards := s.crew.guards },
    grp := { Group.zero with mode := s.grp.mode, t := s.grp.t, h := s.grp.h, mark := s.grp.mark } }

theorem fixed_of_held {s t : State} (hheld : t.held = s.held) (haside : t.aside = s.aside) : t.fixed = s.fixed := by
  obtain ⟨_, _, _, hmode, _⟩ := registers_of_held hheld
  simp only [State.aside, Prod.mk.injEq] at haside
  obtain ⟨hqueues, hguards, ht, hh, hmark⟩ := haside
  simp only [State.fixed, hheld, hqueues, hguards, hmode, ht, hh, hmark]

theorem locGet_fixed (s : State) (l : Loc) : locGet s.fixed l = locGet s l := by
  cases l with
  | phys key kid bnd => rfl
  | spad c o => by_cases h : c = s.crew.no <;> simp [locGet, crewOf, State.fixed, State.held, h]

theorem kept_of_fixed {s t : State} (h : t.fixed = s.fixed) : bytesSame s t ∧ unitsSame s t ∧ t.grp.mode = s.grp.mode ∧ t.grp.t = s.grp.t ∧
    t.grp.h = s.grp.h ∧ t.grp.mark = s.grp.mark :=
  ⟨fun l => by rw [← locGet_fixed t, h, locGet_fixed],
    ⟨(congrArg (·.crew.tiles) h :), (congrArg (·.crew.slots) h :), (congrArg (·.crew.f) h :), (congrArg (·.crew.queues) h :),
      (congrArg (·.crew.guards) h :), (congrArg (·.regs) h :)⟩,
    (congrArg (·.grp.mode) h :), (congrArg (·.grp.t) h :), (congrArg (·.grp.h) h :), (congrArg (·.grp.mark) h :)⟩

/-- Of v, k and s registers, those of s in which only sD may be another. -/
def sFrame (s : State) (d : Nat) (v k : Store 32) (x : Store 64) : Prop :=
  v = s.grp.v ∧ k = s.grp.k ∧ ∀ r, r ≠ d → x.get r = sget s r

/-- Those in which only predicate D in the lanes of L may be another. -/
def kFrame (s : State) (d : Nat) (v k : Store 32) (x : Store 64) : Prop :=
  v = s.grp.v ∧ x = s.grp.s ∧ ∀ r p, p < 32 → (p ∉ active s ∨ r ≠ d) → (k.get r).getLsbD p = kget s r p

/-- Those in which only the n registers from vD in the lanes of L may be others. -/
def vFrame (s : State) (d n : Nat) (v k : Store 32) (x : Store 64) : Prop :=
  k = s.grp.k ∧ x = s.grp.s ∧ ∀ r p, p < 32 → (p ∉ active s ∨ r < d ∨ d + n ≤ r) → v.get (32 * r + p) = vget s r p

/-- A state that differs from s in registers alone, and in those only as R allows. -/
def Framed (s : State) (R : Store 32 → Store 32 → Store 64 → Prop) (t : State) : Prop :=
  t.fixed = s.fixed ∧ R t.grp.v t.grp.k t.grp.s

section
variable {s t u : State} {R : Store 32 → Store 32 → Store 64 → Prop}

theorem Framed.of_held (h : Framed s R t) (hheld : u.held = t.held) (haside : u.aside = t.aside) : Framed s R u := by
  obtain ⟨hfixed, hregs⟩ := h
  obtain ⟨hv, hk, hs, _⟩ := registers_of_held hheld
  exact ⟨(fixed_of_held hheld haside).trans hfixed, by rw [hv, hk, hs]; exact hregs⟩

/-- An instruction of a group that waits for nothing takes a fault, which writes no register, or has the effect of its plan, and then its NX. -/
theorem retire_framed {op : Nat} {nx : NX} {p : Plan} (hgroup : isStream s = false) (hstall : p.stall = false) (hwait : p.wait = none)
    (hpost : p.post = id) (hself : R s.grp.v s.grp.k s.grp.s) (hdone : p.fault = none → Framed s R p.done)
    (h : retire op nx p s = .next t) : Framed s R t := by
  have hfault : ∀ f, retire op nx p s = .next (takeFault s f) → Framed s R t := fun f hf => by
    obtain rfl := Host.Outcome.next.inj (hf.symm.trans h)
    exact Framed.of_held ⟨rfl, hself⟩ (takeFault_held s f) (takeFault_aside s f)
  cases hclass : classOk op s with
  | false => exact hfault (fx .illegalContext) (by rw [retire_class hclass, takeFault_fx s _ (by decide)])
  | true =>
    cases hearly : p.early with
    | some f => exact hfault f (retire_early hclass hearly)
    | none =>
      have hadmits : p.admits s := fun _ hs => absurd hs (by rw [hgroup]; decide)
      cases hcheck : p.fault with
      | some f => exact hfault f (retire_fault hclass hearly hadmits hstall hcheck)
      | none =>
        cases hnx : nxFault nx p.len p.done with
        | some f => exact hfault f (retire_nxFault hclass hearly hadmits hstall hcheck hnx)
        | none =>
          cases haccess : p.access with
          | some f => exact hfault f (retire_access hclass hearly hadmits hstall hcheck hnx haccess)
          | none =>
            have hnext := retire_next hclass hearly hadmits hstall hcheck hnx haccess hwait
            rw [hpost] at hnext
            obtain rfl := Host.Outcome.next.inj (hnext.symm.trans h)
            exact (hdone hcheck).of_held (after_held nx p.len p.done) (after_aside nx p.len p.done)

/-! ## Effects within their frame -/

theorem sFrame_self (s : State) (d : Nat) : sFrame s d s.grp.v s.grp.k s.grp.s := ⟨rfl, rfl, fun _ _ => rfl⟩
theorem kFrame_self (s : State) (d : Nat) : kFrame s d s.grp.v s.grp.k s.grp.s := ⟨rfl, rfl, fun _ _ _ _ => rfl⟩
theorem vFrame_self (s : State) (d n : Nat) : vFrame s d n s.grp.v s.grp.k s.grp.s := ⟨rfl, rfl, fun _ _ _ _ => rfl⟩

theorem sput_framed (s : State) (d : Nat) (v : BitVec 64) : Framed s (sFrame s d) (sput s d v) :=
  ⟨rfl, rfl, rfl, fun r hr => (sget_sput s d r v).trans (if_neg hr)⟩

theorem setPred_framed (s : State) (d : Nat) (f : Nat → Bool) : Framed s (kFrame s d) (setPred s d f) := by
  obtain ⟨ks, hks, hholds⟩ := setPred_holds s d f
  rw [hks]
  exact ⟨rfl, rfl, rfl, fun r p hp hout => (hholds r p hp).trans (if_neg fun ⟨hmem, hr⟩ => hout.elim (· hmem) (· hr))⟩

section
variable {d n p r : Nat}

theorem Framed.vput (h : Framed s (vFrame s d n) u) (hp : p ∈ active s) (hd : d ≤ r) (hn : r < d + n) (x : BitVec 32) :
    Framed s (vFrame s d n) (vput u r p x) := by
  obtain ⟨hfixed, hk, hs, hv⟩ := h
  refine ⟨hfixed, hk, hs, fun q j hj hout => ?_⟩
  have hp32 : p < 32 := active_lt hp
  have hapart : 32 * q + j ≠ 32 * r + p := fun heq => by
    have hq : q = r := by omega
    have hjp : j = p := by omega
    subst hq hjp
    exact hout.elim (· hp) (by omega)
  exact ((vget_vput u r p q j x).trans (if_neg hapart)).trans (hv q j hj hout)

theorem Framed.vopPut {k : Nat} (h : Framed s (vFrame s d (tyRegs k)) u) (hp : p ∈ active s) (x : Nat) :
    Framed s (vFrame s d (tyRegs k)) (vopPut k d p x u) := by
  unfold Machine.vopPut
  split
  next hpair =>
    subst hpair
    exact (h.vput hp le_rfl (Nat.lt_add_of_pos_right two_pos) _).vput hp (Nat.le_succ d) (Nat.lt_succ_self _) _
  next hone => exact h.vput hp le_rfl (by rw [tyRegs, if_neg hone]; omega) _

end

/-- An effect in each lane of L stays within a frame when each lane's does. -/
theorem forLanes_framed {g : Nat → State → State} (hself : R s.grp.v s.grp.k s.grp.s)
    (hg : ∀ p ∈ active s, ∀ u, Framed s R u → Framed s R (g p u)) : Framed s R (forLanes s (active s) g) :=
  List.foldlRecOn (active s) _ (motive := Framed s R) ⟨rfl, hself⟩ fun u hu p hp => hg p hp u hu

theorem rawLanes_framed (s : State) (d : Nat) (f : Nat → BitVec 32) : Framed s (vFrame s d 1) (rawLanes s d f) :=
  forLanes_framed (vFrame_self s d 1) fun _ hp _ hu => hu.vput hp le_rfl (Nat.lt_succ_self d) _

theorem operandLanes_framed (s : State) (k d : Nat) (f : Nat → Nat) :
    Framed s (vFrame s d (tyRegs k)) (forLanes s (active s) (fun p => vopPut k d p (f p))) :=
  forLanes_framed (vFrame_self s d _) fun _ hp _ hu => hu.vopPut hp _

/-- A pair of registers written in a lane of L. -/
theorem Framed.vputPair {d p : Nat} (h : Framed s (vFrame s d 2) u) (hp : p ∈ active s) (x y : BitVec 32) :
    Framed s (vFrame s d 2) (Machine.vput (Machine.vput u d p x) (d + 1) p y) :=
  (h.vput hp le_rfl (by omega) x).vput hp (Nat.le_succ d) (Nat.lt_succ_self _) y

/-- The generator's advance is apart from every register (R106). -/
theorem Framed.advance (h : Framed s R u) : Framed s R (advance u) := by
  unfold Machine.advance
  split <;> exact h

end

/-- A full group's positions are lanes of L (R240). -/
theorem mem_active_of_fullGroups {s : State} {j q : Nat} (hj : j ∈ fullGroups s) (hq : q ∈ List.range 8) : 8 * j + q ∈ active s := by
  have hall := (List.mem_filter.mp hj).2
  rw [List.all_eq_true] at hall
  exact List.contains_iff_mem.mp (hall q hq)

/-- A typed vector instruction that raises nothing accepts the type in force (R217). -/
theorem accept_of_vecPlan {s done : State} {accept : Nat → Bool} {ok : Bool} {extra : Option Fx} (h : (vecPlan s accept ok extra done).fault = none) :
    accept (ty s) = true :=
  check_eq_none.mp (firstFx_eq_none h _ (List.mem_cons_of_mem _ List.mem_cons_self))

section
variable {op : Nat} {nx : NX} {s t done : State} {early fault : Option Fx} {d n : Nat} (hgroup : isStream s = false)
include hgroup

theorem retire_sput_framed {v : BitVec 64} (h : retire op nx { early := early, fault := fault, done := sput s d v } s = .next t) :
    Framed s (sFrame s d) t :=
  retire_framed hgroup rfl rfl rfl (sFrame_self s d) (fun _ => sput_framed s d v) h

theorem retire_setPred_framed {f : Nat → Bool} (h : retire op nx { early := early, fault := fault, done := setPred s d f } s = .next t) :
    Framed s (kFrame s d) t :=
  retire_framed hgroup rfl rfl rfl (kFrame_self s d) (fun _ => setPred_framed s d f) h

theorem retire_vector_framed (hdone : Framed s (vFrame s d n) done)
    (h : retire op nx { early := early, fault := fault, done := done } s = .next t) : Framed s (vFrame s d n) t :=
  retire_framed hgroup rfl rfl rfl (vFrame_self s d n) (fun _ => hdone) h

/-- An instruction that refuses F64 writes one register, though its operand under F64 would take the pair. -/
theorem retire_narrow_framed {accept : Nat → Bool} {ok : Bool} {extra : Option Fx} (hpair : accept 11 = false)
    (hdone : Framed s (vFrame s d (tyRegs (ty s))) done) (h : retire op nx (vecPlan s accept ok extra done) s = .next t) :
    Framed s (vFrame s d 1) t := by
  refine retire_framed hgroup rfl rfl rfl (vFrame_self s d 1) (fun hfault => ?_) h
  have hty : ty s ≠ 11 := fun h11 => by
    have haccept := accept_of_vecPlan hfault
    rw [h11, hpair] at haccept
    cases haccept
  rwa [tyRegs, if_neg hty] at hdone

end

/-- A pair of registers written in each lane of L. -/
theorem pairLanes_framed (s : State) (d : Nat) (f g : Nat → BitVec 32) :
    Framed s (vFrame s d 2) (forLanes s (active s) (fun p u => vput (vput u d p (f p)) (d + 1) p (g p))) :=
  forLanes_framed (vFrame_self s d 2) fun _ hp _ hu => hu.vputPair hp _ _

/-- A pair of registers written at each position of the full groups. -/
theorem fullGroups_framed (s : State) (d : Nat) (f g : Nat → Nat → BitVec 32) :
    Framed s (vFrame s d 2) ((fullGroups s).foldl (fun u j => (List.range 8).foldl (fun u q =>
      vput (vput u d (8 * j + q) (f j q)) (d + 1) (8 * j + q) (g j q)) u) s) :=
  List.foldlRecOn (fullGroups s) _ (motive := Framed s (vFrame s d 2)) ⟨rfl, vFrame_self s d 2⟩ fun _ hu _ hj =>
    List.foldlRecOn (List.range 8) _ (motive := Framed s (vFrame s d 2)) hu fun _ hw _ hq => hw.vputPair (mem_active_of_fullGroups hj hq) _ _

theorem vdot2_framed (s : State) (d a b : Nat) (x : BitVec 1) (sgn : Bool) : Framed s (vFrame s d 1)
    (if isF (ty s) then dot2Flt s d a b x else dotLanes s d a b x sgn (· * ·)) := by
  split <;> exact rawLanes_framed s d _

/-- GETMODE of a group writes an s register (R198). -/
theorem execGetmode_group (nx : NX) (d : BitVec 7) {s : State} (hgroup : isStream s = false) : exec (.getmode nx d) s =
    retire 0x0C nx { early := range (iOk s d.toNat), done := sput s d.toNat ((modeOf s).setWidth 64) } s := by
  have hput : iput s d.toNat ((modeOf s).setWidth 64) = sput s d.toNat ((modeOf s).setWidth 64) := if_neg (by rw [hgroup]; decide)
  change execGetmode nx d s = _
  rw [execGetmode, hput]

theorem registerFrame : Claims.RegisterFrame := by
  intro nx d a b k3 c3 x y i8 i15 c c5 lo w s t hgroup kept vOnly
  have within : ∀ {R}, Framed s R t → kept ∧ R t.grp.v t.grp.k t.grp.s := fun ⟨hfixed, hregs⟩ => ⟨kept_of_fixed hfixed, hregs⟩
  have lanes : ∀ {op early fault done n}, Framed s (vFrame s d.toNat n) done →
      retire op nx { early := early, fault := fault, done := done } s = .next t → vOnly n :=
    fun hdone h => within (retire_vector_framed hgroup hdone h)
  have raw : ∀ {op early fault f}, retire op nx { early := early, fault := fault, done := rawLanes s d.toNat f } s = .next t → vOnly 1 :=
    lanes (rawLanes_framed s _ _)
  have typed : ∀ {op early fault} {f : Nat → Nat},
      retire op nx { early := early, fault := fault, done := forLanes s (active s) (fun p => vopPut (ty s) d.toNat p (f p)) } s = .next t →
        vOnly (tyRegs (ty s)) :=
    lanes (operandLanes_framed s _ _ _)
  refine ⟨?scalars, ?compares, ?predicates, ?typed, ?raw, ?pairs⟩
  case scalars =>
    have scalar : ∀ {op early fault v}, retire op nx { early := early, fault := fault, done := sput s d.toNat v } s = .next t →
        kept ∧ sFrame s d.toNat t.grp.v t.grp.k t.grp.s := fun h => within (retire_sput_framed hgroup h)
    have getmode : exec (.getmode nx d) s = .next t → kept ∧ sFrame s d.toNat t.grp.v t.grp.k t.grp.s := by
      rw [execGetmode_group nx d hgroup]
      exact scalar
    iterate 32 refine List.forall_mem_cons.mpr ⟨scalar, ?_⟩
    refine List.forall_mem_cons.mpr ⟨getmode, ?_⟩
    iterate 6 refine List.forall_mem_cons.mpr ⟨scalar, ?_⟩
    exact List.forall_mem_nil _
  case compares =>
    have compare : ∀ {op early fault f}, retire op nx { early := early, fault := fault, done := setPred s k3.toNat f } s = .next t →
        kept ∧ kFrame s k3.toNat t.grp.v t.grp.k t.grp.s := fun h => within (retire_setPred_framed hgroup h)
    iterate 2 refine List.forall_mem_cons.mpr ⟨compare, ?_⟩
    exact List.forall_mem_nil _
  case predicates =>
    have predicate : ∀ {op early fault f}, retire op nx { early := early, fault := fault, done := setPred s d.toNat f } s = .next t →
        kept ∧ kFrame s d.toNat t.grp.v t.grp.k t.grp.s := fun h => within (retire_setPred_framed hgroup h)
    iterate 6 refine List.forall_mem_cons.mpr ⟨predicate, ?_⟩
    exact List.forall_mem_nil _
  case typed =>
    iterate 24 refine List.forall_mem_cons.mpr ⟨typed, ?_⟩
    exact List.forall_mem_cons.mpr ⟨lanes (operandLanes_framed s _ _ _).advance, List.forall_mem_nil _⟩
  case raw =>
    have narrow : ∀ {op accept ok extra done}, accept 11 = false → Framed s (vFrame s d.toNat (tyRegs (ty s))) done →
        retire op nx (vecPlan s accept ok extra done) s = .next t → vOnly 1 :=
      fun hpair hdone h => within (retire_narrow_framed hgroup hpair hdone h)
    iterate 8 refine List.forall_mem_cons.mpr ⟨raw, ?_⟩
    refine List.forall_mem_cons.mpr ⟨lanes (vdot2_framed s _ _ _ _ _), List.forall_mem_cons.mpr ⟨raw, ?_⟩⟩
    refine List.forall_mem_cons.mpr ⟨narrow rfl (operandLanes_framed s _ _ _), ?_⟩
    iterate 2 refine List.forall_mem_cons.mpr ⟨narrow rfl (operandLanes_framed s _ _ _).advance, ?_⟩
    iterate 8 refine List.forall_mem_cons.mpr ⟨raw, ?_⟩
    exact List.forall_mem_nil _
  case pairs =>
    exact List.forall_mem_cons.mpr ⟨lanes (pairLanes_framed s _ _ _),
      List.forall_mem_cons.mpr ⟨lanes (fullGroups_framed s _ _ _), List.forall_mem_nil _⟩⟩

/-- Settles O22: no fault and no NX writes what `Framed` holds, and each instruction's effect stays within the frame of its destination. -/
theorem registerFormsFrame : Obligations.RegisterFormsFrame := registerFrame

end Sys2Proof.Machine
end

section
/-! PROOFS. Vector instructions: their checks, and what the lanes hold when they retire (R88, R160, R171, R216, R217). -/
namespace Sys2Proof.Machine

/-! ## Checks of registers and types (R90, R95, R160, R217) -/

theorem vRun_iff {s : State} {r n : Nat} : vRun s r n = true ↔ r + n ≤ regsOf s := decide_eq_true_iff

theorem kOk_iff {r : Nat} : kOk r = true ↔ r < 8 := decide_eq_true_iff

/-- A B operand of 32 bits in range (R158, R223). -/
theorem rawOk_of {s : State} {x : BitVec 1} {b : Nat} (h : if x = 0 then b < regsOf s else b < 64) : rawOk s x b = true := by
  unfold rawOk
  split at h
  · rw [if_pos ‹_›, vRun_iff]; exact h
  · rw [if_neg ‹_›, sOk_iff]; exact h

/-- Under a type of one register a v operand need only be in range. -/
theorem vOk_of_single {s : State} {t r : Nat} (ht : t ≠ 11) (hr : r < regsOf s) : vOk s t r = true := by
  rw [vOk, Bool.and_eq_true, vRun_iff, tyRegs, if_neg ht, Bool.or_eq_true]
  exact ⟨hr, .inl (decide_eq_true ht)⟩

/-- A type that is no Q type needs no format register (R217). -/
theorem qCheck_of_notQ (s : State) {t : Nat} (h : isQ t = false) : qCheck s t = none := by rw [qCheck, h]; rfl

/-- The integer and float types exist and are no Q types. -/
theorem accIF_bounds {t : Nat} (h : accIF t = true) : t ≤ 13 ∧ isQ t = false := by
  simp only [accIF, isI, isF, isQ, Bool.or_eq_true, Bool.or_eq_false_iff, decide_eq_true_eq, decide_eq_false_iff_not] at *
  omega

theorem accIF_of_isI {t : Nat} (h : isI t = true) : accIF t = true := by rw [accIF, h]; rfl

theorem check_eq_some {ok : Bool} {c : Cause} : check ok c = some (fx c) ↔ ok = false := by cases ok <;> simp [check]

/-- A typed instruction that accepts its type, with a format where it needs one, has no check left but its own (R217). -/
theorem vecPlan_fault {s : State} {accept : Nat → Bool} (haccept : accept (ty s) = true) (hq : qCheck s (ty s) = none) (ok : Bool)
    (extra : Option Fx) (done : State) : (vecPlan s accept ok extra done).fault = extra := by
  simp only [vecPlan, haccept, hq, if_true, check]
  cases extra <;> rfl

/-! ## Instructions that write lanes of v registers -/

/-- A result of 32 bits written in each lane of L. -/
theorem rawLanes_ofNat (s : State) (d : Nat) (g : Nat → Nat) :
    ∃ v, rawLanes s d (fun p => BitVec.ofNat 32 (g p)) = withV s v ∧ LanesHold s d 1 g v := by
  obtain ⟨v, hv, hholds⟩ := rawLanes_holds s d (fun p => BitVec.ofNat 32 (g p))
  refine ⟨v, hv, fun r p hp => ?_⟩
  rw [hholds r p hp]
  refine ite_congr rfl (fun ⟨_, hle, hlt⟩ => ?_) fun _ => rfl
  obtain rfl : r = d := by omega
  rw [Nat.sub_self, Nat.mul_zero, pow_zero, Nat.div_one, Nat.div_one, BitVec.ofNat_toNat, BitVec.setWidth_eq]

section
variable {op : Nat} {nx : NX} {s done : State} {early fault extra : Option Fx} {d n : Nat} {g : Nat → Nat}
variable (hop : classOf op = .groups) (hready : groupReady nx s)
include hop hready

/-- With its checks passed, an instruction whose effect writes lanes of v registers retires with it. -/
theorem retire_lanes (hearly : early = none) (hfault : fault = none) (hdone : ∃ v, done = withV s v ∧ LanesHold s d n g v) :
    ∃ v, retire op nx { early := early, fault := fault, done := done } s = .next (after nx 4 (withV s v)) ∧ LanesHold s d n g v := by
  obtain ⟨v, rfl, hholds⟩ := hdone
  exact ⟨v, retire_effect hop hready.1 hearly hfault ((nxFault_withV nx 4 s v).trans hready.2), hholds⟩

variable {accept : Nat → Bool} {ok : Bool} (ht : ty s ≤ 13) (hok : ok = true) (haccept : accept (ty s) = true) (hq : qCheck s (ty s) = none)

include ht hok haccept hq

theorem retire_vecPlan_withV (hextra : extra = none) {v : Store 32} (hdone : done = withV s v) :
    retire op nx (vecPlan s accept ok extra done) s = .next (after nx 4 (withV s v)) := by
  subst hdone
  exact retire_effect hop hready.1 (typeAndRange_ok ht hok) ((vecPlan_fault haccept hq ok extra (withV s v)).trans hextra)
    ((nxFault_withV nx 4 s v).trans hready.2)

theorem retire_vecPlan (hextra : extra = none) (hdone : ∃ v, done = withV s v ∧ LanesHold s d n g v) :
    ∃ v, retire op nx (vecPlan s accept ok extra done) s = .next (after nx 4 (withV s v)) ∧ LanesHold s d n g v := by
  obtain ⟨v, hv, hholds⟩ := hdone
  exact ⟨v, retire_vecPlan_withV hop hready ht hok haccept hq hextra hv, hholds⟩

/-- An instruction's own check raises its fault once the others have passed. -/
theorem retire_vecPlan_refused {f : Fx} (hextra : extra = some f) (hpage : f.cause ≠ .page) :
    retire op nx (vecPlan s accept ok extra done) s = .next (raise s f) :=
  retire_refused hop hready.1 (typeAndRange_ok ht hok) ((vecPlan_fault haccept hq ok extra done).trans hextra) hpage

end

/-! ## Element by element (R216) -/

section
variable {op : Nat} {nx : NX} {d a b : BitVec 7} {x : BitVec 1} {s : State} {accept : Nat → Bool}
variable (hop : classOf op = .groups) (hready : groupReady nx s) (ht : ty s ≤ 13) (haccept : accept (ty s) = true) (hq : qCheck s (ty s) = none)
  (hd : vOk s (ty s) d.toNat = true) (ha : vOk s (ty s) a.toNat = true)
include hop hready ht haccept hq hd ha

theorem vec1_holds (f : State → Nat → Nat) : ∃ v, vec1 op nx d a accept f s = .next (after nx 4 (withV s v)) ∧
    LanesHold s d.toNat (tyRegs (ty s)) (fun p => pack (ty s) ((elems (ty s) (vop s (ty s) a.toNat p)).map (f s))) v :=
  retire_vecPlan hop hready ht (by rw [hd, ha]; rfl) haccept hq rfl (lanes_vopPut s _ _ _)

variable (hb : bOk s (ty s) x b.toNat = true)
include hb

theorem vec2_holds (f : State → Nat → Nat → Nat → Nat) : ∃ v, vec2 op nx d a b x accept f s = .next (after nx 4 (withV s v)) ∧
    LanesHold s d.toNat (tyRegs (ty s)) (fun p => pack (ty s) (map3 (f s) (elems (ty s) (vop s (ty s) a.toNat p))
      (elems (ty s) (bop s (ty s) x b.toNat p)) (elems (ty s) (vop s (ty s) d.toNat p)))) v :=
  retire_vecPlan hop hready ht (by rw [hd, ha, hb]; rfl) haccept hq rfl (lanes_vopPut s _ _ _)

end

theorem elems_length (t x : Nat) : (elems t x).length = tyCount t := by rw [elems, List.length_map, List.length_range]

theorem map3_singleton (f : Nat → Nat → Nat → Nat) (u v w : Nat) : map3 f [u] [v] [w] = [f u v w] := rfl

/-- A function of two elements applied past a third list that is long enough. -/
theorem map3_eq_zipWith {f : Nat → Nat → Nat → Nat} {g : Nat → Nat → Nat} (hfg : ∀ u v w, f u v w = g u v) :
    ∀ {as bs cs : List Nat}, as.length ≤ cs.length → map3 f as bs cs = List.zipWith g as bs
  | [], _, _, _ => rfl
  | _ :: _, [], _, _ => rfl
  | u :: as, v :: bs, w :: cs, h => by
    rw [map3, List.zipWith_cons_cons, hfg, map3_eq_zipWith hfg (Nat.le_of_succ_le_succ h)]

theorem map3_elems {f : Nat → Nat → Nat → Nat} {g : Nat → Nat → Nat} (hfg : ∀ u v w, f u v w = g u v) (t x y z : Nat) :
    map3 f (elems t x) (elems t y) (elems t z) = List.zipWith g (elems t x) (elems t y) :=
  map3_eq_zipWith hfg (by rw [elems_length, elems_length])

end Sys2Proof.Machine
end

section
/-! PROOFS. Vector arithmetic (R218, R220). -/
namespace Sys2Proof.Machine

theorem vectorArithmetic : Claims.VectorArithmetic := by
  intro nx d a b x s hready haccept hd ha hb t z put
  obtain ⟨ht, hnotQ⟩ := accIF_bounds haccept
  have hput : ∀ {op} f, classOf op = .groups → _ := fun f hop => vec2_holds (op := _) hop hready ht haccept (qCheck_of_notQ s hnotQ) hd ha hb f
  exact ⟨hput opAdd rfl, hput opSub rfl, hput opMul rfl, hput opMad rfl, hput opMsb rfl, hput opMin rfl, hput opMax rfl⟩

/-! ## Elements of 32 bits (R88, R91) -/

/-- S32 and N32, under which a register is one element. -/
theorem wordType {s : State} (ht : ty s ≤ 1) : tyCount (ty s) = 1 ∧ tyWidth (ty s) = 32 ∧ tyRegs (ty s) = 1 ∧ ty s ≠ 11 ∧
    tyFmt s (ty s) = .int (tySigned (ty s)) 32 ∧ accIF (ty s) = true := by
  obtain h | h : ty s = 0 ∨ ty s = 1 := by omega
  · rw [h]; exact ⟨rfl, rfl, rfl, by decide, rfl, rfl⟩
  · rw [h]; exact ⟨rfl, rfl, rfl, by decide, rfl, rfl⟩

theorem ofInt_intOf_word (sg : Bool) (x : BitVec 32) : BitVec.ofInt 32 (intOf (.int sg 32) x.toNat) = x := by
  cases sg with
  | false => rw [intOf, Nat.mod_eq_of_lt x.isLt, BitVec.ofInt_natCast, BitVec.ofNat_toNat, BitVec.setWidth_eq]
  | true => rw [intOf, signExt_toNat, BitVec.ofInt_toInt]

theorem ofNat_wrapNat (w : Nat) (r : Int) : BitVec.ofNat w (wrapNat w r) = BitVec.ofInt w r := by
  apply BitVec.eq_of_toNat_eq
  rw [BitVec.toNat_ofInt, BitVec.toNat_ofNat, wrapNat, Nat.mod_eq_of_lt]
  · norm_cast
  · have := Int.emod_lt_of_pos r (b := 2 ^ w) (by positivity)
    zify
    omega

/-- Under S32 and N32 without saturation, an operation on integers is its operation modulo 2^32. -/
theorem arith_word {s : State} (ht : ty s ≤ 1) (hsat : satOf s.grp.mode = false) {fi : Int → Int → Int → Int} {fv : Val → Val → Val → Val}
    {F : BitVec 32 → BitVec 32 → BitVec 32} (hF : ∀ u v w, BitVec.ofInt 32 (fi u v w) = F (BitVec.ofInt 32 u) (BitVec.ofInt 32 v))
    (x y z : BitVec 32) :
    BitVec.ofNat 32 (pack (ty s) (map3 (arith s fi fv) (elems (ty s) x.toNat) (elems (ty s) y.toNat) (elems (ty s) z.toNat))) = F x y := by
  obtain ⟨hcount, hwidth, -, -, hfmt, -⟩ := wordType ht
  have helems : ∀ u : BitVec 32, elems (ty s) u.toNat = [u.toNat] := fun u => by
    simp [elems, hcount, hwidth, Nat.mod_eq_of_lt u.isLt]
  have hpack : ∀ e, BitVec.ofNat 32 (pack (ty s) [e]) = BitVec.ofNat 32 e := fun e => by
    rw [pack, packN, packN, hwidth, Nat.mul_zero, Nat.add_zero, ← BitVec.toNat_ofNat, BitVec.ofNat_toNat, BitVec.setWidth_eq]
  have hres : ∀ r, intRes s (.int (tySigned (ty s)) 32) r = wrapNat 32 r := fun r => by rw [intRes, hsat, if_neg Bool.false_ne_true]
  rw [helems, helems, helems, map3_singleton, hpack, arith, hfmt]
  dsimp only
  rw [hres, ofNat_wrapNat, hF, ofInt_intOf_word, ofInt_intOf_word]

theorem vectorWraps : Claims.VectorWraps := by
  intro nx d a b s hready ht hsat hd ha hb put
  obtain ⟨-, -, hregs, hsingle, -, haccept⟩ := wordType ht
  have hvop : ∀ r p, vop s (ty s) r p = (vget s r p).toNat := fun r p => if_neg hsingle
  have hb0 : ∀ p, bop s (ty s) 0 b.toNat p = (vget s b.toNat p).toNat := fun p => hvop _ p
  have hput : ∀ {i fi fv F}, (∀ u v w, BitVec.ofInt 32 (fi u v w) = F (BitVec.ofInt 32 u) (BitVec.ofInt 32 v)) →
      (∃ v, exec i s = .next (after nx 4 (withV s v)) ∧ LanesHold s d.toNat (tyRegs (ty s)) (fun p => pack (ty s) (map3 (arith s fi fv)
        (elems (ty s) (vop s (ty s) a.toNat p)) (elems (ty s) (bop s (ty s) 0 b.toNat p)) (elems (ty s) (vop s (ty s) d.toNat p)))) v) →
      put i F := by
    rintro _ _ _ _ hF ⟨v, hexec, hholds⟩
    refine ⟨withV s v, hexec, fun r p hp => (hholds r p hp).trans ?_⟩
    by_cases hr : r = d.toNat
    · subst hr
      simp only [hregs, le_refl, Nat.lt_succ_self, and_true, true_and, Nat.sub_self, Nat.mul_zero, pow_zero, Nat.div_one, hvop, hb0,
        arith_word ht hsat hF]
    · rw [if_neg (by omega), if_neg fun h => hr h.1]
  have hofSub : ∀ u v : Int, BitVec.ofInt 32 (u - v) = BitVec.ofInt 32 u - BitVec.ofInt 32 v := fun u v => by
    rw [sub_eq_add_neg, BitVec.ofInt_add, BitVec.ofInt_neg, BitVec.sub_eq_add_neg]
  have hrun : ∀ {r}, r < regsOf s → vOk s (ty s) r = true := vOk_of_single hsingle
  obtain ⟨hadd, hsub, hmul, -⟩ := vectorArithmetic nx d a b 0 s hready haccept (hrun hd) (hrun ha) (hrun hb)
  exact ⟨hput (fun u v _ => BitVec.ofInt_add u v) hadd, hput (fun u v _ => hofSub u v) hsub, hput (fun u v _ => BitVec.ofInt_mul u v) hmul⟩

/-- Settles O10: each instruction retires with its operation on the elements, and on elements of 32 bits the wrapped one is modulo 2^32. -/
theorem vectorArithmeticResults : Obligations.VectorArithmeticResults := ⟨vectorArithmetic, vectorWraps⟩

end Sys2Proof.Machine
end

section
/-! PROOFS. Vector operations of one operand, shifts and counts, compares and selects (R220 to R222, R227). -/
namespace Sys2Proof.Machine

theorem vectorUnaryAndShifts : Claims.VectorUnaryAndShifts := by
  intro nx d a b x s hready hd ha t w put1 put2
  have one : ∀ {op} {accept : Nat → Bool} (f : State → Nat → Nat), classOf op = .groups → accIF t = true → accept t = true →
      ∃ v, vec1 op nx d a accept f s = .next (after nx 4 (withV s v)) ∧
        LanesHold s d.toNat (tyRegs t) (fun p => pack t ((elems t (vop s t a.toNat p)).map (f s))) v := fun f hop hIF haccept =>
    vec1_holds hop hready (accIF_bounds hIF).1 haccept (qCheck_of_notQ s (accIF_bounds hIF).2) hd ha f
  refine ⟨fun hIF => ⟨one opAbs rfl hIF hIF, one opNeg rfl hIF hIF⟩, fun hI => ?_⟩
  have hIF := accIF_of_isI hI
  refine ⟨one (fun s e => clzN (tyWidth (ty s)) e) rfl hIF hI, one (fun s e => popN (tyWidth (ty s)) e) rfl hIF hI, fun hb => ?_⟩
  have two : ∀ {op} (f : State → Nat → Nat → Nat → Nat) (g : Nat → Nat → Nat), (∀ u c o, f s u c o = g u c) → classOf op = .groups →
      ∃ v, vec2 op nx d a b x isI f s = .next (after nx 4 (withV s v)) ∧ LanesHold s d.toNat (tyRegs t) (fun p =>
        pack t (List.zipWith g (elems t (vop s t a.toNat p)) (elems t (bop s t x b.toNat p)))) v := fun f g hfg hop => by
    simpa only [map3_elems hfg] using vec2_holds hop hready (accIF_bounds hIF).1 hI (qCheck_of_notQ s (accIF_bounds hIF).2) hd ha hb f
  exact ⟨two opShl _ (fun _ _ _ => rfl) rfl, two opShr _ (fun _ _ _ => rfl) rfl, two opSra _ (fun _ _ _ => rfl) rfl⟩

/-- The conditions that VCMP knows: unordered is none of integers (R221). -/
theorem vcmpCheck_iff {c : Nat} {isFlt : Bool} : (c ≠ 7 && (c ≠ 6 || isFlt)) = true ↔ c ≠ 7 ∧ (c = 6 → isFlt = true) := by
  rw [Bool.and_eq_true, Bool.or_eq_true, decide_eq_true_iff, decide_eq_true_iff]
  exact and_congr_right fun _ => ⟨fun h h6 => h.resolve_left (absurd h6), fun h => or_iff_not_imp_left.mpr fun h6 => h (not_not.mp h6)⟩

/-- The outcomes of the elements of a lane, any or all of them (R221). -/
theorem vcmpLane_eq (s : State) (c a b : Nat) (x y : BitVec 1) (p : Nat) :
    vcmpLane s c (y = 1) a b x p =
      let o := ((elems (ty s) (vop s (ty s) a p)).zip (elems (ty s) (bop s (ty s) x b p))).map (fun e =>
        holds c (ordElem (ftzOf s.grp.mode) (tyFmt s (ty s)) e.1 e.2))
      if y = 1 then o.any id else o.all id := by
  simp only [vcmpLane, decide_eq_true_iff]

theorem vectorCompareSelect : Claims.VectorCompareSelect := by
  intro nx c k y x d a b s hready ha hb t o
  have hregs : (vOk s t a.toNat && bOk s t x b.toNat) = true := by rw [ha, hb]; rfl
  refine ⟨fun hIF hc => ?compares, fun hIF hc => ?refuses, fun ht hq hd => ?selects⟩
  case compares =>
    obtain ⟨ht, hnotQ⟩ := accIF_bounds hIF
    have hknown : (c.toNat ≠ 7 && (c.toNat ≠ 6 || isF t)) = true := vcmpCheck_iff.mpr ⟨by omega, fun h6 => (hc.resolve_left (by omega)).2⟩
    obtain ⟨ks, hexec, hholds⟩ := retire_setPred (op := 0x40) rfl hready (typeAndRange_ok ht hregs)
      ((vecPlan_fault hIF (qCheck_of_notQ s hnotQ) true _ s).trans (check_eq_none.mpr hknown)) k.toNat (vcmpLane s c.toNat (y = 1) a.toNat b.toNat x)
    exact ⟨ks, hexec, fun r p hp => (hholds r p hp).trans (by rw [vcmpLane_eq])⟩
  case refuses =>
    obtain ⟨ht, hnotQ⟩ := accIF_bounds hIF
    have hunknown : (c.toNat ≠ 7 && (c.toNat ≠ 6 || isF t)) = false := Bool.eq_false_iff.mpr fun h => by
      obtain ⟨h7, h6⟩ := vcmpCheck_iff.mp h
      exact hc.elim h7 fun ⟨hc6, hint⟩ => Bool.false_ne_true (hint.symm.trans (h6 hc6))
    exact retire_vecPlan_refused rfl hready ht hregs hIF (qCheck_of_notQ s hnotQ) (check_eq_some.mpr hunknown) (fun h => nomatch h)
  case selects => exact vec2_holds rfl hready ht (decide_eq_true ht) hq hd ha hb (fun s a b d => clean s (ty s) (if clean s (ty s) d ≠ 0 then a else b))

/-- Settles O11: each instruction retires with its function of the elements, and VCMP of a condition that it does not know with ILLEGAL_OP. -/
theorem vectorUnaryCompareSelect : Obligations.VectorUnaryCompareSelect := ⟨vectorUnaryAndShifts, vectorCompareSelect⟩

end Sys2Proof.Machine
end

section
/-! PROOFS. Vector logic, moves, broadcasts and predicates (R223 to R225, R243). -/
namespace Sys2Proof.Machine

/-! ## Checks of several registers (R160) -/

theorem range_and {p q : Bool} (hp : p = true) (hq : q = true) : range (p && q) = none := by rw [hp, hq]; rfl

theorem range_and₃ {p q r : Bool} (hp : p = true) (hq : q = true) (hr : r = true) : range (p && q && r) = none := by rw [hp, hq, hr]; rfl

/-! ## Logic, moves, constants and lane identity (R223 to R225) -/

theorem laneValue_cases (s : State) (p : Nat) :
    laneValue s 0 p = BitVec.ofNat 32 (((aget s.grp.lanes p).map (fun t => t.lane)).getD p) ∧
      laneValue s 1 p = BitVec.ofNat 32 p ∧ laneValue s 2 p = BitVec.ofNat 32 (4 * p) := ⟨rfl, rfl, rfl⟩

theorem vectorLogicAndMoves : Claims.VectorLogicAndMoves := by
  intro nx d a b x i s hready hd put B
  have raw : ∀ {op early fault} (f : Nat → BitVec 32), classOf op = .groups → early = none → fault = none →
      ∃ v, retire op nx { early := early, fault := fault, done := rawLanes s d.toNat f } s = .next (after nx 4 (withV s v)) ∧
        LanesHold s d.toNat 1 (fun p => (f p).toNat) v := fun f hop hearly hfault => retire_lanes hop hready hearly hfault (rawLanes_holds s _ f)
  have hrun : ∀ {r}, r < regsOf s → vRun s r 1 = true := fun hr => vRun_iff.mpr hr
  have lane : ∀ {n : Nat} (f : Nat → BitVec 32), a.toNat = n → n ≤ 2 → (∀ p, laneValue s n p = f p) → put (.vlane nx d a) f := by
    rintro _ f rfl hle hf
    obtain rfl : laneValue s a.toNat = f := funext hf
    exact raw (laneValue s a.toNat) rfl (range_eq_none.mpr (hrun hd)) (check_eq_none.mpr (decide_eq_true hle))
  refine ⟨fun ha => ⟨fun hb => ?binary, ?not, ?mov⟩, fun hb => ?movS, ?li, fun h => lane _ h (by decide) fun p => (laneValue_cases s p).1,
    fun h => lane _ h (by decide) fun p => (laneValue_cases s p).2.1, fun h => lane _ h (by decide) fun p => (laneValue_cases s p).2.2, fun h => ?refused,
    fun ha => ?fromPredicate⟩
  case binary =>
    have hregs := range_and₃ (hrun hd) (hrun ha) (rawOk_of hb)
    exact ⟨raw _ rfl hregs rfl, raw _ rfl hregs rfl, raw _ rfl hregs rfl, raw _ rfl hregs rfl⟩
  case not => exact raw _ rfl (range_and (hrun hd) (hrun ha)) rfl
  case mov => exact raw _ rfl (range_and (hrun hd) (hrun ha)) rfl
  case movS => exact raw _ rfl (range_and (hrun hd) (sOk_iff.mpr hb)) rfl
  case li =>
    have himm : BitVec.ofInt 32 (signExt i.toNat 15) = i.signExtend 32 := by rw [signExt_toNat]; rfl
    exact himm ▸ raw (fun _ => BitVec.ofInt 32 (signExt i.toNat 15)) rfl (range_eq_none.mpr (hrun hd)) rfl
  case refused => exact retire_refused rfl hready.1 (range_eq_none.mpr (hrun hd)) (check_of_not (Nat.not_le.mpr h)) (fun h => nomatch h)
  case fromPredicate => exact raw _ rfl (range_and (hrun hd) (kOk_iff.mpr ha)) rfl

theorem vectorBroadcast : Claims.VectorBroadcast := by
  intro nx d a b q s hready hd ha
  have hrun : vRun s a.toNat 1 = true := vRun_iff.mpr ha
  exact ⟨retire_sput rfl hready (range_and (sOk_iff.mpr hd) hrun) rfl _ _,
    fun hb => retire_sput rfl hready (range_and₃ (sOk_iff.mpr hd) hrun (sOk_iff.mpr hb)) rfl _ _⟩

/-! ## Predicates (R243) -/

/-- The lanes of L stand in ascending order. -/
theorem active_sorted (s : State) : (active s).Pairwise (· < ·) := (List.pairwise_lt_range.filter _).filter _

/-- The sum of the powers of two of ascending numbers has their bits. -/
theorem testBit_sum_two_pow {l : List Nat} (hl : l.Pairwise (· < ·)) (i : Nat) :
    (l.foldl (fun m p => m + 2 ^ p) 0).testBit i = decide (i ∈ l) := by
  rw [← List.foldl_map (g := (· + ·)), ← List.sum_eq_foldl, Bool.eq_iff_iff, decide_eq_true_iff, ← Nat.mem_bitIndices,
    Nat.bitIndices_sum_map_two_pow hl.sortedLT]

theorem predicates : Claims.Predicates := by
  intro nx d a b x s hready put A B n sw
  have hcount : ((active s).filter A).length = n := List.countP_eq_length_filter.symm
  have pred : ∀ {op early} (f : Nat → Bool), classOf op = .groups → early = none →
      ∃ ks, retire op nx { early := early, done := setPred s d.toNat f } s = .next (after nx 4 (withK s ks)) ∧ PredHolds s d.toNat f ks :=
    fun f hop hearly => retire_setPred hop hready hearly rfl _ f
  refine ⟨fun hd ha hb => ?binary, fun hd ha => ?unary, fun hd ha => pred _ rfl (range_and (kOk_iff.mpr hd) (vRun_iff.mpr ha)), fun hd ha => ?scalars⟩
  case binary =>
    have hB : ∀ p, (kget s b.toNat p != decide (x = 1)) = B p := fun p => by
      by_cases hx : x = 1
      · exact (congrArg _ (decide_eq_true hx)).trans ((Bool.bne_true _).trans (if_pos hx).symm)
      · exact (congrArg _ (decide_eq_false hx)).trans ((Bool.bne_false _).trans (if_neg hx).symm)
    have two : ∀ {op} (f : Bool → Bool → Bool), classOf op = .groups →
        ∃ ks, pred2 op nx d a b x f s = .next (after nx 4 (withK s ks)) ∧ PredHolds s d.toNat (fun p => f (A p) (B p)) ks := fun f hop => by
      have hf : (fun p => f (kget s a.toNat p) (kget s b.toNat p != decide (x = 1))) = fun p => f (A p) (B p) :=
        funext fun p => congrArg (f (A p)) (hB p)
      exact hf ▸ pred _ hop (range_and₃ (kOk_iff.mpr hd) (kOk_iff.mpr ha) (kOk_iff.mpr hb))
    exact ⟨two (· && ·) rfl, two (· || ·) rfl, two (· != ·) rfl⟩
  case unary =>
    have hregs := range_and (kOk_iff.mpr hd) (kOk_iff.mpr ha)
    exact ⟨pred _ rfl hregs, pred _ rfl hregs⟩
  case scalars =>
    have word : ∀ {op} (f : List Nat → Nat), classOf op = .groups →
        predScalar op nx d a f s = .next (after nx 4 (sput s d.toNat (BitVec.ofNat 64 (f ((active s).filter A))))) := fun f hop =>
      retire_sput hop hready (range_and (sOk_iff.mpr hd) (kOk_iff.mpr ha)) rfl _ _
    have hany : (if (active s).filter A = [] then 0 else 1) = if n = 0 then 0 else 1 :=
      if_congr (by rw [← List.length_eq_zero_iff, hcount]) rfl rfl
    refine ⟨(word (fun l => if l = [] then 0 else 1) rfl).trans ?_, (word (fun l => if l.length = (active s).length then 1 else 0) rfl).trans ?_,
      (word List.length rfl).trans (by rw [hcount]), _, word (fun l => l.foldl (fun m p => m + 2 ^ p) 0) rfl, fun p hp => ?_⟩
    · rw [hany, apply_ite (BitVec.ofNat 64)]; rfl
    · rw [hcount, apply_ite (BitVec.ofNat 64)]; rfl
    · rw [BitVec.getLsbD_ofNat, testBit_sum_two_pow ((active_sorted s).filter _), decide_eq_true hp]
      simp only [List.mem_filter, Bool.true_and, Bool.decide_and, Bool.decide_eq_true]

/-- Settles O12: each instruction retires with its words of 32 bits, its predicate or its count, and VLANE of another selector with ILLEGAL_OP. -/
theorem vectorLogicMovesPredicates : Obligations.VectorLogicMovesPredicates := ⟨vectorLogicAndMoves, vectorBroadcast, predicates⟩

end Sys2Proof.Machine
end

section
/-! PROOFS. Dot products and counts of packed elements (R226, R241, R242). -/
namespace Sys2Proof.Machine

/-! ## Dot products (R226) -/

/-- An instruction that gives one result of 32 bits for each lane of L under an integer or float type. -/
theorem retire_result32 {op : Nat} {nx : NX} {s : State} {accept : Nat → Bool} {ok : Bool} {extra : Option Fx} {d : Nat}
    (hop : classOf op = .groups) (hready : groupReady nx s) (hIF : accIF (ty s) = true) (hok : ok = true) (haccept : accept (ty s) = true)
    (hextra : extra = none) (g : Nat → Nat) :
    ∃ v, retire op nx (vecPlan s accept ok extra (rawLanes s d (fun p => BitVec.ofNat 32 (g p)))) s = .next (after nx 4 (withV s v)) ∧
      LanesHold s d 1 g v :=
  retire_vecPlan hop hready (accIF_bounds hIF).1 hok haccept (qCheck_of_notQ s (accIF_bounds hIF).2) hextra (rawLanes_ofNat s _ g)

/-- The first element of an ascending list that meets a condition. -/
theorem find?_eq_some_of_first {l : List Nat} {q : Nat → Bool} {p : Nat} (hl : l.Pairwise (· < ·)) (hp : p ∈ l) (hq : q p = true)
    (hbefore : ∀ r ∈ l, r < p → q r = false) : l.find? q = some p := by
  induction l with
  | nil => cases hp
  | cons r l ih =>
    obtain ⟨hr, hl⟩ := List.pairwise_cons.mp hl
    obtain rfl | hp := List.mem_cons.mp hp
    · exact List.find?_cons_of_pos hq
    · rw [List.find?_cons_of_neg (by rw [hbefore r List.mem_cons_self (hr p hp)]; decide)]
      exact ih hl hp fun q hmem => hbefore q (List.mem_cons_of_mem r hmem)

theorem vectorDots : Claims.VectorDots := by
  intro nx d a b x s hready hd ha hb t f sg put pairs acc prod
  have hrun : ∀ {r}, r < regsOf s → vRun s r 1 = true := fun hr => vRun_iff.mpr hr
  have hok : dotOk s d a b x = true := by rw [dotOk, hrun hd, hrun ha, rawOk_of hb]; rfl
  refine ⟨fun ht => ?packed8, fun ht => ?packed16, fun ht => ?floats, fun ht ha2 hb2 => ?sparse⟩
  case packed8 =>
    have haccept : acc8 t = true := by simpa [acc8, or_assoc] using ht
    have hIF : accIF t = true := by rcases ht with h | h | h | h <;> rw [h] <;> rfl
    exact ⟨retire_result32 rfl hready hIF hok haccept rfl _, retire_result32 rfl hready hIF hok haccept rfl _⟩
  case packed16 =>
    have hIF : accIF t = true := by rcases ht with h | h <;> rw [h] <;> rfl
    have hint : ¬isF t = true := by rcases ht with h | h <;> rw [h] <;> decide
    have haccept : (t = 2 || t = 3 || t = 7 || t = 8) = true := by rcases ht with h | h <;> rw [h] <;> rfl
    exact retire_vecPlan rfl hready (accIF_bounds hIF).1 hok haccept (qCheck_of_notQ s (accIF_bounds hIF).2) rfl
      (by rw [if_neg hint]; exact rawLanes_ofNat s _ _)
  case floats =>
    have hflt : isF t = true := by rcases ht with h | h <;> rw [h] <;> rfl
    have hIF : accIF t = true := by rw [accIF, hflt, Bool.or_true]
    have haccept : (t = 2 || t = 3 || t = 7 || t = 8) = true := by rcases ht with h | h <;> rw [h] <;> rfl
    exact retire_vecPlan rfl hready (accIF_bounds hIF).1 hok haccept (qCheck_of_notQ s (accIF_bounds hIF).2) rfl
      (by rw [if_pos hflt]; exact rawLanes_ofNat s _ _)
  case sparse =>
    have hIF : accIF t = true := by rcases ht with h | h <;> rw [h] <;> rfl
    have haccept : (t = 4 || t = 5) = true := by rcases ht with h | h <;> rw [h] <;> rfl
    have hpair : (if x = 0 then vRun s b.toNat 2 else sOk (b.toNat + 1)) = true := by
      split at hb2
      · rw [if_pos ‹_›]; exact vRun_iff.mpr hb2
      · rw [if_neg ‹_›]; exact sOk_iff.mpr hb2
    have hregs : (vRun s d.toNat 1 && vRun s a.toNat 2 && (if x = 0 then vRun s b.toNat 2 else sOk (b.toNat + 1))) = true := by
      rw [hrun hd, vRun_iff.mpr ha2, hpair]; rfl
    refine ⟨fun hkept => ?_, fun p hp hmany hbefore => ?_⟩
    · have hnone : (active s).find? (fun p => 4 < popN 8 (vget s (a.toNat + 1) p).toNat) = none :=
        List.find?_eq_none.mpr fun p hp => by rw [decide_eq_true_iff]; exact Nat.not_lt.mpr (hkept p hp)
      exact retire_result32 rfl hready hIF hregs haccept (by rw [hnone]; rfl) _
    · have hfirst : (active s).find? (fun p => 4 < popN 8 (vget s (a.toNat + 1) p).toNat) = some p :=
        find?_eq_some_of_first (active_sorted s) hp (decide_eq_true hmany) fun q hq hlt => decide_eq_false (Nat.not_lt.mpr (hbefore q hq hlt))
      exact retire_vecPlan_refused rfl hready (accIF_bounds hIF).1 hregs haccept (qCheck_of_notQ s (accIF_bounds hIF).2)
        (by rw [hfirst]; rfl) (fun h => nomatch h)

/-! ## Counts (R242) -/

theorem vectorCounts : Claims.VectorCounts := by
  intro nx d a s hready hd ha ht hq t f put
  have count : ∀ {op} {accept : Nat → Bool} (g : State → EFmt → List Nat → Nat), classOf op = .groups → accept t = true →
      ∃ v, countLanes op nx d a accept g s = .next (after nx 4 (withV s v)) ∧
        LanesHold s d.toNat 1 (fun p => g s f (elems t (vop s t a.toNat p))) v := fun g hop haccept =>
    retire_vecPlan hop hready ht (by rw [vRun_iff.mpr hd, ha]; rfl) haccept hq rfl (rawLanes_ofNat s _ _)
  have hall : accA t = true := decide_eq_true ht
  refine ⟨count (fun _ f l => (l.filter (nonzeroCode f)).length) rfl hall,
    count (fun _ f l => packN 1 (l.map (fun c => if nonzeroCode f c then 1 else 0))) rfl hall,
    fun hne => count (fun s f l => (l.map (termsOf s f)).foldl (· + ·) 0) rfl ?_⟩
  rw [decide_eq_true ht, decide_eq_true hne]; rfl

/-- Settles O13: each instruction retires with its sum or count in each lane of L, and VSPDOT of more than four kept elements with META_MALFORMED. -/
theorem vectorDotsAndCounts : Obligations.VectorDotsAndCounts := ⟨vectorDots, vectorCounts⟩

end Sys2Proof.Machine
end

section
/-! PROOFS. Transcendental functions and conversions between formats (R105, R106, R228 to R235). -/
namespace Sys2Proof.Machine

/-! ## Transcendental functions (R228, R229) -/

/-- A positive zero converts to the code 0 of every format. -/
theorem convert_posZero (ftz : Bool) (r : Rnd) (f : EFmt) : convert ftz (.zero false) r f = 0 := by
  cases f <;> simp [convert, encodeFlt]

/-- VCOS of a number that it takes to zero gives +0 (R229). -/
theorem transElem_cos_zero {s : State} {c : Nat} {e : Dy} {z : Bool} (h6 : ty s ≠ 6) (hnum : inVal s (tyFmt s (ty s)) c = .num e)
    (hzero : trans 0x4F (.num e) = .zero z) : transElem 0x4F s c = 0 := by
  rw [transElem, if_neg h6, hnum, hzero]
  exact convert_posZero (ftzOf s.grp.mode) (rndOf s.grp.mode) (tyFmt s (ty s))

theorem vectorTranscendental : Claims.VectorTranscendental := by
  intro nx d a s hready hty hd ha t f res put
  replace hty : t = 6 ∨ t = 7 ∨ t = 8 := hty
  have hsingle : t ≠ 11 := by omega
  have haccept : accT t = true := by rcases hty with h | h | h <;> rw [h] <;> rfl
  have hnotQ : isQ t = false := by rcases hty with h | h | h <;> rw [h] <;> rfl
  have hregs : tyRegs t = 1 := if_neg hsingle
  have one : ∀ {op} (k : Nat), classOf op = .groups → ∃ v, vec1 op nx d a accT (transElem k) s = .next (after nx 4 (withV s v)) ∧
      LanesHold s d.toNat 1 (fun p => pack t ((elems t (vop s t a.toNat p)).map (res k))) v := fun k hop => by
    rw [← hregs]
    exact vec1_holds hop hready (by omega) haccept (qCheck_of_notQ s hnotQ) (vOk_of_single hsingle hd) (vOk_of_single hsingle ha) (transElem k)
  refine ⟨one 0x4A rfl, one 0x4B rfl, one 0x4C rfl, one 0x4D rfl, one 0x4E rfl, one 0x4F rfl,
    fun c e z hnum h6 hzero => transElem_cos_zero h6 hnum hzero⟩

/-! ## Instructions that advance the generator (R106) -/

theorem nxFault_advance (nx : NX) (len : Nat) (s : State) : nxFault nx len (advance s) = nxFault nx len s := by
  unfold advance
  split
  · exact nxFault_congr rfl rfl rfl rfl rfl rfl
  · rfl

/-- With its checks passed, a converting instruction retires with the lanes that it writes, and advances the generator. -/
theorem retire_advancing {op : Nat} {nx : NX} {s done : State} {early fault : Option Fx} {d n : Nat} {g : Nat → Nat} (hop : classOf op = .groups)
    (hready : groupReady nx s) (hearly : early = none) (hfault : fault = none) (hdone : ∃ v, done = withV s v ∧ LanesHold s d n g v) :
    ∃ v, retire op nx { early := early, fault := fault, done := advance done } s = .next (after nx 4 (advance (withV s v))) ∧
      LanesHold s d n g v := by
  obtain ⟨v, rfl, hholds⟩ := hdone
  have hnx : nxFault nx 4 (advance (withV s v)) = none := by rw [nxFault_advance, nxFault_withV, hready.2]
  exact ⟨v, retire_effect hop hready.1 hearly hfault hnx, hholds⟩

/-! ## Two registers of a lane (R232) -/

/-- Two words of 32 bits of a lane, as the value of a pair of registers. -/
def packPair (lo hi : Nat → Nat) (p : Nat) : Nat := lo p % 2 ^ 32 + 2 ^ 32 * (hi p % 2 ^ 32)

theorem ofNat_packPair (lo hi : Nat → Nat) (p : Nat) : BitVec.ofNat 32 (packPair lo hi p) = BitVec.ofNat 32 (lo p) ∧
    BitVec.ofNat 32 (packPair lo hi p / 2 ^ 32) = BitVec.ofNat 32 (hi p) := by
  constructor <;>
  · apply BitVec.eq_of_toNat_eq
    simp only [packPair, BitVec.toNat_ofNat]
    omega

/-- An operand of 64 bits is its two registers (R89). -/
theorem vopPut_packPair (d p : Nat) (lo hi : Nat → Nat) (u : State) : vopPut 11 d p (packPair lo hi p) u =
    vput (vput u d p (BitVec.ofNat 32 (lo p))) (d + 1) p (BitVec.ofNat 32 (hi p)) := by
  obtain ⟨hlo, hhi⟩ := ofNat_packPair lo hi p
  rw [vopPut, if_pos rfl, hlo, hhi]

/-- A pair of registers written in each lane of L. -/
theorem pairLanes_holds (s : State) (d : Nat) (lo hi : Nat → Nat) :
    ∃ v, forLanes s (active s) (fun p u => vput (vput u d p (BitVec.ofNat 32 (lo p))) (d + 1) p (BitVec.ofNat 32 (hi p))) = withV s v ∧
      LanesHold s d 2 (packPair lo hi) v := by
  obtain ⟨v, hv, hholds⟩ := lanes_vopPut s 11 d (packPair lo hi)
  exact ⟨v, (congrArg (forLanes s (active s)) (funext fun p => funext fun u => (vopPut_packPair d p lo hi u).symm)).trans hv, hholds⟩

/-! ## Conversion, packing, requantisation, rounding shifts and block scales (R230 to R235) -/

/-- A format that VCVT needs is one that its hypothesis names: of two Q types, which it refuses, there is none to name. -/
theorem vcvt_formats {s : State} {ts t : Nat} (hboth : (isQ ts && isQ t) = false)
    (hq : isQ (if isQ ts then ts else t) = true → qCheck s (if isQ ts then ts else t) = none) : qCheck s ts = none ∧ qCheck s t = none := by
  cases hs : isQ ts with
  | true =>
    rw [hs, if_pos rfl] at hq
    rw [hs, Bool.true_and] at hboth
    exact ⟨hq hs, qCheck_of_notQ s hboth⟩
  | false =>
    rw [hs, if_neg Bool.false_ne_true] at hq
    refine ⟨qCheck_of_notQ s hs, ?_⟩
    cases ht : isQ t with
    | true => exact hq ht
    | false => exact qCheck_of_notQ s ht

/-- A type that is accepted where F64 is not takes one register (R89). -/
theorem tyRegs_of_refused {accept : Nat → Bool} {t : Nat} (hpair : accept 11 = false) (h : accept t = true) : tyRegs t = 1 :=
  if_neg fun h11 => Bool.false_ne_true (hpair.symm.trans (by rw [← h11, h]))

theorem vectorConversion : Claims.VectorConversion := by
  intro nx d a b x sel st s hready ht t put ts n q pk dOk aOk bOk1
  have hrun : ∀ {r}, decide (r < regsOf s) = true → vRun s r 1 = true := fun hr => vRun_iff.mpr (of_decide_eq_true hr)
  have hregs : dOk = true → aOk = true → bOk1 = true → (vRun s d.toNat 1 && vRun s a.toNat 1 && rawOk s x b.toNat) = true := by
    intro hd ha hb
    rw [hrun hd, hrun ha]; exact hb
  have typed : ∀ g : Nat → Nat, tyRegs t = 1 → ∃ v, forLanes s (active s) (fun p => vopPut t d.toNat p (g p)) = withV s v ∧
      LanesHold s d.toNat 1 g v := fun g hsingle => hsingle ▸ lanes_vopPut s t d.toNat g
  refine ⟨fun hts hboth hd ha hq hsel => ?convert, fun hpack hq hd ha => ⟨fun hb => ?pack, fun hd2 => ?unpack⟩,
    fun haccept hq hd ha hb => ?requantise, fun hI hd ha hb => ?shift, fun h6 h10 hq hd ha hb => ?scale⟩
  case convert =>
    obtain ⟨hqs, hqt⟩ := vcvt_formats hboth hq
    have hpair : (vOk s t d.toNat && vOk s ts a.toNat) = true := by rw [hd, ha]; rfl
    have hgood : (!(decide (14 ≤ ts) || (isQ ts && isQ t))) = true := by rw [hboth, decide_eq_false (by omega)]; rfl
    have hfault : firstFx [if isQ ts then qCheck s ts else none, if isQ t then qCheck s t else none,
        check (!(decide (14 ≤ ts) || (isQ ts && isQ t))) .illegalOp, check (sel.toNat * n < max (tyCount ts) (tyCount t)) .illegalOp] = none := by
      rw [hqs, hqt, ite_self, ite_self, hgood, decide_eq_true hsel]; rfl
    exact retire_advancing rfl hready (typeAndRange_ok ht hpair) hfault (lanes_vopPut s _ _ _)
  case pack =>
    exact retire_advancing rfl hready (typeAndRange_ok ht (hregs hd ha hb)) (vecPlan_fault hpack hq true none s)
      (typed _ (tyRegs_of_refused rfl hpack))
  case unpack =>
    have hpair : (vRun s d.toNat 2 && vRun s a.toNat 1) = true := by rw [vRun_iff.mpr hd2, hrun ha]; rfl
    exact retire_vecPlan rfl hready ht hpair hpack hq rfl (pairLanes_holds s _ _ _)
  case requantise =>
    have hrows : (vRun s d.toNat 1 && vRun s a.toNat (if accRq t then tyCount t else 1) && rawOk s x b.toNat) = true := by
      rw [hrun hd, if_pos haccept, vRun_iff.mpr ha]; exact hb
    exact retire_advancing rfl hready (typeAndRange_ok ht hrows) (vecPlan_fault haccept hq true none s)
      (typed _ (tyRegs_of_refused rfl haccept))
  case shift =>
    have hnotQ := (accIF_bounds (accIF_of_isI hI)).2
    obtain ⟨v, hexec, hholds⟩ := vec2_holds (op := 0x54) (nx := nx) rfl hready ht hI (qCheck_of_notQ s hnotQ) hd ha hb opRshr
    rw [tyRegs_of_refused rfl hI] at hholds
    simp only [map3_elems (f := opRshr s) (g := fun e c => opRshr s e c 0) fun _ _ _ => rfl] at hholds
    exact ⟨v, hexec, hholds⟩
  case scale =>
    have haccept : (fun t : Nat => decide (6 ≤ t) && decide (t ≤ 10)) t = true := by
      dsimp only; rw [decide_eq_true h6, decide_eq_true h10]; rfl
    exact retire_vecPlan rfl hready ht (hregs hd ha hb) haccept hq rfl (typed _ (if_neg (by omega)))

/-- Settles O14: each instruction retires with its function of the elements, and those that round stochastically advance the generator. -/
theorem vectorConversionsAndApproximations : Obligations.VectorConversionsAndApproximations := ⟨vectorTranscendental, vectorConversion⟩

end Sys2Proof.Machine
end

section
/-! PROOFS. Shuffles, reductions and scans across lanes, and pruning (R237 to R240). -/
namespace Sys2Proof.Machine

/-! ## Shuffles, reductions and scans (R237 to R239) -/

/-- The source position of each mode of VSHFLI (R237). -/
theorem shflSrc_eq (m : BitVec 3) (c l : Nat) : shflSrc m.toNat c l =
    if m = 0 then l ^^^ c else if m = 1 then (if l < c then l else l - c) else if m = 2 then (if 31 < l + c then l else l + c)
      else if m = 3 then (l + c) % 32 else c := by
  obtain ⟨⟨n, hn⟩⟩ := m
  interval_cases n <;> rfl

/-- A reduction that has the format it needs checks its operation alone (R244). -/
theorem redPlan_fault {s : State} {o : Nat} (hq : 3 ≤ o → qCheck s (ty s) = none) (d a : Nat) (done : State) :
    (redPlan s d a o done).fault = firstFx [none, check (o ≤ 5) .illegalOp, check (redAcc o (ty s)) .illegalOp] := by
  have hformat : (if 3 ≤ o then qCheck s (ty s) else none) = none := by
    split
    next h => exact hq h
    next => rfl
  rw [redPlan, hformat]

theorem vectorAcrossLanes : Claims.VectorAcrossLanes := by
  intro nx d a m c e o s hready t put src
  refine ⟨fun hd ha => ?shuffle, fun ht hd ha ho hacc hq => ?combine, fun ht hd ha ho hq => ?refused⟩
  case shuffle =>
    have hregs := range_and (vRun_iff.mpr hd : vRun s d.toNat 1 = true) (vRun_iff.mpr ha : vRun s a.toNat 1 = true)
    refine ⟨fun hm => ?_, fun hm => retire_refused rfl hready.1 hregs (check_of_not (Nat.not_le.mpr hm)) (fun h => nomatch h)⟩
    have hsrc : shflSrc m.toNat c.toNat = src := funext fun l => shflSrc_eq m c.toNat l
    exact hsrc ▸ retire_lanes rfl hready hregs (check_eq_none.mpr (decide_eq_true hm)) (rawLanes_holds s _ _)
  case combine =>
    have hregs : (vOk s t d.toNat && vOk s t a.toNat) = true := by rw [hd, ha]; rfl
    have hfault : ∀ done, (redPlan s d.toNat a.toNat o.toNat done).fault = none := fun done => by
      rw [redPlan_fault hq, decide_eq_true ho, hacc]; rfl
    exact ⟨retire_lanes rfl hready (typeAndRange_ok ht hregs) (hfault s) (lanes_vopPut s _ _ _),
      retire_lanes rfl hready (typeAndRange_ok ht hregs) (hfault s) (lanes_vopPut s _ _ _)⟩
  case refused =>
    have hregs : (vOk s t d.toNat && vOk s t a.toNat) = true := by rw [hd, ha]; rfl
    have hfault : ∀ done, (redPlan s d.toNat a.toNat o.toNat done).fault = some (fx .illegalOp) := fun done => by
      rw [redPlan_fault hq, decide_eq_false (by omega)]; rfl
    exact ⟨retire_refused rfl hready.1 (typeAndRange_ok ht hregs) (hfault s) (fun h => nomatch h),
      retire_refused rfl hready.1 (typeAndRange_ok ht hregs) (hfault s) (fun h => nomatch h)⟩

/-! ## Pruning (R240) -/

/-- Two registers written at each position of a list. -/
theorem foldl_vputPair (s : State) (d : Nat) (lo hi : Nat → Nat) (ls : List Nat) (hls : ∀ p ∈ ls, p < 32) :
    ∃ v, ls.foldl (fun u p => vput (vput u d p (BitVec.ofNat 32 (lo p))) (d + 1) p (BitVec.ofNat 32 (hi p))) s = withV s v ∧
      ∀ r p, p < 32 → v.get (32 * r + p) = if p ∈ ls ∧ r = d then BitVec.ofNat 32 (lo p)
        else if p ∈ ls ∧ r = d + 1 then BitVec.ofNat 32 (hi p) else vget s r p := by
  obtain ⟨v, hv, hheld⟩ := foldl_vopPut s 11 d (packPair lo hi) ls hls s.grp.v
  have hlo := fun p => (ofNat_packPair lo hi p).1
  have hhi := fun p => (ofNat_packPair lo hi p).2
  refine ⟨v, (congrArg (ls.foldl · s) (funext fun u => funext fun p => (vopPut_packPair d p lo hi u).symm)).trans hv, fun r p hp => ?_⟩
  rw [hheld r p hp]
  by_cases hmem : p ∈ ls
  · obtain hr | rfl | rfl | hr : r < d ∨ r = d ∨ r = d + 1 ∨ d + 2 ≤ r := by omega
    · rw [if_neg (by omega), if_neg (by omega), if_neg (by omega)]; rfl
    · rw [if_pos ⟨hmem, le_rfl, Nat.lt_add_of_pos_right two_pos⟩, if_pos ⟨hmem, rfl⟩, Nat.sub_self, Nat.mul_zero, pow_zero, Nat.div_one, hlo]
    · rw [if_pos ⟨hmem, Nat.le_succ d, Nat.lt_succ_self _⟩, if_neg (by omega), if_pos ⟨hmem, rfl⟩, Nat.add_sub_cancel_left, Nat.mul_one, hhi]
    · rw [if_neg fun h => hr.not_gt h.2.2, if_neg (by omega), if_neg (by omega)]; rfl
  · rw [if_neg (fun h => hmem h.1), if_neg (fun h => hmem h.1), if_neg (fun h => hmem h.1)]; rfl

/-- The positions of the full groups. -/
def fullPositions (s : State) : List Nat := (fullGroups s).flatMap (fun j => (List.range 8).map (8 * j + ·))

theorem mem_fullPositions {s : State} {p : Nat} : p ∈ fullPositions s ↔ p / 8 ∈ fullGroups s := by
  simp only [fullPositions, List.mem_flatMap, List.mem_map, List.mem_range]
  constructor
  · rintro ⟨j, hj, q, hq, rfl⟩
    rwa [show (8 * j + q) / 8 = j by omega]
  · exact fun h => ⟨p / 8, h, p % 8, Nat.mod_lt p (by decide), Nat.div_add_mod p 8⟩

theorem fullPositions_lt {s : State} {p : Nat} (h : p ∈ fullPositions s) : p < 32 := by
  have hj := (List.mem_filter.mp (mem_fullPositions.mp h)).1
  rw [List.mem_range] at hj
  omega

/-- The keep-bitmaps of the elements at a position: those of its group. -/
def keepMapsAt (s : State) (a b : Nat) (x : BitVec 1) (p : Nat) : List Nat := (List.range (tyCount (ty s))).map (pruneMap s a b x (p / 8))

/-- The elements at a position that its bits of the keep-bitmaps keep. -/
def keptAt (s : State) (a b : Nat) (x : BitVec 1) (p : Nat) : List Nat :=
  ((elems (ty s) (vop s (ty s) a p)).zip (keepMapsAt s a b x p)).map (fun e => if e.2 / 2 ^ (p % 8) % 2 = 1 then clean s (ty s) e.1 else 0)

/-- VPRUNE's effect, group by group, writes the kept elements and the bitmaps at each position of the full groups. -/
theorem pruneLanes_hold (s : State) (d a b : Nat) (x : BitVec 1) :
    ∃ v, (fullGroups s).foldl (fun u j => (List.range 8).foldl (fun u q =>
        vput (vput u d (8 * j + q) (BitVec.ofNat 32 (pack (ty s) (((elems (ty s) (vop s (ty s) a (8 * j + q))).zip
            ((List.range (tyCount (ty s))).map (pruneMap s a b x j))).map (fun e => if e.2 / 2 ^ q % 2 = 1 then clean s (ty s) e.1 else 0)))))
          (d + 1) (8 * j + q) (BitVec.ofNat 32 (packN 8 ((List.range (tyCount (ty s))).map (pruneMap s a b x j))))) u) s = withV s v ∧
      ∀ r p, p < 32 → v.get (32 * r + p) = if p / 8 ∈ fullGroups s ∧ r = d then BitVec.ofNat 32 (pack (ty s) (keptAt s a b x p))
        else if p / 8 ∈ fullGroups s ∧ r = d + 1 then BitVec.ofNat 32 (packN 8 (keepMapsAt s a b x p)) else vget s r p := by
  obtain ⟨v, hv, hheld⟩ := foldl_vputPair s d (fun p => pack (ty s) (keptAt s a b x p)) (fun p => packN 8 (keepMapsAt s a b x p)) (fullPositions s)
    fun p => fullPositions_lt
  refine ⟨v, ?_, fun r p hp => by simpa only [mem_fullPositions] using hheld r p hp⟩
  rw [← hv, fullPositions, List.foldl_flatMap]
  refine List.foldl_ext _ _ s fun u j _ => ?_
  rw [List.foldl_map]
  refine List.foldl_ext _ _ u fun u q hq => ?_
  have hq8 : q < 8 := List.mem_range.mp hq
  have hgroup : (8 * j + q) / 8 = j := by omega
  have hplace : (8 * j + q) % 8 = q := by omega
  simp only [keptAt, keepMapsAt, hgroup, hplace]

theorem vectorPrune : Claims.VectorPrune := by
  intro nx d a b x s hready ht hq hd ha hb t k bud
  have hregs : (vRun s d.toNat 2 && vRun s a.toNat 1 && rawOk s x b.toNat) = true := by rw [vRun_iff.mpr hd, vRun_iff.mpr ha, hb]; rfl
  have haccept : (fun t : Nat => decide (t ≤ 9)) t = true := decide_eq_true ht
  have ht13 : t ≤ 13 := by omega
  have hover : ∀ j, (List.range k).any (fun i => decide (8 < bud j i)) = true ↔ ∃ i < k, 8 < bud j i := fun j => by
    simp only [List.any_eq_true, List.mem_range, decide_eq_true_iff]
  refine ⟨fun hbud => ?_, fun ⟨j, hj, hmany⟩ => ?_⟩
  · have hnone : (fullGroups s).find? (fun j => (List.range k).any (fun i => 8 < bud j i)) = none :=
      List.find?_eq_none.mpr fun j hj h => by
        obtain ⟨i, hi, hlt⟩ := (hover j).mp h
        exact hlt.not_ge (hbud j hj i hi)
    obtain ⟨v, hv, hheld⟩ := pruneLanes_hold s d.toNat a.toNat b.toNat x
    exact ⟨v, retire_vecPlan_withV rfl hready ht13 hregs haccept hq (congrArg (Option.map _) hnone) hv, hheld⟩
  · have hsome : ((fullGroups s).find? (fun j => (List.range k).any (fun i => 8 < bud j i))).isSome = true :=
      List.find?_isSome.mpr ⟨j, hj, (hover j).mpr hmany⟩
    obtain ⟨first, hfirst⟩ := Option.isSome_iff_exists.mp hsome
    exact ⟨first, List.mem_of_find?_eq_some hfirst,
      retire_vecPlan_refused rfl hready ht13 hregs haccept hq (congrArg (Option.map _) hfirst) (fun h => nomatch h)⟩

end Sys2Proof.Machine
end

section
/-! PROOFS. The keep-bitmap of VPRUNE keeps exactly its budget (R240): the values of a group are ranked in a linear order, and the first of
them are kept. -/
namespace Sys2Proof.Machine

/-! ## The order of dyadic numbers -/

/-- The number m × 2^e. -/
def Dy.toRat (d : Dy) : ℚ := d.m * 2 ^ d.e

theorem Dy.at_eq {d : Dy} {e : Int} (h : e ≤ d.e) : (d.at e : ℚ) = d.toRat * 2 ^ (-e) := by
  have hpow : ((pow2 (d.e - e) : Int) : ℚ) = 2 ^ (d.e - e) := by
    rw [pow2, Int.cast_pow, Int.cast_ofNat, ← zpow_natCast, Int.toNat_of_nonneg (by omega)]
  rw [Dy.at, Int.cast_mul, hpow, Dy.toRat, mul_assoc, ← zpow_add₀ two_ne_zero, sub_eq_add_neg]

theorem Dy.lt_iff (a b : Dy) : Dy.lt a b = true ↔ a.toRat < b.toRat := by
  have hscale : (0 : ℚ) < 2 ^ (-min a.e b.e) := zpow_pos two_pos _
  rw [Dy.lt, decide_eq_true_iff, ← Int.cast_lt (R := ℚ), Dy.at_eq (min_le_left _ _), Dy.at_eq (min_le_right _ _), mul_lt_mul_iff_left₀ hscale]

/-! ## The rank of a value (R240) -/

/-- Where a value ranks: NaN above infinity above the numbers by their magnitude. -/
def rankKey : Val → ℕ ×ₗ ℚ
  | .nan => toLex (2, 0)
  | .inf _ => toLex (1, 0)
  | v => toLex (0, v.dy.abs.toRat)

theorem ranksAbove_iff (u v : Val) : ranksAbove u v = true ↔ rankKey v < rankKey u := by
  cases u <;> cases v <;> simp [ranksAbove, rankKey, Prod.Lex.toLex_lt_toLex, Dy.lt_iff]

/-- The order in which values at their places are kept: by rank from above, equal ranks from the lowest place. -/
def keepKey (x : Val × Nat) : (ℕ ×ₗ ℚ)ᵒᵈ ×ₗ ℕ := toLex (OrderDual.toDual (rankKey x.1), x.2)

theorem keepKey_lt_iff (x y : Val × Nat) :
    (ranksAbove y.1 x.1 || (!ranksAbove x.1 y.1 && y.2 < x.2)) = true ↔ keepKey y < keepKey x := by
  have hx := ranksAbove_iff x.1 y.1
  have hy := ranksAbove_iff y.1 x.1
  rw [keepKey, keepKey, Prod.Lex.toLex_lt_toLex, Bool.or_eq_true, Bool.and_eq_true, Bool.not_eq_true', ← Bool.not_eq_true, hx, hy, decide_eq_true_iff]
  simp only [OrderDual.toDual_lt_toDual, EmbeddingLike.apply_eq_iff_eq]
  rcases lt_trichotomy (rankKey x.1) (rankKey y.1) with h | h | h
  · simp [h]
  · simp [h]
  · simp [h, h.not_gt, h.ne]

/-! ## The first elements of a linear order -/

/-- As many elements of a finite set have fewer than n below them as n says, or all of them. -/
theorem card_filter_rank_lt {α : Type*} [LinearOrder α] (S : Finset α) (n : Nat) :
    (S.filter (fun a => (S.filter (· < a)).card < n)).card = min n S.card := by
  induction S using Finset.induction_on_max with
  | empty => simp
  | insert m S hmax ih =>
    have hm : m ∉ S := fun h => lt_irrefl m (hmax m h)
    have hbelow_m : (insert m S).filter (· < m) = S := by
      rw [Finset.filter_insert, if_neg (lt_irrefl m), Finset.filter_true_of_mem hmax]
    have hbelow : ∀ a ∈ S, (insert m S).filter (· < a) = S.filter (· < a) := fun a ha => by
      rw [Finset.filter_insert, if_neg (hmax a ha).not_gt]
    have hrest : S.filter (fun a => ((insert m S).filter (· < a)).card < n) = S.filter (fun a => (S.filter (· < a)).card < n) :=
      Finset.filter_congr fun a ha => by rw [hbelow a ha]
    rw [Finset.filter_insert, hrest, hbelow_m, Finset.card_insert_of_notMem hm]
    split
    · rw [Finset.card_insert_of_notMem (fun h => hm (Finset.mem_filter.mp h).1), ih]; omega
    · rw [ih]; omega

/-- The same of a list whose elements are all different. -/
theorem countP_rank_lt {α : Type*} [LinearOrder α] {l : List α} (hl : l.Nodup) (n : Nat) :
    l.countP (fun a => l.countP (· < a) < n) = min n l.length := by
  have hcount : ∀ p : α → Bool, l.countP p = (l.toFinset.filter (p · = true)).card := fun p => by
    rw [List.countP_eq_length_filter, ← List.toFinset_card_of_nodup (hl.filter p), List.toFinset_filter]
  simp only [hcount, decide_eq_true_iff]
  rw [card_filter_rank_lt, List.toFinset_card_of_nodup hl]

/-! ## The bitmap -/

/-- The bits of a bitmap that a condition sets. -/
theorem popN_packN_indicator {α : Type*} (q : α → Bool) (l : List α) :
    popN l.length (packN 1 (l.map (fun a => if q a then 1 else 0))) = l.countP q := by
  induction l with
  | nil => rfl
  | cons a l ih =>
    rw [List.length_cons, List.map_cons, packN, popN, List.countP_cons, ← ih]
    generalize packN 1 (l.map (fun a => if q a then 1 else 0)) = rest
    have hlow : ((if q a then 1 else 0) % 2 ^ 1 + 2 ^ 1 * rest) % 2 = if q a then 1 else 0 := by split <;> omega
    have hhigh : ((if q a then 1 else 0) % 2 ^ 1 + 2 ^ 1 * rest) / 2 = rest := by omega
    rw [hlow, hhigh, Nat.add_comm]

theorem pruneKeepsBudget : Claims.PruneKeepsBudget := by
  intro vs n hlen hn
  have hkeys : (vs.zipIdx.map keepKey).Nodup := by
    refine List.Nodup.of_map (fun k => (ofLex k).2) ?_
    rw [List.map_map]
    exact (List.zipIdx_map_snd 0 vs).symm ▸ List.nodup_range' 1
  have hplaces : vs.zipIdx.length = 8 := List.length_zipIdx.trans hlen
  have hbelow : ∀ x : Val × Nat, (vs.zipIdx.filter (fun y => ranksAbove y.1 x.1 || (!ranksAbove x.1 y.1 && y.2 < x.2))).length =
      (vs.zipIdx.map keepKey).countP (· < keepKey x) := fun x => by
    rw [List.countP_map, ← List.countP_eq_length_filter]
    exact List.countP_congr fun y _ => (keepKey_lt_iff x y).trans decide_eq_true_iff.symm
  have hbits : popN 8 (keepMap vs n) = vs.zipIdx.countP (fun x => (vs.zipIdx.map keepKey).countP (· < keepKey x) < n) := by
    rw [← popN_packN_indicator, hplaces, keepMap]
    simp only [hbelow, decide_eq_true_iff]
  have hrank := countP_rank_lt hkeys n
  rw [List.countP_map, List.length_map, hplaces, Nat.min_eq_left hn] at hrank
  exact hbits.trans hrank

/-- Settles O15: each instruction retires with what its lanes name, VPRUNE writes position by position, and of eight places in a linear order n have fewer
than n before them. -/
theorem vectorAcrossLanesResults : Obligations.VectorAcrossLanesResults := ⟨vectorAcrossLanes, vectorPrune, pruneKeepsBudget⟩

end Sys2Proof.Machine
end
